-- ==== Sys2Proof/Word.lean ====
section
/-! DEFINITION. The word types of the CF-2448 and the sparse tables in which the model keeps memories and
register files. R2 fixes the widths; the table type is the model's own plain-data form. -/
namespace Sys2Proof

/-- One byte. -/
abbrev Byte := BitVec 8
/-- A 32-bit word: a vector register of one lane, an instruction word. -/
abbrev W32 := BitVec 32
/-- A 64-bit word: a scalar register, an address. -/
abbrev W64 := BitVec 64
/-- A set of lanes of one warp; bit L stands for lane L (R140). -/
abbrev Lanes := BitVec 32

/-- A sparse table: pairs of a key and a value, keys strictly rising. What an unlisted key reads as is
the argument of the read. -/
abbrev Table (α : Type) := List (Nat × α)

end Sys2Proof
end

