-- ==== Sys2Proof/Syntax.lean ====
section
/-! DEFINITION. The steps of the CF-2448 as syntax: one constructor per row of spec/opcode_table.json. The first
266 rows are instruction words, and their arguments are the fields the encoding gives them (R20, R21), in the
order of the table. The other 127 rows are steps of engines, of the system die and of the outside world (spec file
95_what_each_step_holds.md); their arguments say on which object the step acts and what arrives from outside. -/
namespace Sys2Proof

/-- The header of a link flit (R321): destination and source device ids, kind, sequence, credits, CRC-8. -/
structure Flit where
  dest    : BitVec 18
  src     : BitVec 18
  kind    : BitVec 4
  seq     : Byte
  credits : Byte
  crc     : Byte
  deriving DecidableEq, Repr

/-- What a gang token carries (R327). -/
inductive GangToken where
  | ready (member : Nat)
  | go
  | forfeit (late : Nat)
  deriving DecidableEq, Repr

/-- A RoCE v2 verb received on an Ethernet port (R325). -/
inductive RoceVerb where
  | send (data : List Byte)
  | rdmaWrite (addr : Nat) (data : List Byte)
  | rdmaRead (addr bytes : Nat)
  | fetchAdd (addr : Nat) (v : W64)
  | compareSwap (addr : Nat) (cmp swap : W64)
  deriving DecidableEq, Repr

/-- The connection a RoCE packet comes on: its Ethernet port and queue pair (R325). -/
structure RoceConn where
  port : Nat
  qp   : Nat
  deriving DecidableEq, Repr

/-- What a link partner gives in training: its good lanes and its credits (R322). -/
structure PortTraining where
  lanes   : Nat
  credits : Nat
  deriving DecidableEq, Repr

/-- An entry of an access-permission table: the rights it denies (R178) and the key id of a port's accesses (R177). -/
structure AccessEntry where
  rights : BitVec 2
  key    : Nat
  deriving DecidableEq, Repr

/-- One constructor per row of spec/opcode_table.json. -/
inductive Instr where
  /-- GUARD (R30). -/
  | guard (n : BitVec 2) (s : BitVec 1) (p : BitVec 3)
  /-- IMM (R31). -/
  | imm (p : BitVec 25)
  /-- XIDX (R32). -/
  | xidx (x : BitVec 1) (y : BitVec 2) (u : BitVec 1) (v : BitVec 2) (q : BitVec 1) (w : BitVec 2)
  /-- BRA (R133). -/
  | bra (o : BitVec 21)
  /-- CALL (R134). -/
  | call (o : BitVec 21) (k : BitVec 4)
  /-- LOOP (R136). -/
  | loop (c : BitVec 7) (b : BitVec 7) (n : BitVec 2)
  /-- BR (R133). -/
  | br (b : BitVec 7)
  /-- CALLI (R134). -/
  | calli (b : BitVec 7) (a : BitVec 7)
  /-- RET (R133). -/
  | ret (b : BitVec 7)
  /-- EXIT (R135). -/
  | exit
  /-- JOIN (R128). -/
  | join
  /-- LBRK (R138). -/
  | lbrk
  /-- NOP (R140). -/
  | nop
  /-- REGION (R311). -/
  | region
  /-- WBASE (R140). -/
  | wbase (c : BitVec 7)
  /-- XSET (R140). -/
  | xset (c : BitVec 7) (b : BitVec 7) (x : BitVec 2)
  /-- SETPART (R140). -/
  | setpart (c : BitVec 7)
  /-- GETMASK (R140). -/
  | getmask (c : BitVec 7) (a : BitVec 7)
  /-- REGANG (R129). -/
  | regang (k : BitVec 8)
  /-- POLL_AND (R143). -/
  | pollAnd (b : BitVec 3) (a : BitVec 3)
  /-- POLL_OR (R143). -/
  | pollOr (b : BitVec 3) (a : BitVec 3)
  /-- POLL_SAME (R143). -/
  | pollSame (b : BitVec 3) (a : BitVec 3)
  /-- POLL_MASK (R143). -/
  | pollMask (b : BitVec 3) (a : BitVec 7)
  /-- SHFL_IDX (R144). -/
  | shflIdx (w : BitVec 1) (c : BitVec 7) (b : BitVec 7) (a : BitVec 7)
  /-- SHFL_UP (R144). -/
  | shflUp (w : BitVec 1) (c : BitVec 7) (b : BitVec 7) (a : BitVec 7)
  /-- SHFL_DOWN (R144). -/
  | shflDown (w : BitVec 1) (c : BitVec 7) (b : BitVec 7) (a : BitVec 7)
  /-- SHFL_XOR (R144). -/
  | shflXor (w : BitVec 1) (c : BitVec 7) (b : BitVec 7) (a : BitVec 7)
  /-- REDUX (R145). -/
  | redux (k : BitVec 4) (b : BitVec 7) (a : BitVec 7)
  /-- SCAN_INCL (R145). -/
  | scanIncl (k : BitVec 4) (b : BitVec 7) (a : BitVec 7)
  /-- SCAN_EXCL (R145). -/
  | scanExcl (k : BitVec 4) (b : BitVec 7) (a : BitVec 7)
  /-- LREORD (R146). -/
  | lreord (k : BitVec 4) (c : BitVec 7) (b : BitVec 7) (a : BitVec 7)
  /-- ADD (R75). -/
  | add (c : BitVec 7) (b : BitVec 7) (a : BitVec 7) (w : BitVec 1)
  /-- SUB (R75). -/
  | sub (c : BitVec 7) (b : BitVec 7) (a : BitVec 7) (w : BitVec 1)
  /-- ADDC (R75). -/
  | addc (c : BitVec 7) (b : BitVec 7) (a : BitVec 7) (w : BitVec 1)
  /-- SUBB (R75). -/
  | subb (c : BitVec 7) (b : BitVec 7) (a : BitVec 7) (w : BitVec 1)
  /-- SADD (R75). -/
  | sadd (s : BitVec 1) (c : BitVec 7) (b : BitVec 7) (a : BitVec 7) (w : BitVec 1)
  /-- SSUB (R75). -/
  | ssub (s : BitVec 1) (c : BitVec 7) (b : BitVec 7) (a : BitVec 7) (w : BitVec 1)
  /-- MUL (R75). -/
  | mul (c : BitVec 7) (b : BitVec 7) (a : BitVec 7) (w : BitVec 1)
  /-- MULH_S (R75). -/
  | mulhS (c : BitVec 7) (b : BitVec 7) (a : BitVec 7) (w : BitVec 1)
  /-- MULH_Z (R75). -/
  | mulhZ (c : BitVec 7) (b : BitVec 7) (a : BitVec 7) (w : BitVec 1)
  /-- MAD (R75). -/
  | mad (c : BitVec 7) (b : BitVec 7) (a : BitVec 7) (w : BitVec 1)
  /-- MADH (R75). -/
  | madh (s : BitVec 1) (c : BitVec 7) (b : BitVec 7) (a : BitVec 7) (w : BitVec 1)
  /-- NEG (R75). -/
  | neg (b : BitVec 7) (a : BitVec 7) (w : BitVec 1)
  /-- ABS (R75). -/
  | abs (b : BitVec 7) (a : BitVec 7) (w : BitVec 1)
  /-- DIV (R77). -/
  | div (w : BitVec 1) (s : BitVec 1) (c : BitVec 7) (b : BitVec 7) (a : BitVec 7)
  /-- REM (R77). -/
  | rem (w : BitVec 1) (s : BitVec 1) (c : BitVec 7) (b : BitVec 7) (a : BitVec 7)
  /-- MIN (R77). -/
  | min (w : BitVec 1) (s : BitVec 1) (c : BitVec 7) (b : BitVec 7) (a : BitVec 7)
  /-- MAX (R77). -/
  | max (w : BitVec 1) (s : BitVec 1) (c : BitVec 7) (b : BitVec 7) (a : BitVec 7)
  /-- AND (R78). -/
  | and (c : BitVec 7) (b : BitVec 7) (a : BitVec 7)
  /-- OR (R78). -/
  | or (c : BitVec 7) (b : BitVec 7) (a : BitVec 7)
  /-- XOR (R78). -/
  | xor (c : BitVec 7) (b : BitVec 7) (a : BitVec 7)
  /-- ANDN (R78). -/
  | andn (c : BitVec 7) (b : BitVec 7) (a : BitVec 7)
  /-- NOT (R78). -/
  | not (b : BitVec 7) (a : BitVec 7)
  /-- SHL (R78). -/
  | shl (c : BitVec 7) (b : BitVec 7) (a : BitVec 7)
  /-- SHR (R78). -/
  | shr (c : BitVec 7) (b : BitVec 7) (a : BitVec 7)
  /-- SAR (R78). -/
  | sar (c : BitVec 7) (b : BitVec 7) (a : BitVec 7)
  /-- ROL (R78). -/
  | rol (c : BitVec 7) (b : BitVec 7) (a : BitVec 7)
  /-- CLZ (R78). -/
  | clz (b : BitVec 7) (a : BitVec 7)
  /-- CTZ (R78). -/
  | ctz (b : BitVec 7) (a : BitVec 7)
  /-- POPC (R78). -/
  | popc (b : BitVec 7) (a : BitVec 7)
  /-- BREV (R78). -/
  | brev (b : BitVec 7) (a : BitVec 7)
  /-- BFX_S (R79). -/
  | bfxS (c : BitVec 7) (b : BitVec 7) (a : BitVec 7)
  /-- BFX_Z (R79). -/
  | bfxZ (c : BitVec 7) (b : BitVec 7) (a : BitVec 7)
  /-- BFI (R79). -/
  | bfi (c : BitVec 7) (b : BitVec 7) (a : BitVec 7)
  /-- AND_64 (R78). -/
  | and64 (c : BitVec 7) (b : BitVec 7) (a : BitVec 7)
  /-- OR_64 (R78). -/
  | or64 (c : BitVec 7) (b : BitVec 7) (a : BitVec 7)
  /-- XOR_64 (R78). -/
  | xor64 (c : BitVec 7) (b : BitVec 7) (a : BitVec 7)
  /-- ANDN_64 (R78). -/
  | andn64 (c : BitVec 7) (b : BitVec 7) (a : BitVec 7)
  /-- NOT_64 (R78). -/
  | not64 (b : BitVec 7) (a : BitVec 7)
  /-- SHL_64 (R78). -/
  | shl64 (c : BitVec 7) (b : BitVec 7) (a : BitVec 7)
  /-- SHR_64 (R78). -/
  | shr64 (c : BitVec 7) (b : BitVec 7) (a : BitVec 7)
  /-- SAR_64 (R78). -/
  | sar64 (c : BitVec 7) (b : BitVec 7) (a : BitVec 7)
  /-- ROL_64 (R78). -/
  | rol64 (c : BitVec 7) (b : BitVec 7) (a : BitVec 7)
  /-- CLZ_64 (R78). -/
  | clz64 (b : BitVec 7) (a : BitVec 7)
  /-- CTZ_64 (R78). -/
  | ctz64 (b : BitVec 7) (a : BitVec 7)
  /-- POPC_64 (R78). -/
  | popc64 (b : BitVec 7) (a : BitVec 7)
  /-- BREV_64 (R78). -/
  | brev64 (b : BitVec 7) (a : BitVec 7)
  /-- BFX_S_64 (R79). -/
  | bfxS64 (c : BitVec 7) (b : BitVec 7) (a : BitVec 7)
  /-- BFX_Z_64 (R79). -/
  | bfxZ64 (c : BitVec 7) (b : BitVec 7) (a : BitVec 7)
  /-- BFI_64 (R79). -/
  | bfi64 (c : BitVec 7) (b : BitVec 7) (a : BitVec 7)
  /-- LEA_Z64 (R81). -/
  | leaZ64 (x : BitVec 1) (h : BitVec 3) (c : BitVec 7) (b : BitVec 7) (a : BitVec 7)
  /-- LEA_S64 (R81). -/
  | leaS64 (x : BitVec 1) (h : BitVec 3) (c : BitVec 7) (b : BitVec 7) (a : BitVec 7)
  /-- SEL_B32 (R82). -/
  | selB32 (n : BitVec 1) (p : BitVec 3) (c : BitVec 7) (b : BitVec 7) (a : BitVec 7)
  /-- SEL_B64 (R82). -/
  | selB64 (n : BitVec 1) (p : BitVec 3) (c : BitVec 7) (b : BitVec 7) (a : BitVec 7)
  /-- SETP (R83). -/
  | setp (k : BitVec 4) (c : BitVec 7) (b : BitVec 7) (w : BitVec 1) (p : BitVec 3)
  /-- PLOP (R84). -/
  | plop (t : BitVec 4) (c : BitVec 3) (b : BitVec 3) (a : BitVec 3)
  /-- MOV_B32 (R85). -/
  | movB32 (b : BitVec 7) (a : BitVec 7)
  /-- MOV_B64 (R85). -/
  | movB64 (b : BitVec 7) (a : BitVec 7)
  /-- MOVI_B32 (R85). -/
  | moviB32 (c : BitVec 7) (a : BitVec 7)
  /-- MOVI_S64 (R85). -/
  | moviS64 (c : BitVec 7) (a : BitVec 7)
  /-- MOVI_Z64 (R85). -/
  | moviZ64 (c : BitVec 7) (a : BitVec 7)
  /-- MOVI_HI (R85). -/
  | moviHi (c : BitVec 7) (a : BitVec 7)
  /-- PRMB (R86). -/
  | prmb (c : BitVec 7) (b : BitVec 7) (a : BitVec 7)
  /-- CVT (R87). -/
  | cvt (d : BitVec 4) (x : BitVec 1) (r : BitVec 2) (s : BitVec 4) (b : BitVec 7) (a : BitVec 7)
  /-- PACK (R88). -/
  | pack (t : BitVec 4) (c : BitVec 7) (b : BitVec 7) (a : BitVec 7)
  /-- UNPK (R88). -/
  | unpk (t : BitVec 4) (c : BitVec 7) (b : BitVec 7) (a : BitVec 7)
  /-- QBX (R89). -/
  | qbx (f : BitVec 4) (b : BitVec 7) (a : BitVec 7)
  /-- ADD_IMM32 (R80). -/
  | addImm32 (i : BitVec 11) (b : BitVec 7) (a : BitVec 7)
  /-- ADD_IMM64 (R80). -/
  | addImm64 (i : BitVec 11) (b : BitVec 7) (a : BitVec 7)
  /-- AND_IMM (R80). -/
  | andImm (i : BitVec 11) (b : BitVec 7) (a : BitVec 7)
  /-- OR_IMM (R80). -/
  | orImm (i : BitVec 11) (b : BitVec 7) (a : BitVec 7)
  /-- XOR_IMM (R80). -/
  | xorImm (i : BitVec 11) (b : BitVec 7) (a : BitVec 7)
  /-- SHL_IMM (R80). -/
  | shlImm (w : BitVec 1) (c : BitVec 6) (b : BitVec 7) (a : BitVec 7)
  /-- SHR_IMM (R80). -/
  | shrImm (w : BitVec 1) (c : BitVec 6) (b : BitVec 7) (a : BitVec 7)
  /-- SAR_IMM (R80). -/
  | sarImm (w : BitVec 1) (c : BitVec 6) (b : BitVec 7) (a : BitVec 7)
  /-- S_ADD (R75). -/
  | sAdd (c : BitVec 7) (b : BitVec 7) (a : BitVec 7) (w : BitVec 1)
  /-- S_SUB (R75). -/
  | sSub (c : BitVec 7) (b : BitVec 7) (a : BitVec 7) (w : BitVec 1)
  /-- S_ADDC (R76). -/
  | sAddc (c : BitVec 7) (b : BitVec 7) (a : BitVec 7) (w : BitVec 1)
  /-- S_SUBB (R76). -/
  | sSubb (c : BitVec 7) (b : BitVec 7) (a : BitVec 7) (w : BitVec 1)
  /-- S_SADD (R75). -/
  | sSadd (s : BitVec 1) (c : BitVec 7) (b : BitVec 7) (a : BitVec 7) (w : BitVec 1)
  /-- S_SSUB (R75). -/
  | sSsub (s : BitVec 1) (c : BitVec 7) (b : BitVec 7) (a : BitVec 7) (w : BitVec 1)
  /-- S_MUL (R75). -/
  | sMul (c : BitVec 7) (b : BitVec 7) (a : BitVec 7) (w : BitVec 1)
  /-- S_MULH_S (R75). -/
  | sMulhS (c : BitVec 7) (b : BitVec 7) (a : BitVec 7) (w : BitVec 1)
  /-- S_MULH_Z (R75). -/
  | sMulhZ (c : BitVec 7) (b : BitVec 7) (a : BitVec 7) (w : BitVec 1)
  /-- S_MAD (R75). -/
  | sMad (c : BitVec 7) (b : BitVec 7) (a : BitVec 7) (w : BitVec 1)
  /-- S_MADH (R75). -/
  | sMadh (s : BitVec 1) (c : BitVec 7) (b : BitVec 7) (a : BitVec 7) (w : BitVec 1)
  /-- S_NEG (R75). -/
  | sNeg (b : BitVec 7) (a : BitVec 7) (w : BitVec 1)
  /-- S_ABS (R75). -/
  | sAbs (b : BitVec 7) (a : BitVec 7) (w : BitVec 1)
  /-- S_AND (R78). -/
  | sAnd (c : BitVec 7) (b : BitVec 7) (a : BitVec 7) (w : BitVec 1)
  /-- S_OR (R78). -/
  | sOr (c : BitVec 7) (b : BitVec 7) (a : BitVec 7) (w : BitVec 1)
  /-- S_XOR (R78). -/
  | sXor (c : BitVec 7) (b : BitVec 7) (a : BitVec 7) (w : BitVec 1)
  /-- S_ANDN (R78). -/
  | sAndn (c : BitVec 7) (b : BitVec 7) (a : BitVec 7) (w : BitVec 1)
  /-- S_NOT (R78). -/
  | sNot (b : BitVec 7) (a : BitVec 7) (w : BitVec 1)
  /-- S_SHL (R78). -/
  | sShl (c : BitVec 7) (b : BitVec 7) (a : BitVec 7) (w : BitVec 1)
  /-- S_SHR (R78). -/
  | sShr (c : BitVec 7) (b : BitVec 7) (a : BitVec 7) (w : BitVec 1)
  /-- S_SAR (R78). -/
  | sSar (c : BitVec 7) (b : BitVec 7) (a : BitVec 7) (w : BitVec 1)
  /-- S_ROL (R78). -/
  | sRol (c : BitVec 7) (b : BitVec 7) (a : BitVec 7) (w : BitVec 1)
  /-- S_CLZ (R78). -/
  | sClz (b : BitVec 7) (a : BitVec 7) (w : BitVec 1)
  /-- S_CTZ (R78). -/
  | sCtz (b : BitVec 7) (a : BitVec 7) (w : BitVec 1)
  /-- S_POPC (R78). -/
  | sPopc (b : BitVec 7) (a : BitVec 7) (w : BitVec 1)
  /-- S_BREV (R78). -/
  | sBrev (b : BitVec 7) (a : BitVec 7) (w : BitVec 1)
  /-- S_BFX_S (R79). -/
  | sBfxS (c : BitVec 7) (b : BitVec 7) (a : BitVec 7) (w : BitVec 1)
  /-- S_BFX_Z (R79). -/
  | sBfxZ (c : BitVec 7) (b : BitVec 7) (a : BitVec 7) (w : BitVec 1)
  /-- S_BFI (R79). -/
  | sBfi (c : BitVec 7) (b : BitVec 7) (a : BitVec 7) (w : BitVec 1)
  /-- S_DIV (R77). -/
  | sDiv (w : BitVec 1) (s : BitVec 1) (c : BitVec 7) (b : BitVec 7) (a : BitVec 7)
  /-- S_REM (R77). -/
  | sRem (w : BitVec 1) (s : BitVec 1) (c : BitVec 7) (b : BitVec 7) (a : BitVec 7)
  /-- S_MIN (R77). -/
  | sMin (w : BitVec 1) (s : BitVec 1) (c : BitVec 7) (b : BitVec 7) (a : BitVec 7)
  /-- S_MAX (R77). -/
  | sMax (w : BitVec 1) (s : BitVec 1) (c : BitVec 7) (b : BitVec 7) (a : BitVec 7)
  /-- S_SETP (R83). -/
  | sSetp (k : BitVec 4) (c : BitVec 7) (b : BitVec 7) (w : BitVec 1) (p : BitVec 3)
  /-- S_MOV (R85). -/
  | sMov (b : BitVec 7) (a : BitVec 7)
  /-- S_MOVI_S64 (R85). -/
  | sMoviS64 (c : BitVec 7) (a : BitVec 7)
  /-- S_MOVI_Z64 (R85). -/
  | sMoviZ64 (c : BitVec 7) (a : BitVec 7)
  /-- S_MOVI_HI (R85). -/
  | sMoviHi (c : BitVec 7) (a : BitVec 7)
  /-- S_CVT_S64_S32 (R85). -/
  | sCvtS64S32 (b : BitVec 7) (a : BitVec 7)
  /-- S_CVT_Z64_Z32 (R85). -/
  | sCvtZ64Z32 (b : BitVec 7) (a : BitVec 7)
  /-- S_ADD_IMM (R80). -/
  | sAddImm (i : BitVec 11) (b : BitVec 7) (a : BitVec 7)
  /-- FADD (R93). -/
  | fadd (r : BitVec 2) (c : BitVec 7) (b : BitVec 7) (a : BitVec 7) (t : BitVec 2)
  /-- FSUB (R93). -/
  | fsub (r : BitVec 2) (c : BitVec 7) (b : BitVec 7) (a : BitVec 7) (t : BitVec 2)
  /-- FMUL (R93). -/
  | fmul (r : BitVec 2) (c : BitVec 7) (b : BitVec 7) (a : BitVec 7) (t : BitVec 2)
  /-- FMA (R93). -/
  | fma (r : BitVec 2) (c : BitVec 7) (b : BitVec 7) (a : BitVec 7) (t : BitVec 2)
  /-- FMS (R93). -/
  | fms (r : BitVec 2) (c : BitVec 7) (b : BitVec 7) (a : BitVec 7) (t : BitVec 2)
  /-- FNMA (R93). -/
  | fnma (r : BitVec 2) (c : BitVec 7) (b : BitVec 7) (a : BitVec 7) (t : BitVec 2)
  /-- FMIN (R94). -/
  | fmin (c : BitVec 7) (b : BitVec 7) (a : BitVec 7) (t : BitVec 2)
  /-- FMAX (R94). -/
  | fmax (c : BitVec 7) (b : BitVec 7) (a : BitVec 7) (t : BitVec 2)
  /-- FSIGN (R95). -/
  | fsign (c : BitVec 7) (b : BitVec 7) (a : BitVec 7) (t : BitVec 2)
  /-- FCLASS (R95). -/
  | fclass (b : BitVec 7) (a : BitVec 7) (t : BitVec 2)
  /-- FRND (R96). -/
  | frnd (r : BitVec 2) (b : BitVec 7) (a : BitVec 7) (t : BitVec 2)
  /-- FSETP (R98). -/
  | fsetp (k : BitVec 4) (c : BitVec 7) (b : BitVec 7) (t : BitVec 2) (p : BitVec 3)
  /-- PFADD (R99). -/
  | pfadd (f : BitVec 1) (r : BitVec 1) (c : BitVec 7) (b : BitVec 7) (a : BitVec 7)
  /-- PFMUL (R99). -/
  | pfmul (f : BitVec 1) (r : BitVec 1) (c : BitVec 7) (b : BitVec 7) (a : BitVec 7)
  /-- PFMA (R99). -/
  | pfma (f : BitVec 1) (r : BitVec 1) (c : BitVec 7) (b : BitVec 7) (a : BitVec 7)
  /-- DOT4 (R100). -/
  | dot4 (f : BitVec 2) (c : BitVec 7) (b : BitVec 7) (a : BitVec 7)
  /-- FLDX (R97). -/
  | fldx (t : BitVec 2) (r : BitVec 2) (c : BitVec 7) (b : BitVec 7) (a : BitVec 7)
  /-- FRCP (R101). -/
  | frcp (l : BitVec 4) (t : BitVec 2) (b : BitVec 7) (a : BitVec 7)
  /-- FRSQ (R101). -/
  | frsq (l : BitVec 4) (t : BitVec 2) (b : BitVec 7) (a : BitVec 7)
  /-- FSQRT (R101). -/
  | fsqrt (l : BitVec 4) (t : BitVec 2) (b : BitVec 7) (a : BitVec 7)
  /-- FEXP2 (R101). -/
  | fexp2 (l : BitVec 4) (t : BitVec 2) (b : BitVec 7) (a : BitVec 7)
  /-- FLOG2 (R101). -/
  | flog2 (l : BitVec 4) (t : BitVec 2) (b : BitVec 7) (a : BitVec 7)
  /-- FSIN (R101). -/
  | fsin (l : BitVec 4) (t : BitVec 2) (b : BitVec 7) (a : BitVec 7)
  /-- FCOS (R101). -/
  | fcos (l : BitVec 4) (t : BitVec 2) (b : BitVec 7) (a : BitVec 7)
  /-- FDIV_F32 (R101). -/
  | fdivF32 (l : BitVec 4) (c : BitVec 7) (b : BitVec 7) (a : BitVec 7)
  /-- FDIV_F16 (R101). -/
  | fdivF16 (l : BitVec 4) (c : BitVec 7) (b : BitVec 7) (a : BitVec 7)
  /-- FDIV_BF16 (R101). -/
  | fdivBf16 (l : BitVec 4) (c : BitVec 7) (b : BitVec 7) (a : BitVec 7)
  /-- CSHAPE (R112). -/
  | cshape (c : BitVec 7) (b : BitVec 7)
  /-- CZIP (R113). -/
  | czip (k : BitVec 1) (b : BitVec 7) (a : BitVec 7)
  /-- CUNZ (R113). -/
  | cunz (k : BitVec 1) (x : BitVec 3) (b : BitVec 7) (a : BitVec 7)
  /-- CADD (R114). -/
  | cadd (c : BitVec 7) (b : BitVec 7) (a : BitVec 6) (p : BitVec 1)
  /-- CSUB (R114). -/
  | csub (c : BitVec 7) (b : BitVec 7) (a : BitVec 6) (p : BitVec 1)
  /-- CCMP (R115). -/
  | ccmp (c : BitVec 7) (b : BitVec 7) (t : BitVec 3) (p : BitVec 3)
  /-- CINBOX (R116). -/
  | cinbox (c : BitVec 7) (b : BitVec 7) (p : BitVec 3)
  /-- CLCP (R117). -/
  | clcp (c : BitVec 7) (b : BitVec 7) (a : BitVec 7)
  /-- CCELL (R118). -/
  | ccell (c : BitVec 7) (b : BitVec 7) (a : BitVec 7)
  /-- CNEXT (R119). -/
  | cnext (c : BitVec 7) (b : BitVec 7) (a : BitVec 7)
  /-- CPREV (R119). -/
  | cprev (c : BitVec 7) (b : BitVec 7) (a : BitVec 7)
  /-- CSPLIT (R121). -/
  | csplit (l : BitVec 4) (c : BitVec 7) (b : BitVec 7) (a : BitVec 7)
  /-- LD (R183). -/
  | ld (l : BitVec 4) (c : BitVec 7) (b : BitVec 7) (a : BitVec 7)
  /-- ST (R184). -/
  | st (c : BitVec 7) (b : BitVec 7) (a : BitVec 7)
  /-- LDS (R183). -/
  | lds (l : BitVec 4) (c : BitVec 7) (b : BitVec 7) (a : BitVec 7)
  /-- STS (R184). -/
  | sts (c : BitVec 7) (b : BitVec 7) (a : BitVec 7)
  /-- LDK (R186). -/
  | ldk (l : BitVec 4) (c : BitVec 7) (b : BitVec 7) (a : BitVec 7)
  /-- SLD (R183). -/
  | sld (l : BitVec 4) (c : BitVec 7) (b : BitVec 7) (a : BitVec 7)
  /-- SST (R184). -/
  | sst (c : BitVec 7) (b : BitVec 7) (a : BitVec 7)
  /-- ATOM (R185). -/
  | atom (l : BitVec 4) (c : BitVec 7) (b : BitVec 7) (a : BitVec 7)
  /-- ATOMS (R185). -/
  | atoms (l : BitVec 4) (c : BitVec 7) (b : BitVec 7) (a : BitVec 7)
  /-- RED (R185). -/
  | red (c : BitVec 7) (b : BitVec 7) (a : BitVec 7)
  /-- FENCE (R187). -/
  | fence (c : BitVec 7)
  /-- FENCE_SC (R187). -/
  | fenceSc
  /-- PREF (R188). -/
  | pref (c : BitVec 7) (b : BitVec 7)
  /-- CLINE_CLEAN (R188). -/
  | clineClean (c : BitVec 7) (b : BitVec 7)
  /-- CLINE_INV (R188). -/
  | clineInv (c : BitVec 7) (b : BitVec 7)
  /-- CLINE_FLUSH (R188). -/
  | clineFlush (c : BitVec 7) (b : BitVec 7)
  /-- BINIT (R154). -/
  | binit (c : BitVec 7) (b : BitVec 7)
  /-- ARRIVE (R155). -/
  | arrive (b : BitVec 7) (a : BitVec 7)
  /-- ARRIVEX (R155). -/
  | arrivex (c : BitVec 7) (b : BitVec 7) (a : BitVec 7)
  /-- BSYNC (R157). -/
  | bsync
  /-- BTEST (R156). -/
  | btest (c : BitVec 7) (b : BitVec 7) (p : BitVec 3)
  /-- WAIT (R161). -/
  | wait (c : BitVec 7) (b : BitVec 7) (a : BitVec 7)
  /-- MMA (R196). -/
  | mma (c : BitVec 7) (b : BitVec 7) (t : BitVec 2)
  /-- GANGSET (R195). -/
  | gangset (b : BitVec 7)
  /-- ACCZ (R200). -/
  | accz (t : BitVec 2)
  /-- ACCWR (R200). -/
  | accwr (c : BitVec 7) (b : BitVec 7) (t : BitVec 2)
  /-- ACCEPI (R202). -/
  | accepi (b : BitVec 7) (t : BitVec 2)
  /-- ACCRD (R201). -/
  | accrd (l : BitVec 4) (c : BitVec 7) (t : BitVec 2) (a : BitVec 7)
  /-- ACCRDI (R201). -/
  | accrdi (l : BitVec 4) (c : BitVec 7) (t : BitVec 2) (a : BitVec 7)
  /-- CRSTART (R204). -/
  | crstart (c : BitVec 7) (b : BitVec 7) (a : BitVec 7)
  /-- CRCOPY (R206). -/
  | crcopy (c : BitVec 7) (b : BitVec 7) (a : BitVec 7)
  /-- CRHALO (R207). -/
  | crhalo (b : BitVec 7)
  /-- CRFEED (R208). -/
  | crfeed (c : BitVec 7) (b : BitVec 7) (x : BitVec 1) (k : BitVec 2) (p : BitVec 2)
  /-- CRSTAT (R209). -/
  | crstat (b : BitVec 7) (a : BitVec 7)
  /-- QPUT (R210). -/
  | qput (s : BitVec 1) (b : BitVec 7)
  /-- QPOP (R210). -/
  | qpop (w : BitVec 1) (a : BitVec 7)
  /-- QCNT (R210). -/
  | qcnt (a : BitVec 7)
  /-- LAUNCH (R228). -/
  | launch (b : BitVec 7) (a : BitVec 7)
  /-- LAUNCHQ (R228). -/
  | launchq (b : BitVec 7) (a : BitVec 7)
  /-- DIST (R231). -/
  | dist (b : BitVec 7) (a : BitVec 7)
  /-- FIXUP (R232). -/
  | fixup (b : BitVec 7)
  /-- PSETP (R227). -/
  | psetp (c : BitVec 7) (b : BitVec 7)
  /-- PCANCEL (R227). -/
  | pcancel
  /-- PREPEAT (R227). -/
  | prepeat
  /-- PSEND (R250). -/
  | psend (b : BitVec 7)
  /-- QPUSH (R251). -/
  | qpush (c : BitVec 7) (b : BitVec 7) (a : BitVec 7)
  /-- QTAKE (R252). -/
  | qtake (c : BitVec 7) (b : BitVec 7) (a : BitVec 7)
  /-- LBOX (R253). -/
  | lbox (c : BitVec 7) (b : BitVec 7)
  /-- DLINE (R253). -/
  | dline (c : BitVec 7) (b : BitVec 7)
  /-- WLOOK (R257). -/
  | wlook (l : BitVec 4) (p : BitVec 3) (b : BitVec 7) (a : BitVec 7)
  /-- WOPEN (R266). -/
  | wopen (l : BitVec 4) (c : BitVec 7) (b : BitVec 7) (a : BitVec 7)
  /-- WNEXT (R267). -/
  | wnext (l : BitVec 4) (b : BitVec 7) (a : BitVec 7)
  /-- WCOL (R264). -/
  | wcol (l : BitVec 4) (c : BitVec 7) (b : BitVec 7) (a : BitVec 7)
  /-- WDEAD (R263). -/
  | wdead (l : BitVec 4) (b : BitVec 7) (a : BitVec 7)
  /-- WNEW (R258). -/
  | wnew (c : BitVec 7) (b : BitVec 7)
  /-- WDEL (R258). -/
  | wdel (b : BitVec 7)
  /-- WADD (R258). -/
  | wadd (c : BitVec 7) (b : BitVec 7) (a : BitVec 7)
  /-- WREM (R258). -/
  | wrem (b : BitVec 7) (a : BitVec 7)
  /-- WCOLL (R260). -/
  | wcoll (c : BitVec 7) (b : BitVec 7) (a : BitVec 7)
  /-- WCLOSE (R267). -/
  | wclose (b : BitVec 7)
  /-- RLAUNCH (R277). -/
  | rlaunch (b : BitVec 7) (a : BitVec 7)
  /-- RSPLIT (R279). -/
  | rsplit (c : BitVec 7) (b : BitVec 7) (a : BitVec 7)
  /-- RLEAF (R280). -/
  | rleaf
  /-- RKIDS (R281). -/
  | rkids (p : BitVec 3) (a : BitVec 7)
  /-- RPUT (R282). -/
  | rput (b : BitVec 7)
  /-- RINFO (R283). -/
  | rinfo (a : BitVec 7)
  /-- SMARCH (R288). -/
  | smarch (c : BitVec 7) (b : BitVec 7) (a : BitVec 7)
  /-- SMNEXT (R290). -/
  | smnext (l : BitVec 4) (c : BitVec 7) (b : BitVec 7) (a : BitVec 7)
  /-- BOXT (R291). -/
  | boxt (l : BitVec 4) (c : BitVec 7) (b : BitVec 7) (a : BitVec 7)
  /-- TRIT (R292). -/
  | trit (l : BitVec 4) (c : BitVec 7) (b : BitVec 7) (a : BitVec 7)
  /-- RCQ (R296). -/
  | rcq (l : BitVec 4) (s : BitVec 3) (b : BitVec 7) (a : BitVec 7)
  /-- RCQT (R296). -/
  | rcqt (l : BitVec 4) (s : BitVec 3) (b : BitVec 7) (a : BitVec 7)
  /-- RCVER (R297). -/
  | rcver (a : BitVec 7)
  /-- TFILT (R294). -/
  | tfilt (l : BitVec 4) (c : BitVec 7) (b : BitVec 7) (a : BitVec 7)
  /-- TRAP (R317). -/
  | trap (c : BitVec 7)
  /-- TRET (R312). -/
  | tret (c : BitVec 7)
  /-- HALT (R317). -/
  | halt (c : BitVec 7)
  /-- TIME (R317). -/
  | time (c : BitVec 7) (a : BitVec 7)
  /-- PREOK (R317). -/
  | preok (p : BitVec 3)
  /-- CSRR (R318). -/
  | csrr (c : BitVec 7) (a : BitVec 7)
  /-- CSRW (R318). -/
  | csrw (c : BitVec 7) (b : BitVec 7)
  /-- WB_WRITE (R40). -/
  | wbWrite (v : W64)
  /-- CSHAPE_WRITE (R106). -/
  | cshapeWrite (v : W64)
  /-- FFLAGS_WRITE (R59). -/
  | fflagsWrite (v : W64)
  /-- LOOP_COUNTER_WRITE (R137). -/
  | loopCounterWrite (n : BitVec 2) (v : W64)
  /-- SPLEXT_WRITE (R310). -/
  | splextWrite (v : W64)
  /-- TPC_WRITE (R309). -/
  | tpcWrite (v : W64)
  /-- NETBIND_WRITE (R295). -/
  | netbindWrite (die : Nat) (slot : Nat) (v : W64)
  /-- DEVID_WRITE (R339). -/
  | devidWrite (v : BitVec 18)
  /-- WITHHELD_WRITE (R339). -/
  | withheldWrite (k : Nat) (v : W64)
  /-- LONG_LATENCY_COMMIT (R36). -/
  | longLatencyCommit (warp : Nat) (index : Nat)
  /-- LOOP_BACK_EDGE (R137). -/
  | loopBackEdge (warp : Nat) (level : Nat)
  /-- REGISTER_LINE_FILL (R25). -/
  | registerLineFill (warp : Nat) (line : Nat) (victim : Option (Nat × Nat))
  /-- ENGINE_BYTE_COUNT (R150). -/
  | engineByteCount (core : Nat) (stream : Nat) (bytes : Nat)
  /-- WAIT_WAKE (R161). -/
  | waitWake (warp : Nat) (unit : Nat)
  /-- WAIT_TIMEOUT (R161). -/
  | waitTimeout (warp : Nat) (unit : Nat)
  /-- HEARTBEAT_TICK (R9). -/
  | heartbeatTick
  /-- MEMORY_ACCESS_PERFORM (R172). -/
  | memoryAccessPerform (index : Nat)
  /-- PAGE_WALK (R170). -/
  | pageWalk (asid : Nat) (va : Nat) (access : Nat) (die : Nat)
  /-- COPY_LINE_LAND (R174). -/
  | copyLineLand (wg : Nat) (line : Nat)
  /-- K_STEP (R66). -/
  | kStep (wg : Nat)
  /-- ACCZ_APPLY (R200). -/
  | acczApply (wg : Nat)
  /-- ACCWR_APPLY (R200). -/
  | accwrApply (wg : Nat)
  /-- ACCEPI_APPLY (R202). -/
  | accepiApply (wg : Nat)
  /-- COURIER_JOB (R205). -/
  | courierJob (core : Nat) (stream : Nat)
  /-- STREAM_WAIT_CLEAR (R203). -/
  | streamWaitClear (core : Nat) (stream : Nat)
  /-- LAUNCH_ACCEPT (R223). -/
  | launchAccept (id : Nat)
  /-- PROLOGUE_RUN (R225). -/
  | prologueRun (id : Nat)
  /-- RUN_START (R230). -/
  | runStart (id : Nat)
  /-- WORKGROUP_RESIDENT (R122). -/
  | workgroupResident (wg : Nat)
  /-- WORKGROUP_DONE (R123). -/
  | workgroupDone (wg : Nat)
  /-- LAUNCH_END (R224). -/
  | launchEnd (id : Nat)
  /-- BUDGET_CHARGE_PASS (R220). -/
  | budgetChargePass
  /-- LETTERBOX_WRITE (R234). -/
  | letterboxWrite (q : Nat) (v : W64)
  /-- DEADLINE_STAMP_WRITE (R234). -/
  | deadlineStampWrite (host : Bool) (stream : Nat) (v : W64)
  /-- DEADLINE_GUARD_WRITE (R234). -/
  | deadlineGuardWrite (host : Bool) (stream : Nat) (v : W64)
  /-- LETTERBOX_WINDOW_WRITE (R234). -/
  | letterboxWindowWrite (offset : Nat) (bytes : List Byte)
  /-- QUEUE_ENABLE (R236). -/
  | queueEnable (q : Nat)
  /-- QUEUE_DISABLE (R236). -/
  | queueDisable (q : Nat)
  /-- QUEUE_STATUS_CLEAR (R236). -/
  | queueStatusClear (q : Nat)
  /-- QUEUE_ACTIVATE (R236). -/
  | queueActivate (q : Nat)
  /-- QUEUE_EVICT (R238). -/
  | queueEvict (q : Nat)
  /-- EVICTION_TENURE_EXPIRY (R238). -/
  | evictionTenureExpiry (q : Nat)
  /-- SCHEDULER_RESTART (R239). -/
  | schedulerRestart
  /-- PACKET_LOOKAHEAD (R241). -/
  | packetLookahead (q : Nat)
  /-- NOP_PACKET (R240). -/
  | nopPacket (q : Nat)
  /-- LAUNCH_PACKET (R240). -/
  | launchPacket (q : Nat)
  /-- PARCEL_PACKET (R244). -/
  | parcelPacket (q : Nat)
  /-- CALL_PACKET (R241). -/
  | callPacket (q : Nat)
  /-- JOIN_PACKET (R240). -/
  | joinPacket (q : Nat)
  /-- WAIT_PACKET (R241). -/
  | waitPacket (q : Nat)
  /-- WAIT_PACKET_TIMEOUT (R236). -/
  | waitPacketTimeout (q : Nat)
  /-- WRITE_PACKET (R241). -/
  | writePacket (q : Nat)
  /-- ARRIVE_PACKET (R241). -/
  | arrivePacket (q : Nat)
  /-- WCOLL_PACKET (R260). -/
  | wcollPacket (q : Nat)
  /-- PIPELINE_PACKET (R242). -/
  | pipelinePacket (q : Nat)
  /-- DEADLINE_PACKET (R242). -/
  | deadlinePacket (q : Nat)
  /-- PARCEL_START (R244). -/
  | parcelStart (core : Nat)
  /-- PARCEL_COMPLETE (R244). -/
  | parcelComplete (wg : Nat)
  /-- POSTMASTER_PASS (R245). -/
  | postmasterPass
  /-- PARCEL_MIGRATION (R245). -/
  | parcelMigration (src : Nat) (dst : Nat) (asid : Nat) (count : Nat)
  /-- STAGE_MANAGER_PASS (R248). -/
  | stageManagerPass
  /-- STAGE_LAUNCH_END (R248). -/
  | stageLaunchEnd (id : Nat)
  /-- DEADLINE_STREAM_RAISE (R249). -/
  | deadlineStreamRaise (stream : Nat)
  /-- DEADLINE_STREAM_LOWER (R249). -/
  | deadlineStreamLower (stream : Nat)
  /-- COLLECTION (R260). -/
  | collection (asid : Nat) (world : Nat)
  /-- COMPACTION_MOVE (R265). -/
  | compactionMove (asid : Nat) (world : Nat) (bundle : Nat)
  /-- RECURSION_START (R272). -/
  | recursionStart (obj : Nat)
  /-- RECURSION_LAUNCH_END (R272). -/
  | recursionLaunchEnd (obj : Nat)
  /-- RAY_MARCH_SAMPLE (R288). -/
  | rayMarchSample (core : Nat) (ray : Nat)
  /-- TRAINER_STEP (R298). -/
  | trainerStep (die : Nat) (slot : Nat)
  /-- WEIGHT_PUBLISH (R300). -/
  | weightPublish (die : Nat) (slot : Nat)
  /-- WORKGROUP_LEAVE (R314). -/
  | workgroupLeave (wg : Nat)
  /-- SAVE_COMPLETE (R123). -/
  | saveComplete (wg : Nat)
  /-- WORKGROUP_RESUME (R315). -/
  | workgroupResume (wg : Nat)
  /-- DEFINE (R303). -/
  | define (asid : Nat)
  /-- FREEZE (R303). -/
  | freeze (asid : Nat)
  /-- THAW (R303). -/
  | thaw (asid : Nat)
  /-- TEARDOWN (R303). -/
  | teardown (asid : Nat)
  /-- INVALIDATE (R316). -/
  | invalidate (asid : Nat) (va : Nat) (bytes : Nat)
  /-- REPLAY (R176). -/
  | replay (die : Nat) (index : Nat)
  /-- CANCEL (R358). -/
  | cancel (die : Nat) (index : Nat)
  /-- PREEMPT (R316). -/
  | preempt (asid : Nat) (slot : Nat)
  /-- READ (R316). -/
  | read (reg : Nat) (dst : Nat)
  /-- GANGSLICE (R327). -/
  | gangslice (record : Nat)
  /-- MIGRATE (R328). -/
  | migrate (asid : Nat) (dev : BitVec 18)
  /-- CHECKPOINT (R330). -/
  | checkpoint (desc : Nat) (ref : W64)
  /-- FENCE_PORT (R322). -/
  | fencePort (port : Nat)
  /-- UNFENCE_PORT (R322). -/
  | unfencePort (port : Nat)
  /-- ATTEST (R335). -/
  | attest (nonce : Nat) (dst : Nat)
  /-- GANG_DECISION_DEADLINE (R327). -/
  | gangDecisionDeadline (slice : Nat)
  /-- GANG_START (R327). -/
  | gangStart (slice : Nat)
  /-- GANG_QUANTUM_END (R327). -/
  | gangQuantumEnd (slice : Nat)
  /-- GANG_COLLECTOR_LOST (R327). -/
  | gangCollectorLost (slice : Nat)
  /-- MIGRATE_CUTOVER (R328). -/
  | migrateCutover (asid : Nat)
  /-- MIGRATE_FORWARD_END (R328). -/
  | migrateForwardEnd (asid : Nat)
  /-- CHECKPOINT_PAGE_COPY (R330). -/
  | checkpointPageCopy
  /-- CHECKPOINT_COMPLETE (R333). -/
  | checkpointComplete
  /-- PORT_PARTNER_DETECT (R322). -/
  | portPartnerDetect (port : Nat)
  /-- PORT_TRAINING_DONE (R322). -/
  | portTrainingDone (port : Nat) (partner : PortTraining)
  /-- PORT_LANES_LOST (R322). -/
  | portLanesLost (port : Nat) (lanes : Nat)
  /-- PORT_REPLAY_EXHAUSTED (R322). -/
  | portReplayExhausted (port : Nat)
  /-- FLIT_BAD (R321). -/
  | flitBad (port : Nat) (seq : Byte)
  /-- IDLE_FLIT (R321). -/
  | idleFlit (port : Nat) (credits : Byte)
  /-- READ_REQUEST_FLIT (R215). -/
  | readRequestFlit (port : Nat) (flit : Flit) (addr : Nat) (bytes : Nat)
  /-- WRITE_FLIT (R215). -/
  | writeFlit (port : Nat) (flit : Flit) (addr : Nat) (data : List Byte)
  /-- ATOMIC_FLIT (R324). -/
  | atomicFlit (port : Nat) (flit : Flit) (addr : Nat) (op : BitVec 4) (wide : Bool) (operand : W64) (swap : W64)
  /-- RESPONSE_FLIT (R324). -/
  | responseFlit (port : Nat) (flit : Flit) (req : Nat) (data : List Byte)
  /-- GANG_TOKEN_FLIT (R327). -/
  | gangTokenFlit (port : Nat) (flit : Flit) (slice : Nat) (token : GangToken)
  /-- FORWARDED_WRITE_FLIT (R328). -/
  | forwardedWriteFlit (port : Nat) (flit : Flit) (addr : Nat) (data : List Byte)
  /-- CONTROL_FLIT (R321). -/
  | controlFlit (port : Nat) (flit : Flit)
  /-- HOST_APERTURE_ACCESS (R319). -/
  | hostApertureAccess (offset : Nat) (bytes : Nat) (write : Option (List Byte))
  /-- HOST_REGISTER_WRITE (R319). -/
  | hostRegisterWrite (offset : Nat) (v : W64)
  /-- ROCE_REQUEST (R325). -/
  | roceRequest (conn : RoceConn) (verb : RoceVerb)
  /-- POWER_ON (R334). -/
  | powerOn
  /-- POWER_CHECK (R340). -/
  | powerCheck (watts : BitVec 16) (celsius : Byte)
  /-- POWER_REMOVAL (R340). -/
  | powerRemoval
  /-- ECC_CORRECTED (R341). -/
  | eccCorrected (core : Nat) (location : Nat)
  /-- ECC_UNCORRECTABLE (R341). -/
  | eccUncorrectable (control : Bool) (launch : Option Nat)
  /-- PLUGIN_FAULT (R336). -/
  | pluginFault (plugin : Nat)
  /-- PCIE_COMPLETION (R320). -/
  | pcieCompletion (req : Nat) (data : List Byte)
  /-- ROCE_RESPONSE (R325). -/
  | roceResponse (port : Nat) (req : Nat) (data : List Byte)
  /-- MIGRATE_PAGE_COPY (R328). -/
  | migratePageCopy (asid : Nat) (page : Nat)
  /-- KEY_TABLE_WRITE (R336). -/
  | keyTableWrite (slot : Nat) (key : BitVec 512)
  /-- ACCESS_TABLE_WRITE (R178). -/
  | accessTableWrite (target : Nat) (master : Nat) (entry : AccessEntry)
  /-- ROUTE_TABLE_WRITE (R323). -/
  | routeTableWrite (dev : BitVec 18) (route : BitVec 4)
  /-- HOST_APERTURE_ASSIGN (R319). -/
  | hostApertureAssign (asid : Option Nat) (base : W64)
  /-- DEADLINE_STREAM_OWNER_WRITE (R249). -/
  | deadlineStreamOwnerWrite (stream : Nat) (asid : BitVec 16)
  deriving DecidableEq, Repr

end Sys2Proof
end

