-- ==== Sys2Proof/WellFormed.lean ====
section
/-! DEFINITION. Field values that the opcode map reserves inside a row (R22, R41 to R49): an instruction that holds one
raises ILLEGAL_OP when it issues. Checks that depend on an IMM word, on registers or on the mode are made by the
instructions' meanings. -/
namespace Sys2Proof

/-- Element types and indexes of PACK and UNPK (R42, R43, R88). -/
def packable (t : BitVec 4) (c : BitVec 7) : Bool :=
  let t := t.toNat
  let c := c.toNat
  (decide (t ≤ 1) && decide (c ≤ 3)) || (decide (2 ≤ t) && decide (t ≤ 3) && decide (c ≤ 1)) ||
  (decide (9 ≤ t) && decide (t ≤ 10) && decide (c ≤ 1)) || (decide (11 ≤ t) && decide (t ≤ 12) && decide (c ≤ 3))

/-- The instruction holds no reserved field value. A step that is no instruction word has no encoding and is well
formed. -/
def Instr.wf : Instr → Bool
  | .guard _ _ _ => true
  | .imm _ => true
  | .xidx x _ u _ q _ => decide (x = 1 ∨ u = 1 ∨ q = 1)
  | .bra _ => true
  | .call _ _ => true
  | .loop c _ n => decide (c ≠ 0) && decide (n ≠ 3)
  | .br _ => true
  | .calli _ _ => true
  | .ret _ => true
  | .exit => true
  | .join => true
  | .lbrk => true
  | .nop => true
  | .region => true
  | .wbase _ => true
  | .xset _ _ _ => true
  | .setpart _ => true
  | .getmask c _ => decide (c.toNat ≤ 2)
  | .regang _ => true
  | .pollAnd _ _ => true
  | .pollOr _ _ => true
  | .pollSame _ _ => true
  | .pollMask _ _ => true
  | .shflIdx _ _ _ _ => true
  | .shflUp _ _ _ _ => true
  | .shflDown _ _ _ _ => true
  | .shflXor _ _ _ _ => true
  | .redux k _ _ => decide (k.toNat ≤ 11)
  | .scanIncl k _ _ => decide (k.toNat ≤ 11)
  | .scanExcl k _ _ => decide (k.toNat ≤ 11)
  | .lreord k _ _ _ => decide (k.toNat ≤ 4)
  | .add _ _ _ _ => true
  | .sub _ _ _ _ => true
  | .addc _ _ _ _ => true
  | .subb _ _ _ _ => true
  | .sadd _ _ _ _ _ => true
  | .ssub _ _ _ _ _ => true
  | .mul _ _ _ _ => true
  | .mulhS _ _ _ _ => true
  | .mulhZ _ _ _ _ => true
  | .mad _ _ _ _ => true
  | .madh _ _ _ _ _ => true
  | .neg _ _ _ => true
  | .abs _ _ _ => true
  | .div _ _ _ _ _ => true
  | .rem _ _ _ _ _ => true
  | .min _ _ _ _ _ => true
  | .max _ _ _ _ _ => true
  | .and _ _ _ => true
  | .or _ _ _ => true
  | .xor _ _ _ => true
  | .andn _ _ _ => true
  | .not _ _ => true
  | .shl _ _ _ => true
  | .shr _ _ _ => true
  | .sar _ _ _ => true
  | .rol _ _ _ => true
  | .clz _ _ => true
  | .ctz _ _ => true
  | .popc _ _ => true
  | .brev _ _ => true
  | .bfxS _ _ _ => true
  | .bfxZ _ _ _ => true
  | .bfi _ _ _ => true
  | .and64 _ _ _ => true
  | .or64 _ _ _ => true
  | .xor64 _ _ _ => true
  | .andn64 _ _ _ => true
  | .not64 _ _ => true
  | .shl64 _ _ _ => true
  | .shr64 _ _ _ => true
  | .sar64 _ _ _ => true
  | .rol64 _ _ _ => true
  | .clz64 _ _ => true
  | .ctz64 _ _ => true
  | .popc64 _ _ => true
  | .brev64 _ _ => true
  | .bfxS64 _ _ _ => true
  | .bfxZ64 _ _ _ => true
  | .bfi64 _ _ _ => true
  | .leaZ64 _ _ _ _ _ => true
  | .leaS64 _ _ _ _ _ => true
  | .selB32 _ _ _ _ _ => true
  | .selB64 _ _ _ _ _ => true
  | .setp k _ _ _ _ => decide (k.toNat ≤ 9)
  | .plop _ _ _ _ => true
  | .movB32 _ _ => true
  | .movB64 _ _ => true
  | .moviB32 _ _ => true
  | .moviS64 _ _ => true
  | .moviZ64 _ _ => true
  | .moviHi _ _ => true
  | .prmb _ _ _ => true
  | .cvt d _ _ s _ _ => decide (d.toNat ≤ 12) && decide (s.toNat ≤ 12)
  | .pack t c _ _ => packable t c
  | .unpk t c _ _ => packable t c
  | .qbx f _ _ => decide (f.toNat ≤ 2)
  | .addImm32 _ _ _ => true
  | .addImm64 _ _ _ => true
  | .andImm _ _ _ => true
  | .orImm _ _ _ => true
  | .xorImm _ _ _ => true
  | .shlImm w c _ _ => decide (w = 1 ∨ c.toNat < 32)
  | .shrImm w c _ _ => decide (w = 1 ∨ c.toNat < 32)
  | .sarImm w c _ _ => decide (w = 1 ∨ c.toNat < 32)
  | .sAdd _ _ _ _ => true
  | .sSub _ _ _ _ => true
  | .sAddc _ _ _ _ => true
  | .sSubb _ _ _ _ => true
  | .sSadd _ _ _ _ _ => true
  | .sSsub _ _ _ _ _ => true
  | .sMul _ _ _ _ => true
  | .sMulhS _ _ _ _ => true
  | .sMulhZ _ _ _ _ => true
  | .sMad _ _ _ _ => true
  | .sMadh _ _ _ _ _ => true
  | .sNeg _ _ _ => true
  | .sAbs _ _ _ => true
  | .sAnd _ _ _ _ => true
  | .sOr _ _ _ _ => true
  | .sXor _ _ _ _ => true
  | .sAndn _ _ _ _ => true
  | .sNot _ _ _ => true
  | .sShl _ _ _ _ => true
  | .sShr _ _ _ _ => true
  | .sSar _ _ _ _ => true
  | .sRol _ _ _ _ => true
  | .sClz _ _ _ => true
  | .sCtz _ _ _ => true
  | .sPopc _ _ _ => true
  | .sBrev _ _ _ => true
  | .sBfxS _ _ _ _ => true
  | .sBfxZ _ _ _ _ => true
  | .sBfi _ _ _ _ => true
  | .sDiv _ _ _ _ _ => true
  | .sRem _ _ _ _ _ => true
  | .sMin _ _ _ _ _ => true
  | .sMax _ _ _ _ _ => true
  | .sSetp k _ _ _ _ => decide (k.toNat ≤ 9)
  | .sMov _ _ => true
  | .sMoviS64 _ _ => true
  | .sMoviZ64 _ _ => true
  | .sMoviHi _ _ => true
  | .sCvtS64S32 _ _ => true
  | .sCvtZ64Z32 _ _ => true
  | .sAddImm _ _ _ => true
  | .fadd _ _ _ _ t => decide (t ≠ 3)
  | .fsub _ _ _ _ t => decide (t ≠ 3)
  | .fmul _ _ _ _ t => decide (t ≠ 3)
  | .fma _ _ _ _ t => decide (t ≠ 3)
  | .fms _ _ _ _ t => decide (t ≠ 3)
  | .fnma _ _ _ _ t => decide (t ≠ 3)
  | .fmin _ _ _ t => decide (t ≠ 3)
  | .fmax _ _ _ t => decide (t ≠ 3)
  | .fsign _ _ _ t => decide (t ≠ 3)
  | .fclass _ _ t => decide (t ≠ 3)
  | .frnd _ _ _ t => decide (t ≠ 3)
  | .fsetp k _ _ t _ => decide (k.toNat ≤ 7) && decide (t ≠ 3)
  | .pfadd _ _ _ _ _ => true
  | .pfmul _ _ _ _ _ => true
  | .pfma _ _ _ _ _ => true
  | .dot4 _ _ _ _ => true
  | .fldx t _ _ _ _ => decide (t ≠ 3)
  | .frcp _ t _ _ => decide (t ≠ 3)
  | .frsq _ t _ _ => decide (t ≠ 3)
  | .fsqrt _ t _ _ => decide (t ≠ 3)
  | .fexp2 _ t _ _ => decide (t ≠ 3)
  | .flog2 _ t _ _ => decide (t ≠ 3)
  | .fsin _ t _ _ => decide (t ≠ 3)
  | .fcos _ t _ _ => decide (t ≠ 3)
  | .fdivF32 _ _ _ _ => true
  | .fdivF16 _ _ _ _ => true
  | .fdivBf16 _ _ _ _ => true
  | .cshape _ _ => true
  | .czip _ _ _ => true
  | .cunz _ _ _ _ => true
  | .cadd _ _ _ _ => true
  | .csub _ _ _ _ => true
  | .ccmp _ _ t _ => decide (t.toNat ≤ 5)
  | .cinbox _ _ _ => true
  | .clcp _ _ _ => true
  | .ccell _ _ _ => true
  | .cnext _ _ _ => true
  | .cprev _ _ _ => true
  | .csplit _ _ _ _ => true
  | .ld _ _ _ _ => true
  | .st _ _ _ => true
  | .lds _ _ _ _ => true
  | .sts _ _ _ => true
  | .ldk _ _ _ _ => true
  | .sld _ _ _ _ => true
  | .sst _ _ _ => true
  | .atom _ _ _ _ => true
  | .atoms _ _ _ _ => true
  | .red _ _ _ => true
  | .fence _ => true
  | .fenceSc => true
  | .pref _ _ => true
  | .clineClean _ _ => true
  | .clineInv _ _ => true
  | .clineFlush _ _ => true
  | .binit _ _ => true
  | .arrive _ _ => true
  | .arrivex _ _ _ => true
  | .bsync => true
  | .btest _ _ _ => true
  | .wait _ _ _ => true
  | .mma _ _ _ => true
  | .gangset _ => true
  | .accz _ => true
  | .accwr _ _ _ => true
  | .accepi _ _ => true
  | .accrd _ _ _ _ => true
  | .accrdi _ _ _ _ => true
  | .crstart _ _ _ => true
  | .crcopy _ _ _ => true
  | .crhalo _ => true
  | .crfeed _ _ _ _ _ => true
  | .crstat _ _ => true
  | .qput _ _ => true
  | .qpop _ _ => true
  | .qcnt _ => true
  | .launch _ _ => true
  | .launchq _ _ => true
  | .dist _ _ => true
  | .fixup _ => true
  | .psetp _ _ => true
  | .pcancel => true
  | .prepeat => true
  | .psend _ => true
  | .qpush _ _ _ => true
  | .qtake _ _ _ => true
  | .lbox _ _ => true
  | .dline _ _ => true
  | .wlook _ _ _ _ => true
  | .wopen _ _ _ _ => true
  | .wnext _ _ _ => true
  | .wcol _ _ _ _ => true
  | .wdead _ _ _ => true
  | .wnew _ _ => true
  | .wdel _ => true
  | .wadd _ _ _ => true
  | .wrem _ _ => true
  | .wcoll _ _ _ => true
  | .wclose _ => true
  | .rlaunch _ _ => true
  | .rsplit _ _ _ => true
  | .rleaf => true
  | .rkids _ _ => true
  | .rput _ => true
  | .rinfo _ => true
  | .smarch _ _ _ => true
  | .smnext _ _ _ _ => true
  | .boxt _ _ _ _ => true
  | .trit _ _ _ _ => true
  | .rcq _ _ _ _ => true
  | .rcqt _ _ _ _ => true
  | .rcver _ => true
  | .tfilt _ _ _ _ => true
  | .trap _ => true
  | .tret c => decide (c.toNat ≤ 2)
  | .halt c => decide (c.toNat ≤ 1)
  | .time c _ => decide (c.toNat ≤ 1)
  | .preok _ => true
  | .csrr _ _ => true
  | .csrw _ _ => true
  | .wbWrite _ => true
  | .cshapeWrite _ => true
  | .fflagsWrite _ => true
  | .loopCounterWrite _ _ => true
  | .splextWrite _ => true
  | .tpcWrite _ => true
  | .netbindWrite _ _ _ => true
  | .devidWrite _ => true
  | .withheldWrite _ _ => true
  | .longLatencyCommit _ _ => true
  | .loopBackEdge _ _ => true
  | .registerLineFill _ _ _ => true
  | .engineByteCount _ _ _ => true
  | .waitWake _ _ => true
  | .waitTimeout _ _ => true
  | .heartbeatTick => true
  | .memoryAccessPerform _ => true
  | .pageWalk _ _ _ _ => true
  | .copyLineLand _ _ => true
  | .kStep _ => true
  | .acczApply _ => true
  | .accwrApply _ => true
  | .accepiApply _ => true
  | .courierJob _ _ => true
  | .streamWaitClear _ _ => true
  | .launchAccept _ => true
  | .prologueRun _ => true
  | .runStart _ => true
  | .workgroupResident _ => true
  | .workgroupDone _ => true
  | .launchEnd _ => true
  | .budgetChargePass => true
  | .letterboxWrite _ _ => true
  | .deadlineStampWrite _ _ _ => true
  | .deadlineGuardWrite _ _ _ => true
  | .letterboxWindowWrite _ _ => true
  | .queueEnable _ => true
  | .queueDisable _ => true
  | .queueStatusClear _ => true
  | .queueActivate _ => true
  | .queueEvict _ => true
  | .evictionTenureExpiry _ => true
  | .schedulerRestart => true
  | .packetLookahead _ => true
  | .nopPacket _ => true
  | .launchPacket _ => true
  | .parcelPacket _ => true
  | .callPacket _ => true
  | .joinPacket _ => true
  | .waitPacket _ => true
  | .waitPacketTimeout _ => true
  | .writePacket _ => true
  | .arrivePacket _ => true
  | .wcollPacket _ => true
  | .pipelinePacket _ => true
  | .deadlinePacket _ => true
  | .parcelStart _ => true
  | .parcelComplete _ => true
  | .postmasterPass => true
  | .parcelMigration _ _ _ _ => true
  | .stageManagerPass => true
  | .stageLaunchEnd _ => true
  | .deadlineStreamRaise _ => true
  | .deadlineStreamLower _ => true
  | .collection _ _ => true
  | .compactionMove _ _ _ => true
  | .recursionStart _ => true
  | .recursionLaunchEnd _ => true
  | .rayMarchSample _ _ => true
  | .trainerStep _ _ => true
  | .weightPublish _ _ => true
  | .workgroupLeave _ => true
  | .saveComplete _ => true
  | .workgroupResume _ => true
  | .define _ => true
  | .freeze _ => true
  | .thaw _ => true
  | .teardown _ => true
  | .invalidate _ _ _ => true
  | .replay _ _ => true
  | .cancel _ _ => true
  | .preempt _ _ => true
  | .read _ _ => true
  | .gangslice _ => true
  | .migrate _ _ => true
  | .checkpoint _ _ => true
  | .fencePort _ => true
  | .unfencePort _ => true
  | .attest _ _ => true
  | .gangDecisionDeadline _ => true
  | .gangStart _ => true
  | .gangQuantumEnd _ => true
  | .gangCollectorLost _ => true
  | .migrateCutover _ => true
  | .migrateForwardEnd _ => true
  | .checkpointPageCopy => true
  | .checkpointComplete => true
  | .portPartnerDetect _ => true
  | .portTrainingDone _ _ => true
  | .portLanesLost _ _ => true
  | .portReplayExhausted _ => true
  | .flitBad _ _ => true
  | .idleFlit _ _ => true
  | .readRequestFlit _ _ _ _ => true
  | .writeFlit _ _ _ _ => true
  | .atomicFlit _ _ _ _ _ _ _ => true
  | .responseFlit _ _ _ _ => true
  | .gangTokenFlit _ _ _ _ => true
  | .forwardedWriteFlit _ _ _ _ => true
  | .controlFlit _ _ => true
  | .hostApertureAccess _ _ _ => true
  | .hostRegisterWrite _ _ => true
  | .roceRequest _ _ => true
  | .powerOn => true
  | .powerCheck _ _ => true
  | .powerRemoval => true
  | .eccCorrected _ _ => true
  | .eccUncorrectable _ _ => true
  | .pluginFault _ => true
  | .pcieCompletion _ _ => true
  | .roceResponse _ _ _ => true
  | .migratePageCopy _ _ => true
  | .keyTableWrite _ _ => true
  | .accessTableWrite _ _ _ => true
  | .routeTableWrite _ _ => true
  | .hostApertureAssign _ _ => true
  | .deadlineStreamOwnerWrite _ _ => true

end Sys2Proof
end

