-- ==== Sys2Proof/Decode.lean ====
section
/-! DEFINITION. Decoding and encoding the instruction words (R20 to R22, R41 to R47). `decode` is total: a word of a
reserved major, of a reserved sub-operation, or with an unused field that is not zero is rejected by name. A field
value that is reserved inside a row of the opcode map is left to WellFormed. The decoder reduces in the kernel; it is
marked noncomputable because Lean's code generator has no tag for a constructor beyond the 245th. -/
namespace Sys2Proof

/-- Why a word is no instruction of the opcode map (R22). -/
inductive Reject where
  | reservedMajor
  | reservedSub
  | unusedField
  deriving DecidableEq, Repr

/-- The register form (R20): m, c, b, a, op from the most significant bit down. -/
def pack (m : BitVec 4) (c b a op : BitVec 7) : W32 := m ++ c ++ b ++ a ++ op

def fieldOp (w : W32) : BitVec 7 := w.extractLsb' 0 7
def fieldA (w : W32) : BitVec 7 := w.extractLsb' 7 7
def fieldB (w : W32) : BitVec 7 := w.extractLsb' 14 7
def fieldC (w : W32) : BitVec 7 := w.extractLsb' 21 7
def fieldM (w : W32) : BitVec 4 := w.extractLsb' 28 4

/-- Major 0x00. -/
def dec00 (m : BitVec 4) (c b a : BitVec 7) : Except Reject Instr :=
  if m = 0#4 then (if c = 0#7 ∧ b = 0#7 ∧ a.extractLsb' 6 1 = 0#1 then .ok (.guard (a.extractLsb' 4 2) (a.extractLsb' 3 1) (a.extractLsb' 0 3)) else .error .unusedField)
  else .error .unusedField

/-- Major 0x01. -/
def dec01 (m : BitVec 4) (c b a : BitVec 7) : Except Reject Instr :=
  .ok (.imm (m ++ c ++ b ++ a))

/-- Major 0x02. -/
def dec02 (m : BitVec 4) (c b a : BitVec 7) : Except Reject Instr :=
  if m = 0#4 then (if c = 0#7 ∧ b.extractLsb' 2 5 = 0#5 then .ok (.xidx (b.extractLsb' 1 1) (b.extractLsb' 0 1 ++ a.extractLsb' 6 1) (a.extractLsb' 5 1) (a.extractLsb' 3 2) (a.extractLsb' 2 1) (a.extractLsb' 0 2)) else .error .unusedField)
  else .error .unusedField

/-- Major 0x03. -/
def dec03 (m : BitVec 4) (c b a : BitVec 7) : Except Reject Instr :=
  if a.extractLsb' 0 4 = 0#4 then .ok (.bra (m ++ c ++ b ++ a.extractLsb' 4 3)) else .error .unusedField

/-- Major 0x04. -/
def dec04 (m : BitVec 4) (c b a : BitVec 7) : Except Reject Instr :=
  .ok (.call (m ++ c ++ b ++ a.extractLsb' 4 3) (a.extractLsb' 0 4))

/-- Major 0x05. -/
def dec05 (m : BitVec 4) (c b a : BitVec 7) : Except Reject Instr :=
  if m = 0#4 then (if a.extractLsb' 2 5 = 0#5 then .ok (.loop c b (a.extractLsb' 0 2)) else .error .unusedField)
  else .error .unusedField

/-- Major 0x06. -/
def dec06 (m : BitVec 4) (c b a : BitVec 7) : Except Reject Instr :=
  if m = 0#4 then (if c = 0#7 ∧ a = 0#7 then .ok (.br b) else .error .unusedField)
  else if m = 1#4 then (if c = 0#7 then .ok (.calli b a) else .error .unusedField)
  else if m = 2#4 then (if c = 0#7 ∧ a = 0#7 then .ok (.ret b) else .error .unusedField)
  else if m = 3#4 then (if c = 0#7 ∧ b = 0#7 ∧ a = 0#7 then .ok (.exit) else .error .unusedField)
  else if m = 4#4 then (if c = 0#7 ∧ b = 0#7 ∧ a = 0#7 then .ok (.join) else .error .unusedField)
  else if m = 5#4 then (if c = 0#7 ∧ b = 0#7 ∧ a = 0#7 then .ok (.lbrk) else .error .unusedField)
  else if m = 6#4 then (if c = 0#7 ∧ b = 0#7 ∧ a = 0#7 then .ok (.nop) else .error .unusedField)
  else if m = 7#4 then (if c = 0#7 ∧ b = 0#7 ∧ a = 0#7 then .ok (.region) else .error .unusedField)
  else if m = 8#4 then (if b = 0#7 ∧ a = 0#7 then .ok (.wbase c) else .error .unusedField)
  else if m = 9#4 then (if a.extractLsb' 2 5 = 0#5 then .ok (.xset c b (a.extractLsb' 0 2)) else .error .unusedField)
  else if m = 10#4 then (if b = 0#7 ∧ a = 0#7 then .ok (.setpart c) else .error .unusedField)
  else if m = 11#4 then (if b = 0#7 then .ok (.getmask c a) else .error .unusedField)
  else .error .reservedSub

/-- Major 0x07. -/
def dec07 (m : BitVec 4) (c b a : BitVec 7) : Except Reject Instr :=
  if m.extractLsb' 1 3 = 0#3 then (if b = 0#7 ∧ a = 0#7 then .ok (.regang (m.extractLsb' 0 1 ++ c)) else .error .unusedField)
  else .error .unusedField

/-- Major 0x10. -/
def dec10 (m : BitVec 4) (c b a : BitVec 7) : Except Reject Instr :=
  if m = 0#4 then (.ok (.add c b a 0#1))
  else if m = 1#4 then (.ok (.sub c b a 0#1))
  else if m = 2#4 then (.ok (.addc c b a 0#1))
  else if m = 3#4 then (.ok (.subb c b a 0#1))
  else if m.extractLsb' 1 3 = 2#3 then (.ok (.sadd (m.extractLsb' 0 1) c b a 0#1))
  else if m.extractLsb' 1 3 = 3#3 then (.ok (.ssub (m.extractLsb' 0 1) c b a 0#1))
  else if m = 8#4 then (.ok (.mul c b a 0#1))
  else if m = 9#4 then (.ok (.mulhS c b a 0#1))
  else if m = 10#4 then (.ok (.mulhZ c b a 0#1))
  else if m = 11#4 then (.ok (.mad c b a 0#1))
  else if m.extractLsb' 1 3 = 6#3 then (.ok (.madh (m.extractLsb' 0 1) c b a 0#1))
  else if m = 14#4 then (if c = 0#7 then .ok (.neg b a 0#1) else .error .unusedField)
  else if m = 15#4 then (if c = 0#7 then .ok (.abs b a 0#1) else .error .unusedField)
  else .error .reservedSub

/-- Major 0x11. -/
def dec11 (m : BitVec 4) (c b a : BitVec 7) : Except Reject Instr :=
  if m = 0#4 then (.ok (.add c b a 1#1))
  else if m = 1#4 then (.ok (.sub c b a 1#1))
  else if m = 2#4 then (.ok (.addc c b a 1#1))
  else if m = 3#4 then (.ok (.subb c b a 1#1))
  else if m.extractLsb' 1 3 = 2#3 then (.ok (.sadd (m.extractLsb' 0 1) c b a 1#1))
  else if m.extractLsb' 1 3 = 3#3 then (.ok (.ssub (m.extractLsb' 0 1) c b a 1#1))
  else if m = 8#4 then (.ok (.mul c b a 1#1))
  else if m = 9#4 then (.ok (.mulhS c b a 1#1))
  else if m = 10#4 then (.ok (.mulhZ c b a 1#1))
  else if m = 11#4 then (.ok (.mad c b a 1#1))
  else if m.extractLsb' 1 3 = 6#3 then (.ok (.madh (m.extractLsb' 0 1) c b a 1#1))
  else if m = 14#4 then (if c = 0#7 then .ok (.neg b a 1#1) else .error .unusedField)
  else if m = 15#4 then (if c = 0#7 then .ok (.abs b a 1#1) else .error .unusedField)
  else .error .reservedSub

/-- Major 0x12. -/
def dec12 (m : BitVec 4) (c b a : BitVec 7) : Except Reject Instr :=
  if m.extractLsb' 3 1 = 0#1 ∧ m.extractLsb' 1 1 = 0#1 then (.ok (.div (m.extractLsb' 2 1) (m.extractLsb' 0 1) c b a))
  else if m.extractLsb' 3 1 = 0#1 ∧ m.extractLsb' 1 1 = 1#1 then (.ok (.rem (m.extractLsb' 2 1) (m.extractLsb' 0 1) c b a))
  else if m.extractLsb' 3 1 = 1#1 ∧ m.extractLsb' 1 1 = 0#1 then (.ok (.min (m.extractLsb' 2 1) (m.extractLsb' 0 1) c b a))
  else if m.extractLsb' 3 1 = 1#1 ∧ m.extractLsb' 1 1 = 1#1 then (.ok (.max (m.extractLsb' 2 1) (m.extractLsb' 0 1) c b a))
  else .error .reservedSub

/-- Major 0x13. -/
def dec13 (m : BitVec 4) (c b a : BitVec 7) : Except Reject Instr :=
  if m = 0#4 then (.ok (.and c b a))
  else if m = 1#4 then (.ok (.or c b a))
  else if m = 2#4 then (.ok (.xor c b a))
  else if m = 3#4 then (.ok (.andn c b a))
  else if m = 4#4 then (if c = 0#7 then .ok (.not b a) else .error .unusedField)
  else if m = 5#4 then (.ok (.shl c b a))
  else if m = 6#4 then (.ok (.shr c b a))
  else if m = 7#4 then (.ok (.sar c b a))
  else if m = 8#4 then (.ok (.rol c b a))
  else if m = 9#4 then (if c = 0#7 then .ok (.clz b a) else .error .unusedField)
  else if m = 10#4 then (if c = 0#7 then .ok (.ctz b a) else .error .unusedField)
  else if m = 11#4 then (if c = 0#7 then .ok (.popc b a) else .error .unusedField)
  else if m = 12#4 then (if c = 0#7 then .ok (.brev b a) else .error .unusedField)
  else if m = 13#4 then (.ok (.bfxS c b a))
  else if m = 14#4 then (.ok (.bfxZ c b a))
  else if m = 15#4 then (.ok (.bfi c b a))
  else .error .reservedSub

/-- Major 0x14. -/
def dec14 (m : BitVec 4) (c b a : BitVec 7) : Except Reject Instr :=
  if m = 0#4 then (.ok (.and64 c b a))
  else if m = 1#4 then (.ok (.or64 c b a))
  else if m = 2#4 then (.ok (.xor64 c b a))
  else if m = 3#4 then (.ok (.andn64 c b a))
  else if m = 4#4 then (if c = 0#7 then .ok (.not64 b a) else .error .unusedField)
  else if m = 5#4 then (.ok (.shl64 c b a))
  else if m = 6#4 then (.ok (.shr64 c b a))
  else if m = 7#4 then (.ok (.sar64 c b a))
  else if m = 8#4 then (.ok (.rol64 c b a))
  else if m = 9#4 then (if c = 0#7 then .ok (.clz64 b a) else .error .unusedField)
  else if m = 10#4 then (if c = 0#7 then .ok (.ctz64 b a) else .error .unusedField)
  else if m = 11#4 then (if c = 0#7 then .ok (.popc64 b a) else .error .unusedField)
  else if m = 12#4 then (if c = 0#7 then .ok (.brev64 b a) else .error .unusedField)
  else if m = 13#4 then (.ok (.bfxS64 c b a))
  else if m = 14#4 then (.ok (.bfxZ64 c b a))
  else if m = 15#4 then (.ok (.bfi64 c b a))
  else .error .reservedSub

/-- Major 0x15. -/
def dec15 (m : BitVec 4) (c b a : BitVec 7) : Except Reject Instr :=
  .ok (.leaZ64 (m.extractLsb' 3 1) (m.extractLsb' 0 3) c b a)

/-- Major 0x16. -/
def dec16 (m : BitVec 4) (c b a : BitVec 7) : Except Reject Instr :=
  .ok (.leaS64 (m.extractLsb' 3 1) (m.extractLsb' 0 3) c b a)

/-- Major 0x17. -/
def dec17 (m : BitVec 4) (c b a : BitVec 7) : Except Reject Instr :=
  .ok (.selB32 (m.extractLsb' 3 1) (m.extractLsb' 0 3) c b a)

/-- Major 0x18. -/
def dec18 (m : BitVec 4) (c b a : BitVec 7) : Except Reject Instr :=
  .ok (.selB64 (m.extractLsb' 3 1) (m.extractLsb' 0 3) c b a)

/-- Major 0x19. -/
def dec19 (m : BitVec 4) (c b a : BitVec 7) : Except Reject Instr :=
  if a.extractLsb' 4 3 = 0#3 then .ok (.setp m c b (a.extractLsb' 3 1) (a.extractLsb' 0 3)) else .error .unusedField

/-- Major 0x1B. -/
def dec1B (m : BitVec 4) (c b a : BitVec 7) : Except Reject Instr :=
  if c.extractLsb' 3 4 = 0#4 ∧ b.extractLsb' 3 4 = 0#4 ∧ a.extractLsb' 3 4 = 0#4 then .ok (.plop m (c.extractLsb' 0 3) (b.extractLsb' 0 3) (a.extractLsb' 0 3)) else .error .unusedField

/-- Major 0x1C. -/
def dec1C (m : BitVec 4) (c b a : BitVec 7) : Except Reject Instr :=
  if m = 0#4 then (if c = 0#7 then .ok (.movB32 b a) else .error .unusedField)
  else if m = 1#4 then (if c = 0#7 then .ok (.movB64 b a) else .error .unusedField)
  else if m = 2#4 then (if b = 0#7 then .ok (.moviB32 c a) else .error .unusedField)
  else if m = 3#4 then (if b = 0#7 then .ok (.moviS64 c a) else .error .unusedField)
  else if m = 4#4 then (if b = 0#7 then .ok (.moviZ64 c a) else .error .unusedField)
  else if m = 5#4 then (if b = 0#7 then .ok (.moviHi c a) else .error .unusedField)
  else if m = 6#4 then (.ok (.prmb c b a))
  else .error .reservedSub

/-- Major 0x1D. -/
def dec1D (m : BitVec 4) (c b a : BitVec 7) : Except Reject Instr :=
  .ok (.cvt m (c.extractLsb' 6 1) (c.extractLsb' 4 2) (c.extractLsb' 0 4) b a)

/-- Major 0x1E. -/
def dec1E (m : BitVec 4) (c b a : BitVec 7) : Except Reject Instr :=
  .ok (.pack m c b a)

/-- Major 0x1F. -/
def dec1F (m : BitVec 4) (c b a : BitVec 7) : Except Reject Instr :=
  .ok (.unpk m c b a)

/-- Major 0x20. -/
def dec20 (m : BitVec 4) (c b a : BitVec 7) : Except Reject Instr :=
  if c = 0#7 then .ok (.qbx m b a) else .error .unusedField

/-- Major 0x21. -/
def dec21 (m : BitVec 4) (c b a : BitVec 7) : Except Reject Instr :=
  .ok (.addImm32 (m ++ c) b a)

/-- Major 0x22. -/
def dec22 (m : BitVec 4) (c b a : BitVec 7) : Except Reject Instr :=
  .ok (.addImm64 (m ++ c) b a)

/-- Major 0x23. -/
def dec23 (m : BitVec 4) (c b a : BitVec 7) : Except Reject Instr :=
  .ok (.andImm (m ++ c) b a)

/-- Major 0x24. -/
def dec24 (m : BitVec 4) (c b a : BitVec 7) : Except Reject Instr :=
  .ok (.orImm (m ++ c) b a)

/-- Major 0x25. -/
def dec25 (m : BitVec 4) (c b a : BitVec 7) : Except Reject Instr :=
  .ok (.xorImm (m ++ c) b a)

/-- Major 0x26. -/
def dec26 (m : BitVec 4) (c b a : BitVec 7) : Except Reject Instr :=
  if m = 0#4 then (.ok (.shlImm (c.extractLsb' 6 1) (c.extractLsb' 0 6) b a))
  else .error .unusedField

/-- Major 0x27. -/
def dec27 (m : BitVec 4) (c b a : BitVec 7) : Except Reject Instr :=
  if m = 0#4 then (.ok (.shrImm (c.extractLsb' 6 1) (c.extractLsb' 0 6) b a))
  else if m = 1#4 then (.ok (.sarImm (c.extractLsb' 6 1) (c.extractLsb' 0 6) b a))
  else .error .reservedSub

/-- Major 0x28. -/
def dec28 (m : BitVec 4) (c b a : BitVec 7) : Except Reject Instr :=
  if m = 0#4 then (.ok (.sAdd c b a 0#1))
  else if m = 1#4 then (.ok (.sSub c b a 0#1))
  else if m = 2#4 then (.ok (.sAddc c b a 0#1))
  else if m = 3#4 then (.ok (.sSubb c b a 0#1))
  else if m.extractLsb' 1 3 = 2#3 then (.ok (.sSadd (m.extractLsb' 0 1) c b a 0#1))
  else if m.extractLsb' 1 3 = 3#3 then (.ok (.sSsub (m.extractLsb' 0 1) c b a 0#1))
  else if m = 8#4 then (.ok (.sMul c b a 0#1))
  else if m = 9#4 then (.ok (.sMulhS c b a 0#1))
  else if m = 10#4 then (.ok (.sMulhZ c b a 0#1))
  else if m = 11#4 then (.ok (.sMad c b a 0#1))
  else if m.extractLsb' 1 3 = 6#3 then (.ok (.sMadh (m.extractLsb' 0 1) c b a 0#1))
  else if m = 14#4 then (if c = 0#7 then .ok (.sNeg b a 0#1) else .error .unusedField)
  else if m = 15#4 then (if c = 0#7 then .ok (.sAbs b a 0#1) else .error .unusedField)
  else .error .reservedSub

/-- Major 0x29. -/
def dec29 (m : BitVec 4) (c b a : BitVec 7) : Except Reject Instr :=
  if m = 0#4 then (.ok (.sAdd c b a 1#1))
  else if m = 1#4 then (.ok (.sSub c b a 1#1))
  else if m = 2#4 then (.ok (.sAddc c b a 1#1))
  else if m = 3#4 then (.ok (.sSubb c b a 1#1))
  else if m.extractLsb' 1 3 = 2#3 then (.ok (.sSadd (m.extractLsb' 0 1) c b a 1#1))
  else if m.extractLsb' 1 3 = 3#3 then (.ok (.sSsub (m.extractLsb' 0 1) c b a 1#1))
  else if m = 8#4 then (.ok (.sMul c b a 1#1))
  else if m = 9#4 then (.ok (.sMulhS c b a 1#1))
  else if m = 10#4 then (.ok (.sMulhZ c b a 1#1))
  else if m = 11#4 then (.ok (.sMad c b a 1#1))
  else if m.extractLsb' 1 3 = 6#3 then (.ok (.sMadh (m.extractLsb' 0 1) c b a 1#1))
  else if m = 14#4 then (if c = 0#7 then .ok (.sNeg b a 1#1) else .error .unusedField)
  else if m = 15#4 then (if c = 0#7 then .ok (.sAbs b a 1#1) else .error .unusedField)
  else .error .reservedSub

/-- Major 0x2A. -/
def dec2A (m : BitVec 4) (c b a : BitVec 7) : Except Reject Instr :=
  if m = 0#4 then (.ok (.sAnd c b a 0#1))
  else if m = 1#4 then (.ok (.sOr c b a 0#1))
  else if m = 2#4 then (.ok (.sXor c b a 0#1))
  else if m = 3#4 then (.ok (.sAndn c b a 0#1))
  else if m = 4#4 then (if c = 0#7 then .ok (.sNot b a 0#1) else .error .unusedField)
  else if m = 5#4 then (.ok (.sShl c b a 0#1))
  else if m = 6#4 then (.ok (.sShr c b a 0#1))
  else if m = 7#4 then (.ok (.sSar c b a 0#1))
  else if m = 8#4 then (.ok (.sRol c b a 0#1))
  else if m = 9#4 then (if c = 0#7 then .ok (.sClz b a 0#1) else .error .unusedField)
  else if m = 10#4 then (if c = 0#7 then .ok (.sCtz b a 0#1) else .error .unusedField)
  else if m = 11#4 then (if c = 0#7 then .ok (.sPopc b a 0#1) else .error .unusedField)
  else if m = 12#4 then (if c = 0#7 then .ok (.sBrev b a 0#1) else .error .unusedField)
  else if m = 13#4 then (.ok (.sBfxS c b a 0#1))
  else if m = 14#4 then (.ok (.sBfxZ c b a 0#1))
  else if m = 15#4 then (.ok (.sBfi c b a 0#1))
  else .error .reservedSub

/-- Major 0x2B. -/
def dec2B (m : BitVec 4) (c b a : BitVec 7) : Except Reject Instr :=
  if m = 0#4 then (.ok (.sAnd c b a 1#1))
  else if m = 1#4 then (.ok (.sOr c b a 1#1))
  else if m = 2#4 then (.ok (.sXor c b a 1#1))
  else if m = 3#4 then (.ok (.sAndn c b a 1#1))
  else if m = 4#4 then (if c = 0#7 then .ok (.sNot b a 1#1) else .error .unusedField)
  else if m = 5#4 then (.ok (.sShl c b a 1#1))
  else if m = 6#4 then (.ok (.sShr c b a 1#1))
  else if m = 7#4 then (.ok (.sSar c b a 1#1))
  else if m = 8#4 then (.ok (.sRol c b a 1#1))
  else if m = 9#4 then (if c = 0#7 then .ok (.sClz b a 1#1) else .error .unusedField)
  else if m = 10#4 then (if c = 0#7 then .ok (.sCtz b a 1#1) else .error .unusedField)
  else if m = 11#4 then (if c = 0#7 then .ok (.sPopc b a 1#1) else .error .unusedField)
  else if m = 12#4 then (if c = 0#7 then .ok (.sBrev b a 1#1) else .error .unusedField)
  else if m = 13#4 then (.ok (.sBfxS c b a 1#1))
  else if m = 14#4 then (.ok (.sBfxZ c b a 1#1))
  else if m = 15#4 then (.ok (.sBfi c b a 1#1))
  else .error .reservedSub

/-- Major 0x2C. -/
def dec2C (m : BitVec 4) (c b a : BitVec 7) : Except Reject Instr :=
  if m.extractLsb' 3 1 = 0#1 ∧ m.extractLsb' 1 1 = 0#1 then (.ok (.sDiv (m.extractLsb' 2 1) (m.extractLsb' 0 1) c b a))
  else if m.extractLsb' 3 1 = 0#1 ∧ m.extractLsb' 1 1 = 1#1 then (.ok (.sRem (m.extractLsb' 2 1) (m.extractLsb' 0 1) c b a))
  else if m.extractLsb' 3 1 = 1#1 ∧ m.extractLsb' 1 1 = 0#1 then (.ok (.sMin (m.extractLsb' 2 1) (m.extractLsb' 0 1) c b a))
  else if m.extractLsb' 3 1 = 1#1 ∧ m.extractLsb' 1 1 = 1#1 then (.ok (.sMax (m.extractLsb' 2 1) (m.extractLsb' 0 1) c b a))
  else .error .reservedSub

/-- Major 0x2D. -/
def dec2D (m : BitVec 4) (c b a : BitVec 7) : Except Reject Instr :=
  if a.extractLsb' 4 3 = 0#3 then .ok (.sSetp m c b (a.extractLsb' 3 1) (a.extractLsb' 0 3)) else .error .unusedField

/-- Major 0x2E. -/
def dec2E (m : BitVec 4) (c b a : BitVec 7) : Except Reject Instr :=
  if m = 0#4 then (if c = 0#7 then .ok (.sMov b a) else .error .unusedField)
  else if m = 1#4 then (if b = 0#7 then .ok (.sMoviS64 c a) else .error .unusedField)
  else if m = 2#4 then (if b = 0#7 then .ok (.sMoviZ64 c a) else .error .unusedField)
  else if m = 3#4 then (if b = 0#7 then .ok (.sMoviHi c a) else .error .unusedField)
  else if m = 4#4 then (if c = 0#7 then .ok (.sCvtS64S32 b a) else .error .unusedField)
  else if m = 5#4 then (if c = 0#7 then .ok (.sCvtZ64Z32 b a) else .error .unusedField)
  else .error .reservedSub

/-- Major 0x2F. -/
def dec2F (m : BitVec 4) (c b a : BitVec 7) : Except Reject Instr :=
  .ok (.sAddImm (m ++ c) b a)

/-- Major 0x30. -/
def dec30 (m : BitVec 4) (c b a : BitVec 7) : Except Reject Instr :=
  if m.extractLsb' 2 2 = 0#2 then (.ok (.fadd (m.extractLsb' 0 2) c b a 0#2))
  else if m.extractLsb' 2 2 = 1#2 then (.ok (.fsub (m.extractLsb' 0 2) c b a 0#2))
  else if m.extractLsb' 2 2 = 2#2 then (.ok (.fmul (m.extractLsb' 0 2) c b a 0#2))
  else if m.extractLsb' 2 2 = 3#2 then (.ok (.fma (m.extractLsb' 0 2) c b a 0#2))
  else .error .reservedSub

/-- Major 0x31. -/
def dec31 (m : BitVec 4) (c b a : BitVec 7) : Except Reject Instr :=
  if m.extractLsb' 2 2 = 0#2 then (.ok (.fms (m.extractLsb' 0 2) c b a 0#2))
  else if m.extractLsb' 2 2 = 1#2 then (.ok (.fnma (m.extractLsb' 0 2) c b a 0#2))
  else if m = 8#4 then (.ok (.fmin c b a 0#2))
  else if m = 9#4 then (.ok (.fmax c b a 0#2))
  else if m = 10#4 then (.ok (.fsign c b a 0#2))
  else if m = 11#4 then (if c = 0#7 then .ok (.fclass b a 0#2) else .error .unusedField)
  else if m.extractLsb' 2 2 = 3#2 then (if c = 0#7 then .ok (.frnd (m.extractLsb' 0 2) b a 0#2) else .error .unusedField)
  else .error .reservedSub

/-- Major 0x32. -/
def dec32 (m : BitVec 4) (c b a : BitVec 7) : Except Reject Instr :=
  if m.extractLsb' 2 2 = 0#2 then (.ok (.fadd (m.extractLsb' 0 2) c b a 1#2))
  else if m.extractLsb' 2 2 = 1#2 then (.ok (.fsub (m.extractLsb' 0 2) c b a 1#2))
  else if m.extractLsb' 2 2 = 2#2 then (.ok (.fmul (m.extractLsb' 0 2) c b a 1#2))
  else if m.extractLsb' 2 2 = 3#2 then (.ok (.fma (m.extractLsb' 0 2) c b a 1#2))
  else .error .reservedSub

/-- Major 0x33. -/
def dec33 (m : BitVec 4) (c b a : BitVec 7) : Except Reject Instr :=
  if m.extractLsb' 2 2 = 0#2 then (.ok (.fms (m.extractLsb' 0 2) c b a 1#2))
  else if m.extractLsb' 2 2 = 1#2 then (.ok (.fnma (m.extractLsb' 0 2) c b a 1#2))
  else if m = 8#4 then (.ok (.fmin c b a 1#2))
  else if m = 9#4 then (.ok (.fmax c b a 1#2))
  else if m = 10#4 then (.ok (.fsign c b a 1#2))
  else if m = 11#4 then (if c = 0#7 then .ok (.fclass b a 1#2) else .error .unusedField)
  else if m.extractLsb' 2 2 = 3#2 then (if c = 0#7 then .ok (.frnd (m.extractLsb' 0 2) b a 1#2) else .error .unusedField)
  else .error .reservedSub

/-- Major 0x34. -/
def dec34 (m : BitVec 4) (c b a : BitVec 7) : Except Reject Instr :=
  if m.extractLsb' 2 2 = 0#2 then (.ok (.fadd (m.extractLsb' 0 2) c b a 2#2))
  else if m.extractLsb' 2 2 = 1#2 then (.ok (.fsub (m.extractLsb' 0 2) c b a 2#2))
  else if m.extractLsb' 2 2 = 2#2 then (.ok (.fmul (m.extractLsb' 0 2) c b a 2#2))
  else if m.extractLsb' 2 2 = 3#2 then (.ok (.fma (m.extractLsb' 0 2) c b a 2#2))
  else .error .reservedSub

/-- Major 0x35. -/
def dec35 (m : BitVec 4) (c b a : BitVec 7) : Except Reject Instr :=
  if m.extractLsb' 2 2 = 0#2 then (.ok (.fms (m.extractLsb' 0 2) c b a 2#2))
  else if m.extractLsb' 2 2 = 1#2 then (.ok (.fnma (m.extractLsb' 0 2) c b a 2#2))
  else if m = 8#4 then (.ok (.fmin c b a 2#2))
  else if m = 9#4 then (.ok (.fmax c b a 2#2))
  else if m = 10#4 then (.ok (.fsign c b a 2#2))
  else if m = 11#4 then (if c = 0#7 then .ok (.fclass b a 2#2) else .error .unusedField)
  else if m.extractLsb' 2 2 = 3#2 then (if c = 0#7 then .ok (.frnd (m.extractLsb' 0 2) b a 2#2) else .error .unusedField)
  else .error .reservedSub

/-- Major 0x36. -/
def dec36 (m : BitVec 4) (c b a : BitVec 7) : Except Reject Instr :=
  if a.extractLsb' 5 2 = 0#2 then .ok (.fsetp m c b (a.extractLsb' 3 2) (a.extractLsb' 0 3)) else .error .unusedField

/-- Major 0x37. -/
def dec37 (m : BitVec 4) (c b a : BitVec 7) : Except Reject Instr :=
  if m.extractLsb' 2 2 = 0#2 then (.ok (.pfadd (m.extractLsb' 1 1) (m.extractLsb' 0 1) c b a))
  else if m.extractLsb' 2 2 = 1#2 then (.ok (.pfmul (m.extractLsb' 1 1) (m.extractLsb' 0 1) c b a))
  else if m.extractLsb' 2 2 = 2#2 then (.ok (.pfma (m.extractLsb' 1 1) (m.extractLsb' 0 1) c b a))
  else if m.extractLsb' 2 2 = 3#2 then (.ok (.dot4 (m.extractLsb' 0 2) c b a))
  else .error .reservedSub

/-- Major 0x38. -/
def dec38 (m : BitVec 4) (c b a : BitVec 7) : Except Reject Instr :=
  .ok (.fldx (m.extractLsb' 2 2) (m.extractLsb' 0 2) c b a)

/-- Major 0x39. -/
def dec39 (m : BitVec 4) (c b a : BitVec 7) : Except Reject Instr :=
  if c.extractLsb' 5 2 = 0#2 then
    (if c.extractLsb' 0 3 = 0#3 then .ok (.frcp m (c.extractLsb' 3 2) b a)
    else if c.extractLsb' 0 3 = 1#3 then .ok (.frsq m (c.extractLsb' 3 2) b a)
    else if c.extractLsb' 0 3 = 2#3 then .ok (.fsqrt m (c.extractLsb' 3 2) b a)
    else if c.extractLsb' 0 3 = 3#3 then .ok (.fexp2 m (c.extractLsb' 3 2) b a)
    else if c.extractLsb' 0 3 = 4#3 then .ok (.flog2 m (c.extractLsb' 3 2) b a)
    else if c.extractLsb' 0 3 = 5#3 then .ok (.fsin m (c.extractLsb' 3 2) b a)
    else if c.extractLsb' 0 3 = 6#3 then .ok (.fcos m (c.extractLsb' 3 2) b a)
    else .error .reservedSub)
    else .error .unusedField

/-- Major 0x3A. -/
def dec3A (m : BitVec 4) (c b a : BitVec 7) : Except Reject Instr :=
  .ok (.fdivF32 m c b a)

/-- Major 0x3B. -/
def dec3B (m : BitVec 4) (c b a : BitVec 7) : Except Reject Instr :=
  .ok (.fdivF16 m c b a)

/-- Major 0x3C. -/
def dec3C (m : BitVec 4) (c b a : BitVec 7) : Except Reject Instr :=
  .ok (.fdivBf16 m c b a)

/-- Major 0x40. -/
def dec40 (m : BitVec 4) (c b a : BitVec 7) : Except Reject Instr :=
  if m = 0#4 then (if a = 0#7 then .ok (.cshape c b) else .error .unusedField)
  else if m = 1#4 then (if c.extractLsb' 1 6 = 0#6 then .ok (.czip (c.extractLsb' 0 1) b a) else .error .unusedField)
  else if m = 2#4 then (if c.extractLsb' 4 3 = 0#3 then .ok (.cunz (c.extractLsb' 3 1) (c.extractLsb' 0 3) b a) else .error .unusedField)
  else if m = 3#4 then (.ok (.cadd c b (a.extractLsb' 1 6) (a.extractLsb' 0 1)))
  else if m = 4#4 then (.ok (.csub c b (a.extractLsb' 1 6) (a.extractLsb' 0 1)))
  else if m = 5#4 then (if a.extractLsb' 6 1 = 0#1 then .ok (.ccmp c b (a.extractLsb' 3 3) (a.extractLsb' 0 3)) else .error .unusedField)
  else if m = 6#4 then (if a.extractLsb' 3 4 = 0#4 then .ok (.cinbox c b (a.extractLsb' 0 3)) else .error .unusedField)
  else if m = 7#4 then (.ok (.clcp c b a))
  else if m = 8#4 then (.ok (.ccell c b a))
  else .error .reservedSub

/-- Major 0x41. -/
def dec41 (m : BitVec 4) (c b a : BitVec 7) : Except Reject Instr :=
  if m = 0#4 then (.ok (.cnext c b a))
  else if m = 1#4 then (.ok (.cprev c b a))
  else .error .reservedSub

/-- Major 0x42. -/
def dec42 (m : BitVec 4) (c b a : BitVec 7) : Except Reject Instr :=
  .ok (.csplit m c b a)

/-- Major 0x48. -/
def dec48 (m : BitVec 4) (c b a : BitVec 7) : Except Reject Instr :=
  if m = 0#4 then (if c = 0#7 ∧ b.extractLsb' 3 4 = 0#4 ∧ a.extractLsb' 3 4 = 0#4 then .ok (.pollAnd (b.extractLsb' 0 3) (a.extractLsb' 0 3)) else .error .unusedField)
  else if m = 1#4 then (if c = 0#7 ∧ b.extractLsb' 3 4 = 0#4 ∧ a.extractLsb' 3 4 = 0#4 then .ok (.pollOr (b.extractLsb' 0 3) (a.extractLsb' 0 3)) else .error .unusedField)
  else if m = 2#4 then (if c = 0#7 ∧ b.extractLsb' 3 4 = 0#4 ∧ a.extractLsb' 3 4 = 0#4 then .ok (.pollSame (b.extractLsb' 0 3) (a.extractLsb' 0 3)) else .error .unusedField)
  else if m = 3#4 then (if c = 0#7 ∧ b.extractLsb' 3 4 = 0#4 then .ok (.pollMask (b.extractLsb' 0 3) a) else .error .unusedField)
  else .error .reservedSub

/-- Major 0x49. -/
def dec49 (m : BitVec 4) (c b a : BitVec 7) : Except Reject Instr :=
  if m.extractLsb' 3 1 = 0#1 ∧ m.extractLsb' 0 2 = 0#2 then (.ok (.shflIdx (m.extractLsb' 2 1) c b a))
  else if m.extractLsb' 3 1 = 0#1 ∧ m.extractLsb' 0 2 = 1#2 then (.ok (.shflUp (m.extractLsb' 2 1) c b a))
  else if m.extractLsb' 3 1 = 0#1 ∧ m.extractLsb' 0 2 = 2#2 then (.ok (.shflDown (m.extractLsb' 2 1) c b a))
  else if m.extractLsb' 3 1 = 0#1 ∧ m.extractLsb' 0 2 = 3#2 then (.ok (.shflXor (m.extractLsb' 2 1) c b a))
  else .error .reservedSub

/-- Major 0x4A. -/
def dec4A (m : BitVec 4) (c b a : BitVec 7) : Except Reject Instr :=
  if c = 0#7 then .ok (.redux m b a) else .error .unusedField

/-- Major 0x4B. -/
def dec4B (m : BitVec 4) (c b a : BitVec 7) : Except Reject Instr :=
  if c = 0#7 then .ok (.scanIncl m b a) else .error .unusedField

/-- Major 0x4C. -/
def dec4C (m : BitVec 4) (c b a : BitVec 7) : Except Reject Instr :=
  if c = 0#7 then .ok (.scanExcl m b a) else .error .unusedField

/-- Major 0x4D. -/
def dec4D (m : BitVec 4) (c b a : BitVec 7) : Except Reject Instr :=
  .ok (.lreord m c b a)

/-- Major 0x50. -/
def dec50 (m : BitVec 4) (c b a : BitVec 7) : Except Reject Instr :=
  .ok (.ld m c b a)

/-- Major 0x51. -/
def dec51 (m : BitVec 4) (c b a : BitVec 7) : Except Reject Instr :=
  if m = 0#4 then (.ok (.st c b a))
  else .error .unusedField

/-- Major 0x52. -/
def dec52 (m : BitVec 4) (c b a : BitVec 7) : Except Reject Instr :=
  .ok (.lds m c b a)

/-- Major 0x53. -/
def dec53 (m : BitVec 4) (c b a : BitVec 7) : Except Reject Instr :=
  if m = 0#4 then (.ok (.sts c b a))
  else .error .unusedField

/-- Major 0x54. -/
def dec54 (m : BitVec 4) (c b a : BitVec 7) : Except Reject Instr :=
  .ok (.ldk m c b a)

/-- Major 0x55. -/
def dec55 (m : BitVec 4) (c b a : BitVec 7) : Except Reject Instr :=
  .ok (.sld m c b a)

/-- Major 0x56. -/
def dec56 (m : BitVec 4) (c b a : BitVec 7) : Except Reject Instr :=
  if m = 0#4 then (.ok (.sst c b a))
  else .error .unusedField

/-- Major 0x57. -/
def dec57 (m : BitVec 4) (c b a : BitVec 7) : Except Reject Instr :=
  .ok (.atom m c b a)

/-- Major 0x58. -/
def dec58 (m : BitVec 4) (c b a : BitVec 7) : Except Reject Instr :=
  .ok (.atoms m c b a)

/-- Major 0x59. -/
def dec59 (m : BitVec 4) (c b a : BitVec 7) : Except Reject Instr :=
  if m = 0#4 then (.ok (.red c b a))
  else .error .unusedField

/-- Major 0x5A. -/
def dec5A (m : BitVec 4) (c b a : BitVec 7) : Except Reject Instr :=
  if m = 0#4 then (if b = 0#7 ∧ a = 0#7 then .ok (.fence c) else .error .unusedField)
  else if m = 1#4 then (if c = 0#7 ∧ b = 0#7 ∧ a = 0#7 then .ok (.fenceSc) else .error .unusedField)
  else if m = 2#4 then (if a = 0#7 then .ok (.pref c b) else .error .unusedField)
  else if m = 3#4 then (if a = 0#7 then .ok (.clineClean c b) else .error .unusedField)
  else if m = 4#4 then (if a = 0#7 then .ok (.clineInv c b) else .error .unusedField)
  else if m = 5#4 then (if a = 0#7 then .ok (.clineFlush c b) else .error .unusedField)
  else .error .reservedSub

/-- Major 0x5B. -/
def dec5B (m : BitVec 4) (c b a : BitVec 7) : Except Reject Instr :=
  if m = 0#4 then (if a = 0#7 then .ok (.binit c b) else .error .unusedField)
  else if m = 1#4 then (if c = 0#7 then .ok (.arrive b a) else .error .unusedField)
  else if m = 2#4 then (.ok (.arrivex c b a))
  else if m = 3#4 then (if c = 0#7 ∧ b = 0#7 ∧ a = 0#7 then .ok (.bsync) else .error .unusedField)
  else if m = 4#4 then (if a.extractLsb' 3 4 = 0#4 then .ok (.btest c b (a.extractLsb' 0 3)) else .error .unusedField)
  else .error .reservedSub

/-- Major 0x5C. -/
def dec5C (m : BitVec 4) (c b a : BitVec 7) : Except Reject Instr :=
  if m = 0#4 then (.ok (.wait c b a))
  else .error .unusedField

/-- Major 0x60. -/
def dec60 (m : BitVec 4) (c b a : BitVec 7) : Except Reject Instr :=
  if m = 0#4 then (if a.extractLsb' 2 5 = 0#5 then .ok (.mma c b (a.extractLsb' 0 2)) else .error .unusedField)
  else .error .unusedField

/-- Major 0x61. -/
def dec61 (m : BitVec 4) (c b a : BitVec 7) : Except Reject Instr :=
  if m = 0#4 then (if c = 0#7 ∧ a = 0#7 then .ok (.gangset b) else .error .unusedField)
  else if m = 1#4 then (if c = 0#7 ∧ b = 0#7 ∧ a.extractLsb' 2 5 = 0#5 then .ok (.accz (a.extractLsb' 0 2)) else .error .unusedField)
  else if m = 2#4 then (if a.extractLsb' 2 5 = 0#5 then .ok (.accwr c b (a.extractLsb' 0 2)) else .error .unusedField)
  else if m = 3#4 then (if c = 0#7 ∧ a.extractLsb' 2 5 = 0#5 then .ok (.accepi b (a.extractLsb' 0 2)) else .error .unusedField)
  else .error .reservedSub

/-- Major 0x62. -/
def dec62 (m : BitVec 4) (c b a : BitVec 7) : Except Reject Instr :=
  if b.extractLsb' 2 5 = 0#5 then .ok (.accrd m c (b.extractLsb' 0 2) a) else .error .unusedField

/-- Major 0x63. -/
def dec63 (m : BitVec 4) (c b a : BitVec 7) : Except Reject Instr :=
  if b.extractLsb' 2 5 = 0#5 then .ok (.accrdi m c (b.extractLsb' 0 2) a) else .error .unusedField

/-- Major 0x64. -/
def dec64 (m : BitVec 4) (c b a : BitVec 7) : Except Reject Instr :=
  if m = 0#4 then (.ok (.crstart c b a))
  else if m = 1#4 then (.ok (.crcopy c b a))
  else if m = 2#4 then (if c = 0#7 ∧ a = 0#7 then .ok (.crhalo b) else .error .unusedField)
  else if m = 3#4 then (if a.extractLsb' 5 2 = 0#2 then .ok (.crfeed c b (a.extractLsb' 4 1) (a.extractLsb' 2 2) (a.extractLsb' 0 2)) else .error .unusedField)
  else if m = 4#4 then (if c = 0#7 then .ok (.crstat b a) else .error .unusedField)
  else .error .reservedSub

/-- Major 0x65. -/
def dec65 (m : BitVec 4) (c b a : BitVec 7) : Except Reject Instr :=
  if m = 0#4 then (if c.extractLsb' 1 6 = 0#6 ∧ a = 0#7 then .ok (.qput (c.extractLsb' 0 1) b) else .error .unusedField)
  else if m = 1#4 then (if c.extractLsb' 1 6 = 0#6 ∧ b = 0#7 then .ok (.qpop (c.extractLsb' 0 1) a) else .error .unusedField)
  else if m = 2#4 then (if c = 0#7 ∧ b = 0#7 then .ok (.qcnt a) else .error .unusedField)
  else .error .reservedSub

/-- Major 0x68. -/
def dec68 (m : BitVec 4) (c b a : BitVec 7) : Except Reject Instr :=
  if m = 0#4 then (if c = 0#7 then .ok (.launch b a) else .error .unusedField)
  else if m = 1#4 then (if c = 0#7 then .ok (.launchq b a) else .error .unusedField)
  else if m = 2#4 then (if c = 0#7 then .ok (.dist b a) else .error .unusedField)
  else if m = 3#4 then (if c = 0#7 ∧ a = 0#7 then .ok (.fixup b) else .error .unusedField)
  else if m = 4#4 then (if a = 0#7 then .ok (.psetp c b) else .error .unusedField)
  else if m = 5#4 then (if c = 0#7 ∧ b = 0#7 ∧ a = 0#7 then .ok (.pcancel) else .error .unusedField)
  else if m = 6#4 then (if c = 0#7 ∧ b = 0#7 ∧ a = 0#7 then .ok (.prepeat) else .error .unusedField)
  else if m = 7#4 then (if c = 0#7 ∧ a = 0#7 then .ok (.psend b) else .error .unusedField)
  else if m = 8#4 then (.ok (.qpush c b a))
  else if m = 9#4 then (.ok (.qtake c b a))
  else if m = 10#4 then (if a = 0#7 then .ok (.lbox c b) else .error .unusedField)
  else if m = 11#4 then (if a = 0#7 then .ok (.dline c b) else .error .unusedField)
  else .error .reservedSub

/-- Major 0x69. -/
def dec69 (m : BitVec 4) (c b a : BitVec 7) : Except Reject Instr :=
  if c.extractLsb' 3 4 = 0#4 then .ok (.wlook m (c.extractLsb' 0 3) b a) else .error .unusedField

/-- Major 0x6A. -/
def dec6A (m : BitVec 4) (c b a : BitVec 7) : Except Reject Instr :=
  .ok (.wopen m c b a)

/-- Major 0x6B. -/
def dec6B (m : BitVec 4) (c b a : BitVec 7) : Except Reject Instr :=
  if c = 0#7 then .ok (.wnext m b a) else .error .unusedField

/-- Major 0x6C. -/
def dec6C (m : BitVec 4) (c b a : BitVec 7) : Except Reject Instr :=
  .ok (.wcol m c b a)

/-- Major 0x6D. -/
def dec6D (m : BitVec 4) (c b a : BitVec 7) : Except Reject Instr :=
  if c = 0#7 then .ok (.wdead m b a) else .error .unusedField

/-- Major 0x6E. -/
noncomputable def dec6E (m : BitVec 4) (c b a : BitVec 7) : Except Reject Instr :=
  if m = 0#4 then (if a = 0#7 then .ok (.wnew c b) else .error .unusedField)
  else if m = 1#4 then (if c = 0#7 ∧ a = 0#7 then .ok (.wdel b) else .error .unusedField)
  else if m = 2#4 then (.ok (.wadd c b a))
  else if m = 3#4 then (if c = 0#7 then .ok (.wrem b a) else .error .unusedField)
  else if m = 4#4 then (.ok (.wcoll c b a))
  else if m = 5#4 then (if c = 0#7 ∧ a = 0#7 then .ok (.wclose b) else .error .unusedField)
  else .error .reservedSub

/-- Major 0x6F. -/
noncomputable def dec6F (m : BitVec 4) (c b a : BitVec 7) : Except Reject Instr :=
  if m = 0#4 then (if c = 0#7 then .ok (.rlaunch b a) else .error .unusedField)
  else if m = 1#4 then (.ok (.rsplit c b a))
  else if m = 2#4 then (if c = 0#7 ∧ b = 0#7 ∧ a = 0#7 then .ok (.rleaf) else .error .unusedField)
  else if m = 3#4 then (if c.extractLsb' 3 4 = 0#4 ∧ b = 0#7 then .ok (.rkids (c.extractLsb' 0 3) a) else .error .unusedField)
  else if m = 4#4 then (if c = 0#7 ∧ a = 0#7 then .ok (.rput b) else .error .unusedField)
  else if m = 5#4 then (if c = 0#7 ∧ b = 0#7 then .ok (.rinfo a) else .error .unusedField)
  else .error .reservedSub

/-- Major 0x70. -/
noncomputable def dec70 (m : BitVec 4) (c b a : BitVec 7) : Except Reject Instr :=
  if m = 0#4 then (.ok (.smarch c b a))
  else .error .unusedField

/-- Major 0x71. -/
noncomputable def dec71 (m : BitVec 4) (c b a : BitVec 7) : Except Reject Instr :=
  .ok (.smnext m c b a)

/-- Major 0x72. -/
noncomputable def dec72 (m : BitVec 4) (c b a : BitVec 7) : Except Reject Instr :=
  .ok (.boxt m c b a)

/-- Major 0x73. -/
noncomputable def dec73 (m : BitVec 4) (c b a : BitVec 7) : Except Reject Instr :=
  .ok (.trit m c b a)

/-- Major 0x74. -/
noncomputable def dec74 (m : BitVec 4) (c b a : BitVec 7) : Except Reject Instr :=
  if c.extractLsb' 3 4 = 0#4 then .ok (.rcq m (c.extractLsb' 0 3) b a) else .error .unusedField

/-- Major 0x75. -/
noncomputable def dec75 (m : BitVec 4) (c b a : BitVec 7) : Except Reject Instr :=
  if c.extractLsb' 3 4 = 0#4 then .ok (.rcqt m (c.extractLsb' 0 3) b a) else .error .unusedField

/-- Major 0x76. -/
noncomputable def dec76 (m : BitVec 4) (c b a : BitVec 7) : Except Reject Instr :=
  if m = 0#4 then (if c = 0#7 ∧ b = 0#7 then .ok (.rcver a) else .error .unusedField)
  else .error .unusedField

/-- Major 0x77. -/
noncomputable def dec77 (m : BitVec 4) (c b a : BitVec 7) : Except Reject Instr :=
  .ok (.tfilt m c b a)

/-- Major 0x78. -/
noncomputable def dec78 (m : BitVec 4) (c b a : BitVec 7) : Except Reject Instr :=
  if m = 0#4 then (if b = 0#7 ∧ a = 0#7 then .ok (.trap c) else .error .unusedField)
  else if m = 1#4 then (if b = 0#7 ∧ a = 0#7 then .ok (.tret c) else .error .unusedField)
  else if m = 2#4 then (if b = 0#7 ∧ a = 0#7 then .ok (.halt c) else .error .unusedField)
  else if m = 3#4 then (if b = 0#7 then .ok (.time c a) else .error .unusedField)
  else if m = 4#4 then (if c = 0#7 ∧ b = 0#7 ∧ a.extractLsb' 3 4 = 0#4 then .ok (.preok (a.extractLsb' 0 3)) else .error .unusedField)
  else .error .reservedSub

/-- Major 0x79. -/
noncomputable def dec79 (m : BitVec 4) (c b a : BitVec 7) : Except Reject Instr :=
  if m = 0#4 then (if b = 0#7 then .ok (.csrr c a) else .error .unusedField)
  else .error .unusedField

/-- Major 0x7A. -/
noncomputable def dec7A (m : BitVec 4) (c b a : BitVec 7) : Except Reject Instr :=
  if m = 0#4 then (if a = 0#7 then .ok (.csrw c b) else .error .unusedField)
  else .error .unusedField

/-- Majors 0x00 to 0x0F. -/
def decodeGroup0 (op : BitVec 7) (m : BitVec 4) (c b a : BitVec 7) : Except Reject Instr :=
  if op = 0x00#7 then dec00 m c b a
  else if op = 0x01#7 then dec01 m c b a
  else if op = 0x02#7 then dec02 m c b a
  else if op = 0x03#7 then dec03 m c b a
  else if op = 0x04#7 then dec04 m c b a
  else if op = 0x05#7 then dec05 m c b a
  else if op = 0x06#7 then dec06 m c b a
  else if op = 0x07#7 then dec07 m c b a
  else .error .reservedMajor

/-- Majors 0x10 to 0x1F. -/
def decodeGroup1 (op : BitVec 7) (m : BitVec 4) (c b a : BitVec 7) : Except Reject Instr :=
  if op = 0x10#7 then dec10 m c b a
  else if op = 0x11#7 then dec11 m c b a
  else if op = 0x12#7 then dec12 m c b a
  else if op = 0x13#7 then dec13 m c b a
  else if op = 0x14#7 then dec14 m c b a
  else if op = 0x15#7 then dec15 m c b a
  else if op = 0x16#7 then dec16 m c b a
  else if op = 0x17#7 then dec17 m c b a
  else if op = 0x18#7 then dec18 m c b a
  else if op = 0x19#7 then dec19 m c b a
  else if op = 0x1B#7 then dec1B m c b a
  else if op = 0x1C#7 then dec1C m c b a
  else if op = 0x1D#7 then dec1D m c b a
  else if op = 0x1E#7 then dec1E m c b a
  else if op = 0x1F#7 then dec1F m c b a
  else .error .reservedMajor

/-- Majors 0x20 to 0x2F. -/
def decodeGroup2 (op : BitVec 7) (m : BitVec 4) (c b a : BitVec 7) : Except Reject Instr :=
  if op = 0x20#7 then dec20 m c b a
  else if op = 0x21#7 then dec21 m c b a
  else if op = 0x22#7 then dec22 m c b a
  else if op = 0x23#7 then dec23 m c b a
  else if op = 0x24#7 then dec24 m c b a
  else if op = 0x25#7 then dec25 m c b a
  else if op = 0x26#7 then dec26 m c b a
  else if op = 0x27#7 then dec27 m c b a
  else if op = 0x28#7 then dec28 m c b a
  else if op = 0x29#7 then dec29 m c b a
  else if op = 0x2A#7 then dec2A m c b a
  else if op = 0x2B#7 then dec2B m c b a
  else if op = 0x2C#7 then dec2C m c b a
  else if op = 0x2D#7 then dec2D m c b a
  else if op = 0x2E#7 then dec2E m c b a
  else if op = 0x2F#7 then dec2F m c b a
  else .error .reservedMajor

/-- Majors 0x30 to 0x3F. -/
def decodeGroup3 (op : BitVec 7) (m : BitVec 4) (c b a : BitVec 7) : Except Reject Instr :=
  if op = 0x30#7 then dec30 m c b a
  else if op = 0x31#7 then dec31 m c b a
  else if op = 0x32#7 then dec32 m c b a
  else if op = 0x33#7 then dec33 m c b a
  else if op = 0x34#7 then dec34 m c b a
  else if op = 0x35#7 then dec35 m c b a
  else if op = 0x36#7 then dec36 m c b a
  else if op = 0x37#7 then dec37 m c b a
  else if op = 0x38#7 then dec38 m c b a
  else if op = 0x39#7 then dec39 m c b a
  else if op = 0x3A#7 then dec3A m c b a
  else if op = 0x3B#7 then dec3B m c b a
  else if op = 0x3C#7 then dec3C m c b a
  else .error .reservedMajor

/-- Majors 0x40 to 0x4F. -/
def decodeGroup4 (op : BitVec 7) (m : BitVec 4) (c b a : BitVec 7) : Except Reject Instr :=
  if op = 0x40#7 then dec40 m c b a
  else if op = 0x41#7 then dec41 m c b a
  else if op = 0x42#7 then dec42 m c b a
  else if op = 0x48#7 then dec48 m c b a
  else if op = 0x49#7 then dec49 m c b a
  else if op = 0x4A#7 then dec4A m c b a
  else if op = 0x4B#7 then dec4B m c b a
  else if op = 0x4C#7 then dec4C m c b a
  else if op = 0x4D#7 then dec4D m c b a
  else .error .reservedMajor

/-- Majors 0x50 to 0x5F. -/
def decodeGroup5 (op : BitVec 7) (m : BitVec 4) (c b a : BitVec 7) : Except Reject Instr :=
  if op = 0x50#7 then dec50 m c b a
  else if op = 0x51#7 then dec51 m c b a
  else if op = 0x52#7 then dec52 m c b a
  else if op = 0x53#7 then dec53 m c b a
  else if op = 0x54#7 then dec54 m c b a
  else if op = 0x55#7 then dec55 m c b a
  else if op = 0x56#7 then dec56 m c b a
  else if op = 0x57#7 then dec57 m c b a
  else if op = 0x58#7 then dec58 m c b a
  else if op = 0x59#7 then dec59 m c b a
  else if op = 0x5A#7 then dec5A m c b a
  else if op = 0x5B#7 then dec5B m c b a
  else if op = 0x5C#7 then dec5C m c b a
  else .error .reservedMajor

/-- Majors 0x60 to 0x6F. -/
noncomputable def decodeGroup6 (op : BitVec 7) (m : BitVec 4) (c b a : BitVec 7) : Except Reject Instr :=
  if op = 0x60#7 then dec60 m c b a
  else if op = 0x61#7 then dec61 m c b a
  else if op = 0x62#7 then dec62 m c b a
  else if op = 0x63#7 then dec63 m c b a
  else if op = 0x64#7 then dec64 m c b a
  else if op = 0x65#7 then dec65 m c b a
  else if op = 0x68#7 then dec68 m c b a
  else if op = 0x69#7 then dec69 m c b a
  else if op = 0x6A#7 then dec6A m c b a
  else if op = 0x6B#7 then dec6B m c b a
  else if op = 0x6C#7 then dec6C m c b a
  else if op = 0x6D#7 then dec6D m c b a
  else if op = 0x6E#7 then dec6E m c b a
  else if op = 0x6F#7 then dec6F m c b a
  else .error .reservedMajor

/-- Majors 0x70 to 0x7F. -/
noncomputable def decodeGroup7 (op : BitVec 7) (m : BitVec 4) (c b a : BitVec 7) : Except Reject Instr :=
  if op = 0x70#7 then dec70 m c b a
  else if op = 0x71#7 then dec71 m c b a
  else if op = 0x72#7 then dec72 m c b a
  else if op = 0x73#7 then dec73 m c b a
  else if op = 0x74#7 then dec74 m c b a
  else if op = 0x75#7 then dec75 m c b a
  else if op = 0x76#7 then dec76 m c b a
  else if op = 0x77#7 then dec77 m c b a
  else if op = 0x78#7 then dec78 m c b a
  else if op = 0x79#7 then dec79 m c b a
  else if op = 0x7A#7 then dec7A m c b a
  else .error .reservedMajor

/-- The instruction of the fields of a word. -/
noncomputable def decodeFields (m : BitVec 4) (c b a op : BitVec 7) : Except Reject Instr :=
  if op < 0x10#7 then decodeGroup0 op m c b a
  else if op < 0x20#7 then decodeGroup1 op m c b a
  else if op < 0x30#7 then decodeGroup2 op m c b a
  else if op < 0x40#7 then decodeGroup3 op m c b a
  else if op < 0x50#7 then decodeGroup4 op m c b a
  else if op < 0x60#7 then decodeGroup5 op m c b a
  else if op < 0x70#7 then decodeGroup6 op m c b a
  else decodeGroup7 op m c b a

/-- THE DECODER: the instruction of a word, or why it is none. -/
noncomputable def decode (w : W32) : Except Reject Instr := decodeFields (fieldM w) (fieldC w) (fieldB w) (fieldA w) (fieldOp w)

/-- The four bytes of a word as the hardware stores them, the lowest address first (R20: little-endian). -/
def wordBytes (w : W32) : List Byte :=
  [w.extractLsb' 0 8, w.extractLsb' 8 8, w.extractLsb' 16 8, w.extractLsb' 24 8]

/-- The word of four stored bytes. -/
def bytesWord : List Byte → W32
  | [b0, b1, b2, b3] => b3 ++ b2 ++ b1 ++ b0
  | _ => 0

/-- The instruction the decoder reads from a word whose bits are w, as spec/opcode_table.json numbers them; every
instruction is one word, so nbits is 32. -/
noncomputable def decodeTableWord (nbits w : Nat) : Option Instr :=
  match decode (bytesWord (wordBytes (BitVec.ofNat 32 (w % 2 ^ nbits)))) with
  | .ok i => some i
  | .error _ => none

/-- The word of an instruction, from the encoding tables (R20 to R22, R41 to R49); none for a step that is no
instruction word. -/
def encode : Instr → Option W32
  | .guard n s p => some (pack 0#4 0#7 0#7 (0#1 ++ n ++ s ++ p) 0#7)
  | .imm p => some (pack (p.extractLsb' 21 4) (p.extractLsb' 14 7) (p.extractLsb' 7 7) (p.extractLsb' 0 7) 1#7)
  | .xidx x y u v q w => some (pack 0#4 0#7 (0#5 ++ x ++ y.extractLsb' 1 1) (y.extractLsb' 0 1 ++ u ++ v ++ q ++ w) 2#7)
  | .bra o => some (pack (o.extractLsb' 17 4) (o.extractLsb' 10 7) (o.extractLsb' 3 7) (o.extractLsb' 0 3 ++ 0#4) 3#7)
  | .call o k => some (pack (o.extractLsb' 17 4) (o.extractLsb' 10 7) (o.extractLsb' 3 7) (o.extractLsb' 0 3 ++ k) 4#7)
  | .loop c b n => some (pack 0#4 c b (0#5 ++ n) 5#7)
  | .br b => some (pack 0#4 0#7 b 0#7 6#7)
  | .calli b a => some (pack 1#4 0#7 b a 6#7)
  | .ret b => some (pack 2#4 0#7 b 0#7 6#7)
  | .exit => some (pack 3#4 0#7 0#7 0#7 6#7)
  | .join => some (pack 4#4 0#7 0#7 0#7 6#7)
  | .lbrk => some (pack 5#4 0#7 0#7 0#7 6#7)
  | .nop => some (pack 6#4 0#7 0#7 0#7 6#7)
  | .region => some (pack 7#4 0#7 0#7 0#7 6#7)
  | .wbase c => some (pack 8#4 c 0#7 0#7 6#7)
  | .xset c b x => some (pack 9#4 c b (0#5 ++ x) 6#7)
  | .setpart c => some (pack 10#4 c 0#7 0#7 6#7)
  | .getmask c a => some (pack 11#4 c 0#7 a 6#7)
  | .regang k => some (pack (0#3 ++ k.extractLsb' 7 1) (k.extractLsb' 0 7) 0#7 0#7 7#7)
  | .pollAnd b a => some (pack 0#4 0#7 (0#4 ++ b) (0#4 ++ a) 72#7)
  | .pollOr b a => some (pack 1#4 0#7 (0#4 ++ b) (0#4 ++ a) 72#7)
  | .pollSame b a => some (pack 2#4 0#7 (0#4 ++ b) (0#4 ++ a) 72#7)
  | .pollMask b a => some (pack 3#4 0#7 (0#4 ++ b) a 72#7)
  | .shflIdx w c b a => some (pack (0#1 ++ w ++ 0#2) c b a 73#7)
  | .shflUp w c b a => some (pack (0#1 ++ w ++ 1#2) c b a 73#7)
  | .shflDown w c b a => some (pack (0#1 ++ w ++ 2#2) c b a 73#7)
  | .shflXor w c b a => some (pack (0#1 ++ w ++ 3#2) c b a 73#7)
  | .redux k b a => some (pack k 0#7 b a 74#7)
  | .scanIncl k b a => some (pack k 0#7 b a 75#7)
  | .scanExcl k b a => some (pack k 0#7 b a 76#7)
  | .lreord k c b a => some (pack k c b a 77#7)
  | .add c b a w => some (pack 0#4 c b a (8#6 ++ w))
  | .sub c b a w => some (pack 1#4 c b a (8#6 ++ w))
  | .addc c b a w => some (pack 2#4 c b a (8#6 ++ w))
  | .subb c b a w => some (pack 3#4 c b a (8#6 ++ w))
  | .sadd s c b a w => some (pack (2#3 ++ s) c b a (8#6 ++ w))
  | .ssub s c b a w => some (pack (3#3 ++ s) c b a (8#6 ++ w))
  | .mul c b a w => some (pack 8#4 c b a (8#6 ++ w))
  | .mulhS c b a w => some (pack 9#4 c b a (8#6 ++ w))
  | .mulhZ c b a w => some (pack 10#4 c b a (8#6 ++ w))
  | .mad c b a w => some (pack 11#4 c b a (8#6 ++ w))
  | .madh s c b a w => some (pack (6#3 ++ s) c b a (8#6 ++ w))
  | .neg b a w => some (pack 14#4 0#7 b a (8#6 ++ w))
  | .abs b a w => some (pack 15#4 0#7 b a (8#6 ++ w))
  | .div w s c b a => some (pack (0#1 ++ w ++ 0#1 ++ s) c b a 18#7)
  | .rem w s c b a => some (pack (0#1 ++ w ++ 1#1 ++ s) c b a 18#7)
  | .min w s c b a => some (pack (1#1 ++ w ++ 0#1 ++ s) c b a 18#7)
  | .max w s c b a => some (pack (1#1 ++ w ++ 1#1 ++ s) c b a 18#7)
  | .and c b a => some (pack 0#4 c b a 19#7)
  | .or c b a => some (pack 1#4 c b a 19#7)
  | .xor c b a => some (pack 2#4 c b a 19#7)
  | .andn c b a => some (pack 3#4 c b a 19#7)
  | .not b a => some (pack 4#4 0#7 b a 19#7)
  | .shl c b a => some (pack 5#4 c b a 19#7)
  | .shr c b a => some (pack 6#4 c b a 19#7)
  | .sar c b a => some (pack 7#4 c b a 19#7)
  | .rol c b a => some (pack 8#4 c b a 19#7)
  | .clz b a => some (pack 9#4 0#7 b a 19#7)
  | .ctz b a => some (pack 10#4 0#7 b a 19#7)
  | .popc b a => some (pack 11#4 0#7 b a 19#7)
  | .brev b a => some (pack 12#4 0#7 b a 19#7)
  | .bfxS c b a => some (pack 13#4 c b a 19#7)
  | .bfxZ c b a => some (pack 14#4 c b a 19#7)
  | .bfi c b a => some (pack 15#4 c b a 19#7)
  | .and64 c b a => some (pack 0#4 c b a 20#7)
  | .or64 c b a => some (pack 1#4 c b a 20#7)
  | .xor64 c b a => some (pack 2#4 c b a 20#7)
  | .andn64 c b a => some (pack 3#4 c b a 20#7)
  | .not64 b a => some (pack 4#4 0#7 b a 20#7)
  | .shl64 c b a => some (pack 5#4 c b a 20#7)
  | .shr64 c b a => some (pack 6#4 c b a 20#7)
  | .sar64 c b a => some (pack 7#4 c b a 20#7)
  | .rol64 c b a => some (pack 8#4 c b a 20#7)
  | .clz64 b a => some (pack 9#4 0#7 b a 20#7)
  | .ctz64 b a => some (pack 10#4 0#7 b a 20#7)
  | .popc64 b a => some (pack 11#4 0#7 b a 20#7)
  | .brev64 b a => some (pack 12#4 0#7 b a 20#7)
  | .bfxS64 c b a => some (pack 13#4 c b a 20#7)
  | .bfxZ64 c b a => some (pack 14#4 c b a 20#7)
  | .bfi64 c b a => some (pack 15#4 c b a 20#7)
  | .leaZ64 x h c b a => some (pack (x ++ h) c b a 21#7)
  | .leaS64 x h c b a => some (pack (x ++ h) c b a 22#7)
  | .selB32 n p c b a => some (pack (n ++ p) c b a 23#7)
  | .selB64 n p c b a => some (pack (n ++ p) c b a 24#7)
  | .setp k c b w p => some (pack k c b (0#3 ++ w ++ p) 25#7)
  | .plop t c b a => some (pack t (0#4 ++ c) (0#4 ++ b) (0#4 ++ a) 27#7)
  | .movB32 b a => some (pack 0#4 0#7 b a 28#7)
  | .movB64 b a => some (pack 1#4 0#7 b a 28#7)
  | .moviB32 c a => some (pack 2#4 c 0#7 a 28#7)
  | .moviS64 c a => some (pack 3#4 c 0#7 a 28#7)
  | .moviZ64 c a => some (pack 4#4 c 0#7 a 28#7)
  | .moviHi c a => some (pack 5#4 c 0#7 a 28#7)
  | .prmb c b a => some (pack 6#4 c b a 28#7)
  | .cvt d x r s b a => some (pack d (x ++ r ++ s) b a 29#7)
  | .pack t c b a => some (pack t c b a 30#7)
  | .unpk t c b a => some (pack t c b a 31#7)
  | .qbx f b a => some (pack f 0#7 b a 32#7)
  | .addImm32 i b a => some (pack (i.extractLsb' 7 4) (i.extractLsb' 0 7) b a 33#7)
  | .addImm64 i b a => some (pack (i.extractLsb' 7 4) (i.extractLsb' 0 7) b a 34#7)
  | .andImm i b a => some (pack (i.extractLsb' 7 4) (i.extractLsb' 0 7) b a 35#7)
  | .orImm i b a => some (pack (i.extractLsb' 7 4) (i.extractLsb' 0 7) b a 36#7)
  | .xorImm i b a => some (pack (i.extractLsb' 7 4) (i.extractLsb' 0 7) b a 37#7)
  | .shlImm w c b a => some (pack 0#4 (w ++ c) b a 38#7)
  | .shrImm w c b a => some (pack 0#4 (w ++ c) b a 39#7)
  | .sarImm w c b a => some (pack 1#4 (w ++ c) b a 39#7)
  | .sAdd c b a w => some (pack 0#4 c b a (20#6 ++ w))
  | .sSub c b a w => some (pack 1#4 c b a (20#6 ++ w))
  | .sAddc c b a w => some (pack 2#4 c b a (20#6 ++ w))
  | .sSubb c b a w => some (pack 3#4 c b a (20#6 ++ w))
  | .sSadd s c b a w => some (pack (2#3 ++ s) c b a (20#6 ++ w))
  | .sSsub s c b a w => some (pack (3#3 ++ s) c b a (20#6 ++ w))
  | .sMul c b a w => some (pack 8#4 c b a (20#6 ++ w))
  | .sMulhS c b a w => some (pack 9#4 c b a (20#6 ++ w))
  | .sMulhZ c b a w => some (pack 10#4 c b a (20#6 ++ w))
  | .sMad c b a w => some (pack 11#4 c b a (20#6 ++ w))
  | .sMadh s c b a w => some (pack (6#3 ++ s) c b a (20#6 ++ w))
  | .sNeg b a w => some (pack 14#4 0#7 b a (20#6 ++ w))
  | .sAbs b a w => some (pack 15#4 0#7 b a (20#6 ++ w))
  | .sAnd c b a w => some (pack 0#4 c b a (21#6 ++ w))
  | .sOr c b a w => some (pack 1#4 c b a (21#6 ++ w))
  | .sXor c b a w => some (pack 2#4 c b a (21#6 ++ w))
  | .sAndn c b a w => some (pack 3#4 c b a (21#6 ++ w))
  | .sNot b a w => some (pack 4#4 0#7 b a (21#6 ++ w))
  | .sShl c b a w => some (pack 5#4 c b a (21#6 ++ w))
  | .sShr c b a w => some (pack 6#4 c b a (21#6 ++ w))
  | .sSar c b a w => some (pack 7#4 c b a (21#6 ++ w))
  | .sRol c b a w => some (pack 8#4 c b a (21#6 ++ w))
  | .sClz b a w => some (pack 9#4 0#7 b a (21#6 ++ w))
  | .sCtz b a w => some (pack 10#4 0#7 b a (21#6 ++ w))
  | .sPopc b a w => some (pack 11#4 0#7 b a (21#6 ++ w))
  | .sBrev b a w => some (pack 12#4 0#7 b a (21#6 ++ w))
  | .sBfxS c b a w => some (pack 13#4 c b a (21#6 ++ w))
  | .sBfxZ c b a w => some (pack 14#4 c b a (21#6 ++ w))
  | .sBfi c b a w => some (pack 15#4 c b a (21#6 ++ w))
  | .sDiv w s c b a => some (pack (0#1 ++ w ++ 0#1 ++ s) c b a 44#7)
  | .sRem w s c b a => some (pack (0#1 ++ w ++ 1#1 ++ s) c b a 44#7)
  | .sMin w s c b a => some (pack (1#1 ++ w ++ 0#1 ++ s) c b a 44#7)
  | .sMax w s c b a => some (pack (1#1 ++ w ++ 1#1 ++ s) c b a 44#7)
  | .sSetp k c b w p => some (pack k c b (0#3 ++ w ++ p) 45#7)
  | .sMov b a => some (pack 0#4 0#7 b a 46#7)
  | .sMoviS64 c a => some (pack 1#4 c 0#7 a 46#7)
  | .sMoviZ64 c a => some (pack 2#4 c 0#7 a 46#7)
  | .sMoviHi c a => some (pack 3#4 c 0#7 a 46#7)
  | .sCvtS64S32 b a => some (pack 4#4 0#7 b a 46#7)
  | .sCvtZ64Z32 b a => some (pack 5#4 0#7 b a 46#7)
  | .sAddImm i b a => some (pack (i.extractLsb' 7 4) (i.extractLsb' 0 7) b a 47#7)
  | .fadd r c b a t => some (pack (0#2 ++ r) c b a (6#4 ++ t ++ 0#1))
  | .fsub r c b a t => some (pack (1#2 ++ r) c b a (6#4 ++ t ++ 0#1))
  | .fmul r c b a t => some (pack (2#2 ++ r) c b a (6#4 ++ t ++ 0#1))
  | .fma r c b a t => some (pack (3#2 ++ r) c b a (6#4 ++ t ++ 0#1))
  | .fms r c b a t => some (pack (0#2 ++ r) c b a (6#4 ++ t ++ 1#1))
  | .fnma r c b a t => some (pack (1#2 ++ r) c b a (6#4 ++ t ++ 1#1))
  | .fmin c b a t => some (pack 8#4 c b a (6#4 ++ t ++ 1#1))
  | .fmax c b a t => some (pack 9#4 c b a (6#4 ++ t ++ 1#1))
  | .fsign c b a t => some (pack 10#4 c b a (6#4 ++ t ++ 1#1))
  | .fclass b a t => some (pack 11#4 0#7 b a (6#4 ++ t ++ 1#1))
  | .frnd r b a t => some (pack (3#2 ++ r) 0#7 b a (6#4 ++ t ++ 1#1))
  | .fsetp k c b t p => some (pack k c b (0#2 ++ t ++ p) 54#7)
  | .pfadd f r c b a => some (pack (0#2 ++ f ++ r) c b a 55#7)
  | .pfmul f r c b a => some (pack (1#2 ++ f ++ r) c b a 55#7)
  | .pfma f r c b a => some (pack (2#2 ++ f ++ r) c b a 55#7)
  | .dot4 f c b a => some (pack (3#2 ++ f) c b a 55#7)
  | .fldx t r c b a => some (pack (t ++ r) c b a 56#7)
  | .frcp l t b a => some (pack l (0#2 ++ t ++ 0#3) b a 57#7)
  | .frsq l t b a => some (pack l (0#2 ++ t ++ 1#3) b a 57#7)
  | .fsqrt l t b a => some (pack l (0#2 ++ t ++ 2#3) b a 57#7)
  | .fexp2 l t b a => some (pack l (0#2 ++ t ++ 3#3) b a 57#7)
  | .flog2 l t b a => some (pack l (0#2 ++ t ++ 4#3) b a 57#7)
  | .fsin l t b a => some (pack l (0#2 ++ t ++ 5#3) b a 57#7)
  | .fcos l t b a => some (pack l (0#2 ++ t ++ 6#3) b a 57#7)
  | .fdivF32 l c b a => some (pack l c b a 58#7)
  | .fdivF16 l c b a => some (pack l c b a 59#7)
  | .fdivBf16 l c b a => some (pack l c b a 60#7)
  | .cshape c b => some (pack 0#4 c b 0#7 64#7)
  | .czip k b a => some (pack 1#4 (0#6 ++ k) b a 64#7)
  | .cunz k x b a => some (pack 2#4 (0#3 ++ k ++ x) b a 64#7)
  | .cadd c b a p => some (pack 3#4 c b (a ++ p) 64#7)
  | .csub c b a p => some (pack 4#4 c b (a ++ p) 64#7)
  | .ccmp c b t p => some (pack 5#4 c b (0#1 ++ t ++ p) 64#7)
  | .cinbox c b p => some (pack 6#4 c b (0#4 ++ p) 64#7)
  | .clcp c b a => some (pack 7#4 c b a 64#7)
  | .ccell c b a => some (pack 8#4 c b a 64#7)
  | .cnext c b a => some (pack 0#4 c b a 65#7)
  | .cprev c b a => some (pack 1#4 c b a 65#7)
  | .csplit l c b a => some (pack l c b a 66#7)
  | .ld l c b a => some (pack l c b a 80#7)
  | .st c b a => some (pack 0#4 c b a 81#7)
  | .lds l c b a => some (pack l c b a 82#7)
  | .sts c b a => some (pack 0#4 c b a 83#7)
  | .ldk l c b a => some (pack l c b a 84#7)
  | .sld l c b a => some (pack l c b a 85#7)
  | .sst c b a => some (pack 0#4 c b a 86#7)
  | .atom l c b a => some (pack l c b a 87#7)
  | .atoms l c b a => some (pack l c b a 88#7)
  | .red c b a => some (pack 0#4 c b a 89#7)
  | .fence c => some (pack 0#4 c 0#7 0#7 90#7)
  | .fenceSc => some (pack 1#4 0#7 0#7 0#7 90#7)
  | .pref c b => some (pack 2#4 c b 0#7 90#7)
  | .clineClean c b => some (pack 3#4 c b 0#7 90#7)
  | .clineInv c b => some (pack 4#4 c b 0#7 90#7)
  | .clineFlush c b => some (pack 5#4 c b 0#7 90#7)
  | .binit c b => some (pack 0#4 c b 0#7 91#7)
  | .arrive b a => some (pack 1#4 0#7 b a 91#7)
  | .arrivex c b a => some (pack 2#4 c b a 91#7)
  | .bsync => some (pack 3#4 0#7 0#7 0#7 91#7)
  | .btest c b p => some (pack 4#4 c b (0#4 ++ p) 91#7)
  | .wait c b a => some (pack 0#4 c b a 92#7)
  | .mma c b t => some (pack 0#4 c b (0#5 ++ t) 96#7)
  | .gangset b => some (pack 0#4 0#7 b 0#7 97#7)
  | .accz t => some (pack 1#4 0#7 0#7 (0#5 ++ t) 97#7)
  | .accwr c b t => some (pack 2#4 c b (0#5 ++ t) 97#7)
  | .accepi b t => some (pack 3#4 0#7 b (0#5 ++ t) 97#7)
  | .accrd l c t a => some (pack l c (0#5 ++ t) a 98#7)
  | .accrdi l c t a => some (pack l c (0#5 ++ t) a 99#7)
  | .crstart c b a => some (pack 0#4 c b a 100#7)
  | .crcopy c b a => some (pack 1#4 c b a 100#7)
  | .crhalo b => some (pack 2#4 0#7 b 0#7 100#7)
  | .crfeed c b x k p => some (pack 3#4 c b (0#2 ++ x ++ k ++ p) 100#7)
  | .crstat b a => some (pack 4#4 0#7 b a 100#7)
  | .qput s b => some (pack 0#4 (0#6 ++ s) b 0#7 101#7)
  | .qpop w a => some (pack 1#4 (0#6 ++ w) 0#7 a 101#7)
  | .qcnt a => some (pack 2#4 0#7 0#7 a 101#7)
  | .launch b a => some (pack 0#4 0#7 b a 104#7)
  | .launchq b a => some (pack 1#4 0#7 b a 104#7)
  | .dist b a => some (pack 2#4 0#7 b a 104#7)
  | .fixup b => some (pack 3#4 0#7 b 0#7 104#7)
  | .psetp c b => some (pack 4#4 c b 0#7 104#7)
  | .pcancel => some (pack 5#4 0#7 0#7 0#7 104#7)
  | .prepeat => some (pack 6#4 0#7 0#7 0#7 104#7)
  | .psend b => some (pack 7#4 0#7 b 0#7 104#7)
  | .qpush c b a => some (pack 8#4 c b a 104#7)
  | .qtake c b a => some (pack 9#4 c b a 104#7)
  | .lbox c b => some (pack 10#4 c b 0#7 104#7)
  | .dline c b => some (pack 11#4 c b 0#7 104#7)
  | .wlook l p b a => some (pack l (0#4 ++ p) b a 105#7)
  | .wopen l c b a => some (pack l c b a 106#7)
  | .wnext l b a => some (pack l 0#7 b a 107#7)
  | .wcol l c b a => some (pack l c b a 108#7)
  | .wdead l b a => some (pack l 0#7 b a 109#7)
  | .wnew c b => some (pack 0#4 c b 0#7 110#7)
  | .wdel b => some (pack 1#4 0#7 b 0#7 110#7)
  | .wadd c b a => some (pack 2#4 c b a 110#7)
  | .wrem b a => some (pack 3#4 0#7 b a 110#7)
  | .wcoll c b a => some (pack 4#4 c b a 110#7)
  | .wclose b => some (pack 5#4 0#7 b 0#7 110#7)
  | .rlaunch b a => some (pack 0#4 0#7 b a 111#7)
  | .rsplit c b a => some (pack 1#4 c b a 111#7)
  | .rleaf => some (pack 2#4 0#7 0#7 0#7 111#7)
  | .rkids p a => some (pack 3#4 (0#4 ++ p) 0#7 a 111#7)
  | .rput b => some (pack 4#4 0#7 b 0#7 111#7)
  | .rinfo a => some (pack 5#4 0#7 0#7 a 111#7)
  | .smarch c b a => some (pack 0#4 c b a 112#7)
  | .smnext l c b a => some (pack l c b a 113#7)
  | .boxt l c b a => some (pack l c b a 114#7)
  | .trit l c b a => some (pack l c b a 115#7)
  | .rcq l s b a => some (pack l (0#4 ++ s) b a 116#7)
  | .rcqt l s b a => some (pack l (0#4 ++ s) b a 117#7)
  | .rcver a => some (pack 0#4 0#7 0#7 a 118#7)
  | .tfilt l c b a => some (pack l c b a 119#7)
  | .trap c => some (pack 0#4 c 0#7 0#7 120#7)
  | .tret c => some (pack 1#4 c 0#7 0#7 120#7)
  | .halt c => some (pack 2#4 c 0#7 0#7 120#7)
  | .time c a => some (pack 3#4 c 0#7 a 120#7)
  | .preok p => some (pack 4#4 0#7 0#7 (0#4 ++ p) 120#7)
  | .csrr c a => some (pack 0#4 c 0#7 a 121#7)
  | .csrw c b => some (pack 0#4 c b 0#7 122#7)
  | .wbWrite _ => none
  | .cshapeWrite _ => none
  | .fflagsWrite _ => none
  | .loopCounterWrite _ _ => none
  | .splextWrite _ => none
  | .tpcWrite _ => none
  | .netbindWrite _ _ _ => none
  | .devidWrite _ => none
  | .withheldWrite _ _ => none
  | .longLatencyCommit _ _ => none
  | .loopBackEdge _ _ => none
  | .registerLineFill _ _ _ => none
  | .engineByteCount _ _ _ => none
  | .waitWake _ _ => none
  | .waitTimeout _ _ => none
  | .heartbeatTick => none
  | .memoryAccessPerform _ => none
  | .pageWalk _ _ _ _ => none
  | .copyLineLand _ _ => none
  | .kStep _ => none
  | .acczApply _ => none
  | .accwrApply _ => none
  | .accepiApply _ => none
  | .courierJob _ _ => none
  | .streamWaitClear _ _ => none
  | .launchAccept _ => none
  | .prologueRun _ => none
  | .runStart _ => none
  | .workgroupResident _ => none
  | .workgroupDone _ => none
  | .launchEnd _ => none
  | .budgetChargePass => none
  | .letterboxWrite _ _ => none
  | .deadlineStampWrite _ _ _ => none
  | .deadlineGuardWrite _ _ _ => none
  | .letterboxWindowWrite _ _ => none
  | .queueEnable _ => none
  | .queueDisable _ => none
  | .queueStatusClear _ => none
  | .queueActivate _ => none
  | .queueEvict _ => none
  | .evictionTenureExpiry _ => none
  | .schedulerRestart => none
  | .packetLookahead _ => none
  | .nopPacket _ => none
  | .launchPacket _ => none
  | .parcelPacket _ => none
  | .callPacket _ => none
  | .joinPacket _ => none
  | .waitPacket _ => none
  | .waitPacketTimeout _ => none
  | .writePacket _ => none
  | .arrivePacket _ => none
  | .wcollPacket _ => none
  | .pipelinePacket _ => none
  | .deadlinePacket _ => none
  | .parcelStart _ => none
  | .parcelComplete _ => none
  | .postmasterPass => none
  | .parcelMigration _ _ _ _ => none
  | .stageManagerPass => none
  | .stageLaunchEnd _ => none
  | .deadlineStreamRaise _ => none
  | .deadlineStreamLower _ => none
  | .collection _ _ => none
  | .compactionMove _ _ _ => none
  | .recursionStart _ => none
  | .recursionLaunchEnd _ => none
  | .rayMarchSample _ _ => none
  | .trainerStep _ _ => none
  | .weightPublish _ _ => none
  | .workgroupLeave _ => none
  | .saveComplete _ => none
  | .workgroupResume _ => none
  | .define _ => none
  | .freeze _ => none
  | .thaw _ => none
  | .teardown _ => none
  | .invalidate _ _ _ => none
  | .replay _ _ => none
  | .cancel _ _ => none
  | .preempt _ _ => none
  | .read _ _ => none
  | .gangslice _ => none
  | .migrate _ _ => none
  | .checkpoint _ _ => none
  | .fencePort _ => none
  | .unfencePort _ => none
  | .attest _ _ => none
  | .gangDecisionDeadline _ => none
  | .gangStart _ => none
  | .gangQuantumEnd _ => none
  | .gangCollectorLost _ => none
  | .migrateCutover _ => none
  | .migrateForwardEnd _ => none
  | .checkpointPageCopy => none
  | .checkpointComplete => none
  | .portPartnerDetect _ => none
  | .portTrainingDone _ _ => none
  | .portLanesLost _ _ => none
  | .portReplayExhausted _ => none
  | .flitBad _ _ => none
  | .idleFlit _ _ => none
  | .readRequestFlit _ _ _ _ => none
  | .writeFlit _ _ _ _ => none
  | .atomicFlit _ _ _ _ _ _ _ => none
  | .responseFlit _ _ _ _ => none
  | .gangTokenFlit _ _ _ _ => none
  | .forwardedWriteFlit _ _ _ _ => none
  | .controlFlit _ _ => none
  | .hostApertureAccess _ _ _ => none
  | .hostRegisterWrite _ _ => none
  | .roceRequest _ _ => none
  | .powerOn => none
  | .powerCheck _ _ => none
  | .powerRemoval => none
  | .eccCorrected _ _ => none
  | .eccUncorrectable _ _ => none
  | .pluginFault _ => none
  | .pcieCompletion _ _ => none
  | .roceResponse _ _ _ => none
  | .migratePageCopy _ _ => none
  | .keyTableWrite _ _ => none
  | .accessTableWrite _ _ _ => none
  | .routeTableWrite _ _ => none
  | .hostApertureAssign _ _ => none
  | .deadlineStreamOwnerWrite _ _ => none

end Sys2Proof
end

