-- ==== Sys2Proof/Config.lean ====
section
/-! DEFINITION. What an implementation fixes or the manual leaves open: opaque constants, of which nothing can be
proved but what holds of every value (log entries 8 and 9). -/
namespace Sys2Proof

/-- A free byte: the contents of the stack area of a recursion lane, which R270 leaves open. -/
opaque Config.freeByte : Nat → Byte

/-- A free word: the registers s1 to s15 of a stream that CRSTART starts under IMM, where R31 replaces the register that c names and
no rule gives the fifteen after it. -/
opaque Config.freeWord : Nat → BitVec 64

/-- The bits of a special function where the working precision of the model does not decide the rounding
(log entry 9): function code, operand bits, and the result. -/
opaque Config.undecided : Nat → Nat → Nat

/-- The public key whose SHA-384 is held in the module's fuses (R334). -/
opaque Config.publicKey : Nat × Nat

/-- The fused minimum security version (R334). -/
opaque Config.fusedVersion : Nat

/-- The attestation key's private half, which never leaves the monitor, and the number that the monitor draws for a signature (R335). -/
opaque Config.attestKey : Nat
opaque Config.attestNonce : List Byte → Nat

/-- The compressed form of a block of a chunk, given what stands before it in the chunk, where the part finds one (R331:
the compressed bytes may differ from part to part). -/
opaque Config.zstdBlock : List Byte → List Byte → Option (List Byte)

/-- Whether an access uses a translation cached before its entry changed, or the entry as it stands (R170 allows
either until INVALIDATE). -/
opaque Config.staleTlb : Nat → Bool

/-- Whether the dirty data of a line that CLINE.inv discards had already been written back to HBM (R188: caches may
write a line back at any time). -/
opaque Config.writtenBack : Nat → Bool

/-- The number of lanes of a peer link port (R322). -/
opaque Config.portLanes : Nat

/-- CRC-8 of a flit by its header, with the CRC field 0, and its payload: the manual gives no polynomial (R321; log entry 52). -/
opaque Config.flitCrc : BitVec 64 → List Byte → Byte

/-- The SHA-384 of the boot ROM of the system die (R335). -/
opaque Config.romDigest : BitVec 384

end Sys2Proof
end

