-- ==== Sys2Proof/Machine/Table.lean ====
section
/-! DEFINITION. Reading and writing sparse tables: the one home of every memory and register file.
`get` reads with a default, `set` lists a value, `put` lists it unless it is the default (so that a table
whose unlisted keys read as the default has ONE form), `erase` drops a key. -/
namespace Sys2Proof

/-- The value at a key, `d` where the key is not listed. -/
def Table.get {α : Type} (d : α) : Table α → Nat → α
  | [], _ => d
  | (k, v) :: t, n => if k = n then v else Table.get d t n

/-- The value at a key, if listed. -/
def Table.find {α : Type} : Table α → Nat → Option α
  | [], _ => none
  | (k, v) :: t, n => if k = n then some v else Table.find t n

/-- List a value at a key, keeping the keys in rising order. -/
def Table.set {α : Type} : Table α → Nat → α → Table α
  | [], n, x => [(n, x)]
  | (k, v) :: t, n, x =>
    if k = n then (n, x) :: t
    else if n < k then (n, x) :: (k, v) :: t
    else (k, v) :: Table.set t n x

/-- Drop a key. -/
def Table.erase {α : Type} : Table α → Nat → Table α
  | [], _ => []
  | (k, v) :: t, n => if k = n then Table.erase t n else (k, v) :: Table.erase t n

/-- List a value at a key, or drop the key where the value is the default. -/
def Table.put {α : Type} [DecidableEq α] (d : α) (t : Table α) (n : Nat) (x : α) : Table α :=
  if x = d then Table.erase t n else Table.set t n x

/-- Put the values of a list at consecutive keys. -/
def Table.putAll {α : Type} [DecidableEq α] (d : α) (t : Table α) (n : Nat) : List α → Table α
  | [] => t
  | x :: xs => Table.putAll d (Table.put d t n x) (n + 1) xs

/-- The values at `k` consecutive keys. -/
def Table.getAll {α : Type} (d : α) (t : Table α) (n : Nat) : Nat → List α
  | 0 => []
  | k + 1 => Table.get d t n :: Table.getAll d t (n + 1) k

/-- The values at `k` consecutive keys from `n` on of a table with no lower key, in one pass. -/
def Table.expand {α : Type} (d : α) : Nat → Nat → Table α → List α
  | 0, _, _ => []
  | k + 1, n, [] => d :: Table.expand d k (n + 1) []
  | k + 1, n, (a, v) :: t => if a = n then v :: Table.expand d k (n + 1) t else d :: Table.expand d k (n + 1) ((a, v) :: t)

/-- The table of a list of values at consecutive keys from `n` on, in one pass. -/
def Table.compress {α : Type} [DecidableEq α] (d : α) : Nat → List α → Table α
  | _, [] => []
  | n, x :: xs => if x = d then Table.compress d (n + 1) xs else (n, x) :: Table.compress d (n + 1) xs

/-- The `k` values from key `n` on, and the table with others in their place. -/
def Table.span {α : Type} (d : α) (t : Table α) (n k : Nat) : List α :=
  Table.expand d k n (t.filter (fun x => n ≤ x.1 && x.1 < n + k))
def Table.setSpan {α : Type} [DecidableEq α] (d : α) (t : Table α) (n : Nat) (xs : List α) : Table α :=
  t.filter (fun x => x.1 < n) ++ Table.compress d n xs ++ t.filter (fun x => n + xs.length ≤ x.1)

/-- The lowest key from `n` on, below `n + k`, that is not listed. -/
def Table.freeFrom {α : Type} (t : Table α) : Nat → Nat → Option Nat
  | _, 0 => none
  | n, k + 1 => match Table.find t n with
    | none => some n
    | some _ => Table.freeFrom t (n + 1) k

/-- The keys are strictly rising from `lo` on. -/
def Table.risingFrom {α : Type} (lo : Nat) : Table α → Bool
  | [] => true
  | (k, _) :: t => decide (lo ≤ k) && Table.risingFrom (k + 1) t

/-- The canonical form of a table read with default `d`: rising keys, no entry equal to the default. -/
def Table.wf {α : Type} [DecidableEq α] (d : α) (t : Table α) : Bool :=
  Table.risingFrom 0 t && t.all (fun p => decide (p.2 ≠ d))

/-- A memory: bytes by address. An unlisted byte reads as 0 (DESIGN CHOICE, log entry 1). -/
abbrev Memory := Table Byte
def Memory.unlisted : Byte := 0

/-- The canonical form of a memory. -/
def Memory.wf (m : Memory) : Bool := Table.wf Memory.unlisted m

def Memory.read (m : Memory) (a : Nat) : Byte := Table.get Memory.unlisted m a
def Memory.write (m : Memory) (a : Nat) (b : Byte) : Memory := Table.put Memory.unlisted m a b

/-- The little-endian value of `n` consecutive bytes (R2, R3). -/
def Memory.readN (m : Memory) (a : Nat) : Nat → Nat
  | 0 => 0
  | n + 1 => (Memory.read m a).toNat + 256 * Memory.readN m (a + 1) n

/-- Store the low `n` bytes of a value, little-endian (R2). -/
def Memory.writeN (m : Memory) (a : Nat) : Nat → Nat → Memory
  | 0, _ => m
  | n + 1, v => Memory.writeN (Memory.write m a (BitVec.ofNat 8 v)) (a + 1) n (v / 256)

/-- Store the bytes of a list at consecutive addresses. -/
def Memory.writeBytes (m : Memory) (a : Nat) : List Byte → Memory
  | [] => m
  | b :: bs => Memory.writeBytes (Memory.write m a b) (a + 1) bs

/-- The `n` bytes from an address on. -/
def Memory.readBytes (m : Memory) (a : Nat) : Nat → List Byte
  | 0 => []
  | n + 1 => Memory.read m a :: Memory.readBytes m (a + 1) n

/-- The little-endian value of a list of bytes. -/
def bytesVal : List Byte → Nat
  | [] => 0
  | b :: bs => b.toNat + 256 * bytesVal bs

/-- The low `n` bytes of a value, little-endian. -/
def valBytes : Nat → Nat → List Byte
  | 0, _ => []
  | n + 1, v => BitVec.ofNat 8 v :: valBytes n (v / 256)

end Sys2Proof
end

