-- ==== Sys2Proof/Machine/State.lean ====
section
/-! DEFINITION. The state of the module as plain data: every piece of state the spec gives the machine (R14 names
the objects), and State.reset, the module right after reset. Fields marked MODEL are the model's own
(a scheduler's choices, a counter for free values) and no part of the hardware. Sparse tables are read with
the default their docstring names. -/
namespace Sys2Proof.Machine

/-- Reasons for which the machine stops: none. Every behaviour that the spec gives an instruction ends in a next state. -/
inductive Fault where
  deriving DecidableEq, Repr

/-- Reasons for which the model gives no meaning. -/
inductive Refusal where
  /-- An instruction that has no meaning yet: raised by exec's refused arms only. Safe: nothing can be proved of it. -/
  | notModelled (mnemonic : String)
  deriving DecidableEq, Repr

/-! ### Group: issue units, warps, workgroups (R122 to R146) -/

/-- GUARD coverage (R30): the predicate, the sense and how many instructions it still covers. -/
structure Cover where
  pred  : BitVec 3
  sense : Bool
  left  : Nat
  deriving DecidableEq, Repr

/-- The prefix words of the instruction being framed (R30 to R33); `first` is the address of the first of them. -/
structure Framing where
  guard : Option Cover
  xidx  : Option (Option (BitVec 2) × Option (BitVec 2) × Option (BitVec 2))
  imm   : Option (BitVec 25)
  first : Option W64
  deriving DecidableEq, Repr

def Framing.blank : Framing := { guard := .none, xidx := .none, imm := .none, first := .none }

/-- A unit parked at WAIT (R159 to R161): conditions as descriptor and operand, all-of, time-out, the tick of
its issue and the scalar that receives the result; the lines of local HBM that its words lie in, as they stood at the last evaluation;
the bits of an evaluation that has woken it, where one was made between the writes of an engine's step. -/
structure WaitRec where
  conds   : List (W64 × W64)
  allOf   : Bool
  timeout : Nat
  start   : Nat
  dst     : Nat
  lines   : List (Nat × List Byte)
  woken   : Option Nat
  deriving DecidableEq, Repr

/-- Why an issue unit does not issue. A unit whose wait is re-tested at every attempt to issue stays `ready`. -/
inductive Park where
  | ready
  | join
  | parent
  | regang (mask : BitVec 8)
  | backEdge
  | bsync
  | wait (r : WaitRec)
  | latch (tile : Nat)
  | fault (die index : Nat)
  | line (reg : Nat)
  | fenceSc (tick : Nat)
  | tileOps (seq : Nat)
  deriving DecidableEq, Repr

/-- A QPUSH that waits: for space in a queue, with its place in the order of parking, or for the commit of the entries it has
claimed and written (R251). -/
inductive PushAt where
  | parked (hdr : W64) (seq : Nat)
  | claimed (hdr : W64) (start count : Nat)
  deriving DecidableEq, Repr

/-- What an instruction that has issued and waits for its access was given of its warp at issue (R35, R38): ACT, window base,
index and scalar registers, vector registers, and the operand queue as it stood. -/
structure Issued where
  act   : Lanes
  wb    : BitVec 16
  xregs : Table (BitVec 16)
  sregs : Table W64
  vregs : Table W32
  opq   : List (List W32)
  push  : Option PushAt
  deriving DecidableEq, Repr

/-- An issue unit: a gang (table key 0 to 7, its lowest slice) or a split-table entry (key 8 + entry, R124, R127).
`root` is that of a split entry and `parent` the key of its parent; `issued` belongs to the instruction it stands at, and `olds` has
the lanes of an atomic that have been performed, with what each had read (R185).
`mid`: the last instruction may be fused with the next (R104). -/
structure IUnit where
  lanes  : Lanes
  pc     : W64
  park   : Park
  cover  : Option Cover
  frame  : Framing
  issued : Option Issued
  olds   : List (Nat × W64)
  mid    : Bool
  root   : Bool
  parent : Nat
  deriving DecidableEq, Repr

/-- An uncommitted long-latency result (R36 to R38): the unit that issued it, its remaining window, its lanes,
the vector registers with one value a lane, the scalars, the predicate with its lane values, the flags, and the
network version of an RCQ. `flags` are by lane, and `left` is 0 once the window has closed. -/
structure Pending where
  unit  : Nat
  left  : Nat
  act   : Lanes
  vec   : List (Nat × List W32)
  scl   : List (Nat × W64)
  pred  : Option (BitVec 3 × Lanes)
  flags : List (BitVec 5)
  ver   : Option W32
  deriving DecidableEq, Repr

/-- An active hardware loop (R136 to R139): counter number, first body word, end address, the lanes in it, and the
body words as the loop buffer took them. -/
structure LoopRec where
  ctr   : Nat
  start : W64
  stop  : W64
  lanes : Lanes
  words : List W32
  deriving DecidableEq, Repr

/-- The region record (R311): the recorded unit and its lane mask. -/
structure RegionRec where
  unit  : Nat
  lanes : Lanes
  deriving DecidableEq, Repr

/-- The trap frame (R307): what TRET restores. -/
structure TrapFrame where
  unit    : Nat
  /-- the GUARD coverage that follows the trapping instruction -/
  after   : Option Cover
  units   : Table IUnit
  loops   : List LoopRec
  wb      : BitVec 16
  part    : BitVec 8
  xregs   : Table (BitVec 16)
  preds   : Table Lanes
  high    : List W64
  pend    : List Pending
  region  : Option RegionRec
  deriving DecidableEq, Repr

/-- A split frame on a lane's path in the depth phase (R275): the frame, its level and child index, its children, and the
results of those whose walk is complete. -/
structure DepthEntry where
  bytes : List Byte
  level  : Nat
  child  : Nat
  kids   : List (List Byte)
  results : List W64
  deriving DecidableEq, Repr

/-- A lane's recursion frame context (R278): object, routine (0 divide, 1 base, 2 combine), arena frame index (of the
subtree root in the depth phase), the frame's bytes, level, child index, leaf mark, the children made by RSPLIT in this
divide, the RKIDS position and the children's results, the result; in the depth phase the split frames above it,
innermost first, and the frames made in the walk. -/
structure LaneFrame where
  obj     : Nat
  routine : Nat
  frame   : Nat
  bytes   : List Byte
  level   : Nat
  child   : Nat
  leaf    : Bool
  made    : List (List Byte)
  pos     : Nat
  results : List W64
  result  : W64
  depth   : Bool
  stack   : List DepthEntry
  count   : Nat
  deriving DecidableEq, Repr

/-- A warp (R23, R39, R123, R305, R307, R309). -/
structure Warp where
  /-- the workgroup's key and the warp's index in it, `wwarp` -/
  wg       : Nat
  index    : Nat
  /-- residency slot 0 to 63, %warp -/
  slot     : Nat
  /-- vector registers: key 32 * e + L, unlisted 0 -/
  vregs    : Table W32
  /-- s0 to s111, unlisted 0 -/
  sregs    : Table W64
  /-- p1 to p7 as lane masks, unlisted 0 -/
  preds    : Table Lanes
  /-- x0 to x3 and lc0 to lc2, unlisted 0 -/
  xregs    : Table (BitVec 16)
  lcs      : Table W32
  wb       : BitVec 16
  part     : BitVec 8
  cshape   : BitVec 16
  /-- %cflags by lane, unlisted 0 -/
  cflags   : Table Byte
  rgent    : W64
  rgcnt    : W32
  region   : Option RegionRec
  /-- lanes that have not executed EXIT -/
  live     : Lanes
  units    : Table IUnit
  loops    : List LoopRec
  pend     : List Pending
  /-- register lines not in the register cache (R25) -/
  evicted  : List Nat
  handler  : Bool
  tframe   : Option TrapFrame
  tcause   : Byte
  tpc      : W64
  tnext    : W64
  trgent   : W64
  trgcnt   : W32
  tmask    : W32
  tunit    : BitVec 16
  tinfo    : W64
  tregion  : Bool
  splext   : Byte
  gangList : W32
  /-- operand queue, head first: 32 words an entry (R210) -/
  opq      : List (List W32)
  /-- post sequence numbers and RCQT post sequence numbers by lane, unlisted 0 -/
  postSeq  : Table Nat
  rcqtSeq  : Table Nat
  /-- version used by the lane's last committed RCQ or RCQT, unlisted 0xFFFFFFFF (R297) -/
  rcver    : Table W32
  frames   : Table LaneFrame
  deriving DecidableEq, Repr

/-- State of a workgroup (R123). -/
inductive Phase where
  | pending | resident | leaving | switchedOut | done
  deriving DecidableEq, Repr

/-! ### Tile: engine, couriers (R189 to R212) -/

/-- A queued tile operation (R191); `seq` is its acceptance number. An ACCEPI being applied has written `row` rows on
a stream; row 128 is the count word and row 129 the barrier's count. -/
inductive TileOp where
  | mma (seq tile : Nat) (env : W32) (left : Nat)
  | accz (seq tile : Nat)
  | accwr (seq tile : Nat) (elems : List (Nat × W32))
  | accepi (seq tile : Nat) (env : W32) (dest : W64) (pitch : W32) (bias ref : W64) (row : Nat) (stream : Option Nat)
  deriving DecidableEq, Repr

/-- A warp that has arrived at a latch: its key and index, the unit, its MMA word, and its live lanes' envelope
values in ascending order of lanes. -/
structure Arrival where
  warp  : Nat
  index : Nat
  unit  : Nat
  word  : W32
  vals  : List (Nat × W32)
  deriving DecidableEq, Repr

/-- A rendezvous latch that is collecting (R196): gang list, step count and arrivals. -/
structure Latch where
  list     : W32
  steps    : Nat
  arrivals : List Arrival
  deriving DecidableEq, Repr

/-- The matrix engine as its holder's state (R190 to R196). -/
structure Engine where
  /-- elements: key 16384 * tile + 128 * i + j, unlisted +0 -/
  elems    : Table W32
  /-- step counts, count words, recorded envelopes by tile, unlisted 0 -/
  steps    : Table W32
  counts   : Table W32
  envs     : Table W32
  ops      : List TileOp
  accepted : Nat
  retired  : Nat
  /-- last accepted operation of each tile, 0 for none -/
  lastOp   : Table Nat
  fifoA    : List Byte
  fifoBW   : List Byte
  fifoBS   : List Byte
  latches  : Table Latch
  deriving DecidableEq, Repr

/-- A courier job (R202, R206 to R208). `done` bytes have moved. -/
inductive Job where
  | copy (dir : BitVec 2) (dst src : W64) (bytes : Nat) (ref : W64) (done : Nat)
  | halo (src : Nat) (soff doff spitch dpitch rowBytes rows : Nat) (ref : W64) (row : Nat)
  | feed (port conv : BitVec 2) (spad : Bool) (src : W64) (bytes done : Nat)
  | epilogue
  deriving DecidableEq, Repr

/-- State of a courier stream (R203) with its CRSTAT code. -/
inductive StreamState where
  | free | running | waiting | parked (die index : Nat) | error
  deriving DecidableEq, Repr

/-- A courier stream (R203 to R210). -/
structure Stream where
  state    : StreamState
  wg       : Nat
  /-- consumer warp -/
  warp     : Nat
  /-- the stream runs an access slice -/
  slice    : Bool
  pc       : W64
  /-- s0 to s31 and lc0 to lc2, unlisted 0 -/
  sregs    : Table W64
  lcs      : Table W32
  preds    : Table Lanes
  loops    : List LoopRec
  imm      : Option (BitVec 25)
  jobs     : List Job
  /-- bytes the job at the head has written and not yet counted on its barrier object -/
  owed     : Nat
  bytes    : W32
  sat      : W32
  deriving DecidableEq, Repr

/-! ### Sampling unit (R286 to R290) -/

/-- A ray in flight in a sampling unit (R288). -/
structure Ray where
  wg    : Nat
  desc  : W64
  words : List W64
  vals  : List W32
  t     : W32
  n     : Nat
  tag   : W32
  /-- the fault-buffer entry it is parked at: die and index -/
  held  : Option (Nat × Nat)
  deriving DecidableEq, Repr

/-- What a sampling unit holds of a sample queue: the workgroup and offset, SMARCH sequence number, size of the
batch the last SMNEXT returned. -/
structure SampleQ where
  wg    : Nat
  off   : Nat
  seq   : Nat
  batch : Nat
  deriving DecidableEq, Repr

/-- A workgroup (R122, R123, R226, R244, R305). -/
structure Workgroup where
  launch   : Nat
  asid     : Nat
  wgx      : W32
  coord    : W32 × W32 × W32
  /-- launch size it sees -/
  grid     : Nat × Nat × Nat
  phase    : Phase
  /-- core 48 * die + core number, workgroup slot, image slot -/
  core     : Nat
  slot     : Nat
  image    : Option Nat
  nwarps   : Nat
  /-- keys of its warps, by index, once it has been resident -/
  warps    : List Nat
  /-- scratchpad bytes, unlisted 0; lines whose presence bit is clear -/
  spad     : Memory
  absent   : List Nat
  /-- workgroup barrier (R158) -/
  bphase   : BitVec 16
  arrived  : Nat
  eng      : Engine
  /-- courier streams saved at a switch-out, by number -/
  streams  : Table Stream
  /-- rays and sample queues saved with it -/
  rays     : List Ray
  queues   : List SampleQ
  /-- a pre-emption has been requested and not carried out -/
  preempt  : Bool
  /-- the group image is to be written: a warp has entered handler mode (R305) -/
  due      : Bool
  /-- scalars at residency, unlisted 0 -/
  init     : Table W64
  karg     : W64
  /-- the parcel's record words, if it is a parcel -/
  parcel   : Option (List W64)
  /-- tick up to which its residency has been counted, and warp-ticks counted and not yet charged (R220) -/
  since    : Nat
  spent    : Nat
  /-- recursion routine lanes: the object, the routine and the first frame position of this workgroup -/
  routine  : Option (Nat × Nat)
  tileAddr : W64
  deriving DecidableEq, Repr

/-! ### Kernel: launches (R218 to R230) -/

/-- What a launch was made as. -/
inductive LaunchKind where
  | grid | query | parcels | routine (obj : Nat) | stage (pipe stage : Nat)
  deriving DecidableEq, Repr

/-- The access of an acceptance at which a launch is held: of its record or kernel descriptor, of an RCB, of its query. -/
inductive LaunchHold where
  | record | rcb | query
  deriving DecidableEq, Repr

/-- Progress of a launch. -/
inductive LaunchPhase where
  | submitted | prologue | accepted | running | storing | arriving | ended
  deriving DecidableEq, Repr

/-- A launch or parcel family (R218 to R230, R244, R249). -/
structure Launch where
  asid     : Nat
  seq      : Nat
  kind     : LaunchKind
  phase    : LaunchPhase
  record   : W64
  /-- order of acceptance, and the access at which the acceptance is held -/
  order    : Nat
  held     : LaunchHold
  /-- kernel descriptor address and fields (R221) -/
  desc     : W64
  entry    : W64
  alloc    : Nat
  nwarps   : Nat
  lines    : Nat
  matrix   : Bool
  cohort   : Bool
  ordered  : Bool
  scratch  : Nat
  prologue : W64
  /-- RCBs of its path that override core-time, resolved class, domain, handler -/
  rcbs     : List W64
  cls      : BitVec 2
  domain   : BitVec 16
  handler  : W64
  /-- fault domains of the context that have ended while it was submitted and its RCB was not resolved -/
  ends     : List (BitVec 16)
  /-- parameters 0 to 12 (R226), unlisted 0 -/
  params   : Table W64
  strides  : Nat × Nat × Nat
  /-- query launches: query address, world, rank, rows per workgroup, bytes per row, and the ranges of the run -/
  query    : W64
  world    : Nat
  rank     : Nat
  rows     : Nat
  rowBytes : Nat
  /-- the run's read and write masks as its acceptance read them -/
  readMask : Nat
  writeMask : Nat
  ranges   : List (W64 × Nat × Nat)
  /-- the phase of its world (256 where its query names none) to which a query run belongs: the collections requested before it was
  accepted -/
  worldPhase : Nat
  ref      : W64
  code     : Byte
  runs     : W32
  /-- the prologue asked to repeat -/
  repeats  : Bool
  /-- prologue registers, predicates, prefixes taken, GUARD coverage, and number of the word it is at (R225) -/
  pregs    : Table W64
  ppreds   : Table Lanes
  pframe   : Framing
  pcover   : Option Cover
  ppc      : Nat
  /-- workgroups of the run -/
  total    : Nat
  /-- queue of its ancestry, if any (R249) -/
  queue    : Option Nat
  /-- depth launch of a recursion object -/
  depth    : Bool
  /-- input entries claimed by a stage launch, and the reservation left for each output header -/
  claimed  : Nat
  reserved : List (W64 × Nat)
  deriving DecidableEq, Repr

/-- A core-time word that the front end charges (R220): warp-microseconds not yet subtracted, those of the subtract under way, and whether
it read 0 when it was last read. -/
structure Budget where
  owed : Nat
  sent : Nat
  out  : Bool
  deriving DecidableEq, Repr

/-! ### Queue: rings, fetcher, parcels, stages, deadlines (R233 to R253) -/

inductive QueueState where
  | disabled | idle | waiting | active | stopped
  deriving DecidableEq, Repr

/-- A packet read ahead: its address, its 8 words, the ring packet it belongs to, the called buffers open where it was
read (next address and packets left, innermost first), and how many of them end with it. -/
structure Fetched where
  addr   : W64
  words  : List W64
  ring   : Nat
  before : List (W64 × Nat)
  closes : Nat
  deriving DecidableEq, Repr

/-- The access at which a queue is held by a fault (R233, R358). -/
inductive QueueHold where
  | free | read | reread | report | own | parcel | pipe
  deriving DecidableEq, Repr

/-- A user queue (R233 to R241). -/
structure Queue where
  /-- descriptor words 0 to 7 -/
  desc    : List W64
  latch   : W64
  readPtr : W64
  status  : W64
  state   : QueueState
  /-- recency stamp and tick at which it took its slot -/
  stamp   : Nat
  since   : Nat
  /-- the 1 ms of R238 have passed -/
  tenured : Bool
  ahead   : List Fetched
  /-- next ring packet to read, and open called buffers: next address and packets left -/
  nextRing : Nat
  calls   : List (W64 × Nat)
  /-- look-ahead stopped at a JOIN -/
  barred  : Bool
  /-- tick at which the packet at the issue stage began to wait -/
  waiting : Option Nat
  /-- what the packet at the issue stage has started and waits for: a collection number or a pipeline -/
  started : Option Nat
  /-- launches and parcel families it has started -/
  launches : List Nat
  /-- the access held by a fault; report writes of the read pointer and of the status still to be made -/
  hold    : QueueHold
  owePtr  : Bool
  oweStatus : Bool
  deriving DecidableEq, Repr

/-- A parcel in a core's queue (R243, R244): its family and its record's words and address. -/
structure Parcel where
  family : Nat
  asid   : Nat
  addr   : W64
  words  : List W64
  deriving DecidableEq, Repr

/-- A deadline stream (R249). -/
structure Deadline where
  stamp  : W64
  guard  : W32
  owner  : BitVec 16
  raised : Bool
  deriving DecidableEq, Repr

/-- A run of stage queue entries taken and not yet passed by the freed head (R247): header, first entry, count, whether
it has been freed. -/
structure TakeRun where
  asid  : Nat
  hdr   : W64
  start : Nat
  count : Nat
  freed : Bool
  deriving DecidableEq, Repr

/-- A migration command the postmaster has sent (R245). -/
structure ParcelMove where
  src   : Nat
  dst   : Nat
  asid  : Nat
  count : Nat
  deriving DecidableEq, Repr

/-- A pipeline the stage queue manager serves (R248). -/
structure Pipeline where
  queue  : Nat
  asid   : Nat
  record : W64
  ended  : Bool
  deriving DecidableEq, Repr

/-! ### World (R254 to R268) -/

inductive PostKind where
  | wnew | wdel | wadd | wrem
  deriving DecidableEq, Repr

/-- A posted change (R258). -/
structure Post where
  rank    : Nat
  launch  : Nat
  index   : Nat
  seq     : Nat
  kind    : PostKind
  /-- handle, or bundle reference for WNEW; type; staging or value address -/
  target  : W64
  typ     : W32
  addr    : W64
  deriving DecidableEq, Repr

/-- The work of a world that the sorting offices have begun and whose accesses have not all succeeded. -/
inductive OfficeWork where
  | idle | collect | arrive | compact (bundle : Nat) | count
  deriving DecidableEq, Repr

/-- What the sorting offices hold of a world beside its memory tables: the contents of the outbox entries in order,
collections requested with their references, collections requested so far, bundles still to be compacted, bytes that moves have written
and that are still to be counted on the compaction barrier, arrivals still to be made, and the work in hand. -/
structure WorldState where
  posts     : List Post
  requests  : List W64
  requested : Nat
  compact   : List Nat
  moved     : Nat
  owed      : List W64
  work      : OfficeWork
  deriving DecidableEq, Repr

/-! ### Recursion (R269 to R284) -/

inductive RecPhase where
  | start | divide (l : Nat) | base (l : Nat) | depth (l : Nat) | combine (l : Nat)
  | ending (code sub : Nat) | arriving (code sub : Nat) | ended
  deriving DecidableEq, Repr

/-- A recursion object in an unfolding engine. -/
structure RecObj where
  die     : Nat
  asid    : Nat
  seq     : Nat
  desc    : W64
  words   : List W64
  phase   : RecPhase
  /-- frames made in the arena, and by walks of the depth phase that have ended -/
  arena   : Nat
  made    : Nat
  /-- first arena index of each level in order, then the index after the last level -/
  levels  : List Nat
  /-- what the last routine launch took of the kernel descriptor and its RCB path -/
  base    : Option Launch
  /-- the fault domain of its kernel's RCB has ended; domains of its context that have ended while that RCB was not resolved -/
  dead    : Bool
  ends    : List (BitVec 16)
  /-- launch now running, and the arena frames it takes -/
  launch  : Option Nat
  frames  : List Nat
  /-- queue of the ancestry -/
  queue   : Option Nat
  deriving DecidableEq, Repr

/-! ### Net store (R295 to R300) -/

/-- A net store slot (R295 to R300): descriptor address and words, the two halves of the weight buffer (BF16) with
the published one, its version, the step count, a step whose weights wait to be published, ring indices. In ordered
mode `held` has the samples of launches that have not ended (launch sequence number, index, post number, ring place)
and `carry` the ring places of the samples that follow in order. -/
structure NetSlot where
  desc    : W64
  words   : List W64
  active  : Bool
  half0   : List (BitVec 16)
  half1   : List (BitVec 16)
  version : W32
  step    : Nat
  ready   : Bool
  head    : Nat
  tail    : Nat
  carry   : List Nat
  held    : List (Nat × Nat × Nat × Nat)
  deriving DecidableEq, Repr

/-! ### Page: fault buffers, translations (R163 to R178, R358) -/

/-- Unit of a fault-buffer entry (R176) and what waits on it. -/
inductive Waiter where
  | unit (warp unit : Nat)
  | fetch (warp unit : Nat)
  | stream (core stream : Nat)
  | tileOp (wg : Nat)
  | ray (core ray : Nat)
  | office (asid world : Nat)
  | recursion (obj : Nat)
  | checkpoint
  | launch (id : Nat)
  | queue (q : Nat)
  | pipeline (p : Nat)
  | trainer (die slot : Nat)
  | waitWord (warp unit : Nat)
  | parcel (wg : Nat)
  | charge (key : Nat)
  | host
  | ether (port qp : Nat)
  | peer (port : Nat) (dev : BitVec 18) (seq : Byte)
  | other (asid : Nat)
  deriving DecidableEq, Repr

/-- A fault-buffer entry (R176). -/
structure FaultEntry where
  asid   : BitVec 16
  slot   : BitVec 6
  core   : BitVec 6
  unit   : BitVec 4
  level  : BitVec 3
  access : BitVec 2
  cause  : BitVec 3
  va     : BitVec 57
  waiters : List Waiter
  deriving DecidableEq, Repr

/-- A cached translation (R170): asid, base virtual address, size, leaf entry and its physical address. -/
structure Tlb where
  asid : Nat
  base : Nat
  size : Nat
  leaf : W64
  at_  : Nat
  deriving DecidableEq, Repr

/-- An access to a remote page that has not been performed (R319 to R325): its request number, the host's or a device's page
and the address there, the bytes of a write, the operation and operands of an atomic, who made it and which of its accesses it
is, the route it was sent on (a port, 12 for Ethernet, 16 for the host), and the answer. -/
structure Access where
  id     : Nat
  host   : Bool
  dev    : BitVec 18
  addr   : Nat
  write  : Option (List Byte)
  bytes  : Nat
  atomic : Option (BitVec 4 × W64 × W64)
  owner  : Waiter
  tag    : Nat
  via    : Option Nat
  answer : Option (List Byte)
  deriving DecidableEq, Repr

/-- What has gone out to the host or over Ethernet: a read, a write, an atomic with its code, width in bytes and operands, and
the answer to a request from there, a SEND. `req` is the request number that an answer will name. -/
inductive Wire where
  | read (req addr bytes : Nat)
  | write (req addr : Nat) (data : List Byte)
  | atomic (req addr : Nat) (op : BitVec 4) (bytes : Nat) (operand swap : W64)
  | reply (data : List Byte)
  | send (data : List Byte)
  deriving DecidableEq, Repr

/-- A flit for the partner of a port: its header, and what it carries: address, bytes, operation and operands, request number and
up to 64 bytes of data (log entry 52). -/
structure Outgoing where
  head   : Flit
  addr   : Nat
  bytes  : Nat
  atomic : Option (BitVec 4 × W64 × W64)
  req    : Nat
  data   : List Byte
  deriving DecidableEq, Repr

/-- An RDMA WRITE of the checkpoint engine to the file store (R329): request number, queue pair, remote key, address, data. -/
structure StoreWrite where
  id   : Nat
  qp   : Nat
  key  : W32
  addr : W64
  data : List Byte
  deriving DecidableEq, Repr

/-! ### Context and link (R302 to R333) -/

inductive CtxState where
  | free | defined | running | frozen
  deriving DecidableEq, Repr

/-- A context (R302, R303). -/
structure Context where
  state   : CtxState
  /-- entry words 1 to 7 as DEFINE read them -/
  root    : W64
  worlds  : W64
  pool    : W64
  slots   : Nat
  rcb     : W64
  scratch : W64
  perLane : W32
  /-- next launch sequence number -/
  nextSeq : Nat
  deriving DecidableEq, Repr

/-- State of a peer link port (R322). -/
inductive PortState where
  | down | training | up | degraded | fenced
  deriving DecidableEq, Repr

/-- A peer link port (R321, R322): state, credits, sequence numbers expected and sent, a replay asked for. -/
structure Port where
  state   : PortState
  credits : Nat
  expect  : Byte
  sent    : Byte
  replay  : Option Byte
  /-- flits handed to the partner, oldest first; flits that wait for credits; those whose credits the partner has not returned -/
  out     : List Outgoing
  queue   : List Outgoing
  flight  : List Outgoing
  deriving DecidableEq, Repr

/-- A gang slice on this member (R326, R327): context, start tick and quantum, members, this device's index, the ready
tokens the collector has recorded, the decision, the tick at which the member started while it runs, the outcome, and the
address of its record. -/
structure Slice where
  asid     : Nat
  start    : Nat
  quantum  : Nat
  members  : List (BitVec 18)
  me       : Nat
  tokens   : List Nat
  decision : Option GangToken
  running  : Option Nat
  outcome  : W64
  record   : Nat
  deriving DecidableEq, Repr

/-- A migration at its source (R328). -/
inductive MigPhase where
  | copying | cutover | forwarding | done
  deriving DecidableEq, Repr

/-- A migration: destination, the context's page frames as base and size, the 4 KiB pages copied and not written since,
and the tick of the cutover. -/
structure Migration where
  dev     : BitVec 18
  phase   : MigPhase
  frames  : List (Nat × Nat)
  copied  : List Nat
  since   : Nat
  deriving DecidableEq, Repr

/-- A page of a checkpoint's range still to copy: its number in the range, and its physical page and key id at the cut
(no key id for a physical range; no page where none was mapped), or the remote page: whether the host's, the device, the number of the
page there. -/
structure CutPage where
  number : Nat
  page   : Option Nat
  key    : Option Nat
  away   : Option (Bool × BitVec 18 × Nat)
  deriving DecidableEq, Repr

/-- The checkpoint engine's work (R329 to R333): descriptor fields, pages still to copy, contents of the range as copied
so far, frames written as chunk, slot offset and length, the offset of the next frame, the barrier reference, how far the slot
is (0 the magic is being zeroed, 1 frames, 2 entries, 3 header), the writes not yet acknowledged, and the bytes of acknowledged ones
that the barrier object has not been told of (R150). -/
structure Checkpoint where
  asid    : Nat
  phys    : Bool
  base    : Nat
  bytes   : Nat
  width   : Nat
  qp      : Nat
  slotBase : W64
  key     : W32
  number  : W64
  pages   : List CutPage
  copied  : Memory
  frames  : List (Nat × Nat × Nat)
  next    : Nat
  ref     : W64
  stage   : Nat
  unacked : List Nat
  owed    : Nat
  failed  : Bool
  deriving DecidableEq, Repr

inductive Power where
  | off | boot | run | throttled | recovery
  deriving DecidableEq, Repr

/-- A core's own state (R10, R59, R203, R244, R288). -/
structure Core where
  fflags  : BitVec 5
  streams : Table Stream
  parcels : List Parcel
  rays    : Table Ray
  queues  : List SampleQ
  deriving DecidableEq, Repr

/-! ### Outside (R233, R302, R316, R319, R321, R325, R333 to R341) -/

/-- A plug-in that is loaded (R336): its region of control complex memory, and its tenant's contexts. -/
structure Plugin where
  base     : Nat
  size     : Nat
  contexts : List Nat
  deriving DecidableEq, Repr

/-- Who reaches the device through the physical map of the system die (R336, R338): the layers of the control complex's
cores, plug-ins by number, and the application cores. -/
inductive Actor where
  | monitor | scheduler | plugin (n : Nat) | app
  deriving DecidableEq, Repr

/-- A RISC-V core of the system die (R5): 0 to 3 the control complex's RV64 cores, 4 to 19 the RV64GCV application cores. The layer it runs
(of an application core, always `app`), its pc, x1 to x31, f0 to f31, and the bytes of v0 to v31; unlisted 0. -/
structure RvCore where
  layer : Actor
  pc    : W64
  x     : Table W64
  f     : Table W64
  v     : Table (List Byte)
  deriving DecidableEq, Repr

/-- What a step of a RISC-V core accesses: nothing, a load of up to 8 bytes through the map into a register, a store. -/
inductive RvAccess where
  | none
  | load (addr bytes rd : Nat)
  | store (addr : Nat) (data : List Byte)
  deriving DecidableEq, Repr

/-- What the management port can read, whatever state the firmware is in (R316). -/
inductive PortView where
  | context (asid : Nat)
  | fault (die index : Nat)
  | queue (q : Nat)
  | latch (q : Nat)
  | register (die n : Nat)
  | key (slot : Nat)
  deriving DecidableEq, Repr

/-- What reaches the device from outside beside the rows of the opcode table: entries of the context and queue tables that
the scheduler writes; a plug-in that is loaded with its region, sets its tenant's policy, or accesses memory; the OS's
extension of M_3; accesses through the physical map; what the management port reads, and a command record that no row
stands for; the host's reads of BAR 0 and BAR 2 and its AtomicOps; the binding of a device's connection; a partner's
request for a replay; a control flit that tells of a refused request; an uncorrectable error met by an access of an engine; a write to
the file store that fails; a core's failed self-test; the end of a scheduler restart (R239); a step of a RISC-V core. -/
inductive Outside where
  | contextEntry (asid : Nat) (words : List W64)
  | queueEntry (q : Nat) (words : List W64)
  | pluginLoad (n base size : Nat) (contexts : List Nat) (image : List Byte)
  | pluginPolicy (n asid : Nat) (policy : List W64)
  | pluginAccess (n addr bytes : Nat) (write : Option (List Byte))
  | osExtend (digest : BitVec 384)
  | mapRead (who : Actor) (addr bytes : Nat)
  | mapWrite (who : Actor) (addr : Nat) (data : List Byte)
  | portRead (v : PortView)
  | record (words : List W64)
  | barRead (bar offset bytes : Nat)
  | hostAtomic (offset : Nat) (op : BitVec 4) (wide : Bool) (operand swap : W64)
  | bind (dev : BitVec 18) (port qp : Nat)
  | replayAsked (port : Nat) (seq : Byte)
  | refused (port : Nat) (flit : Flit) (req : Nat)
  | eccMet (owner : Waiter)
  | storeFailed (id : Nat)
  | selfTestFailed (core : Nat)
  | schedulerUp
  | rvStep (core : Nat) (next : RvCore) (access : RvAccess)
  deriving DecidableEq, Repr

/-- MODEL. Which agent moves next: an engine's or outside event, the issue of one instruction by a unit, or one lane of
the atomic at which a unit stands (R185). -/
inductive Choice where
  | event (ticks : Nat) (i : Instr)
  | outside (ticks : Nat) (e : Outside)
  | issue (warp unit : Nat)
  | lane (warp unit : Nat)
  deriving DecidableEq, Repr

/-- The module. -/
structure State where
  /-- local HBM by physical address, and the key each 64-byte block was last written under, unlisted 0 -/
  mem       : Memory
  keyOf     : Table (BitVec 512)
  /-- 64-byte blocks whose data in L2 is newer than in HBM: the bytes HBM still holds, and their key (R188) -/
  dirty     : Table (List Byte × BitVec 512)
  /-- the 512 key slots (R7); a slot that is not listed holds no key -/
  keys      : Table (BitVec 512)
  /-- access tables: key 2^20 * target + master, bit 0 read and bit 1 write denied, unlisted 0 (R178); the key id that
  a port's entry names for a requester, unlisted 0 (R177) -/
  access    : Table (BitVec 2)
  portKeys  : Table Nat
  tlb       : List Tlb
  /-- fault buffers: key 1024 * die + index -/
  faults    : Table FaultEntry
  /-- reference ticks since reset; the heartbeat is a 64th of it (R9) -/
  tick      : Nat
  /-- context table by ASID [11:0]: entry words, and the contexts themselves -/
  ctxTable  : Table (List W64)
  ctxs      : Table Context
  wgs       : Table Workgroup
  warps     : Table Warp
  cores     : Table Core
  launches  : Table Launch
  /-- core-time words: key 2^64 * asid + RCB address -/
  budgets   : Table Budget
  queues    : Table Queue
  /-- deadline streams; pipelines; stage queue runs taken; migration commands sent -/
  deadlines : Table Deadline
  pipes     : Table Pipeline
  takes     : List TakeRun
  moves     : List ParcelMove
  /-- worlds: key 256 * asid + world -/
  worlds    : Table WorldState
  objs      : Table RecObj
  /-- net store slots: key 8 * die + slot -/
  nets      : Table NetSlot
  /-- descriptor addresses written to %netbind whose weights have not been read yet, by the same key -/
  binds     : Table W64
  /-- accesses not yet performed, oldest first -/
  pending   : List Access
  /-- of the stores and REDs to peers whose credits have come back, the last 256: port, request number and owner, which a refusal may
  name (R321, R328) -/
  posts     : List (Nat × Nat × Waiter)
  ports     : Table Port
  /-- route table, unlisted 15 (unreachable) -/
  routes    : Table (BitVec 4)
  devid     : BitVec 18
  /-- host aperture: ASID and base (R319); what has gone out to the host, oldest first -/
  aperture  : Option (Nat × W64)
  hostOut   : List Wire
  /-- Ethernet requests and answers sent with their port and queue pair, oldest first; the port and queue pair of the
  connection that is bound to a device (R325) -/
  etherOut  : List (Nat × Nat × Wire)
  conns     : Table (Nat × Nat)
  /-- gang slices by id; ready tokens that came for a slice before its GANGSLICE, and the decision that did, with its tick (R327) -/
  slices    : Table Slice
  early     : Table (List Nat)
  told      : Table (GangToken × Nat)
  migrations : Table Migration
  ckpt      : Option Checkpoint
  /-- checkpoint output to the file store, oldest first -/
  store     : List StoreWrite
  /-- commands issued and not complete, oldest first: code, operands, and the status of one that has acted and waits for those
  before it; the records of those that are complete, with their completion words (R316) -/
  commands  : List (Nat × List W64 × Option Nat)
  completions : List (List W64)
  /-- control complex memory that commands name (slice records, member lists) -/
  ctlMem    : Memory
  flash     : Memory
  power     : Power
  bootstat  : Byte
  /-- measurement registers M_0 to M_3 (R335), unlisted 0 -/
  meas      : Table (BitVec 384)
  eccfix    : W64
  eccbad    : W64
  withheld  : Table W64
  watts     : BitVec 16
  throttled : Bool
  /-- the averaged power has passed 2,150 W and not yet fallen below 2,100 W (R340) -/
  overPower : Bool
  temp      : Byte
  /-- corrections of the last second: array location and tick (R341) -/
  eccHits   : List (Nat × Nat)
  /-- plug-ins loaded with their regions, and those stopped; the policy last set for a context, by ASID (R336); the scheduler is
  restarting (R239); what accesses through the physical map and the management port have read, oldest first -/
  plugins   : Table Plugin
  stopped   : List Nat
  policies  : Table (List W64)
  restarting : Bool
  mapOut    : List (List Byte)
  /-- the RISC-V cores of the system die (R5) -/
  rvs       : Table RvCore
  /-- the next key for a workgroup, warp, launch, object, pipeline or remote access -/
  nextId    : Nat
  /-- MODEL. The warp and unit that issue next, the instruction word fetched, the turns of units with their ticks, latest
  first, the units that have waited at their turns since something last moved (R132, R249), whether one lane alone of an atomic
  is performed (R185), what moves next, and the counter that free values are drawn with. -/
  cur       : Nat
  unit      : Nat
  ir        : W32
  order     : List (Nat × Nat × Nat)
  stalled   : List (Nat × Nat)
  byLane    : Bool
  agenda    : List Choice
  freeCount : Nat
  deriving DecidableEq, Repr

/-- The heartbeat count (R9). -/
def State.hbeat (s : State) : Nat := s.tick / 64

/-! ### Records as they stand where nothing is listed -/

def IUnit.blank : IUnit :=
  { lanes := 0, pc := 0, park := .ready, cover := .none, frame := Framing.blank, issued := .none, olds := [], mid := false, root := true, parent := 0 }

/-- A warp as R122, R23 and R39 give it at residency, before its scalars are set; no lane is live in it. -/
def Warp.blank : Warp :=
  { wg := 0, index := 0, slot := 0, vregs := [], sregs := [], preds := [], xregs := [], lcs := [], wb := 0, part := 32,
    cshape := 0, cflags := [], rgent := 0, rgcnt := 0, region := .none, live := 0, units := [], loops := [], pend := [],
    evicted := [], handler := false, tframe := .none, tcause := 0, tpc := 0, tnext := 0, trgent := 0, trgcnt := 0,
    tmask := 0, tunit := 0, tinfo := 0, tregion := false, splext := 0, gangList := 0, opq := [], postSeq := [],
    rcqtSeq := [], rcver := [], frames := [] }

def Engine.blank : Engine :=
  { elems := [], steps := [], counts := [], envs := [], ops := [], accepted := 0, retired := 0, lastOp := [],
    fifoA := [], fifoBW := [], fifoBS := [], latches := [] }

def Stream.blank : Stream :=
  { state := .free, wg := 0, warp := 0, slice := false, pc := 0, sregs := [], lcs := [], preds := [], loops := [], imm := .none,
    jobs := [], owed := 0, bytes := 0, sat := 0 }

def Workgroup.blank : Workgroup :=
  { launch := 0, asid := 0, wgx := 0, coord := (0, 0, 0), grid := (1, 1, 1), phase := .done, core := 0, slot := 0, image := .none,
    nwarps := 1, warps := [], spad := [], absent := [], bphase := 0, arrived := 0, eng := Engine.blank, streams := [], rays := [], queues := [],
    preempt := false, due := false, init := [], karg := 0, parcel := .none, since := 0, spent := 0, routine := .none, tileAddr := 0 }

def Core.blank : Core := { fflags := 0, streams := [], parcels := [], rays := [], queues := [] }

def Launch.blank : Launch :=
  { asid := 0, seq := 0, kind := .grid, phase := .ended, record := 0, order := 0, held := .record, desc := 0, entry := 0, alloc := 16, nwarps := 1, lines := 0,
    matrix := false, cohort := false, ordered := false, scratch := 0, prologue := 0, rcbs := [], cls := 2, domain := 0,
    handler := 0, ends := [], params := [], strides := (0, 0, 0), query := 0, world := 0, rank := 0, rows := 0, rowBytes := 0, readMask := 0, writeMask := 0,
    ranges := [], worldPhase := 0, ref := 0, code := 0, runs := 0, repeats := false, pregs := [], ppreds := [], pframe := Framing.blank, pcover := .none,
    ppc := 0, total := 0, queue := .none, depth := false, claimed := 0, reserved := [] }

def Queue.blank : Queue :=
  { desc := [], latch := 0, readPtr := 0, status := 0, state := .disabled, stamp := 0, since := 0, tenured := false,
    ahead := [], nextRing := 0, calls := [], barred := false, waiting := .none, started := .none, launches := [], hold := .free,
    owePtr := false, oweStatus := false }

def Deadline.blank : Deadline := { stamp := 0, guard := 0, owner := 0, raised := false }

def WorldState.blank : WorldState := { posts := [], requests := [], requested := 0, compact := [], moved := 0, owed := [], work := .idle }

def Context.blank : Context :=
  { state := .free, root := 0, worlds := 0, pool := 0, slots := 0, rcb := 0, scratch := 0, perLane := 0, nextSeq := 1 }

def Port.blank : Port := { state := .down, credits := 0, expect := 0, sent := 0, replay := .none, out := [], queue := [], flight := [] }

def NetSlot.blank : NetSlot :=
  { desc := 0, words := [], active := false, half0 := [], half1 := [], version := 0, step := 0, ready := false,
    head := 0, tail := 0, carry := [], held := [] }

/-- The module right after reset (R9, R39, R309, R339): every count 0, nothing defined, nothing resident, memory with
nothing listed. The module is in the Run state: the boot chain (R334) is the step POWER_ON. Values the spec does not
state are named in log entries 1 to 6. -/
def State.reset : State :=
  { mem := [], keyOf := [], dirty := [], keys := [], access := [], portKeys := [], tlb := [], faults := [], tick := 0, ctxTable := [], ctxs := [],
    wgs := [], warps := [], cores := [], launches := [], budgets := [], queues := [], deadlines := [], pipes := [], takes := [], moves := [],
    worlds := [],
    objs := [], nets := [], binds := [], pending := [], posts := [], ports := [], routes := [], devid := 0, aperture := none, hostOut := [],
    etherOut := [], conns := [], slices := [], early := [], told := [], migrations := [], ckpt := none, store := [], commands := [], completions := [], ctlMem := [],
    flash := [], power := .run, bootstat := 0, meas := [], eccfix := 0, eccbad := 0, withheld := [], watts := 0,
    throttled := false, overPower := false, temp := 0, eccHits := [], plugins := [], stopped := [], policies := [], restarting := false, mapOut := [], rvs := [],
    nextId := 1, cur := 0, unit := 0, ir := 0,
    order := [], stalled := [], byLane := false, agenda := [], freeCount := 0 }

end Sys2Proof.Machine
end

