-- ==== Sys2Proof/Machine/Ops.lean ====
section
/-! DEFINITION. Named operations on the state: the current warp, unit, workgroup and core; lane sets; commits of
long-latency results; uncontained errors; taking a precise trap and returning from it (R307, R312). -/
namespace Sys2Proof.Machine

/-! ### The current objects -/

def State.warpAt (s : State) (k : Nat) : Warp := Table.get Warp.blank s.warps k
def State.setWarp (s : State) (k : Nat) (w : Warp) : State := { s with warps := Table.set s.warps k w }
def State.wgAt (s : State) (k : Nat) : Workgroup := Table.get Workgroup.blank s.wgs k
def State.setWg (s : State) (k : Nat) (g : Workgroup) : State := { s with wgs := Table.set s.wgs k g }
def State.coreAt (s : State) (k : Nat) : Core := Table.get Core.blank s.cores k
def State.setCoreAt (s : State) (k : Nat) (c : Core) : State := { s with cores := Table.set s.cores k c }
def State.launchAt (s : State) (k : Nat) : Launch := Table.get Launch.blank s.launches k
def State.setLaunch (s : State) (k : Nat) (l : Launch) : State := { s with launches := Table.set s.launches k l }
def State.ctxAt (s : State) (k : Nat) : Context := Table.get Context.blank s.ctxs k
def State.setCtx (s : State) (k : Nat) (c : Context) : State := { s with ctxs := Table.set s.ctxs k c }
def State.queueAt (s : State) (k : Nat) : Queue := Table.get Queue.blank s.queues k
def State.setQueue (s : State) (k : Nat) (q : Queue) : State := { s with queues := Table.set s.queues k q }
def State.deadlineAt (s : State) (k : Nat) : Deadline := Table.get Deadline.blank s.deadlines k
def State.setDeadline (s : State) (k : Nat) (d : Deadline) : State := { s with deadlines := Table.set s.deadlines k d }
def State.worldAt (s : State) (asid w : Nat) : WorldState := Table.get WorldState.blank s.worlds (256 * asid + w)
def State.setWorld (s : State) (asid w : Nat) (x : WorldState) : State :=
  { s with worlds := Table.set s.worlds (256 * asid + w) x }
def State.portAt (s : State) (k : Nat) : Port := Table.get Port.blank s.ports k
def State.setPort (s : State) (k : Nat) (p : Port) : State := { s with ports := Table.set s.ports k p }
def State.netAt (s : State) (die slot : Nat) : NetSlot := Table.get NetSlot.blank s.nets (8 * die + slot)
def State.setNet (s : State) (die slot : Nat) (n : NetSlot) : State :=
  { s with nets := Table.set s.nets (8 * die + slot) n }

/-- The current warp, its issuing unit, its workgroup, core, launch and context. -/
def State.w (s : State) : Warp := s.warpAt s.cur
def State.setW (s : State) (w : Warp) : State := s.setWarp s.cur w
def State.u (s : State) : IUnit := Table.get IUnit.blank s.w.units s.unit
def State.setU (s : State) (u : IUnit) : State := s.setW { s.w with units := Table.set s.w.units s.unit u }
def State.g (s : State) : Workgroup := s.wgAt s.w.wg
def State.setG (s : State) (g : Workgroup) : State := s.setWg s.w.wg g
def State.core (s : State) : Core := s.coreAt s.g.core
def State.setCore (s : State) (c : Core) : State := s.setCoreAt s.g.core c
def State.launch (s : State) : Launch := s.launchAt s.g.launch
def State.ctx (s : State) : Context := s.ctxAt s.g.asid

/-- The die of a core (R10). -/
def dieOf (core : Nat) : Nat := core / 48

/-- The next key for a new object. -/
def State.fresh (s : State) : State := { s with nextId := s.nextId + 1 }

/-! ### Lane sets -/

/-- The lanes as numbers in ascending order. -/
def lanes32 : List Nat := List.range 32

/-- Lane L is in the set. -/
def Lanes.has (m : Lanes) (L : Nat) : Bool := m.getLsbD L

/-- The lanes of a set in ascending order. -/
def Lanes.list (m : Lanes) : List Nat := lanes32.filter (fun L => m.getLsbD L)

/-- The set of the lanes below 32 for which a test holds. -/
def Lanes.of (f : Nat → Bool) : Lanes := (lanes32.filter f).foldl (fun m L => m ||| (1#32 <<< L)) 0#32

/-- The lowest lane of a set, 0 for the empty set. -/
def Lanes.lowest (m : Lanes) : Nat := (Lanes.list m).headD 0

/-- The number of lanes of a set. -/
def Lanes.count (m : Lanes) : Nat := (Lanes.list m).length

/-- The four lanes of a slice (R2). -/
def sliceLanes (sl : Nat) : Lanes := (0xF#32) <<< (4 * sl)

/-- The slices that have a lane in the set, as a slice mask. -/
def sliceMask (m : Lanes) : BitVec 8 :=
  ((List.range 8).filter (fun i => decide (m &&& sliceLanes i ≠ 0))).foldl (fun x i => x ||| (1#8 <<< i)) 0#8

/-- All lanes of the slices of a slice mask. -/
def lanesOfSlices (m : BitVec 8) : Lanes := Lanes.of (fun L => m.getLsbD (L / 4))

/-- The union of the lanes of the slices that have a lane in the set. -/
def lowestSlice (m : Lanes) : Nat := Lanes.lowest m / 4

/-- Choose lane by lane: the new set inside `act`, the old one outside (R3). -/
def Lanes.merge (act old new : Lanes) : Lanes := (new &&& act) ||| (old &&& ~~~act)

/-! ### Predicates and ACT (R29, R30) -/

/-- The lanes in which predicate p holds; p0 holds in every lane (R29). -/
def Warp.pred (w : Warp) (p : Nat) : Lanes := if p = 0 then BitVec.allOnes 32 else Table.get 0 w.preds p

/-- Write predicate p in the lanes of `act`; a write to p0 has no effect (R29). -/
def Warp.setPred (w : Warp) (act : Lanes) (p : Nat) (m : Lanes) : Warp :=
  if p = 0 then w else { w with preds := Table.put 0 w.preds p (Lanes.merge act (Table.get 0 w.preds p) m) }

/-- The GUARD in force for the instruction being issued. -/
def IUnit.inForce (u : IUnit) : Option Cover := u.frame.guard.orElse (fun _ => u.cover)

/-- The lanes of a unit narrowed by its GUARD (R30). -/
def Warp.actOf (w : Warp) (u : IUnit) : Lanes :=
  match u.inForce with
  | none => u.lanes
  | some c => u.lanes &&& (if c.sense then ~~~ w.pred c.pred.toNat else w.pred c.pred.toNat)

/-- ACT of the instruction being issued (R3). -/
def State.act (s : State) : Lanes :=
  match s.u.issued with
  | some p => p.act
  | none => s.w.actOf s.u

/-- The warp as the instruction being issued is given it: one that waits for its access keeps what it was given (R35, R38). -/
def State.given (s : State) : Warp :=
  match s.u.issued with
  | some p => { s.w with wb := p.wb, xregs := p.xregs, sregs := p.sregs, vregs := p.vregs, opq := p.opq }
  | none => s.w

/-! ### Registers -/

/-- Lane L of effective vector register e (R25). -/
def Warp.vreg (w : Warp) (e L : Nat) : W32 := Table.get 0 w.vregs (32 * e + L)

/-- Write effective register e in the lanes of a list, each lane its value. -/
def writeLanes (t : Table W32) (e : Nat) (f : Nat → W32) : List Nat → Table W32
  | [] => t
  | L :: Ls => writeLanes (Table.put 0 t (32 * e + L) (f L)) e f Ls

/-- Write effective register e in the lanes of `act`. -/
def Warp.setVreg (w : Warp) (act : Lanes) (e : Nat) (f : Nat → W32) : Warp :=
  { w with vregs := writeLanes w.vregs e f (Lanes.list act) }

/-- Write the pair e, e + 1 in the lanes of `act`; e is the low half (R23). -/
def Warp.setPair (w : Warp) (act : Lanes) (e : Nat) (f : Nat → W64) : Warp :=
  (w.setVreg act e (fun L => (f L).setWidth 32)).setVreg act (e + 1) (fun L => ((f L) >>> 32).setWidth 32)

/-- The pair e, e + 1 of lane L as 64 bits. -/
def Warp.pair (w : Warp) (e L : Nat) : W64 := w.vreg (e + 1) L ++ w.vreg e L

/-- Scalar register n. -/
def Warp.sreg (w : Warp) (n : Nat) : W64 := Table.get 0 w.sregs n
def Warp.setSreg (w : Warp) (n : Nat) (v : W64) : Warp := { w with sregs := Table.put 0 w.sregs n v }

def State.setSreg (s : State) (n : Nat) (v : W64) : State := s.setW (s.w.setSreg n v)

/-- OR flags into %fflags of the current core (R59). -/
def State.raise (s : State) (f : BitVec 5) : State :=
  if f = 0 then s else s.setCore { s.core with fflags := s.core.fflags ||| f }

/-! ### Long-latency results (R36 to R38) -/

/-- Write the values of a result's vector registers in its lanes. -/
def writeResult (w : Warp) (act : Lanes) : List (Nat × List W32) → Warp
  | [] => w
  | (e, vs) :: rest => writeResult (w.setVreg act e (fun L => vs.getD L 0)) act rest

def writeScalars (w : Warp) : List (Nat × W64) → Warp
  | [] => w
  | (n, v) :: rest => writeScalars (w.setSreg n v) rest

/-- Record the network version in the lanes of `act` (R297). -/
def writeVersions (t : Table W32) (v : W32) : List Nat → Table W32
  | [] => t
  | L :: Ls => writeVersions (Table.put 0xFFFFFFFF#32 t L v) v Ls

/-- Commit one result to all its destinations (R36); lanes that have ended are left out (R135). -/
def Warp.commit (w : Warp) (p : Pending) : Warp :=
  let act := p.act &&& w.live
  let w1 := writeScalars (writeResult w act p.vec) p.scl
  let w2 := match p.pred with
    | none => w1
    | some (n, m) => w1.setPred act n.toNat m
  match p.ver with
  | none => w2
  | some v => { w2 with rcver := writeVersions w2.rcver v (Lanes.list act) }

/-- The flags a result raises: those of its lanes that have not ended (R59, R135). -/
def Pending.raised (p : Pending) (live : Lanes) : BitVec 5 :=
  (Lanes.list (p.act &&& live)).foldl (fun x L => x ||| p.flags.getD L 0) 0

/-- Commit a list of results of warp k in issue order, flags included (R36, R59). -/
def State.commitAll (s : State) (k : Nat) : List Pending → State
  | [] => s
  | p :: ps =>
    let w := s.warpAt k
    let s1 := s.setWarp k (w.commit p)
    let c := (s.wgAt w.wg).core
    State.commitAll (s1.setCoreAt c { s1.coreAt c with fflags := (s1.coreAt c).fflags ||| p.raised w.live }) k ps

/-- Two results share a destination. -/
def Pending.meets (p q : Pending) : Bool :=
  p.vec.any (fun x => q.vec.any (fun y => decide (x.1 = y.1))) || p.scl.any (fun x => q.scl.any (fun y => decide (x.1 = y.1))) ||
  (match p.pred, q.pred with
   | some (a, _), some (b, _) => decide (a = b)
   | _, _ => false)

/-- The unit's results may commit now: none of them shares a destination with an earlier result of another unit (R36). -/
def Warp.mayClose (w : Warp) (unit : Nat) : Bool :=
  (List.range w.pend.length).all (fun i => match w.pend[i]? with
    | some p => decide (p.unit ≠ unit) || !(w.pend.take i).any (fun q => decide (q.unit ≠ unit) && p.meets q)
    | none => true)

/-- Uncommitted results of a warp, those in its trap frame first (R37, R307). -/
def Warp.uncommitted (w : Warp) : List Pending :=
  (match w.tframe with
    | some f => f.pend
    | none => []) ++ w.pend

/-- The windows of a unit are closed (R35). -/
def Warp.endWindows (w : Warp) (unit : Nat) : Warp :=
  { w with pend := w.pend.map (fun p => if p.unit = unit then { p with left := 0 } else p) }

/-- End every window of the issuing unit and commit its results, in issue order (R35, R36); where an earlier result of
another unit comes first, they stay, with their windows closed. -/
def State.closeWindows (s : State) : State :=
  if s.w.mayClose s.unit then
    let mine := s.w.pend.filter (fun p => p.unit = s.unit)
    let rest := s.w.pend.filter (fun p => p.unit ≠ s.unit)
    (s.setW { s.w with pend := rest }).commitAll s.cur mine
  else s.setW (s.w.endWindows s.unit)

/-- One instruction of the unit has issued: its open windows shrink by one (R35). -/
def Warp.shrink (w : Warp) (unit : Nat) : Warp :=
  { w with pend := w.pend.map (fun p => if p.unit = unit then { p with left := p.left - 1 } else p) }

/-- The first result of the unit whose window has closed. -/
def closedIndex (unit : Nat) : List Pending → Nat → Option Nat
  | [], _ => none
  | p :: ps, i => if p.unit = unit ∧ p.left = 0 then some i else closedIndex unit ps (i + 1)

/-! ### Retiring an instruction -/

/-- A word that stands first, or in the middle, of some fused group of R105: FMUL or FADD in a type, PFMUL, FSETP, SETP, SHL,
CVT. Where one has issued, pre-emption waits for the next instruction, unless the unit waits before it (R104, R314). -/
def opensGroup (w : W32) : Bool :=
  let major := w.toNat % 128
  let m := w.toNat / 2 ^ 28
  ([0x30, 0x32, 0x34].contains major && (m / 4 == 0 || m / 4 == 2)) || (major == 0x37 && m / 4 == 1) ||
  [0x36, 0x19, 0x2D, 0x1D, 0x26].contains major || ([0x13, 0x14, 0x2A, 0x2B].contains major && m == 5)

/-- GUARD coverage after one covered instruction (R30). -/
def coverAfter : Option Cover → Option Cover
  | none => none
  | some c => if c.left ≤ 1 then none else some { c with left := c.left - 1 }

/-- The innermost of a list of active loops that holds a lane of the set. -/
def innermost (ls : List LoopRec) (m : Lanes) : Option LoopRec := ls.reverse.find? (fun l => l.lanes &&& m ≠ 0)

/-- The address is the end address of an active loop that holds a lane of the set. -/
def endsLoop (ls : List LoopRec) (m : Lanes) (pc : W64) : Bool := ls.any (fun l => l.lanes &&& m ≠ 0 && decide (l.stop = pc))

/-- What a unit that has gone on to an address does there: it waits at the back-edge of a loop that ends there (R137). -/
def restAt (ls : List LoopRec) (m : Lanes) (pc : W64) : Park := if endsLoop ls m pc then .backEdge else .ready

/-- The unit has completed an instruction that does not transfer control: the next word, framing and coverage
(R30), the windows (R35), and the wait at the back-edge after the last body word (R137). -/
def State.retire (s : State) : State :=
  let u := s.u
  let pc := u.pc + 4
  let edge := endsLoop s.w.loops u.lanes pc
  let u1 : IUnit :=
    if edge then { u with pc := pc, frame := Framing.blank, issued := none, olds := [], mid := false, cover := none, park := .backEdge }
    else { u with pc := pc, frame := Framing.blank, issued := none, olds := [], mid := opensGroup s.ir, cover := coverAfter u.inForce }
  let s1 := s.setW ({ s.w with units := Table.set s.w.units s.unit u1 }.shrink s.unit)
  if edge then s1.closeWindows else s1

/-! ### Uncontained errors (R220) -/

/-- A warp that has been removed: no lane lives, no unit is left. -/
def Warp.removed (w : Warp) : Warp :=
  { w with live := 0, units := [], loops := [], pend := [], tframe := none, handler := false }

def removeWarps (t : Table Warp) : List Nat → Table Warp
  | [] => t
  | k :: ks => removeWarps (Table.set t k (Table.get Warp.blank t k).removed) ks

/-- A free stream keeps its counts until it is bound again (R209). -/
def Stream.freed (st : Stream) : Stream := { Stream.blank with bytes := st.bytes, sat := st.sat }

/-- The workgroup of a stream ends: its slice ends with it, and jobs that it has issued still complete (R203). -/
def Stream.orphan (st : Stream) (wg : Nat) : Stream :=
  if st.wg ≠ wg then st
  else if st.jobs.isEmpty || decide (st.state = .error) then st.freed
  else { st with slice := false, imm := none, loops := [] }

/-- Release the streams and rays a workgroup holds on its core (R203). -/
def Core.release (c : Core) (wg : Nat) : Core :=
  { c with streams := c.streams.map (fun p => (p.1, p.2.orphan wg)), rays := c.rays.filter (fun p => p.2.wg ≠ wg),
           queues := c.queues.filter (fun q => q.wg ≠ wg) }

/-- The workgroup's residency up to a tick is counted (R220). -/
def Workgroup.clock (g : Workgroup) (t : Nat) : Workgroup :=
  if g.phase = .resident ∨ g.phase = .leaving then { g with spent := g.spent + g.nwarps * (t - g.since), since := t } else g

/-- Tags from here on are those of REDs, which nothing waits for. -/
def redTag : Nat := 4096

/-- A write, or a RED: its owner goes on before it is performed. -/
def Access.posted (a : Access) : Bool := a.write.isSome || (a.atomic.isSome && decide (redTag ≤ a.tag))

/-- Remove a workgroup without saving it (R220): what its units have asked for goes unused. -/
def State.removeWg (s : State) (k : Nat) : State :=
  let g := s.wgAt k
  let left := s.pending.filter (fun a => a.posted || (match a.owner with
    | .unit w _ => !g.warps.contains w
    | .fetch w _ => !g.warps.contains w
    | .waitWord w _ => !g.warps.contains w
    | .ray c r => !(decide (c = g.core) && (s.coreAt c).rays.any (fun x => decide (x.1 = r) && decide (x.2.wg = k)))
    | _ => true))
  let s1 := { s with warps := removeWarps s.warps g.warps, pending := left }
  (s1.setCoreAt g.core ((s1.coreAt g.core).release k)).setWg k { g.clock s.tick with phase := .done, image := none, preempt := false, due := false, parcel := none }

def State.removeWgs (s : State) : List Nat → State
  | [] => s
  | k :: ks => State.removeWgs (s.removeWg k) ks

/-- Mark launches as ended early with a status code. -/
def markLaunches (t : Table Launch) (code : Byte) (p : Launch → Bool) : Table Launch :=
  t.map (fun x => if p x.2 && decide (x.2.phase ≠ .ended) && decide (x.2.code = 0) then
    (x.1, { x.2 with code := code }) else x)

/-- Keys of the workgroups that are not done and whose launch satisfies a test. -/
def State.wgsOf (s : State) (p : Nat → Launch → Bool) : List Nat :=
  (s.wgs.filter (fun x => decide (x.2.phase ≠ .done) && p x.2.launch (s.launchAt x.2.launch))).map (·.1)

/-- The parcels of the families that satisfy a test leave the parcel queues. -/
def State.dropParcels (s : State) (p : Nat → Launch → Bool) : State :=
  { s with cores := s.cores.map (fun x =>
      (x.1, { x.2 with parcels := x.2.parcels.filter (fun q => !(p q.family (s.launchAt q.family))) })) }

/-- A fault domain of its context ends while the launch's RCB is not resolved: what it resolves to decides (State.lateEnd). -/
def Launch.missed (l : Launch) (asid : Nat) (d : BitVec 16) : Launch :=
  if l.asid = asid ∧ l.phase = .submitted then { l with ends := d :: l.ends } else l

/-- A fault domain ends for a recursion object: that of its kernel's RCB where it is known. -/
def RecObj.lose (o : RecObj) (asid : Nat) (d : BitVec 16) : RecObj :=
  if o.asid ≠ asid then o
  else match o.base with
    | some l => if l.domain = d then { o with dead := true } else o
    | none => { o with ends := d :: o.ends }

/-- An uncontained error in fault domain d of a context: every launch of that context and domain ends with status 7,
its workgroups removed without saving (R220). -/
def State.endDomain (s : State) (asid : Nat) (d : BitVec 16) : State :=
  let hit : Nat → Launch → Bool := fun _ l => decide (l.asid = asid) && decide (l.domain = d) && decide (l.phase ≠ .submitted)
  let s1 := (s.dropParcels hit).removeWgs (s.wgsOf hit)
  { s1 with launches := (markLaunches s1.launches 7 (fun l => hit 0 l)).map (fun x => (x.1, x.2.missed asid d)),
            objs := s1.objs.map (fun x => (x.1, x.2.lose asid d)) }

/-- An uncontained error of the current warp's fault domain. -/
def State.uncontained (s : State) : State := s.endDomain s.g.asid s.launch.domain

/-! ### Precise traps (R306, R307) -/

/-- The precise traps. -/
inductive Trap where
  | illegalOp | regBound | splitOvf | fmtDiverge | gangMismatch | depthOvf | fanout | arenaFull | misalign
  | loopNest | trap | stale
  deriving DecidableEq, Repr

/-- %tcause codes (R306). -/
def trapCode : Trap → Byte
  | .illegalOp => 1 | .regBound => 2 | .splitOvf => 3 | .fmtDiverge => 4 | .gangMismatch => 5 | .depthOvf => 6
  | .fanout => 7 | .arenaFull => 8 | .misalign => 9 | .loopNest => 10 | .trap => 11 | .stale => 12

/-- %tunit of a unit: a gang's slice mask, or bit 15 and the split entry (R309). -/
def unitCode (k : Nat) (u : IUnit) : BitVec 16 :=
  if k < 8 then (sliceMask u.lanes).setWidth 16 else 0x8000#16 ||| BitVec.ofNat 16 (k - 8)

/-- The address a trap is reported at: the instruction's first framing word (R22). -/
def IUnit.origin (u : IUnit) : W64 := u.frame.first.getD u.pc

/-- One gang of the live slices at an address (R307). -/
def soleGang (live : Lanes) (pc : W64) : Table IUnit :=
  [(lowestSlice live, { IUnit.blank with lanes := live, pc := pc })]

/-- s96 to s111. -/
def highScalars (w : Warp) : List W64 := (List.range 16).map (fun i => w.sreg (96 + i))

/-- A unit at the boundary before its instruction: prefix words it has taken are taken again (R307, R314). -/
def IUnit.rewound (u : IUnit) : IUnit := { u with pc := u.origin, frame := Framing.blank }

/-- The trap frame of a warp whose unit traps (R307): units stop at their own instructions, and the windows of the
trapping unit have closed (R35). -/
def Warp.frameOf (w : Warp) (unit : Nat) : TrapFrame :=
  { unit := unit, after := coverAfter (Table.get IUnit.blank w.units unit).inForce,
    units := w.units.map (fun x => (x.1, if x.1 = unit then { x.2.rewound with issued := none, olds := [], mid := false } else x.2.rewound)),
    loops := w.loops, wb := w.wb, part := w.part, xregs := w.xregs, preds := w.preds, high := highScalars w,
    pend := (w.endWindows unit).pend, region := w.region }

/-- The warp in handler mode (R307, R309). -/
def Warp.enter (w : Warp) (unit : Nat) (handler : W64) (t : Trap) (info : Nat) (act : Lanes) : Warp :=
  let u := Table.get IUnit.blank w.units unit
  { w with
      units := soleGang w.live handler, loops := [], pend := [], wb := 0, part := 32, handler := true,
      tframe := some (w.frameOf unit), tcause := trapCode t, tpc := u.origin, tnext := u.pc + 4,
      trgent := w.rgent, trgcnt := w.rgcnt, tmask := act, tunit := unitCode unit u, tinfo := BitVec.ofNat 64 info,
      tregion := w.region.isSome }

/-- A workgroup that has an image slot is to have its group image written (R305). -/
def Workgroup.owe (g : Workgroup) : Workgroup := { g with due := g.image.isSome }

/-- TAKING A PRECISE TRAP in the current unit (R307, R308): the instruction has no effect; with no handler, or in
handler mode, the trap is an uncontained error. The group image is written at the next step. -/
def State.takeTrap (s : State) (t : Trap) (info : Nat) : State :=
  if s.w.handler || s.launch.handler = 0 then s.uncontained
  else { (s.setW (s.w.enter s.unit s.launch.handler t info s.act)).setG s.g.owe with unit := lowestSlice s.w.live }

/-- Entries of a split tree: the unit or an entry that descends from it. -/
def descends (t : Table IUnit) (anc : Nat) : Nat → Nat → Bool
  | 0, _ => false
  | n + 1, k => k == anc ||
    (let u := Table.get IUnit.blank t k
     decide (8 ≤ k) && !u.root && descends t anc n u.parent)

/-- Drop the units whose lanes lie in a set, and list one unit instead for those that live (R312, region mode): a recorded gang
under its lowest slice, a recorded split in its entry. -/
def collapse (t : Table IUnit) (r : RegionRec) (live : Lanes) (pc : W64) : Table IUnit :=
  let gone := t.filter (fun x => x.2.lanes &&& r.lanes = 0 || (decide (8 ≤ r.unit) && !(descends t r.unit 64 x.1)))
  let u0 := Table.get IUnit.blank t r.unit
  let m := r.lanes &&& live
  if m = 0 then gone
  else Table.set gone (if r.unit < 8 then lowestSlice m else r.unit)
    { u0 with lanes := m, pc := pc, park := .ready, cover := none, frame := Framing.blank, issued := none, olds := [], mid := false }

/-- RETURNING FROM A TRAP (R312) in mode 0 region, 1 retry, 2 continue. The frame's registers and units come back. -/
def Warp.resume (w : Warp) (f : TrapFrame) (mode : Nat) : Warp :=
  let base := { w with
      loops := f.loops, wb := f.wb, part := f.part, xregs := f.xregs, preds := f.preds,
      sregs := Table.putAll 0 w.sregs 96 f.high, region := f.region, handler := false, tframe := none }
  let u := Table.get IUnit.blank f.units f.unit
  match mode with
  | 0 => match f.region with
    | some r => { base with units := collapse f.units r w.live w.trgent, pend := [] }
    | none => base
  | 1 => { base with units := Table.set f.units f.unit { u with pc := w.tpc }, pend := f.pend }
  | _ =>
    let edge := endsLoop f.loops u.lanes w.tnext
    { base with
        units := Table.set f.units f.unit
          { u with pc := w.tnext, cover := if edge then none else f.after, park := if edge then .backEdge else .ready },
        pend := f.pend }

/-- The warp with its frame's units in the place of its own (R307): an access that waits in the frame goes on there, and what it
does to a framed register or result is the frame's. Done twice, it is the warp again (DEDUCED, log entry 79). -/
def Warp.swapFrame (w : Warp) : Warp :=
  match w.tframe with
  | none => w
  | some f =>
    { w with
        units := f.units, loops := f.loops, wb := f.wb, part := f.part, xregs := f.xregs, preds := f.preds, pend := f.pend,
        sregs := Table.putAll 0 w.sregs 96 f.high, region := f.region, handler := !w.handler,
        tframe := some { f with units := w.units, loops := w.loops, wb := w.wb, part := w.part, xregs := w.xregs, preds := w.preds,
                                pend := w.pend, high := highScalars w, region := w.region } }

/-- The units of the frame whose access has been issued and has not been completed (R38, R307). -/
def Warp.framed (w : Warp) : Table IUnit :=
  match w.tframe with
  | none => []
  | some f => f.units.filter (fun x => x.2.issued.isSome)

/-- The current unit as what waits on an access: the gang of a handler is another than the units that wait in the frame. -/
def State.me (s : State) : Nat := if s.w.handler then 512 + s.unit else s.unit

/-! ### Waking units -/

/-- Apply a change to every unit of a warp, those in its trap frame included (R307: waits stay recorded). -/
def Warp.mapUnits (w : Warp) (f : Nat → IUnit → IUnit) : Warp :=
  { w with units := w.units.map (fun x => (x.1, f x.1 x.2)),
           tframe := w.tframe.map (fun t => { t with units := t.units.map (fun x => (x.1, f x.1 x.2)) }) }

/-- Apply a change to the units of every warp of the device. -/
def State.mapUnits (s : State) (f : Nat → Nat → IUnit → IUnit) : State :=
  { s with warps := s.warps.map (fun x => (x.1, x.2.mapUnits (fun k u => f x.1 k u))) }

/-! ### What an instruction's meaning answers -/

/-- The effect of an instruction: done (it retires), trap, wait at issue (it issues again later), held at its access (it
has issued, and its operands are those of its issue, R35, R38), or a state in which the meaning has moved the program
counters itself. -/
inductive Eff where
  | done (s : State)
  | trap (t : Trap) (info : Nat)
  | wait (s : State)
  | held (s : State)
  | moved (s : State)

/-- What the instruction being issued is given of its warp. -/
def State.issuedNow (s : State) : Issued :=
  { act := s.act, wb := s.w.wb, xregs := s.w.xregs, sregs := s.w.sregs, vregs := s.w.vregs, opq := s.w.opq, push := none }

/-- The unit's instruction has issued, from state s into t: what it was given at its first issue stays, with the operand queue as
it stood before its entries left it. -/
def State.hold (s t : State) : State :=
  t.setU { t.u with issued := some (t.u.issued.getD { t.issuedNow with opq := s.w.opq }) }

/-- Turn an effect into the step's outcome. -/
def State.finish (s : State) : Eff → Host.Outcome State Fault Refusal
  | .done s' => .next s'.retire
  | .trap t info => .next (s.takeTrap t info)
  | .wait s' => .next s'
  | .held s' => .next (s.hold s')
  | .moved s' => .next s'

/-- An instruction after which the unit's windows end (R35): it has issued, and its effect waits until their results may
commit (R36). -/
def State.closing (s : State) (f : State → Eff) : Eff :=
  if s.w.mayClose s.unit then f s else .held (s.setW (s.w.endWindows s.unit))

/-- An instruction before which the unit's windows end: it issues once their results have committed (R35, R36). -/
def State.closed (s : State) (f : State → Host.Outcome State Fault Refusal) : Host.Outcome State Fault Refusal :=
  if s.w.mayClose s.unit then f s.closeWindows else .next (s.setW (s.w.endWindows s.unit))

end Sys2Proof.Machine
end

