-- ==== Sys2Proof/Machine/Crypto.lean ====
section
/-! DEFINITION. The functions that the manual takes from their standards: AES-256 and its XTS mode for a 64-byte block
(R7, R177; FIPS 197, IEEE 1619), SHA-384 (R332, R334, R335; FIPS 180-4), ECDSA P-384 (R334, R335; FIPS 186-4), and the checksum of a
Zstandard frame (R331; RFC 8878). -/
namespace Sys2Proof

/-! ### AES-256 -/

/-- The S-box and its inverse, entry x in bits 8x + 7 to 8x. -/
def aesBox : Nat :=
  0x16BB54B00F2D99416842E6BF0D89A18CDF2855CEE9871E9B948ED9691198F8E19E1DC186B95735610EF6034866B53E708A8BBD4B1F74DDE8C6B4A61C2E2578BA08AE7A65EAF4566CA94ED58D6D37C8E779E4959162ACD3C25C2406490A3A32E0DB0B5EDE14B8EE4688902A22DC4F816073195D643D7EA7C41744975FEC130CCDD2F3FF1021DAB6BCF5389D928F40A351A89F3C507F02F94585334D43FBAAEFD0CF584C4A39BECB6A5BB1FC20ED00D153842FE329B3D63B52A05A6E1B1A2C830975B227EBE28012079A059618C323C7041531D871F1E5A534CCF73F362693FDB7C072A49CAFA2D4ADF04759FA7DC982CA76ABD7FE2B670130C56F6BF27B777C63
def aesUnbox : Nat :=
  0x7D0C2155631469E126D677BA7E042B17619953833CBBEBC8B0F52AAE4D3BE0A0EF9CC9939F7AE52D0D4AB519A97F51605FEC8027591012B131C7078833A8DD1FF45ACD78FEC0DB9A2079D2C64B3E56FC1BBE18AA0E62B76F89C5291D711AF1476EDF751CE837F9E28535ADE72274AC9673E6B4F0CECFF297EADC674F4111913A6B8A130103BDAFC1020F3FCA8F1E2CD00645B3B80558E4F70AD3BC8C00ABD890849D8DA75746155EDAB9EDFD5048706C92B6655DCC5CA4D41698688664F6F87225D18B6D49A25B76B224D92866A12E084EC3FA420B954CEE3D23C2A632947B54CBE9DEC444438E3487FF2F9B8239E37CFBD7F3819EA340BF38A53630D56A0952

def aesSub (box : Nat) (b : Byte) : Byte := BitVec.ofNat 8 (box >>> (8 * b.toNat))

/-- Multiplication by x in GF(2^8), and by a polynomial given by its bits, low first. -/
def aesTwice (b : Byte) : Byte := (b <<< 1) ^^^ (if b.getLsbD 7 then 0x1B#8 else 0#8)
def aesTimes (b : Byte) : List Bool → Byte
  | [] => 0
  | c :: r => (if c then b else 0#8) ^^^ aesTimes (aesTwice b) r

/-- Exclusive or of byte strings. -/
def xorBytes (xs ys : List Byte) : List Byte := xs.zipWith (· ^^^ ·) ys

/-- The bytes of a state that a list of places names. -/
def pick (xs : List Byte) (is : List Nat) : List Byte := is.map (fun i => xs.getD i 0)

/-- Places that ShiftRows and its inverse take the bytes of the new state from. -/
def aesShift : List Nat := [0, 5, 10, 15, 4, 9, 14, 3, 8, 13, 2, 7, 12, 1, 6, 11]
def aesUnshift : List Nat := [0, 13, 10, 7, 4, 1, 14, 11, 8, 5, 2, 15, 12, 9, 6, 3]

/-- One column times the circulant matrix of four coefficients. -/
def aesColumn (coef : List (List Bool)) (c : List Byte) : List Byte :=
  (List.range 4).map (fun i => (List.range 4).foldl (fun acc j => acc ^^^ aesTimes (c.getD j 0) (coef.getD ((j + 4 - i) % 4) [])) 0)

def aesMix (coef : List (List Bool)) (s : List Byte) : List Byte :=
  (List.range 4).flatMap (fun k => aesColumn coef ((s.drop (4 * k)).take 4))

/-- Coefficients 2, 3, 1, 1 of MixColumns and 14, 11, 13, 9 of its inverse. -/
def mixCoef : List (List Bool) := [[false, true], [true, true], [true], [true]]
def unmixCoef : List (List Bool) :=
  [[false, true, true, true], [true, true, false, true], [true, false, true, true], [true, false, false, true]]

/-- The next words of the key schedule: i is the number of the next word, `prev` the words so far, latest first. -/
def aesExpand : Nat → Nat → List (List Byte) → List (List Byte)
  | 0, _, prev => prev
  | n + 1, i, prev =>
    let last := prev.headD []
    let t :=
      if i % 8 = 0 then xorBytes ((last.drop 1 ++ last.take 1).map (aesSub aesBox)) [1#8 <<< (i / 8 - 1), 0, 0, 0]
      else if i % 8 = 4 then last.map (aesSub aesBox) else last
    aesExpand n (i + 1) (xorBytes (prev.getD 7 []) t :: prev)

/-- The 15 round keys of a 32-byte key. -/
def aesKeys (key : List Byte) : List (List Byte) :=
  let ws := (aesExpand 52 8 (((List.range 8).map (fun i => (key.drop (4 * i)).take 4)).reverse)).reverse
  (List.range 15).map (fun r => (ws.drop (4 * r)).take 4 |>.flatten)

/-- Encrypt and decrypt a 16-byte block. -/
def aesEncrypt (key block : List Byte) : List Byte :=
  let ks := aesKeys key
  let round := fun (s : List Byte) (k : List Byte) => xorBytes (aesMix mixCoef (pick (s.map (aesSub aesBox)) aesShift)) k
  let s := ((ks.drop 1).take 13).foldl round (xorBytes block (ks.headD []))
  xorBytes (pick (s.map (aesSub aesBox)) aesShift) (ks.getLastD [])

def aesDecrypt (key block : List Byte) : List Byte :=
  let ks := (aesKeys key).reverse
  let round := fun (s : List Byte) (k : List Byte) => aesMix unmixCoef (xorBytes ((pick s aesUnshift).map (aesSub aesUnbox)) k)
  let s := ((ks.drop 1).take 13).foldl round (xorBytes block (ks.headD []))
  xorBytes ((pick s aesUnshift).map (aesSub aesUnbox)) (ks.getLastD [])

/-! ### XTS (R177) -/

/-- The tweak of the next 16-byte block: multiplication by x in GF(2^128), bytes in little-endian order. -/
def xtsNext (t : List Byte) : List Byte :=
  let v := bytesVal t
  valBytes 16 ((2 * v % 2 ^ 128) ^^^ (if 2 ^ 127 ≤ v then 0x87 else 0))

/-- The 16-byte blocks of a data unit in turn, from a tweak on. -/
def xtsBlocks (crypt : List Byte → List Byte) : Nat → List Byte → List Byte → List Byte
  | 0, _, _ => []
  | n + 1, t, bs => xorBytes (crypt (xorBytes (bs.take 16) t)) t ++ xtsBlocks crypt n (xtsNext t) (bs.drop 16)

/-- A 64-byte block under a 512-bit key whose low half is the data key and whose high half is the tweak key (log entry 48);
the tweak is the block's number, PA[39:6]. -/
def xts (crypt : List Byte → List Byte → List Byte) (key : BitVec 512) (block : Nat) (bs : List Byte) : List Byte :=
  let k := valBytes 64 key.toNat
  xtsBlocks (crypt (k.take 32)) 4 (aesEncrypt (k.drop 32) (valBytes 16 block)) bs

/-- A 64-byte block that was written under one key and is read under another. -/
def rekey (old new : BitVec 512) (block : Nat) (bs : List Byte) : List Byte := xts aesDecrypt new block (xts aesEncrypt old block bs)

/-! ### SHA-384 -/

/-- Round constants of SHA-512 and SHA-384, and the initial hash value. -/
def shaK : List W64 :=
  [0x428A2F98D728AE22, 0x7137449123EF65CD, 0xB5C0FBCFEC4D3B2F, 0xE9B5DBA58189DBBC] ++
  [0x3956C25BF348B538, 0x59F111F1B605D019, 0x923F82A4AF194F9B, 0xAB1C5ED5DA6D8118] ++
  [0xD807AA98A3030242, 0x12835B0145706FBE, 0x243185BE4EE4B28C, 0x550C7DC3D5FFB4E2] ++
  [0x72BE5D74F27B896F, 0x80DEB1FE3B1696B1, 0x9BDC06A725C71235, 0xC19BF174CF692694] ++
  [0xE49B69C19EF14AD2, 0xEFBE4786384F25E3, 0x0FC19DC68B8CD5B5, 0x240CA1CC77AC9C65] ++
  [0x2DE92C6F592B0275, 0x4A7484AA6EA6E483, 0x5CB0A9DCBD41FBD4, 0x76F988DA831153B5] ++
  [0x983E5152EE66DFAB, 0xA831C66D2DB43210, 0xB00327C898FB213F, 0xBF597FC7BEEF0EE4] ++
  [0xC6E00BF33DA88FC2, 0xD5A79147930AA725, 0x06CA6351E003826F, 0x142929670A0E6E70] ++
  [0x27B70A8546D22FFC, 0x2E1B21385C26C926, 0x4D2C6DFC5AC42AED, 0x53380D139D95B3DF] ++
  [0x650A73548BAF63DE, 0x766A0ABB3C77B2A8, 0x81C2C92E47EDAEE6, 0x92722C851482353B] ++
  [0xA2BFE8A14CF10364, 0xA81A664BBC423001, 0xC24B8B70D0F89791, 0xC76C51A30654BE30] ++
  [0xD192E819D6EF5218, 0xD69906245565A910, 0xF40E35855771202A, 0x106AA07032BBD1B8] ++
  [0x19A4C116B8D2D0C8, 0x1E376C085141AB53, 0x2748774CDF8EEB99, 0x34B0BCB5E19B48A8] ++
  [0x391C0CB3C5C95A63, 0x4ED8AA4AE3418ACB, 0x5B9CCA4F7763E373, 0x682E6FF3D6B2B8A3] ++
  [0x748F82EE5DEFB2FC, 0x78A5636F43172F60, 0x84C87814A1F0AB72, 0x8CC702081A6439EC] ++
  [0x90BEFFFA23631E28, 0xA4506CEBDE82BDE9, 0xBEF9A3F7B2C67915, 0xC67178F2E372532B] ++
  [0xCA273ECEEA26619C, 0xD186B8C721C0C207, 0xEADA7DD6CDE0EB1E, 0xF57D4F7FEE6ED178] ++
  [0x06F067AA72176FBA, 0x0A637DC5A2C898A6, 0x113F9804BEF90DAE, 0x1B710B35131C471B] ++
  [0x28DB77F523047D84, 0x32CAAB7B40C72493, 0x3C9EBE0A15C9BEBC, 0x431D67C49C100D4C] ++
  [0x4CC5D4BECB3E42B6, 0x597F299CFC657E2A, 0x5FCB6FAB3AD6FAEC, 0x6C44198C4A475817]
def shaInit : List W64 :=
  [0xCBBB9D5DC1059ED8, 0x629A292A367CD507, 0x9159015A3070DD17, 0x152FECD8F70E5939] ++ [0x67332667FFC00B31, 0x8EB44A8768581511, 0xDB0C2E0D64F98FA7, 0x47B5481DBEFA4FA4]

/-- Big-endian bytes of a 64-bit word, and a word from big-endian bytes. -/
def bigBytes (w : W64) : List Byte := (valBytes 8 w.toNat).reverse
def bigWord (bs : List Byte) : W64 := BitVec.ofNat 64 (bytesVal bs.reverse)

/-- The message schedule: n more words after those listed, latest first. -/
def shaSchedule : Nat → List W64 → List W64
  | 0, ws => ws
  | n + 1, ws =>
    let a := ws.getD 14 0
    let b := ws.getD 1 0
    let s0 := a.rotateRight 1 ^^^ a.rotateRight 8 ^^^ (a >>> 7)
    let s1 := b.rotateRight 19 ^^^ b.rotateRight 61 ^^^ (b >>> 6)
    shaSchedule n ((ws.getD 15 0 + s0 + ws.getD 6 0 + s1) :: ws)

/-- One round on the eight working variables. -/
def shaRound (v : List W64) (kw : W64 × W64) : List W64 :=
  match v with
  | [a, b, c, d, e, f, g, h] =>
    let t1 := h + (e.rotateRight 14 ^^^ e.rotateRight 18 ^^^ e.rotateRight 41) + ((e &&& f) ^^^ (~~~e &&& g)) + kw.1 + kw.2
    let t2 := (a.rotateRight 28 ^^^ a.rotateRight 34 ^^^ a.rotateRight 39) + ((a &&& b) ^^^ (a &&& c) ^^^ (b &&& c))
    [t1 + t2, a, b, c, d + t1, e, f, g]
  | _ => v

/-- One 128-byte block. -/
def shaBlock (h : List W64) (bs : List Byte) : List W64 :=
  let ws := (shaSchedule 64 (((List.range 16).map (fun i => bigWord ((bs.drop (8 * i)).take 8))).reverse)).reverse
  h.zipWith (· + ·) ((shaK.zip ws).foldl shaRound h)

def shaBlocks : Nat → List W64 → List Byte → List W64
  | 0, h, _ => h
  | n + 1, h, bs => shaBlocks n (shaBlock h (bs.take 128)) (bs.drop 128)

/-- SHA-384 of a byte string; the most significant byte of the result is the first of the digest. -/
def sha384 (m : List Byte) : BitVec 384 :=
  let padded := m ++ [0x80#8] ++ List.replicate ((239 - m.length % 128) % 128) 0#8 ++ (valBytes 16 (8 * m.length)).reverse
  let h := shaBlocks (padded.length / 128) shaInit padded
  BitVec.ofNat 384 (bytesVal ((h.take 6).flatMap bigBytes).reverse)

/-! ### ECDSA P-384 -/

def p384 : Nat := 2 ^ 384 - 2 ^ 128 - 2 ^ 96 + 2 ^ 32 - 1
def p384Order : Nat := 0xFFFFFFFFFFFFFFFFFFFFFFFFFFFFFFFFFFFFFFFFFFFFFFFFC7634D81F4372DDF581A0DB248B0A77AECEC196ACCC52973
def p384Base : Nat × Nat :=
  (0xAA87CA22BE8B05378EB1C71EF320AD746E1D3B628BA79B9859F741E082542A385502F25DBF55296C3A545E3872760AB7,
   0x3617DE4A96262C6F5D9E98BF9292DC29F8F41DBD289A147CE9DA3113B5F0B8C00A60B1CE1D7E819D7A431D7C90EA0E5F)

/-- x^e mod m by squaring, over the low n bits of e, low first. -/
def powMod (m : Nat) : Nat → Nat → Nat → Nat → Nat
  | 0, _, _, acc => acc
  | n + 1, x, e, acc => powMod m n (x * x % m) (e / 2) (if e % 2 = 1 then acc * x % m else acc)

/-- The inverse modulo a prime below 2^384. -/
def invMod (m x : Nat) : Nat := powMod m 384 (x % m) (m - 2) 1

/-- Addition of points of the curve y^2 = x^3 - 3x + b; none is the point at infinity. -/
def p384Add : Option (Nat × Nat) → Option (Nat × Nat) → Option (Nat × Nat)
  | none, q => q
  | p, none => p
  | some (x1, y1), some (x2, y2) =>
    if x1 = x2 ∧ (y1 + y2) % p384 = 0 then none
    else
      let l := if x1 = x2 then 3 * (x1 * x1 + (p384 - 1)) * invMod p384 (2 * y1) % p384
        else (y2 + p384 - y1) * invMod p384 (x2 + p384 - x1) % p384
      let x3 := (l * l + 2 * p384 - x1 - x2) % p384
      some (x3, (l * (x1 + p384 - x3) + p384 - y1) % p384)

/-- k times a point, over the low n bits of k. -/
def p384Mul : Nat → Nat → Option (Nat × Nat) → Option (Nat × Nat)
  | 0, _, _ => none
  | n + 1, k, p => p384Add (if k % 2 = 1 then p else none) (p384Mul n (k / 2) (p384Add p p))

/-- The signature r, s (each 48 bytes, most significant first) over a message verifies under a public key. -/
def ecdsaValid (key : Nat × Nat) (message signature : List Byte) : Bool :=
  let r := bytesVal (signature.take 48).reverse
  let s := bytesVal ((signature.drop 48).take 48).reverse
  let w := invMod p384Order s
  let z := (sha384 message).toNat
  decide (0 < r) && decide (r < p384Order) && decide (0 < s) && decide (s < p384Order) &&
  (match p384Add (p384Mul 384 (z * w % p384Order) (some p384Base)) (p384Mul 384 (r * w % p384Order) (some key)) with
   | none => false
   | some (x, _) => decide (x % p384Order = r))

/-- The signature r, s over a message by a private key and a nonce, both from 1 to the order less 1, each half 48 bytes, most significant
first. -/
def ecdsaSign (key nonce : Nat) (message : List Byte) : List Byte :=
  let r := (((p384Mul 384 nonce (some p384Base)).map (·.1)).getD 0) % p384Order
  let s := invMod p384Order nonce * ((sha384 message).toNat + r * key) % p384Order
  (valBytes 48 r).reverse ++ (valBytes 48 s).reverse

/-! ### The checksum of a Zstandard frame (R331) -/

def xxPrime1 : W64 := 0x9E3779B185EBCA87
def xxPrime2 : W64 := 0xC2B2AE3D27D4EB4F
def xxPrime3 : W64 := 0x165667B19E3779F9
def xxPrime4 : W64 := 0x85EBCA77C2B2AE63
def xxPrime5 : W64 := 0x27D4EB2F165667C5

/-- The little-endian word of the first n bytes. -/
def firstWord (n : Nat) (bs : List Byte) : W64 := BitVec.ofNat 64 (bytesVal (bs.take n))

def xxRound (acc x : W64) : W64 := (acc + x * xxPrime2).rotateLeft 31 * xxPrime1
def xxMerge (h v : W64) : W64 := (h ^^^ xxRound 0 v) * xxPrime1 + xxPrime4

/-- Whole 32-byte stripes on the four accumulators; what is left of the bytes. -/
def xxStripes : Nat → List W64 → List Byte → List W64 × List Byte
  | 0, v, bs => (v, bs)
  | n + 1, v, bs => xxStripes n (v.mapIdx (fun i a => xxRound a (firstWord 8 (bs.drop (8 * i))))) (bs.drop 32)

/-- The last bytes, fewer than 32: words of 8, then one of 4, then single bytes. -/
def xxTail : Nat → W64 → List Byte → W64
  | 0, h, _ => h
  | n + 1, h, bs =>
    if bs.isEmpty then h
    else if 8 ≤ bs.length then xxTail n ((h ^^^ xxRound 0 (firstWord 8 bs)).rotateLeft 27 * xxPrime1 + xxPrime4) (bs.drop 8)
    else if 4 ≤ bs.length then xxTail n ((h ^^^ (firstWord 4 bs * xxPrime1)).rotateLeft 23 * xxPrime2 + xxPrime3) (bs.drop 4)
    else xxTail n ((h ^^^ (firstWord 1 bs * xxPrime5)).rotateLeft 11 * xxPrime1) (bs.drop 1)

/-- XXH64 with seed 0, whose low 32 bits are the content checksum. -/
def xxh64 (bs : List Byte) : W64 :=
  let start :=
    if bs.length < 32 then (xxPrime5, bs)
    else
      let r := xxStripes (bs.length / 32) [xxPrime1 + xxPrime2, xxPrime2, 0, 0 - xxPrime1] bs
      let v := fun i => r.1.getD i 0
      (((List.range 4).map v).foldl xxMerge
        ((v 0).rotateLeft 1 + (v 1).rotateLeft 7 + (v 2).rotateLeft 12 + (v 3).rotateLeft 18), r.2)
  let h := xxTail 36 (start.1 + BitVec.ofNat 64 bs.length) start.2
  let h1 := (h ^^^ (h >>> 33)) * xxPrime2
  let h2 := (h1 ^^^ (h1 >>> 29)) * xxPrime3
  h2 ^^^ (h2 >>> 32)

end Sys2Proof
end

