-- ==== Sys2Proof/Machine/Zstd.lean ====
section
/-! DEFINITION. What a compressed block of a Zstandard frame decodes to (R331, RFC 8878), and the frame of a shuffled chunk. -/
namespace Sys2Proof

/-! ### Bit streams -/

/-- A stream that is read from its end: its bytes as a number, and the bits left. -/
structure BackBits where
  v    : Nat
  left : Nat
  deriving DecidableEq, Repr

/-- The stream of some bytes: the highest set bit of the last byte marks its end. -/
def BackBits.ofBytes (bs : List Byte) : Option BackBits :=
  if (bs.getLastD 0).toNat = 0 then none else some { v := bytesVal bs, left := Nat.log2 (bytesVal bs) }

/-- The next n bits. -/
def BackBits.read (b : BackBits) (n : Nat) : Option (Nat × BackBits) :=
  if b.left < n then none else some (b.v / 2 ^ (b.left - n) % 2 ^ n, { b with left := b.left - n })

/-- The next n bits, with zeros after the last. -/
def BackBits.peek (b : BackBits) (n : Nat) : Nat := b.v % 2 ^ b.left * 2 ^ n / 2 ^ b.left

/-! ### FSE tables -/

/-- An FSE decoding table: its accuracy, and for each state the symbol, the bits to read and the base of the next state. -/
structure FseTable where
  log  : Nat
  rows : List (Nat × Nat × Nat)
  deriving DecidableEq, Repr

def FseTable.row (t : FseTable) (state : Nat) : Nat × Nat × Nat := t.rows.getD state (0, 0, 0)
def FseTable.symbol (t : FseTable) (state : Nat) : Nat := (t.row state).1

/-- The state after a state. -/
def FseTable.next (t : FseTable) (state : Nat) (b : BackBits) : Option (Nat × BackBits) :=
  (b.read (t.row state).2.1).map (fun x => ((t.row state).2.2 + x.1, x.2))

/-- The table of one symbol. -/
def FseTable.single (s : Nat) : FseTable := { log := 0, rows := [(s, 0, 0)] }

/-- The next place of the spread that lies below the symbols of probability below one. -/
def nextPlace (size high : Nat) : Nat → Nat → Nat
  | 0, p => p
  | n + 1, p =>
    let q := (p + size / 2 + size / 8 + 3) % size
    if q < high then q else nextPlace size high n q

/-- Symbols at their places. -/
def spreadFrom (size high : Nat) : List Nat → Nat → Table Nat → Table Nat
  | [], _, t => t
  | s :: ss, p, t => spreadFrom size high ss (nextPlace size high size p) (Table.set t p s)

/-- The rows of the states in order, from the counts of the symbols. -/
def fseRows (log : Nat) : List Nat → List Nat → List (Nat × Nat × Nat)
  | [], _ => []
  | s :: ss, counts =>
    let n := counts.getD s 0
    let bits := log - Nat.log2 n
    (s, bits, n * 2 ^ bits - 2 ^ log) :: fseRows log ss (counts.set s (n + 1))

/-- The table of normalized probabilities, -1 for one below one. -/
def FseTable.ofProbs (log : Nat) (ps : List Int) : FseTable :=
  let size := 2 ^ log
  let named := ps.mapIdx (fun i p => (i, p))
  let low := (named.filter (fun x => x.2 = -1)).map (·.1)
  let high := size - low.length
  let many := named.flatMap (fun x => List.replicate x.2.toNat x.1)
  let places := spreadFrom size high many 0 (low.mapIdx (fun j s => (size - 1 - j, s))).reverse
  { log := log, rows := fseRows log ((List.range size).map (fun i => Table.get 0 places i)) (ps.map (fun p => if p = -1 then 1 else p.toNat)) }

/-- The count of zero probabilities after one, and the place after it. -/
def zeroRun (v : Nat) : Nat → Nat → Nat × Nat
  | 0, p => (0, p)
  | n + 1, p =>
    let r := v / 2 ^ p % 4
    if r = 3 then (let x := zeroRun v n (p + 2); (3 + x.1, x.2)) else (r, p + 2)

/-- The probabilities of a table description from a bit on, with `left` of the total to give. -/
def readProbs (v : Nat) : Nat → Nat → Nat → List Int → Option (List Int × Nat)
  | 0, _, _, _ => none
  | n + 1, left, p, acc =>
    if left = 0 then some (acc, p)
    else
      let bits := Nat.log2 (left + 1) + 1
      let x := v / 2 ^ p % 2 ^ bits
      let low := x % 2 ^ (bits - 1)
      let short := decide (low < 2 ^ bits - 1 - (left + 1))
      let y := if short then low else if 2 ^ (bits - 1) ≤ x then x - (2 ^ bits - 1 - (left + 1)) else x
      let q := if short then p + bits - 1 else p + bits
      let prob : Int := (y : Int) - 1
      let z := if prob = 0 then zeroRun v n q else (0, q)
      if left < prob.natAbs then none else readProbs v n (left - prob.natAbs) z.2 (acc ++ prob :: List.replicate z.1 0)

/-- A table description of at most an accuracy and a number of symbols, and its length in bytes. -/
def readFse (maxLog maxSymbols : Nat) (bs : List Byte) : Option (FseTable × Nat) :=
  let v := bytesVal (bs.take 512)
  let log := v % 16 + 5
  if maxLog < log then none
  else match readProbs v 512 (2 ^ log) 4 [] with
    | none => none
    | some (ps, p) =>
      let n := (p + 7) / 8
      if bs.length < n ∨ maxSymbols < ps.length then none else some (FseTable.ofProbs log ps, n)

/-! ### Huffman trees and literals -/

/-- A Huffman decoding table: the longest code, and for each of its prefixes the symbol and the length of its code. -/
structure HuffTable where
  bits : Nat
  rows : List (Nat × Nat)
  deriving DecidableEq, Repr

/-- Weights by two states in turn, until the stream has no more bits. -/
def readWeights (t : FseTable) : Nat → Nat → Nat → BackBits → Option (List Nat)
  | 0, _, _, _ => none
  | n + 1, a, b, bits => match t.next a bits with
    | none => some [t.symbol a, t.symbol b]
    | some (a1, bits1) => (readWeights t n b a1 bits1).map (t.symbol a :: ·)

/-- The table of weights, that of the last symbol left out. -/
def HuffTable.ofWeights (ws : List Nat) : Option HuffTable :=
  let sum := (ws.map (fun w => if w = 0 then 0 else 2 ^ (w - 1))).sum
  let bits := Nat.log2 sum + 1
  let rest := 2 ^ bits - sum
  if sum = 0 ∨ 11 < bits ∨ 255 < ws.length ∨ 2 ^ Nat.log2 rest ≠ rest then none
  else
    let all := ws ++ [Nat.log2 rest + 1]
    let named := all.mapIdx (fun i w => (i, w))
    some { bits := bits, rows := (List.range' 1 bits).flatMap (fun w =>
      (named.filter (fun x => x.2 = w)).flatMap (fun x => List.replicate (2 ^ (w - 1)) (x.1, bits + 1 - w))) }

/-- The weights of direct form: four bits each, the high half of a byte first. -/
def directWeights (n : Nat) (bs : List Byte) : List Nat := (bs.flatMap (fun b => [b.toNat / 16, b.toNat % 16])).take n

/-- A tree description, and its length in bytes. -/
def readTree : List Byte → Option (HuffTable × Nat)
  | [] => none
  | h :: bs =>
    let k := h.toNat
    if 128 ≤ k then
      let n := k - 127
      let len := (n + 1) / 2
      if bs.length < len then none else (HuffTable.ofWeights (directWeights n (bs.take len))).map (fun t => (t, 1 + len))
    else if bs.length < k then none
    else match readFse 6 256 (bs.take k) with
      | none => none
      | some (t, n) => match BackBits.ofBytes ((bs.take k).drop n) with
        | none => none
        | some b => match b.read t.log with
          | none => none
          | some (s1, b1) => match b1.read t.log with
            | none => none
            | some (s2, b2) => ((readWeights t 256 s1 s2 b2).bind HuffTable.ofWeights).map (fun t => (t, 1 + k))

/-- n symbols of a stream, which they use up. -/
def HuffTable.decode (t : HuffTable) : Nat → BackBits → Option (List Byte)
  | 0, b => if b.left = 0 then some [] else none
  | n + 1, b =>
    let r := t.rows.getD (b.peek t.bits) (0, 0)
    if b.left < r.2 then none else (HuffTable.decode t n { b with left := b.left - r.2 }).map (BitVec.ofNat 8 r.1 :: ·)

/-- The literals of one stream. -/
def HuffTable.stream (t : HuffTable) (n : Nat) (bs : List Byte) : Option (List Byte) := (BackBits.ofBytes bs).bind (t.decode n)

/-- The literals of four streams after their table of sizes. -/
def HuffTable.four (t : HuffTable) (n : Nat) (bs : List Byte) : Option (List Byte) :=
  let size := fun i => bytesVal ((bs.drop (2 * i)).take 2)
  let body := bs.drop 6
  let q := (n + 3) / 4
  if bs.length < 6 ∨ body.length < size 0 + size 1 + size 2 ∨ n < 3 * q then none
  else
    (t.stream q (body.take (size 0))).bind (fun a => (t.stream q ((body.drop (size 0)).take (size 1))).bind (fun b =>
      (t.stream q ((body.drop (size 0 + size 1)).take (size 2))).bind (fun c =>
        (t.stream (n - 3 * q) (body.drop (size 0 + size 1 + size 2))).map (fun d => a ++ b ++ c ++ d))))

/-- What a block leaves for those after it: the tree, the tables of literal lengths, offsets and match lengths, the last three
offsets. -/
structure ZstdState where
  tree : Option HuffTable
  ll   : Option FseTable
  of   : Option FseTable
  ml   : Option FseTable
  reps : Nat × Nat × Nat
  deriving DecidableEq, Repr

def ZstdState.start : ZstdState := { tree := none, ll := none, of := none, ml := none, reps := (1, 4, 8) }

/-- Literals in a tree's codes, with the tree in front of them or that of an earlier block. -/
def readCoded (st : ZstdState) (fresh one : Bool) (regen size : Nat) (bs : List Byte) : Option (List Byte × List Byte × Option HuffTable) :=
  let body := bs.take size
  let tree := if fresh then readTree body else st.tree.map (fun t => (t, 0))
  if bs.length < size then none
  else match tree with
    | none => none
    | some (t, n) => ((if one then t.stream regen (body.drop n) else t.four regen (body.drop n))).map (fun ls => (ls, bs.drop size, some t))

/-- The literals section: the literals, the bytes after it, and the tree. -/
def readLiterals (st : ZstdState) (bs : List Byte) : Option (List Byte × List Byte × Option HuffTable) :=
  let v := bytesVal (bs.take 5)
  let kind := v % 4
  let form := v / 4 % 4
  if kind < 2 then
    let head := if form % 2 = 0 then 1 else if form = 1 then 2 else 3
    let n := if form % 2 = 0 then v / 8 % 2 ^ 5 else if form = 1 then v / 16 % 2 ^ 12 else v / 16 % 2 ^ 20
    let body := bs.drop head
    let size := if kind = 0 then n else 1
    if bs.length < head ∨ body.length < size then none
    else some (if kind = 0 then body.take n else List.replicate n (body.headD 0), body.drop size, st.tree)
  else
    let k := if form < 2 then 10 else if form = 2 then 14 else 18
    let head := if form < 2 then 3 else if form = 2 then 4 else 5
    if bs.length < head then none
    else readCoded st (decide (kind = 2)) (decide (form = 0)) (v / 16 % 2 ^ k) (v / 2 ^ (4 + k) % 2 ^ k) (bs.drop head)

/-! ### Sequences -/

/-- The probabilities of the tables that need no description. -/
def llProbs : List Int :=
  [4, 3] ++ List.replicate 11 2 ++ [1, 1, 1] ++ List.replicate 9 2 ++ [3, 2] ++ List.replicate 5 1 ++ List.replicate 4 (-1)
def ofProbs : List Int := List.replicate 6 1 ++ [2, 2, 2] ++ List.replicate 15 1 ++ List.replicate 5 (-1)
def mlProbs : List Int := [1, 4, 3] ++ List.replicate 6 2 ++ List.replicate 37 1 ++ List.replicate 7 (-1)

/-- Bases and numbers of extra bits of the literal length and match length codes. -/
def llCode (c : Nat) : Nat × Nat :=
  if c < 16 then (c, 0)
  else [(16, 1), (18, 1), (20, 1), (22, 1), (24, 2), (28, 2), (32, 3), (40, 3), (48, 4), (64, 6), (128, 7), (256, 8), (512, 9), (1024, 10),
        (2048, 11), (4096, 12), (8192, 13), (16384, 14), (32768, 15), (65536, 16)].getD (c - 16) (0, 0)
def mlCode (c : Nat) : Nat × Nat :=
  if c < 32 then (c + 3, 0)
  else [(35, 1), (37, 1), (39, 1), (41, 1), (43, 2), (47, 2), (51, 3), (59, 3), (67, 4), (83, 4), (99, 5), (131, 7), (259, 8), (515, 9),
        (1027, 10), (2051, 11), (4099, 12), (8195, 13), (16387, 14), (32771, 15), (65539, 16)].getD (c - 32) (0, 0)

/-- A table by its mode: predefined, of one symbol, described, or that of an earlier block; the bytes after it. -/
def readTable (mode maxLog symbols : Nat) (fixed : FseTable) (old : Option FseTable) (bs : List Byte) : Option (FseTable × List Byte) :=
  match mode with
  | 0 => some (fixed, bs)
  | 1 => (match bs with
    | [] => none
    | b :: r => if b.toNat < symbols then some (FseTable.single b.toNat, r) else none)
  | 2 => (readFse maxLog symbols bs).map (fun x => (x.1, bs.drop x.2))
  | _ => old.map (fun t => (t, bs))

/-- A sequence: its literals, its match and its offset value. -/
structure Seq where
  lits  : Nat
  len   : Nat
  value : Nat
  deriving DecidableEq, Repr

/-- The sequences of a stream, which they use up. -/
def readSeqs (tl to_ tm : FseTable) : Nat → Nat → Nat → Nat → BackBits → Option (List Seq)
  | 0, _, _, _, b => if b.left = 0 then some [] else none
  | n + 1, l, o, m, b =>
    let oc := to_.symbol o
    let mc := mlCode (tm.symbol m)
    let lc := llCode (tl.symbol l)
    (b.read oc).bind (fun x => (x.2.read mc.2).bind (fun y => (y.2.read lc.2).bind (fun z =>
      let q : Seq := { lits := lc.1 + z.1, len := mc.1 + y.1, value := 2 ^ oc + x.1 }
      if n = 0 then (if z.2.left = 0 then some [q] else none)
      else (tl.next l z.2).bind (fun l1 => (tm.next m l1.2).bind (fun m1 => (to_.next o m1.2).bind (fun o1 =>
        (readSeqs tl to_ tm n l1.1 o1.1 m1.1 o1.2).map (q :: ·)))))))

/-- The offset of a sequence, and the offsets that may be repeated after it. -/
def offsetOf (q : Seq) (r : Nat × Nat × Nat) : Nat × (Nat × Nat × Nat) :=
  if 3 < q.value then (q.value - 3, (q.value - 3, r.1, r.2.1))
  else
    let i := q.value - 1 + (if q.lits = 0 then 1 else 0)
    match i with
    | 0 => (r.1, r)
    | 1 => (r.2.1, (r.2.1, r.1, r.2.2))
    | 2 => (r.2.2, (r.2.2, r.1, r.2.1))
    | _ => (r.1 - 1, (r.1 - 1, r.1, r.2.1))

/-- Copy a match of n bytes from an offset back; the content so far stands latest first. -/
def copyMatch (off : Nat) : Nat → List Byte → List Byte
  | 0, out => out
  | n + 1, out => copyMatch off n (out.getD (off - 1) 0 :: out)

/-- Perform the sequences; the content so far stands latest first. -/
def runSeqs : List Seq → List Byte → Nat × Nat × Nat → List Byte → Option (List Byte × (Nat × Nat × Nat))
  | [], lits, r, out => some (lits.reverse ++ out, r)
  | q :: qs, lits, r, out =>
    let x := offsetOf q r
    let out1 := (lits.take q.lits).reverse ++ out
    if lits.length < q.lits ∨ x.1 = 0 ∨ out1.length < x.1 then none
    else runSeqs qs (lits.drop q.lits) x.2 (copyMatch x.1 q.len out1)

/-- The number of sequences, and the length of its form. -/
def seqCount : List Byte → Option (Nat × Nat)
  | [] => none
  | b :: bs =>
    let v := b.toNat
    if v < 128 then some (v, 1)
    else if v < 255 then (if bs.length < 1 then none else some ((v - 128) * 256 + (bs.getD 0 0).toNat, 2))
    else if bs.length < 2 then none else some (bytesVal (bs.take 2) + 0x7F00, 3)

/-- The sequences of a section of n, and what it leaves of the tables. -/
def readSection (st : ZstdState) (n : Nat) : List Byte → Option (List Seq × ZstdState)
  | [] => none
  | m :: bs =>
    let mode := fun i => m.toNat / 2 ^ i % 4
    if mode 0 ≠ 0 then none
    else
      (readTable (mode 6) 9 36 (FseTable.ofProbs 6 llProbs) st.ll bs).bind (fun tl =>
        (readTable (mode 4) 8 32 (FseTable.ofProbs 5 ofProbs) st.of tl.2).bind (fun to_ =>
          (readTable (mode 2) 9 53 (FseTable.ofProbs 6 mlProbs) st.ml to_.2).bind (fun tm =>
            (BackBits.ofBytes tm.2).bind (fun b => (b.read tl.1.log).bind (fun l => (l.2.read to_.1.log).bind (fun o =>
              (o.2.read tm.1.log).bind (fun k =>
                (readSeqs tl.1 to_.1 tm.1 n l.1 o.1 k.1 k.2).map (fun qs => (qs, { st with ll := some tl.1, of := some to_.1, ml := some tm.1 })))))))))

/-- WHAT A COMPRESSED BLOCK DECODES TO after what stands before it in the content: what it leaves for later blocks, and its bytes. -/
def zstdDecode (st : ZstdState) (before c : List Byte) : Option (ZstdState × List Byte) :=
  (readLiterals st c).bind (fun x =>
    let st1 := { st with tree := x.2.2 }
    (seqCount x.2.1).bind (fun k =>
      if k.1 = 0 then (if x.2.1.length = 1 then some (st1, x.1) else none)
      else (readSection st1 k.1 (x.2.1.drop k.2)).bind (fun y =>
        (runSeqs y.1 x.1 y.2.reps before.reverse).map (fun z => ({ y.2 with reps := z.2 }, z.1.reverse.drop before.length)))))

/-! ### Frames -/

/-- The largest block of a frame. -/
def zstdBlockSize : Nat := 2 ^ 17

/-- A block of a kind (0 Raw, 2 Compressed) with its 3-byte header. -/
def zstdBlockBytes (last : Bool) (kind : Nat) (bs : List Byte) : List Byte :=
  valBytes 3 ((if last then 1 else 0) + 2 * kind + 8 * bs.length) ++ bs

/-- The blocks of a content from what stands before on: each is compressed where the part finds a shorter form that
decodes to its content, and Raw otherwise. -/
def zstdBlocks (compress : Bool) : Nat → ZstdState → List Byte → List Byte → List Byte
  | 0, _, _, _ => []
  | n + 1, st, before, rest =>
    let b := rest.take zstdBlockSize
    let last := decide (rest.length ≤ zstdBlockSize)
    let found := match Config.zstdBlock before b with
      | some c => (match zstdDecode st before c with
        | some (st1, b1) => if compress && decide (c.length < b.length) && decide (b1 = b) then some (st1, c) else none
        | none => none)
      | none => none
    let block := match found with
      | some (_, c) => zstdBlockBytes last 2 c
      | none => zstdBlockBytes last 0 b
    block ++ (if last then [] else zstdBlocks compress n ((found.map (·.1)).getD st) (before ++ b) (rest.drop zstdBlockSize))

/-- The frame of a shuffled chunk (R331): magic, descriptor (4-byte content size, one segment, checksum), content size,
blocks, checksum. Where compression does not make the blocks smaller than the content, they are all Raw. -/
def zstdFrame (bs : List Byte) : List Byte :=
  let n := bs.length / zstdBlockSize + 1
  let short := zstdBlocks true n ZstdState.start [] bs
  let blocks := if short.length < bs.length then short else zstdBlocks false n ZstdState.start [] bs
  valBytes 4 0xFD2FB528 ++ [0xA4#8] ++ valBytes 4 bs.length ++ blocks ++ valBytes 4 (xxh64 bs).toNat

end Sys2Proof
end

