-- ==== Sys2Proof/Machine/Memory.lean ====
section
/-! DEFINITION. The page: translation (R166 to R170), replayable faults and the fault buffer (R175, R176), access
tables and encryption (R177, R178), reading and writing translated places, and the scratchpad (R165, R174). -/
namespace Sys2Proof.Machine

/-! ### Who accesses, and where -/

/-- Who makes an access: context, access-table master (a context by ASID, or 0x10000 + unit code for an engine, log
entry 12), die of its fault buffer, the unit, slot and core of the buffer entry (R176), what waits on a fault, and
whether it is the device's own access to the image pool (R304). -/
structure Who where
  asid   : Nat
  master : Nat
  die    : Nat
  unit   : BitVec 4
  slot   : BitVec 6
  core   : BitVec 6
  waiter : Waiter
  own    : Bool

/-- The issuing unit of the current warp. -/
def State.who (s : State) : Who :=
  { asid := s.g.asid, master := s.g.asid, die := dieOf s.g.core, unit := 0, slot := BitVec.ofNat 6 s.w.slot,
    core := BitVec.ofNat 6 (s.g.core % 48), waiter := .unit s.cur s.me, own := false }

/-- An engine of a die, for a context. -/
def engineWho (asid die : Nat) (unit : BitVec 4) (slot core : Nat) (w : Waiter) : Who :=
  { asid := asid, master := 0x10000 + unit.toNat, die := die, unit := unit, slot := BitVec.ofNat 6 slot,
    core := BitVec.ofNat 6 core, waiter := w, own := false }

/-- A translated byte's place: local HBM under a key id, or a remote page (R167). -/
inductive Place where
  | here (pa key : Nat)
  | away (host : Bool) (dev : BitVec 18) (pa : Nat)
  deriving DecidableEq

/-- Consecutive bytes from a place on. -/
abbrev Segs := List (Place × Nat)

/-- Access kinds of R176. -/
abbrev accRead : BitVec 2 := 0
abbrev accWrite : BitVec 2 := 1
abbrev accAtomic : BitVec 2 := 2
abbrev accFetch : BitVec 2 := 3

/-! ### Reading and writing local HBM (R177, R188) -/

/-- A block is about to be written in L2: HBM keeps what it held (R188). -/
def State.touch (s : State) (block : Nat) : State :=
  if (Table.find s.dirty block).isSome then s
  else
    let old := (Memory.readBytes s.mem (64 * block) 64, Table.get 0#512 s.keyOf block)
    { s with dirty := Table.set s.dirty block old }

/-- The target's access table denies the master (R178). Targets are the HBM controllers of die 0 to 3, link port p as
4 + p, the sorting office of die d as 16 + d, the control complex as 20 (log entry 12). -/
def State.tableDenies (s : State) (target master : Nat) (kind : BitVec 2) : Bool :=
  let r := Table.get 0#2 s.access (2 ^ 20 * target + master)
  (decide (kind ≠ accWrite) && r.getLsbD 0) || ((decide (kind = accWrite) || decide (kind = accAtomic)) && r.getLsbD 1)

/-- The key in a slot. -/
def State.keyIn (s : State) (key : Nat) : BitVec 512 := Table.get 0#512 s.keys key

/-- The key a 64-byte block was last written under. -/
def State.blockKey (s : State) (block : Nat) : BitVec 512 := Table.get 0#512 s.keyOf block

/-- The bytes of a block as they read under a key id: the decryption under that key (R177). -/
def State.blockUnder (s : State) (block key : Nat) : List Byte :=
  let bs := Memory.readBytes s.mem (64 * block) 64
  if s.blockKey block = s.keyIn key then bs else rekey (s.blockKey block) (s.keyIn key) block bs

/-- A byte of local HBM read under a key id. -/
def State.loadByte (s : State) (pa key : Nat) : Byte :=
  if s.blockKey (pa / 64) = s.keyIn key then Memory.read s.mem pa else (s.blockUnder (pa / 64) key).getD (pa % 64) 0

/-- A byte of local HBM written under a key id: its whole 64-byte block is encrypted under that key. -/
def State.storeByte (s : State) (pa key : Nat) (b : Byte) : State :=
  let s0 := s.touch (pa / 64)
  let s1 := if s.blockKey (pa / 64) = s.keyIn key then s0
    else
      let bs := s.blockUnder (pa / 64) key
      { s0 with mem := Memory.writeBytes s.mem (64 * (pa / 64)) bs, keyOf := Table.put 0#512 s.keyOf (pa / 64) (s.keyIn key) }
  { s1 with mem := Memory.write s1.mem pa b }

def State.loadBytes (s : State) (pa key : Nat) : Nat → List Byte
  | 0 => []
  | n + 1 => s.loadByte pa key :: State.loadBytes s (pa + 1) key n

def State.putBytesAt (s : State) (pa key : Nat) : List Byte → State
  | [] => s
  | b :: bs => State.putBytesAt (s.storeByte pa key b) (pa + 1) key bs

/-! ### Pages that a checkpoint has marked (R330, R331) -/

/-- The checkpoint engine as an agent (R175: the buffer of CD0). -/
def ckptMaster : Nat := 0x10008

/-- An RDMA WRITE of the checkpoint engine (R329). -/
def State.toStore (s : State) (c : Checkpoint) (a : W64) (bs : List Byte) : State :=
  { s with store := s.store ++ [{ id := s.nextId, qp := c.qp, key := c.key, addr := a, data := bs }], nextId := s.nextId + 1,
           ckpt := some { c with unacked := c.unacked ++ [s.nextId] } }

/-- Byte planes of a chunk (R331): byte i*w + j becomes byte j*N + i. -/
def bytePlanes (w : Nat) (bs : List Byte) : List Byte :=
  let m := Table.compress 0#8 0 bs
  (List.range w).flatMap (fun j => (List.range (bs.length / w)).map (fun i => Table.get 0#8 m (i * w + j)))

/-- The chunk's pages have all been copied, and it has no frame yet. -/
def Checkpoint.chunkReady (c : Checkpoint) (chunk : Nat) : Bool :=
  !c.pages.any (fun p => decide (p.number / 1024 = chunk)) && !c.frames.any (fun f => decide (f.1 = chunk))

/-- Write the frame of a chunk to the slot. -/
def State.frameChunk (s : State) (c : Checkpoint) (chunk : Nat) : State :=
  let bs := zstdFrame (bytePlanes c.width (Memory.readBytes c.copied (2 ^ 22 * chunk) (2 ^ 22)))
  s.toStore { c with frames := c.frames ++ [(chunk, c.next, bs.length)], next := c.next + bs.length } (c.slotBase + BitVec.ofNat 64 c.next) bs

/-- Once the zeroed magic has been acknowledged, the frames of the chunks listed that are ready are written in turn. -/
def State.emitFrames (s : State) : List Nat → State
  | [] => s
  | k :: ks => match s.ckpt with
    | none => s
    | some c => State.emitFrames (if c.stage = 1 && c.chunkReady k then s.frameChunk c k else s) ks

/-- The chunks of a range. -/
def Checkpoint.chunks (c : Checkpoint) : List Nat := List.range (c.bytes / 2 ^ 22)

/-- The contents of a marked page at the cut: it has not changed since. None where the engine is denied. -/
def State.cutHere (s : State) (q : Nat) : Option Nat → Option (List Byte)
  | none => some (Memory.readBytes s.mem (4096 * q) 4096)
  | some k =>
    if s.tableDenies (4096 * q / 2 ^ 38) ckptMaster accRead || (Table.find s.keys k).isNone then none
    else some (s.loadBytes (4096 * q) k 4096)

/-- The engine has the contents of a page: it is copied, and its chunk's frame may be written. -/
def State.tookCut (s : State) (c : Checkpoint) (p : CutPage) (bs : List Byte) : State :=
  State.emitFrames { s with ckpt := some { c with pages := c.pages.filter (fun x => x.number ≠ p.number),
                                                  copied := Memory.writeBytes c.copied (4096 * p.number) bs } } [p.number / 1024]

/-- Copy a marked page. -/
def State.copyCut (s : State) (p : CutPage) : State :=
  match s.ckpt, p.page with
  | some c, some q => (match s.cutHere q p.key with
    | some bs => s.tookCut c p bs
    | none => { s with ckpt := some { c with failed := true } })
  | _, _ => s

/-- The checkpoint at work has still to copy the physical 4 KiB page of an address. -/
def State.marked (s : State) (pa : Nat) : Bool :=
  match s.ckpt with
  | none => false
  | some c => !c.failed && c.pages.any (fun p => decide (p.page = some (pa / 4096)))

/-- A write of n bytes from pa on is held until the engine has copied the marked pages it touches, which it does next; then
the write is performed (R330). The copy takes no time of its own in the model (log entry 21). -/
def State.copyFirst (s : State) (pa n : Nat) : State :=
  match s.ckpt with
  | none => s
  | some c =>
    if c.failed then s
    else (c.pages.filter (fun p => match p.page with
      | some q => decide (pa / 4096 ≤ q) && decide (q ≤ (pa + n - 1) / 4096)
      | none => false)).foldl State.copyCut s

/-- Bytes of local HBM written under a key id. -/
def State.storeBytes (s : State) (pa key : Nat) (bs : List Byte) : State := (s.copyFirst pa bs.length).putBytesAt pa key bs

/-- Bytes stored by the device under no page table entry, as they are (log entry 11). -/
def State.physStore (s : State) (pa : Nat) (bs : List Byte) : State :=
  let s1 := s.copyFirst pa bs.length
  { (List.range' (pa / 64) (bs.length / 64 + 2)).foldl State.touch s1 with mem := Memory.writeBytes s1.mem pa bs }

/-! ### The walk -/

/-- A 64-bit little-endian word of local HBM as it was written (log entry 11: a physical access has no key id). -/
def State.phys64 (s : State) (a : Nat) : W64 := BitVec.ofNat 64 (Memory.readN s.mem a 8)

/-- Bits hi to lo of an entry as a number. -/
def bitsOf (e : W64) (hi lo : Nat) : Nat := (e >>> lo).toNat % 2 ^ (hi - lo + 1)

/-- Size of the page that a leaf of a level maps (R166). -/
def pageSize (level : Nat) : Nat := 2 ^ (12 + 9 * (level - 1))

/-- The entry is a remote leaf (RM). -/
def leafRemote (e : W64) : Bool := e.getLsbD 8

/-- A leaf is malformed (R168). PA[39:38] of a local frame always names one of the four dies. -/
def leafBad (e : W64) (level : Nat) : Bool :=
  let lo := if leafRemote e then 14 else 24
  decide (4 ≤ level) || decide (bitsOf e 10 9 = 3) ||
  (if leafRemote e then decide (bitsOf e 63 61 ≠ 0) || e.getLsbD 13 else decide (bitsOf e 63 52 ≠ 0)) ||
  (decide (level = 2) && decide (bitsOf e (lo + 8) lo ≠ 0)) ||
  (decide (level = 3) && decide (bitsOf e (lo + 17) lo ≠ 0))

/-- A table pointer is malformed (R167, R168). -/
def pointerBad (e : W64) (level : Nat) : Bool :=
  decide (level ≤ 1) || decide (bitsOf e 63 52 ≠ 0) || decide (bitsOf e 23 5 ≠ 0) || decide (bitsOf e 3 1 ≠ 0)

/-- What a walk ends with: a leaf, its address and level, or a fault with its cause and level. -/
inductive Walk where
  | leaf (at_ : Nat) (e : W64) (level : Nat)
  | fault (cause level : BitVec 3)

/-- The walk through the tables of the levels listed (R166 to R168). -/
def State.walkFrom (s : State) (va : Nat) : List Nat → Nat → Walk
  | [], _ => .fault 5 0
  | l :: ls, table =>
    let a := table + 8 * (va / pageSize l % 512)
    let e := s.phys64 a
    if !e.getLsbD 0 then .fault 0 (BitVec.ofNat 3 l)
    else if e.getLsbD 4 then (if leafBad e l then .fault 5 (BitVec.ofNat 3 l) else .leaf a e l)
    else if pointerBad e l then .fault 5 (BitVec.ofNat 3 l)
    else State.walkFrom s va ls (bitsOf e 51 24 * 4096)

/-- The walk of a context's address; an address with bits [63:57] not zero does not translate (R166). -/
def State.walk (s : State) (asid va : Nat) : Walk :=
  if 2 ^ 57 ≤ va then .fault 4 0 else s.walkFrom va [5, 4, 3, 2, 1] (s.ctxAt asid).root.toNat

/-- The cached translation of an address, if any (R170). -/
def State.cached (s : State) (asid va : Nat) : Option Tlb :=
  s.tlb.find? (fun t => decide (t.asid = asid) && decide (t.base ≤ va) && decide (va < t.base + t.size))

/-- The level whose pages have a size. -/
def levelOf (size : Nat) : Nat := if size = pageSize 1 then 1 else if size = pageSize 2 then 2 else 3

/-- The walk, or a translation cached before a change: which of the two is a free value (R170). -/
def State.lookup (s : State) (asid va : Nat) : State × Walk :=
  let fresh := s.walk asid va
  match s.cached asid va with
  | none => (s, fresh)
  | some t =>
    let same := match fresh with
      | .leaf a e l => decide (a = t.at_) && decide (e ||| 0xC0#64 = t.leaf ||| 0xC0#64) && decide (l = levelOf t.size)
      | .fault _ _ => false
    if same then (s, fresh)
    else ({ s with freeCount := s.freeCount + 1 },
          if Config.staleTlb s.freeCount then .leaf t.at_ t.leaf (levelOf t.size) else fresh)

/-- The cause of a permission fault (R168). -/
def denies (e : W64) (kind : BitVec 2) : Option (BitVec 3) :=
  if kind = accFetch then (if e.getLsbD 3 then none else some 3)
  else if kind = accWrite then (if e.getLsbD 2 then none else some 2)
  else if !e.getLsbD 1 then some 1
  else if kind = accAtomic && !e.getLsbD 2 then some 2
  else none

/-- The A and D bits an access sets in its leaf (R170). -/
def usedBits (kind : BitVec 2) : W64 := if kind = accWrite || kind = accAtomic then 0xC0#64 else 0x40#64

/-- The place of an address inside a leaf's page (R167). -/
def placeIn (e : W64) (level va : Nat) : Place :=
  let off := va % pageSize level
  if leafRemote e then
    if e.getLsbD 60 then .away true 0 (bitsOf e 59 42 * 2 ^ 40 + bitsOf e 41 14 * 4096 + off)
    else .away false (BitVec.ofNat 18 (bitsOf e 59 42)) (bitsOf e 41 14 * 4096 + off)
  else .here (bitsOf e 51 24 * 4096 + off) (bitsOf e 23 15)

/-- The walker sets A and D where they are clear, by an OR at the entry's home before the access, and the translation is
cached (R170). -/
def State.useLeaf (s : State) (asid va : Nat) (kind : BitVec 2) (a : Nat) (e : W64) (level : Nat) : State :=
  let e' := e ||| usedBits kind
  let s0 := s.copyFirst a 8
  let s1 := if e' = e then s else { s0.touch (a / 64) with mem := Memory.writeN s0.mem a 8 ((s0.phys64 a) ||| usedBits kind).toNat }
  let t : Tlb := { asid := asid, base := va / pageSize level * pageSize level, size := pageSize level, leaf := e', at_ := a }
  if s.cached asid va = some t then s1
  else { s1 with tlb := t :: s1.tlb.filter (fun x => !(decide (x.asid = asid) && decide (x.base = t.base))) }

/-! ### Checks at the target (R177, R178, R304) -/

/-- The port that leads to a device (R323), 15 for unreachable. -/
def State.routeOf (s : State) (dev : BitVec 18) : BitVec 4 := Table.get 15#4 s.routes dev.toNat

/-- The place may not be accessed by this master: a denial, or a key slot that holds no key. A device's page is reached
through the link port of its route, or over the Ethernet port of its connection (log entry 12). -/
def State.placeDenied (s : State) (w : Who) (kind : BitVec 2) : Place → Bool
  | .here pa key => s.tableDenies (pa / 2 ^ 38) w.master kind || (Table.find s.keys key).isNone
  | .away true _ _ => false
  | .away false dev _ =>
    let r := (s.routeOf dev).toNat
    if r < 12 then s.tableDenies (4 + r) w.master kind
    else match Table.find s.conns dev.toNat with
      | some (port, _) => decide (r = 12) && s.tableDenies (24 + port) w.master kind
      | none => false

/-- The address lies in the context's image pool, which no program or engine may reach (R304). -/
def State.inPool (s : State) (asid va : Nat) : Bool :=
  let c := s.ctxAt asid
  decide (c.pool.toNat ≤ va) && decide (va < c.pool.toNat + 0x800000 * c.slots)

/-! ### Translating the bytes of an access -/

/-- What an attempt to access gives: a value, a fault (which byte, cause and level), a denial. -/
inductive Xlate where
  | ok (p : Segs)
  | fault (va : Nat) (cause level : BitVec 3)
  | denied

/-- Translate the bytes of an access that lie in one 4 KiB page. -/
def State.xlatePage (s : State) (w : Who) (kind : BitVec 2) (va n : Nat) : State × Xlate :=
  if !w.own && s.inPool w.asid va then (s, .denied)
  else
    match s.lookup w.asid va with
    | (s1, .fault c l) => (s1, .fault va c l)
    | (s1, .leaf a e l) =>
      match denies e kind with
      | some c => (s1, .fault va c (BitVec.ofNat 3 l))
      | none =>
        let s2 := s1.useLeaf w.asid va kind a e l
        let p := placeIn e l va
        if s2.placeDenied w kind p then (s2, .denied) else (s2, .ok [(p, n)])

/-- Translate n bytes from va on, page by page (R173). -/
def State.xlate (s : State) (w : Who) (kind : BitVec 2) (va n : Nat) : Nat → State × Xlate
  | 0 => (s, .ok [])
  | fuel + 1 =>
    let k := min n (4096 - va % 4096)
    match s.xlatePage w kind va k with
    | (s1, .ok p) =>
      if n ≤ k then (s1, .ok p)
      else match State.xlate s1 w kind (va + k) (n - k) fuel with
        | (s2, .ok q) => (s2, .ok (p ++ q))
        | r => r
    | r => r

/-- The number of pages n bytes can touch. -/
def pagesFor (n : Nat) : Nat := n / 4096 + 2

/-- Translate the runs of bytes of one access. -/
def State.xlateRuns (s : State) (w : Who) (kind : BitVec 2) : List (Nat × Nat) → State × Xlate
  | [] => (s, .ok [])
  | (va, n) :: rs =>
    match s.xlate w kind va n (pagesFor n) with
    | (s1, .ok p) => (match State.xlateRuns s1 w kind rs with
      | (s2, .ok q) => (s2, .ok (p ++ q))
      | r => r)
    | r => r

/-! ### Fault buffer (R175, R176) -/

/-- The outcome of an attempt to access. -/
inductive Got (α : Type) where
  | ok (s : State) (a : α)
  | fault (s : State) (die index : Nat)
  | full (s : State)
  | denied (s : State)
  | wait (s : State)

/-- The entry of a fault buffer with the same ASID, 4 KiB page and access kind. -/
def State.sharedFault (s : State) (die asid : Nat) (kind : BitVec 2) (va : Nat) : Option Nat :=
  (s.faults.find? (fun x => decide (x.1 / 1024 = die) && decide (x.2.asid = BitVec.ofNat 16 asid) &&
    decide (x.2.access = kind) && decide (x.2.va.toNat / 4096 = va % 2 ^ 57 / 4096))).map (fun x => x.1 % 1024)

/-- Take or share an entry for a fault; a full buffer holds the unit at the access. -/
def State.takeFault (s : State) (w : Who) (kind : BitVec 2) (va : Nat) (cause level : BitVec 3) : Got Segs :=
  match s.sharedFault w.die w.asid kind va with
  | some i =>
    let s1 := { s with faults := s.faults.map (fun x =>
      if x.1 = 1024 * w.die + i ∧ w.waiter ∉ x.2.waiters then (x.1, { x.2 with waiters := x.2.waiters ++ [w.waiter] }) else x) }
    .fault s1 w.die i
  | none =>
    match Table.freeFrom s.faults (1024 * w.die) 1024 with
    | none => .full s
    | some k =>
      let e : FaultEntry :=
        { asid := BitVec.ofNat 16 w.asid, slot := w.slot, core := w.core, unit := w.unit, level := level,
          access := kind, cause := cause, va := BitVec.ofNat 57 va, waiters := [w.waiter] }
      .fault { s with faults := Table.set s.faults k e } w.die (k - 1024 * w.die)

/-- Translate an access; a fault takes its entry. -/
def State.reach (s : State) (w : Who) (kind : BitVec 2) (runs : List (Nat × Nat)) : Got Segs :=
  match s.xlateRuns w kind runs with
  | (s1, .ok p) => .ok s1 p
  | (s1, .fault va c l) => s1.takeFault w kind va c l
  | (s1, .denied) => .denied s1

/-- Translate the accesses of the lanes of an instruction; none is performed unless all translate (R175). -/
def State.reachLanes (s : State) (w : Who) (kind : BitVec 2) : List (Nat × List (Nat × Nat)) → Got (List (Nat × Segs))
  | [] => .ok s []
  | (L, runs) :: rest =>
    match s.reach w kind runs with
    | .ok s1 p => (match State.reachLanes s1 w kind rest with
      | .ok s2 q => .ok s2 ((L, p) :: q)
      | .fault s2 d i => .fault s2 d i
      | .full s2 => .full s2
      | .denied s2 => .denied s2
      | .wait s2 => .wait s2)
    | .fault s1 d i => .fault s1 d i
    | .full s1 => .full s1
    | .denied s1 => .denied s1
    | .wait s1 => .wait s1

/-! ### Remote accesses (R319 to R325) -/

/-- The access is request `tag` of an owner. -/
def Access.isOf (o : Waiter) (tag : Nat) (a : Access) : Bool := a.write.isNone && decide (a.owner = o) && decide (a.tag = tag)

/-- The answer to a request, if it has come. -/
def State.answer (s : State) (o : Waiter) (tag : Nat) : Option (List Byte) := (s.pending.find? (Access.isOf o tag)).bind (·.answer)

/-- Two owners are one agent: the units of a warp are, whatever their keys have become (R172, R216). -/
def Waiter.same : Waiter → Waiter → Bool
  | .unit w _, .unit w' _ => decide (w = w')
  | a, b => decide (a = b)

/-- A posted access of an agent has not been performed: what follows it in the agent's order waits (R172). -/
def State.unperformedBy (s : State) (o : Waiter) : Bool := s.pending.any (fun a => a.posted && a.answer.isNone && o.same a.owner)

/-- Queue a remote access. -/
def State.request (s : State) (o : Waiter) (tag : Nat) (host : Bool) (dev : BitVec 18) (pa n : Nat)
    (write : Option (List Byte)) (atomic : Option (BitVec 4 × W64 × W64)) : State :=
  { s with nextId := s.nextId + 1, pending := s.pending ++
      [{ id := s.nextId, host := host, dev := dev, addr := pa, write := write, bytes := n, atomic := atomic, owner := o, tag := tag, via := none, answer := none }] }

/-- Ask for the remote bytes of an access that have not been asked for. -/
def State.ask (s : State) (o : Waiter) (tag : Nat) : Segs → State
  | [] => s
  | (.here _ _, _) :: r => State.ask s o (tag + 1) r
  | (.away h d pa, n) :: r =>
    State.ask (if s.pending.any (Access.isOf o tag) then s else s.request o tag h d pa n none none) o (tag + 1) r

/-- The bytes of an access; none while a remote answer is outstanding. -/
def State.segBytes (s : State) (o : Waiter) (tag : Nat) : Segs → Option (List Byte)
  | [] => some []
  | (.here pa key, n) :: r => (State.segBytes s o (tag + 1) r).map (s.loadBytes pa key n ++ ·)
  | (.away _ _ _, n) :: r =>
    match s.answer o tag with
    | none => none
    | some bs => (State.segBytes s o (tag + 1) r).map ((bs ++ List.replicate n 0#8).take n ++ ·)

/-- The tag of the read of an update of a barrier object on a remote page, and of the write that follows it. -/
def objectTag : Nat := 48

/-- The answers of an owner have been taken. -/
def State.forget (s : State) (o : Waiter) : State :=
  { s with pending := s.pending.filter (fun a => !(decide (a.owner = o) && a.answer.isSome)) }

/-- An owner asks for nothing any more: what it has asked for goes unused. -/
def State.dropAsked (s : State) (o : Waiter) : State :=
  { s with pending := s.pending.filter (fun a => a.posted || decide (a.owner ≠ o)) }

/-- Tags of one access: a lane's runs take tags from 64 times the lane on. -/
def tagOf (L : Nat) : Nat := 64 * L

/-- Store bytes to the places of an access in order: at once, or posted to a remote page. -/
def State.storeSegs (s : State) (o : Waiter) : Segs → List Byte → State
  | [], _ => s
  | (.here pa key, n) :: r, bs => State.storeSegs (s.storeBytes pa key (bs.take n)) o r (bs.drop n)
  | (.away h d pa, n) :: r, bs =>
    State.storeSegs (s.request o 0 h d pa n (some (bs.take n)) none) o r (bs.drop n)

/-! ### Accesses of engines -/

/-- Read n bytes for an engine or for the device. -/
def State.fetchBytes (s : State) (w : Who) (va n : Nat) : Got (List Byte) :=
  match s.reach w accRead [(va, n)] with
  | .ok s1 p => (match s1.segBytes w.waiter 0 p with
    | some bs => .ok (s1.forget w.waiter) bs
    | none => .wait (s1.ask w.waiter 0 p))
  | .fault s1 d i => .fault s1 d i
  | .full s1 => .full s1
  | .denied s1 => .denied s1
  | .wait s1 => .wait s1

/-- Write bytes for an engine or for the device. -/
def State.putBytes (s : State) (w : Who) (va : Nat) (bs : List Byte) : Got Unit :=
  match s.reach w accWrite [(va, bs.length)] with
  | .ok s1 p => .ok (s1.storeSegs w.waiter p bs) ()
  | .fault s1 d i => .fault s1 d i
  | .full s1 => .full s1
  | .denied s1 => .denied s1
  | .wait s1 => .wait s1

/-- Continue with the value of an access. -/
def Got.bind {α β : Type} : Got α → (State → α → Got β) → Got β
  | .ok s a, f => f s a
  | .fault s d i, _ => .fault s d i
  | .full s, _ => .full s
  | .denied s, _ => .denied s
  | .wait s, _ => .wait s

/-- Read one little-endian 64-bit word. -/
def State.fetch64 (s : State) (w : Who) (va : Nat) : Got W64 :=
  (s.fetchBytes w va 8).bind (fun s1 bs => .ok s1 (BitVec.ofNat 64 (bytesVal bs)))

/-- Group bytes into little-endian 64-bit words. -/
def words64 : Nat → List Byte → List W64
  | 0, _ => []
  | n + 1, bs => BitVec.ofNat 64 (bytesVal (bs.take 8)) :: words64 n (bs.drop 8)

/-- Group bytes into little-endian 32-bit words. -/
def words32 : Nat → List Byte → List W32
  | 0, _ => []
  | n + 1, bs => BitVec.ofNat 32 (bytesVal (bs.take 4)) :: words32 n (bs.drop 4)

/-- Read k consecutive 64-bit words. -/
def State.fetchWords (s : State) (w : Who) (va k : Nat) : Got (List W64) :=
  (s.fetchBytes w va (8 * k)).bind (fun s1 bs => .ok s1 (words64 k bs))

/-! ### Actions of several accesses -/

/-- Read n bytes as one part of an action: remote answers stay until the action is complete. -/
def State.partBytes (s : State) (w : Who) (va n : Nat) : Got (List Byte) :=
  match s.reach w accRead [(va, n)] with
  | .ok s1 p => (match s1.segBytes w.waiter (64 * va) p with
    | some bs => .ok s1 bs
    | none => .wait (s1.ask w.waiter (64 * va) p))
  | .fault s1 d i => .fault s1 d i
  | .full s1 => .full s1
  | .denied s1 => .denied s1
  | .wait s1 => .wait s1

/-- The little-endian value of n bytes, as one part of an action. -/
def State.readVal (s : State) (w : Who) (va n : Nat) : Got Nat :=
  (s.partBytes w va n).bind (fun s1 bs => .ok s1 (bytesVal bs))

/-- An action is performed as a whole: where one of its accesses does not succeed, none of its writes is performed, and
only the fault it took, or the remote requests it made, remain. It waits for what its agent has posted before. -/
def Got.atomic {α : Type} (s0 : State) (w : Waiter) (g : Got α) : Got α :=
  if s0.unperformedBy w then .wait s0
  else match g with
  | .ok s1 a => .ok (s1.forget w) a
  | .fault s1 d i => .fault { s0 with faults := s1.faults } d i
  | .full _ => .full s0
  | .denied _ => .denied s0
  | .wait s1 => .wait { s0 with pending := s1.pending, nextId := s1.nextId }

/-! ### Units at a failed access -/

/-- Park the issuing unit. -/
def State.park (s : State) (p : Park) : State := s.setU { s.u with park := p }

/-- What an instruction of a unit does when its access did not succeed: it has issued, and parks at the fault (R38, R175),
is held while the buffer is full or until a remote answer comes, or ends the fault domain (R178). -/
def Got.eff {α : Type} (g : Got α) (f : State → α → Eff) : Eff :=
  match g with
  | .ok s a => f s a
  | .fault s d i => .held (s.park (.fault d i))
  | .full s => .held s
  | .denied s => .moved s.uncontained
  | .wait s => .held s

/-! ### Scratchpad (R165, R174) -/

/-- Size of a workgroup's scratchpad in bytes. -/
def State.spadSize (s : State) (g : Workgroup) : Nat := 128 * (s.launchAt g.launch).lines

/-- The n bytes from o on all lie in present lines (R174). -/
def Workgroup.present (g : Workgroup) (o n : Nat) : Bool :=
  g.absent.all (fun l => !(decide (o / 128 ≤ l) && decide (l ≤ (o + n - 1) / 128)))

/-- The lines of a run of bytes. -/
def linesOf (o n : Nat) : List Nat := if n = 0 then [] else List.range' (o / 128) ((o + n - 1) / 128 - o / 128 + 1)

/-- Clear presence bits. -/
def Workgroup.clearLines (g : Workgroup) (ls : List Nat) : Workgroup :=
  { g with absent := ls.filter (fun l => !g.absent.contains l) ++ g.absent }

/-- Set a presence bit. -/
def Workgroup.setLine (g : Workgroup) (l : Nat) : Workgroup := { g with absent := g.absent.filter (fun x => x ≠ l) }

/-! ### Private scratch (R164) -/

/-- The global address of byte o of lane L's private scratch. -/
def scratchAddr (base o L : Nat) : Nat := base + o / 4 * 128 + 4 * L + o % 4

/-- scrbase of a warp (R164). -/
def State.scrbase (s : State) (wg : Workgroup) (wwarp : Nat) : Nat :=
  let c := s.ctxAt wg.asid
  c.scratch.toNat + 1024 * c.perLane.toNat * (wg.image.getD 0) + 32 * c.perLane.toNat * wwarp

end Sys2Proof.Machine
end

