-- ==== Sys2Proof/Machine/Lines.lean ====
section
/-! DEFINITION. The device's own accesses to the image pool (R304), the register cache of a core (R10, R25, R314), and
the overflow area of loop bodies (R139). -/
namespace Sys2Proof.Machine

/-! ### Where a workgroup's image lies -/

/-- Base of an image slot. -/
def State.slotBase (s : State) (g : Workgroup) (i : Nat) : Nat := (s.ctxAt g.asid).pool.toNat + 0x800000 * i

/-- The device's own accesses to the pool for a workgroup. -/
def State.poolWho (_s : State) (g : Workgroup) : Who :=
  { asid := g.asid, master := g.asid, die := dieOf g.core, unit := 0, slot := 0, core := BitVec.ofNat 6 (g.core % 48),
    waiter := .other g.asid, own := true }

/-- An access of the pool for a workgroup met a translation fault or a denial: an uncontained error of its domain, and no
entry of a fault buffer (R304). A write there is never held: `State.putBytes` answers nothing else. -/
def State.poolError (s : State) (g : Workgroup) : State := s.endDomain g.asid (s.launchAt g.launch).domain

/-- Write runs of bytes at offsets from a base. -/
def State.putAt (s : State) (who : Who) (base : Nat) : List (Nat × List Byte) → Got Unit
  | [] => .ok s ()
  | (o, bs) :: r => (s.putBytes who (base + o) bs).bind (fun s _ => State.putAt s who base r)

/-- Offset of a warp's record in the group image (R305). -/
def Warp.recordAt (w : Warp) : Nat := 0x10000 + 0x2000 * w.index

/-! ### Loop bodies beyond the loop buffer (R139) -/

/-- The words of the active bodies beyond the 256th, in order of activation. -/
def Warp.spilled (w : Warp) : List W32 := (w.loops.flatMap (·.words)).drop 256

/-- A loop has started: body words beyond the buffer are copied to the overflow area of the warp's record. -/
def State.spillBodies (s : State) : Eff :=
  match s.g.image with
  | none => .done s
  | some i =>
    if s.w.spilled.isEmpty then .done s
    else match s.putBytes (s.poolWho s.g) (s.slotBase s.g i + s.w.recordAt + 0x1000) (s.w.spilled.flatMap (fun x => valBytes 4 x.toNat)) with
      | .ok s1 _ => .done s1
      | _ => .moved (s.poolError s.g)

/-! ### Register lines -/

/-- Address of line e of a warp's register area (R25, R304). -/
def State.lineAddr (s : State) (w : Warp) (e : Nat) : Nat :=
  let g := s.wgAt w.wg
  s.slotBase g (g.image.getD 0) + 0x400000 + w.index * (s.launchAt g.launch).alloc * 128 + 128 * e

/-- Write lines of a warp to its register area. -/
def State.putLines (s : State) (warp : Nat) : List Nat → Got Unit
  | [] => .ok s ()
  | e :: es =>
    let w := s.warpAt warp
    (s.putBytes (s.poolWho (s.wgAt w.wg)) (s.lineAddr w e) ((List.range 32).flatMap (fun L => valBytes 4 (w.vreg e L).toNat))).bind
      (fun s _ => State.putLines s warp es)

/-- The lines of a warp that its core's register cache holds. -/
def State.cachedLines (s : State) (warp : Nat) : List Nat :=
  let w := s.warpAt warp
  (List.range (s.launchAt (s.wgAt w.wg).launch).alloc).filter (fun e => !w.evicted.contains e)

/-- Write the cached lines of warps to their areas; `drop` takes them out of the cache. -/
def State.putCached (s : State) (drop : Bool) : List Nat → Got Unit
  | [] => .ok s ()
  | k :: ks => (s.putLines k (s.cachedLines k)).bind (fun s _ =>
    let w := s.warpAt k
    let all := List.range (s.launchAt (s.wgAt w.wg).launch).alloc
    State.putCached (if drop then s.setWarp k { w with evicted := all } else s) drop ks)

/-- Lines that the register cache of a core has room for: 1 MiB (R10). -/
def cacheLines : Nat := 8192

/-- The workgroup has lines in the register cache of a core: it is resident there, or was there last (R314). -/
def Workgroup.cachedOn (g : Workgroup) (core : Nat) : Bool :=
  decide (g.core = core) && (decide (g.phase = .resident) || decide (g.phase = .leaving) || decide (g.phase = .switchedOut))

/-- Lines that the register cache of a core holds. -/
def State.cacheUse (s : State) (core : Nat) : Nat :=
  ((s.wgs.filter (fun x => x.2.cachedOn core)).flatMap (fun x => x.2.warps.map (fun k => (s.cachedLines k).length))).sum

/-- A line that the core's cache may give up: one of a switched-out workgroup, or any where the cache is full. -/
def State.evictable (s : State) (core : Nat) (full : Bool) (v : Nat × Nat) : Bool :=
  let g := s.wgAt (s.warpAt v.1).wg
  g.cachedOn core && g.warps.contains v.1 && (s.cachedLines v.1).contains v.2 && (full || decide (g.phase = .switchedOut))

/-- The line a full cache gives up where nothing names one: of a switched-out workgroup first, else the last of the last
warp (DESIGN CHOICE: R25 and R314 name no order). -/
def State.victimOn (s : State) (core : Nat) : Option (Nat × Nat) :=
  let lines := fun (p : Workgroup → Bool) => ((s.wgs.filter (fun x => x.2.cachedOn core && p x.2)).flatMap (fun x =>
    x.2.warps.flatMap (fun k => (s.cachedLines k).map (fun e => (k, e))))).getLast?
  (lines (fun g => decide (g.phase = .switchedOut))).orElse (fun _ => lines (fun _ => true))

/-- A line is written to its register area and leaves the cache (R314). -/
def State.evictLine (s : State) (v : Nat × Nat) : State :=
  match s.putLines v.1 [v.2] with
  | .ok s1 _ => s1.setWarp v.1 { s1.warpAt v.1 with evicted := v.2 :: (s1.warpAt v.1).evicted }
  | _ => s.poolError (s.wgAt (s.warpAt v.1).wg)

/-- Write lines out until the cache of a core holds no more than it has room for. -/
def State.makeRoom (s : State) (core : Nat) : Nat → State
  | 0 => s
  | n + 1 =>
    if s.cacheUse core ≤ cacheLines then s
    else match s.victimOn core with
      | some v => State.makeRoom (s.evictLine v) core n
      | none => s

/-- The cache of a core has room for one more line, a line having left it where it must or where one was named. -/
def State.roomForLine (s : State) (core : Nat) (victim : Option (Nat × Nat)) : State :=
  let full := decide (cacheLines ≤ s.cacheUse core)
  match victim with
  | some v =>
    if s.evictable core full v then s.evictLine v
    else if full then (s.victimOn core).elim s s.evictLine else s
  | none => if full then (s.victimOn core).elim s s.evictLine else s

/-- REGISTER_LINE_FILL (R25, R314): a missed line arrives from the warp's register area, in the place of another where the
cache is full. -/
def execRegisterLineFill (warp line : Nat) (victim : Option (Nat × Nat)) (s : State) : Host.Outcome State Fault Refusal :=
  let w := s.warpAt warp
  let g := s.wgAt w.wg
  if g.phase ≠ .resident ∨ w.evicted.contains line = false then .next s
  else match (s.partBytes (s.poolWho g) (s.lineAddr w line) 128).atomic s (.other g.asid) with
    | .ok s1 bs =>
      let s2 := s1.roomForLine g.core victim
      let w1 := (s2.warpAt warp).setVreg (BitVec.allOnes 32) line (fun L => (words32 32 bs).getD L 0)
      .next (if (s2.wgAt w.wg).phase = .resident then s2.setWarp warp { w1 with evicted := w1.evicted.filter (fun x => x ≠ line) } else s2)
    | .wait s1 => .next s1
    | _ => .next (s.poolError g)

end Sys2Proof.Machine
end

