-- ==== Sys2Proof/Machine/Flags.lean ====
section
/-! DEFINITION. %fflags (R58): the five flag bits, the integer computations that saturate, carry or compare, at any
width N (R75 to R83). -/
namespace Sys2Proof.Machine

abbrev NX : BitVec 5 := 1
abbrev UF : BitVec 5 := 2
abbrev OF : BitVec 5 := 4
abbrev DZ : BitVec 5 := 8
abbrev NV : BitVec 5 := 16
abbrev noFlags : BitVec 5 := 0

/-- The flag where a condition holds. -/
def flagIf (c : Bool) (f : BitVec 5) : BitVec 5 := if c then f else 0

/-- The OR of the flags of the lanes of a set (R58). -/
def flagsOf (act : Lanes) (f : Nat → BitVec 5) : BitVec 5 := (Lanes.list act).foldl (fun x L => x ||| f L) 0

/-- Clamp an exact value to a range; OF where the value changed. -/
def satInt (n : Nat) (lo hi x : Int) : BitVec n × BitVec 5 :=
  if x < lo then (BitVec.ofInt n lo, OF) else if hi < x then (BitVec.ofInt n hi, OF) else (BitVec.ofInt n x, 0)

def minS (n : Nat) : Int := -(2 ^ (n - 1))
def maxS (n : Nat) : Int := 2 ^ (n - 1) - 1
def maxZ (n : Nat) : Int := 2 ^ n - 1

/-- SADD and SSUB (R75). -/
def saddS (n : Nat) (b c : BitVec n) : BitVec n × BitVec 5 := satInt n (minS n) (maxS n) (b.toInt + c.toInt)
def saddZ (n : Nat) (b c : BitVec n) : BitVec n × BitVec 5 := satInt n 0 (maxZ n) (b.toNat + c.toNat)
def ssubS (n : Nat) (b c : BitVec n) : BitVec n × BitVec 5 := satInt n (minS n) (maxS n) (b.toInt - c.toInt)
def ssubZ (n : Nat) (b c : BitVec n) : BitVec n × BitVec 5 := satInt n 0 (maxZ n) ((b.toNat : Int) - c.toNat)

/-- ADDC and SUBB with their carry out (R75). -/
def addCarry (n : Nat) (b c : BitVec n) (cin : Bool) : BitVec n × Bool :=
  let t := b.toNat + c.toNat + cin.toNat
  (BitVec.ofNat n t, decide (2 ^ n ≤ t))
def subBorrow (n : Nat) (b c : BitVec n) (cin : Bool) : BitVec n × Bool :=
  let t : Int := (b.toNat : Int) - c.toNat - cin.toNat
  (BitVec.ofInt n t, decide (t < 0))

/-- High halves of products (R75). -/
def mulHighS (n : Nat) (b c : BitVec n) : BitVec n := BitVec.ofInt n ((b.toInt * c.toInt) / 2 ^ n)
def mulHighZ (n : Nat) (b c : BitVec n) : BitVec n := BitVec.ofNat n ((b.toNat * c.toNat) / 2 ^ n)
def madHighS (n : Nat) (a b c : BitVec n) : BitVec n := BitVec.ofInt n ((b.toInt * c.toInt + a.toInt) / 2 ^ n)
def madHighZ (n : Nat) (a b c : BitVec n) : BitVec n := BitVec.ofNat n ((b.toNat * c.toNat + a.toNat) / 2 ^ n)

/-- |B|, the most negative value giving itself (R75). -/
def absInt (n : Nat) (b : BitVec n) : BitVec n := if b.toInt < 0 then -b else b

/-- Quotient and remainder (R77). -/
def divS (n : Nat) (b c : BitVec n) : BitVec n × BitVec n :=
  if c = 0 then (BitVec.allOnes n, b)
  else if b.toInt = minS n ∧ c.toInt = -1 then (b, 0)
  else (BitVec.ofInt n (b.toInt.tdiv c.toInt), BitVec.ofInt n (b.toInt - b.toInt.tdiv c.toInt * c.toInt))
def divZ (n : Nat) (b c : BitVec n) : BitVec n × BitVec n :=
  if c = 0 then (BitVec.allOnes n, b)
  else (BitVec.ofNat n (b.toNat / c.toNat), BitVec.ofNat n (b.toNat - b.toNat / c.toNat * c.toNat))

def minOf (n : Nat) (signed : Bool) (b c : BitVec n) : BitVec n :=
  if (if signed then decide (b.toInt ≤ c.toInt) else decide (b.toNat ≤ c.toNat)) then b else c
def maxOf (n : Nat) (signed : Bool) (b c : BitVec n) : BitVec n :=
  if (if signed then decide (c.toInt ≤ b.toInt) else decide (c.toNat ≤ b.toNat)) then b else c

/-- Shifts and rotates by a count K (R78). -/
def shlBy (n : Nat) (b : BitVec n) (k : Nat) : BitVec n := if k < n then b <<< k else 0
def shrBy (n : Nat) (b : BitVec n) (k : Nat) : BitVec n := if k < n then b >>> k else 0
def sarBy (n : Nat) (b : BitVec n) (k : Nat) : BitVec n := b.sshiftRight (min k (n - 1))
def rolBy (n : Nat) (b : BitVec n) (k : Nat) : BitVec n := b.rotateLeft (k % n)

/-- Leading zero bits from bit n - 1 down; n for zero (R78). -/
def clzFrom (x : Nat) : Nat → Nat
  | 0 => 0
  | n + 1 => if x.testBit n then 0 else 1 + clzFrom x n
def clzOf (n : Nat) (b : BitVec n) : BitVec n := BitVec.ofNat n (clzFrom b.toNat n)

/-- Trailing zero bits. -/
def ctzOf (n : Nat) (b : BitVec n) : BitVec n :=
  BitVec.ofNat n (((List.range n).find? (fun i => b.getLsbD i)).getD n)
def popOf (n : Nat) (b : BitVec n) : BitVec n :=
  BitVec.ofNat n ((List.range n).filter (fun i => b.getLsbD i)).length
def revOf (n : Nat) (b : BitVec n) : BitVec n :=
  ((List.range n).filter (fun i => b.getLsbD (n - 1 - i))).foldl (fun x i => x ||| (1#n <<< i)) 0

/-- The field of a control word: position and covered length, 0 for an empty field (R79). -/
def fieldPos (ctl : Nat) : Nat := ctl % 128
def fieldLen (n : Nat) (ctl : Nat) : Nat :=
  if n ≤ fieldPos ctl then 0 else min (ctl / 256 % 128) (n - fieldPos ctl)
/-- A word with its low l bits set. -/
def lowMask (n l : Nat) : BitVec n := BitVec.ofNat n (2 ^ l - 1)

def bfxZOf (n : Nat) (b : BitVec n) (ctl : Nat) : BitVec n := (b >>> fieldPos ctl) &&& lowMask n (fieldLen n ctl)
def bfxSOf (n : Nat) (b : BitVec n) (ctl : Nat) : BitVec n :=
  let l := fieldLen n ctl
  if l = 0 then 0
  else if b.getLsbD (fieldPos ctl + l - 1) then bfxZOf n b ctl ||| ~~~ lowMask n l else bfxZOf n b ctl
def bfiOf (n : Nat) (b i : BitVec n) (ctl : Nat) : BitVec n :=
  let m := lowMask n (fieldLen n ctl) <<< fieldPos ctl
  (b &&& ~~~ m) ||| ((i <<< fieldPos ctl) &&& m)

/-- SETP's tests (R83). -/
def cmpInt (n : Nat) (k : Nat) (b c : BitVec n) : Bool :=
  match k with
  | 0 => decide (b = c)
  | 1 => decide (b ≠ c)
  | 2 => decide (b.toInt < c.toInt)
  | 3 => decide (b.toInt ≤ c.toInt)
  | 4 => decide (c.toInt < b.toInt)
  | 5 => decide (c.toInt ≤ b.toInt)
  | 6 => decide (b.toNat < c.toNat)
  | 7 => decide (b.toNat ≤ c.toNat)
  | 8 => decide (c.toNat < b.toNat)
  | _ => decide (c.toNat ≤ b.toNat)

/-- PRMB (R86): byte i of the result. -/
def prmbByte (b : W32) (sel : Nat) : Byte :=
  let j : Byte := (b >>> (8 * (sel % 4))).setWidth 8
  if 8 ≤ sel then 0 else if 4 ≤ sel then (if j.getLsbD 7 then 0xFF else 0) else j
def prmbOf (b c : W32) : W32 :=
  prmbByte b (c.toNat / 4096 % 16) ++ prmbByte b (c.toNat / 256 % 16) ++
  prmbByte b (c.toNat / 16 % 16) ++ prmbByte b (c.toNat % 16)

end Sys2Proof.Machine
end

