-- ==== Sys2Proof/Machine/Operands.lean ====
section
/-! DEFINITION. Operand fields (R23 to R29): the forms a field takes, the framing words an instruction accepts (R33),
the checks made before an instruction has any effect (R22, R24, R73), the values of operands, and the shapes of
instructions that compute lane by lane or once for the warp. -/
namespace Sys2Proof.Machine

/-- The fields of the register form (R20); `m` is the field c that names an address, which IMM does not replace (R285). -/
inductive Pos where
  | a | b | c | m
  deriving DecidableEq

/-- An operand field: position, field value, scalar class, registers it takes (2 for a pair), alignment its effective
number needs, and the first fixed value it does not accept (112 for a destination, 128 for a source). -/
structure Opnd where
  pos    : Pos
  f      : Nat
  scalar : Bool
  count  : Nat
  align  : Nat
  lim    : Nat

/-- Vector destination and source of n registers; n = 2 is an even pair. -/
def vd (p : Pos) (f : BitVec 7) (n : Nat) : Opnd := ⟨p, f.toNat, false, n, n, 112⟩
def vs (p : Pos) (f : BitVec 7) (n : Nat) : Opnd := ⟨p, f.toNat, false, n, n, 128⟩
/-- A block of n vector registers from any register on, no fixed value. -/
def vblock (p : Pos) (f : BitVec 7) (n align : Nat) : Opnd := ⟨p, f.toNat, false, n, align, 112⟩
/-- Scalar destination and source. -/
def sd (p : Pos) (f : BitVec 7) : Opnd := ⟨p, f.toNat, true, 1, 1, 112⟩
def ss (p : Pos) (f : BitVec 7) : Opnd := ⟨p, f.toNat, true, 1, 1, 128⟩
/-- n scalar registers from one on, no fixed value. -/
def sblock (p : Pos) (f : BitVec 7) (n : Nat) : Opnd := ⟨p, f.toNat, true, n, 1, 112⟩
/-- n scalar registers, where every field value beyond the last register raises REG_BOUND (R120). -/
def sfar (p : Pos) (f : BitVec 7) (n : Nat) : Opnd := ⟨p, f.toNat, true, n, 1, 128⟩
/-- Memory operands (R179): global base, offset, data of n registers. -/
def vbase (p : Pos) (f : BitVec 7) : Opnd := ⟨p, f.toNat, false, 2, 2, 120⟩
/-- An address in the field c of a render instruction (R285). -/
def vaddr (f : BitVec 7) : Opnd := vbase .m f
def voff (p : Pos) (f : BitVec 7) : Opnd := ⟨p, f.toNat, false, 1, 1, 121⟩
def vdata (p : Pos) (f : BitVec 7) (n : Nat) : Opnd := ⟨p, f.toNat, false, n, n, 126⟩

/-- The framing words an instruction accepts (R33). -/
structure Accept where
  guard : Bool
  xidx  : Bool
  imm   : Bool

def acceptAll : Accept := ⟨true, true, true⟩
def acceptGX : Accept := ⟨true, true, false⟩
def acceptNone : Accept := ⟨false, false, false⟩
def acceptI : Accept := ⟨false, false, true⟩
def acceptG : Accept := ⟨true, false, false⟩
def acceptX : Accept := ⟨false, true, false⟩
def acceptXI : Accept := ⟨false, true, true⟩

/-- The index register that marks a field (R32). -/
def IUnit.mark (u : IUnit) (p : Pos) : Option (BitVec 2) :=
  match u.frame.xidx with
  | none => none
  | some (x, y, z) => match p with
    | .a => x
    | .b => y
    | .c => z
    | .m => z

/-- Value of index register i. -/
def Warp.xreg (w : Warp) (i : Nat) : BitVec 16 := Table.get 0#16 w.xregs i

/-- The operand is replaced by the constant of an IMM word (R31). -/
def State.immediate (s : State) (o : Opnd) : Bool := decide (o.pos = .c) && s.u.frame.imm.isSome

/-- imm32 of the instruction being issued: the payload of IMM beside c, or c zero-extended (R31, R48). -/
def State.imm32 (s : State) (c : BitVec 7) : W32 :=
  match s.u.frame.imm with
  | some p => p ++ c
  | none => c.setWidth 32

/-- imm32 of a MOVI or XSET, where c is sign-extended from 7 bits without IMM (R85, R140). -/
def State.simm32 (s : State) (c : BitVec 7) : W32 :=
  match s.u.frame.imm with
  | some p => p ++ c
  | none => c.signExtend 32

/-- The allotment of the current kernel. -/
def State.allot (s : State) : Nat := s.launch.alloc

/-- Effective register number of a field value (R24). -/
def State.effective (s : State) (o : Opnd) : Nat :=
  (if o.scalar then 0 else s.given.wb.toNat) + o.f +
  (match s.u.mark o.pos with
   | some i => (s.given.xreg i.toNat).toNat
   | none => 0)

/-- The operand makes the instruction illegal (R24, R26, R28, R32). -/
def State.illOp (s : State) (o : Opnd) : Bool :=
  if s.immediate o then (s.u.mark o.pos).isSome
  else if 112 ≤ o.f then decide (o.lim ≤ o.f) || (s.u.mark o.pos).isSome
  else !o.scalar && decide (s.effective o % o.align ≠ 0)

/-- The field value is that of a fixed operand: a block of scalars has none. -/
def Opnd.fixed (o : Opnd) : Bool := decide (112 ≤ o.f) && !(o.scalar && decide (1 < o.count))

/-- The first register beyond the bound that the operand names (R24). For the box field c of 111, whose registers are s111 and
s113, it is 112 (DESIGN CHOICE: R306 does not say which of them is reported). -/
def State.boundOp (s : State) (o : Opnd) : Option Nat :=
  if s.immediate o || o.fixed then none
  else
    let top := if o.scalar then 112 else s.allot
    if top < s.effective o + o.count then some (max (s.effective o) top) else none

/-- XIDX marks only fields that hold registers of the instruction (R32). -/
def State.marksOk (s : State) (ops : List Opnd) : Bool :=
  [Pos.a, Pos.b, Pos.c].all (fun p => (s.u.mark p).isNone || ops.any (fun o => decide (o.pos = p) || (decide (p = .c) && decide (o.pos = .m))))

/-- The instruction accepts the words that stand before it and the GUARD that covers it (R33). -/
def State.framed (s : State) (acc : Accept) (ops : List Opnd) : Bool :=
  (acc.guard || s.u.inForce.isNone) && (acc.xidx || s.u.frame.xidx.isNone) && (acc.imm || s.u.frame.imm.isNone) &&
  s.marksOk ops

/-- Register lines an operand touches. -/
def State.linesOfOp (s : State) (o : Opnd) : List Nat :=
  if s.immediate o || o.scalar || decide (112 ≤ o.f) then [] else List.range' (s.effective o) o.count

/-- A register line is not in the register cache: the warp stalls until it arrives (R25). -/
def State.missesLine (s : State) (ops : List Opnd) : Bool :=
  ops.any (fun o => (s.linesOfOp o).any (fun l => s.w.evicted.contains l))

/-! ### The operand queue (R27) -/

/-- Entries an operand removes. -/
def State.pops (s : State) (o : Opnd) : Nat :=
  if !s.immediate o && !o.scalar && decide (o.f = 127) && decide (128 ≤ o.lim) then o.count else 0

/-- Entries removed by the operands before one: field order b, then c. -/
def State.skip (s : State) (ops : List Opnd) (o : Opnd) : Nat :=
  if o.pos = .c then ((ops.filter (fun x => x.pos = .b)).map s.pops).sum else 0

/-- Entries an operand needs in the queue. -/
def State.needs (s : State) (ops : List Opnd) (o : Opnd) : Nat :=
  if !s.immediate o && !o.scalar && decide (126 ≤ o.f) && decide (128 ≤ o.lim) then s.skip ops o + o.count else 0

/-- The queue holds too few entries: the warp waits (R27). -/
def State.opqShort (s : State) (ops : List Opnd) : Bool := ops.any (fun o => decide (s.given.opq.length < s.needs ops o))

/-- Remove entries from the head of the queue; an instruction that has issued before removed them then. -/
def State.pop (s : State) (n : Nat) : State :=
  if n = 0 || s.u.issued.isSome then s else s.setW { s.w with opq := s.w.opq.drop n }

/-- Where an instruction that has issued before traps, it has no effect: the entries it removed stand again at the head. -/
def State.unpop (s : State) (n : Nat) : State :=
  match s.u.issued with
  | some p => if n = 0 then s else s.setW { s.w with opq := p.opq.take n ++ s.w.opq }
  | none => s

/-! ### Issuing -/

/-- Queue entries leave the queue where the instruction has issued (R27). -/
def Eff.popped (e : Eff) (n : Nat) : Eff :=
  match e with
  | .done s => .done (s.pop n)
  | .trap t i => .trap t i
  | .wait s => .wait s
  | .held s => .held (s.pop n)
  | .moved s => .moved s

/-- The state an effect is finished from. -/
def State.finishFrom (s : State) (n : Nat) : Eff → State
  | .trap _ _ => s.unpop n
  | _ => s

/-- Check an instruction and give its effect: ILLEGAL_OP before REG_BOUND (R73), then the stalls that are no traps,
then the effect and the queue entries it removes. -/
def State.issue (s : State) (acc : Accept) (ops : List Opnd) (illegal : Bool) (k : State → Eff) :
    Host.Outcome State Fault Refusal :=
  if !s.framed acc ops || illegal || ops.any s.illOp then s.finish (.trap .illegalOp s.ir.toNat)
  else match ops.findSome? s.boundOp with
    | some e => s.finish (.trap .regBound e)
    | none =>
      if s.missesLine ops || s.opqShort ops then .next s
      else (s.finishFrom (ops.map s.pops).sum (k s)).finish ((k s).popped (ops.map s.pops).sum)

/-! ### Values of operands (R26, R28, R31) -/

/-- Values of the fixed operands `one` and `mone` at 32 bits for the instruction's type, and whether a 64-bit operand
takes an IMM constant zero-extended. -/
structure Consts where
  one  : W32
  mone : W32
  uns  : Bool

def intConsts : Consts := ⟨1, 0xFFFFFFFF, false⟩
def unsConsts (u : Bool) : Consts := ⟨1, 0xFFFFFFFF, u⟩

/-- Fixed scalar operands (R28). -/
def State.fixedScalar (s : State) (f : Nat) : W64 :=
  match f with
  | 112 => 0
  | 113 => 1
  | 114 => BitVec.allOnes 64
  | 115 => s.g.wgx.setWidth 64
  | 116 => BitVec.ofNat 64 s.g.grid.1
  | 117 => BitVec.ofNat 64 s.g.grid.2.1
  | 118 => BitVec.ofNat 64 s.g.grid.2.2
  | 119 => BitVec.ofNat 64 (32 * s.g.nwarps)
  | 120 => 1
  | 121 => 1
  | 122 => s.g.coord.1.setWidth 64
  | 123 => s.g.coord.2.1.setWidth 64
  | 124 => s.g.coord.2.2.setWidth 64
  | 125 => BitVec.ofNat 64 s.w.index
  | 126 => BitVec.ofNat 64 s.g.nwarps
  | _ => s.g.karg

/-- Word L of entry n of the operand queue. -/
def Warp.queueWord (w : Warp) (n L : Nat) : W32 := (w.opq.getD n []).getD L 0

/-- Fixed vector operands in lane L (R26): `one` and `mone` by type at 32 bits. -/
def State.fixedVector (s : State) (k : Consts) (f count skip L : Nat) : W64 :=
  if f < 120 then (if count = 2 then s.given.sreg (f - 112) else ((s.given.sreg (f - 112)).setWidth 32).setWidth 64)
  else if f = 120 then 0
  else if f = 121 then (if count = 2 then 1 else k.one.setWidth 64)
  else if f = 122 then (if count = 2 then BitVec.allOnes 64 else k.mone.setWidth 64)
  else if f = 123 then BitVec.ofNat 64 L
  else if f = 124 then BitVec.ofNat 64 (32 * s.w.index + L)
  else if f = 125 then s.g.wgx.setWidth 64
  else if count = 2 then s.given.queueWord (skip + 1) L ++ s.given.queueWord skip L
  else (s.given.queueWord skip L).setWidth 64

/-- The value of an operand in lane L as 64 bits; a 32-bit operand is zero-extended. -/
def State.value (s : State) (k : Consts) (ops : List Opnd) (o : Opnd) (L : Nat) : W64 :=
  if s.immediate o then
    let i := s.imm32 (BitVec.ofNat 7 o.f)
    if !o.scalar && decide (o.count = 1) then i.setWidth 64 else if k.uns then i.setWidth 64 else i.signExtend 64
  else if o.scalar then (if 112 ≤ o.f then s.fixedScalar o.f else s.given.sreg (s.effective o))
  else if 112 ≤ o.f then s.fixedVector k o.f o.count (s.skip ops o) L
  else if o.count = 2 then s.given.pair (s.effective o) L
  else (s.given.vreg (s.effective o) L).setWidth 64

/-- The operand of a position; what an absent one reads as does not matter. -/
def opAt (ops : List Opnd) (p : Pos) : Option Opnd := ops.find? (fun o => o.pos = p)

/-- The value of the operand at a position in lane L. -/
def State.valueAt (s : State) (k : Consts) (ops : List Opnd) (p : Pos) (L : Nat) : W64 :=
  match opAt ops p with
  | some o => s.value k ops o L
  | none => 0

/-- Effective register of the operand at a position. -/
def State.regAt (s : State) (ops : List Opnd) (p : Pos) : Nat :=
  match opAt ops p with
  | some o => s.effective o
  | none => 0

/-! ### Shapes -/

/-- The values of a register for all 32 lanes. -/
def allLanes (f : Nat → W32) : List W32 := lanes32.map f

/-- The warp holds as many uncommitted results as it can (R37). -/
def Warp.sixteen (w : Warp) : Bool := decide (16 ≤ w.uncommitted.length)

/-- Open a window of la instructions for a result (R35); 16 uncommitted results are the limit (R37). -/
def State.pushResult (s : State) (la : BitVec 4) (p : Pending) : Eff :=
  if p.act = 0 then .done s
  else if s.w.sixteen then .wait s
  else .done (s.setW { s.w with pend := s.w.pend ++ [{ p with unit := s.unit, left := la.toNat + 1 }] })

/-- A result that has no destination yet. -/
def Pending.of (act : Lanes) (vec : List (Nat × List W32)) (flags : List (BitVec 5)) : Pending :=
  { unit := 0, left := 0, act := act, vec := vec, scl := [], pred := none, flags := flags, ver := none }

/-- Write a 32-bit or 64-bit result to the destination a in the lanes of ACT. -/
def State.writeA (s : State) (ops : List Opnd) (n : Nat) (f : Nat → W64) : State :=
  if n = 2 then s.setW (s.w.setPair s.act (s.regAt ops .a) f)
  else s.setW (s.w.setVreg s.act (s.regAt ops .a) (fun L => (f L).setWidth 32))

/-- A vector result of n registers computed lane by lane from the values of a, b and c, with flags: written at once,
or committed by R36 where a lookahead is given. -/
def State.vmap (s : State) (acc : Accept) (ops : List Opnd) (illegal : Bool) (k : Consts) (n : Nat)
    (la : Option (BitVec 4)) (f : State → Nat → W64 → W64 → W64 → W64 × BitVec 5) : Host.Outcome State Fault Refusal :=
  s.issue acc ops illegal (fun s =>
    let r := fun L => f s L (s.valueAt k ops .a L) (s.valueAt k ops .b L) (s.valueAt k ops .c L)
    match la with
    | none => .done ((s.writeA ops n (fun L => (r L).1)).raise (flagsOf s.act (fun L => (r L).2)))
    | some x =>
      let e := s.regAt ops .a
      let lo := (e, allLanes (fun L => (r L).1.setWidth 32))
      let hi := (e + 1, allLanes (fun L => ((r L).1 >>> 32).setWidth 32))
      s.pushResult x (Pending.of s.act (if n = 2 then [lo, hi] else [lo]) (lanes32.map (fun L => (r L).2))))

/-- A predicate result computed lane by lane. -/
def State.vpred (s : State) (acc : Accept) (ops : List Opnd) (illegal : Bool) (k : Consts) (p : BitVec 3)
    (f : State → Nat → W64 → W64 → Bool × BitVec 5) : Host.Outcome State Fault Refusal :=
  s.issue acc ops illegal (fun s =>
    let r := fun L => f s L (s.valueAt k ops .b L) (s.valueAt k ops .c L)
    .done ((s.setW (s.w.setPred s.act p.toNat (Lanes.of (fun L => (r L).1)))).raise (flagsOf s.act (fun L => (r L).2))))

/-- A scalar result computed once for the warp, if ACT is not empty (R30, R71). -/
def State.smap (s : State) (acc : Accept) (ops : List Opnd) (illegal : Bool) (k : Consts)
    (f : State → W64 → W64 → W64 → W64 × BitVec 5) : Host.Outcome State Fault Refusal :=
  s.issue acc ops illegal (fun s =>
    if s.act = 0 then .done s
    else
      let r := f s (s.valueAt k ops .a 0) (s.valueAt k ops .b 0) (s.valueAt k ops .c 0)
      .done ((s.setSreg (s.regAt ops .a) r.1).raise r.2))

/-- An effect of the warp that happens once, if ACT is not empty. -/
def State.sdo (s : State) (acc : Accept) (ops : List Opnd) (illegal : Bool) (k : State → Eff) :
    Host.Outcome State Fault Refusal :=
  s.issue acc ops illegal (fun s => if s.act = 0 then .done s else k s)

/-- A long-latency instruction that would need a 17th uncommitted result waits (R37). -/
def State.full (s : State) : Bool := decide (s.act ≠ 0) && s.w.sixteen

/-- What an instruction that reads tables in memory answers: the values it writes, or a trap. -/
inductive Ans (α : Type) where
  | val (a : α)
  | trap (t : Trap) (info : Nat)

/-- A scalar instruction of several accesses, performed as a whole. -/
def State.sact {α : Type} (s : State) (acc : Accept) (ops : List Opnd) (illegal : Bool) (k : State → Got (Ans α))
    (f : State → α → Eff) : Host.Outcome State Fault Refusal :=
  s.sdo acc ops illegal (fun s =>
    ((k s).atomic s s.who.waiter).eff (fun s1 a => match a with
      | .trap t i => .trap t i
      | .val v => f s1 v))

/-- A long-latency scalar instruction that writes S[a] and the registers after it. -/
def State.slong (s : State) (acc : Accept) (ops : List Opnd) (illegal : Bool) (la : BitVec 4) (k : State → Got (Ans (List W64))) :
    Host.Outcome State Fault Refusal :=
  s.issue acc ops illegal (fun s =>
    if s.full then .wait s
    else if s.act = 0 then .done s
    else ((k s).atomic s s.who.waiter).eff (fun s1 a => match a with
      | .trap t i => .trap t i
      | .val vs =>
        let e := s1.regAt ops .a
        s1.pushResult la { Pending.of s1.act [] [] with scl := (List.range vs.length).map (fun i => (e + i, vs.getD i 0)) }))

/-- Lift an N-bit computation to 64-bit values. -/
def lift3 (n : Nat) (f : BitVec n → BitVec n → BitVec n → BitVec n) : State → Nat → W64 → W64 → W64 → W64 × BitVec 5 :=
  fun _ _ a b c => ((f (a.setWidth n) (b.setWidth n) (c.setWidth n)).setWidth 64, 0)
def lift2 (n : Nat) (f : BitVec n → BitVec n → BitVec n) : State → Nat → W64 → W64 → W64 → W64 × BitVec 5 :=
  lift3 n (fun _ b c => f b c)
def lift1 (n : Nat) (f : BitVec n → BitVec n) : State → Nat → W64 → W64 → W64 → W64 × BitVec 5 :=
  lift3 n (fun _ b _ => f b)
/-- The same where the computation raises flags. -/
def liftF (n : Nat) (f : BitVec n → BitVec n → BitVec n × BitVec 5) : State → Nat → W64 → W64 → W64 → W64 × BitVec 5 :=
  fun _ _ _ b c => let r := f (b.setWidth n) (c.setWidth n); (r.1.setWidth 64, r.2)

/-- Bits and registers of a width flag. -/
def bitsW (w : BitVec 1) : Nat := if w = 1 then 64 else 32
def regsW (w : BitVec 1) : Nat := if w = 1 then 2 else 1

end Sys2Proof.Machine
end

