-- ==== Sys2Proof/Machine/Group.lean ====
section
/-! DEFINITION. Prefix words (R30 to R33), control transfers and the split table (R124 to R128, R133 to R135), gang
rendezvous (R129), hardware loops (R136 to R139) and the warp's own registers (R140): majors 0x00 to 0x07. -/
namespace Sys2Proof.Machine

/-! ### Prefix words (R30 to R33) -/

/-- One prefix word has been taken: the next word, and the framing of the instruction to come. -/
def State.prefixed (s : State) (f : Framing) : Host.Outcome State Fault Refusal :=
  let u := s.u
  .next (s.setU { u with pc := u.pc + 4, frame := { f with first := some u.origin } })

/-- A framing error. -/
def State.misframed (s : State) : Host.Outcome State Fault Refusal := s.finish (.trap .illegalOp s.ir.toNat)

/-- GUARD (R30): first of its prefixes, and under no coverage. -/
def execGuard (n : BitVec 2) (k : BitVec 1) (p : BitVec 3) (s : State) : Host.Outcome State Fault Refusal :=
  let f := s.u.frame
  if f.guard.isSome || f.xidx.isSome || f.imm.isSome || s.u.cover.isSome then s.misframed
  else s.prefixed { f with guard := some ⟨p, decide (k = 1), n.toNat + 1⟩ }

/-- IMM (R31): last of its prefixes. -/
def execImm (p : BitVec 25) (s : State) : Host.Outcome State Fault Refusal :=
  let f := s.u.frame
  if f.imm.isSome then s.misframed else s.prefixed { f with imm := some p }

/-- XIDX (R32): after a GUARD and before an IMM, with a field marked. -/
def execXidx (x : BitVec 1) (y : BitVec 2) (u : BitVec 1) (v : BitVec 2) (q : BitVec 1) (w : BitVec 2) (s : State) :
    Host.Outcome State Fault Refusal :=
  let f := s.u.frame
  let on : BitVec 1 → BitVec 2 → Option (BitVec 2) := fun b i => if b = 1 then some i else none
  if f.xidx.isSome || f.imm.isSome || !(Instr.xidx x y u v q w).wf then s.misframed
  else s.prefixed { f with xidx := some (on q w, on u v, on x y) }

/-! ### Division (R125, R126) -/

/-- Where a lane goes: an address, and how many loops that hold it end there: it waits at the back-edge of the innermost (R137). -/
structure Dest where
  addr : W64
  ends : Nat
  deriving DecidableEq, Repr

/-- Add a lane to the group of its destination; groups stand in the order of their first lanes. -/
def addLane (L : Nat) (d : Dest) : List (Dest × Lanes) → List (Dest × Lanes)
  | [] => [(d, 1#32 <<< L)]
  | (e, m) :: r => if e = d then (e, m ||| (1#32 <<< L)) :: r else (e, m) :: addLane L d r

/-- The lanes of a list by destination, ordered by lowest lane. -/
def groupsOf (f : Nat → Dest) (ls : List Nat) : List (Dest × Lanes) := ls.foldl (fun g L => addLane L (f L) g) []

/-- A unit that goes on at a destination. -/
def unitAt (d : Dest) (m : Lanes) (root : Bool) (parent : Nat) : IUnit :=
  { IUnit.blank with lanes := m, pc := d.addr, park := if d.ends = 0 then .ready else .backEdge, root := root, parent := parent }

/-- Entries of the split table that are free: 16 and those of %splext (R127, R310). -/
def Warp.freeEntries (w : Warp) : List Nat :=
  (List.range (16 + w.splext.toNat)).filter (fun e => (Table.find w.units (8 + e)).isNone)

/-- List gangs under their lowest slices. -/
def addGangs (t : Table IUnit) : List (Dest × Lanes) → Table IUnit
  | [] => t
  | (d, m) :: r => addGangs (Table.set t (lowestSlice m) (unitAt d m true 0)) r

/-- List splits in free entries, in turn. -/
def addSplits (t : Table IUnit) (root : Bool) (parent : Nat) : List (Dest × Lanes) → List Nat → Table IUnit
  | (d, m) :: r, e :: es => addSplits (Table.set t (8 + e) (unitAt d m root parent)) root parent r es
  | _, _ => t

/-- The groups of the lanes of a set that lie in one slice. -/
def sliceGroups (f : Nat → Dest) (m : Lanes) (sl : Nat) : List (Dest × Lanes) :=
  groupsOf f (Lanes.list (m &&& sliceLanes sl))

/-- Settle the next addresses of the lanes of unit k (R125): the units that follow it, or the entries it needs where
the table has fewer (R126). A lane that waits at a loop's back-edge and one that goes on at the same address have distinct
next addresses (DESIGN CHOICE: R125 does not say how the two part). -/
def Warp.divide (w : Warp) (k : Nat) (lanes : Lanes) (f : Nat → Dest) : Except Nat Warp :=
  let u := Table.get IUnit.blank w.units k
  let gs := groupsOf f (Lanes.list lanes)
  match gs with
  | [] => .ok { w with units := Table.erase w.units k }
  | [(d, m)] =>
    if k < 8 then .ok { w with units := addGangs (Table.erase w.units k) [(d, m)] }
    else .ok { w with units := Table.set w.units k (unitAt d m u.root u.parent) }
  | _ =>
    if k < 8 then
      let agree := (List.range 8).filter (fun sl => decide ((sliceGroups f lanes sl).length = 1))
      let parted := ((List.range 8).filter (fun sl => decide (1 < (sliceGroups f lanes sl).length))).flatMap (sliceGroups f lanes)
      let whole := agree.foldl (fun m sl => m ||| (lanes &&& sliceLanes sl)) 0#32
      if w.freeEntries.length < parted.length then .error parted.length
      else .ok { w with units := addSplits (addGangs (Table.erase w.units k) (groupsOf f (Lanes.list whole)))
                          true 0 parted w.freeEntries }
    else if w.freeEntries.length < gs.length then .error gs.length
    else
      let t := Table.set w.units k { u with park := .parent, cover := none, frame := Framing.blank }
      .ok { w with units := addSplits t false k gs w.freeEntries }

/-! ### Merges and rendezvous (R128, R129) -/

/-- What happens to the recorded unit's lanes ends the region (R311). -/
def Warp.unregion (w : Warp) (m : Lanes) : Warp :=
  { w with region := w.region.filter (fun r => r.lanes &&& m = 0) }

/-- Drop several units. -/
def dropUnits (t : Table IUnit) (ks : List Nat) : Table IUnit := t.filter (fun x => !ks.contains x.1)

/-- The union of the lanes of units, and the address of the one with the lowest lane. -/
def unionOf (us : Table IUnit) : Lanes := us.foldl (fun m x => m ||| x.2.lanes) 0#32
def leaderPc (us : Table IUnit) : W64 :=
  ((us.find? (fun x => x.2.lanes.getLsbD (Lanes.lowest (unionOf us)))).map (fun x => x.2.pc)).getD 0

/-- The children of a parent entry, and the root entries of a slice. -/
def childrenOf (t : Table IUnit) (k : Nat) : Table IUnit := t.filter (fun x => 8 ≤ x.1 && !x.2.root && x.2.parent = k)
def rootsOf (t : Table IUnit) (sl : Nat) : Table IUnit :=
  t.filter (fun x => 8 ≤ x.1 && x.2.root && x.2.lanes &&& sliceLanes sl ≠ 0)

/-- Units that have all come to a JOIN. -/
def allJoined (us : Table IUnit) : Bool := !us.isEmpty && us.all (fun x => x.2.park = .join)

/-- A parent whose children have all ended has ended; one whose children all wait resumes (R128). -/
def Warp.mergeParents (w : Warp) : List Nat → Option Warp
  | [] => none
  | k :: ks =>
    let u := Table.get IUnit.blank w.units k
    let cs := childrenOf w.units k
    if u.park ≠ .parent then Warp.mergeParents w ks
    else if cs.isEmpty then some { w with units := Table.erase w.units k }
    else if allJoined cs then
      let m := unionOf cs
      let pc := leaderPc cs
      let t := dropUnits w.units (cs.map (·.1))
      some (({ w with units := Table.set t k { unitAt ⟨pc, 0⟩ m u.root u.parent with park := restAt w.loops m pc } }).unregion m)
    else Warp.mergeParents w ks

/-- A slice whose root splits all wait becomes a gang of itself alone (R128). -/
def Warp.mergeSlices (w : Warp) : List Nat → Option Warp
  | [] => none
  | sl :: sls =>
    let cs := rootsOf w.units sl
    if allJoined cs then
      let m := unionOf cs
      let pc := leaderPc cs
      let t := dropUnits w.units (cs.map (·.1))
      some (({ w with units := Table.set t sl { unitAt ⟨pc, 0⟩ m true 0 with park := restAt w.loops m pc } }).unregion m)
    else Warp.mergeSlices w sls

/-- The gangs that wait at a REGANG of a mask. -/
def atRegang (t : Table IUnit) (mask : BitVec 8) : Table IUnit := t.filter (fun x => x.2.park = .regang mask)

/-- A rendezvous completes when every live slice of its mask waits at it (R129, R135). -/
def Warp.regangs (w : Warp) : List IUnit → Option Warp
  | [] => none
  | u :: us => match u.park with
    | .regang mask =>
      let gs := atRegang w.units mask
      let m := unionOf gs
      if (w.live &&& lanesOfSlices mask) &&& ~~~m = 0 then
        let pc := leaderPc gs
        let t := dropUnits w.units (gs.map (·.1))
        some (({ w with units := Table.set t (lowestSlice m) { unitAt ⟨pc, 0⟩ m true 0 with park := restAt w.loops m pc } }).unregion m)
      else Warp.regangs w us
    | _ => Warp.regangs w us

/-- Carry out the merges and rendezvous that have become possible, at most n of them. -/
def Warp.settle (w : Warp) : Nat → Warp
  | 0 => w
  | n + 1 =>
    match w.mergeParents (w.units.map (·.1)) with
    | some w' => Warp.settle w' n
    | none => match w.mergeSlices (List.range 8) with
      | some w' => Warp.settle w' n
      | none => match w.regangs (w.units.map (·.2)) with
        | some w' => Warp.settle w' n
        | none => w

/-- More merges than a warp can carry out at one time. -/
def settleFuel : Nat := 160

/-- A loop whose lanes have all left or ended becomes inactive (R138). -/
def Warp.pruneLoops (w : Warp) : Warp := { w with loops := w.loops.filter (fun l => l.lanes &&& w.live ≠ 0) }

/-! ### Control transfers (R125, R133 to R135, R138) -/

/-- A loop without some of its lanes. -/
def LoopRec.without (l : LoopRec) (m : Lanes) : LoopRec := { l with lanes := l.lanes &&& ~~~m }

/-- Lanes that leave loops: which lanes leave a loop is given by the loop. -/
def Warp.leaveLoops (w : Warp) (f : LoopRec → Lanes) : Warp :=
  Warp.pruneLoops { w with loops := w.loops.map (fun l => l.without (f l)) }

/-- The address lies in a loop's body. -/
def LoopRec.holds (l : LoopRec) (a : W64) : Bool := decide (l.start.toNat ≤ a.toNat) && decide (a.toNat < l.stop.toNat)

/-- The lanes of a set that go to addresses outside a loop's body. -/
def leavers (act : Lanes) (target : Nat → W64) (l : LoopRec) : Lanes := act &&& Lanes.of (fun L => !l.holds (target L))

/-- The active loops that end at an address and hold a lane of the set. -/
def endsAt (ls : List LoopRec) (m : Lanes) (pc : W64) : Nat := (ls.filter (fun l => l.lanes &&& m ≠ 0 && decide (l.stop = pc))).length

/-- Where a lane outside ACT goes: the next word, or the back-edge there. -/
def State.fallDest (s : State) (L : Nat) : Dest := ⟨s.u.pc + 4, endsAt s.w.loops (1#32 <<< L) (s.u.pc + 4)⟩

/-- A lane of ACT whose target is no instruction address. -/
def State.crooked (s : State) (target : Nat → W64) : Option Nat :=
  (Lanes.list s.act).find? (fun L => decide ((target L).toNat % 4 ≠ 0))

/-- A control transfer: the lanes of ACT go to their targets and the others go on (R125); `link` is the register pair
that takes the return address (R134), `leave` the lanes that leave a loop (R138). GUARD coverage and windows end
(R30, R35). A misaligned target is reported before a full split table (DESIGN CHOICE: R126 and R133 give no order). -/
def State.transfer (s : State) (target : Nat → Dest) (link : Option Nat) (leave : LoopRec → Lanes) : Eff :=
  let act := s.act
  match s.crooked (fun L => (target L).addr) with
  | some L => .trap .misalign L
  | none =>
    match s.w.divide s.unit s.u.lanes (fun L => if act.getLsbD L then target L else s.fallDest L) with
    | .error n => .trap .splitOvf n
    | .ok w1 => s.closing (fun s =>
      let w2 := match link with
        | some e => w1.setPair act e (fun _ => s.u.pc + 4)
        | none => w1
      .moved ((s.setW (w2.leaveLoops leave)).closeWindows))

/-- Lanes go to an address. -/
def goTo (f : Nat → W64) (L : Nat) : Dest := ⟨f L, 0⟩

/-- No lane leaves a loop. -/
def stay : LoopRec → Lanes := fun _ => 0

/-- The target of a branch by offset. -/
def State.relTarget (s : State) (o : BitVec 21) : W64 := s.u.pc + 4 * o.signExtend 64

def execBra (o : BitVec 21) (s : State) :=
  s.issue acceptG [] false (fun s =>
    s.transfer (goTo (fun _ => s.relTarget o)) none (leavers s.act (fun _ => s.relTarget o)))

def execCall (o : BitVec 21) (k : BitVec 4) (s : State) :=
  let ops := [vd .a ((k ++ 0#1).setWidth 7) 2]
  s.issue acceptG ops false (fun s => s.transfer (goTo (fun _ => s.relTarget o)) (some (s.regAt ops .a)) stay)

def execBr (b : BitVec 7) (s : State) :=
  let ops := [vbase .b b]
  s.issue acceptGX ops false (fun s =>
    let t := fun L => s.valueAt intConsts ops .b L
    s.transfer (goTo t) none (leavers s.act t))

def execCalli (b a : BitVec 7) (s : State) :=
  let ops := [vd .a a 2, vbase .b b]
  s.issue acceptGX ops false (fun s =>
    s.transfer (goTo (s.valueAt intConsts ops .b)) (some (s.regAt ops .a)) stay)

def execRet (b : BitVec 7) (s : State) :=
  let ops := [vbase .b b]
  s.issue acceptG ops false (fun s => s.transfer (goTo (s.valueAt intConsts ops .b)) none stay)

/-- Where a lane goes that leaves its innermost active loop: to the loop's end address, which may be that of a loop around it
too, at whose back-edge it then waits, apart from the lanes that stay in the inner loop (R137, R138). -/
def leaveDest (ls : List LoopRec) (L : Nat) : Dest :=
  match innermost ls (1#32 <<< L) with
  | some l => ⟨l.stop, endsAt (ls.filter (fun x => x ≠ l)) (1#32 <<< L) l.stop⟩
  | none => ⟨0, 0⟩

/-- LBRK (R138): the lanes of ACT leave the innermost active loop that holds them. Where some lane of ACT, or with ACT empty some lane
of the unit, is in no loop, it raises ILLEGAL_OP as a whole (DESIGN CHOICE, log entry 72: the rule says only 'outside every loop'). -/
def execLbrk (s : State) :=
  s.issue acceptG [] false (fun s =>
    let inner := fun L => innermost s.w.loops (1#32 <<< L)
    let test := if s.act = 0 then s.u.lanes else s.act
    if (Lanes.list test).any (fun L => (inner L).isNone) then .trap .illegalOp s.ir.toNat
    else s.transfer (leaveDest s.w.loops) none (fun l => s.act &&& Lanes.of (fun L => inner L = some l)))

/-! ### Ending lanes (R135, R157) -/

/-- Live lanes of a workgroup. -/
def State.liveLanes (s : State) (g : Workgroup) : Nat := (g.warps.map (fun k => Lanes.count (s.warpAt k).live)).sum

/-- A unit that waits at the workgroup barrier continues. -/
def releaseBsync (loops : List LoopRec) (u : IUnit) : IUnit :=
  if u.park = .bsync then { u with park := restAt loops u.lanes u.pc } else u

/-- Release the units of a warp that wait at the workgroup barrier, those in its trap frame included. -/
def Warp.releaseBsync (w : Warp) : Warp :=
  { w with units := w.units.map (fun x => (x.1, Machine.releaseBsync w.loops x.2)),
           tframe := w.tframe.map (fun f => { f with units := f.units.map (fun x => (x.1, Machine.releaseBsync f.loops x.2)) }) }

def releaseWarps (t : Table Warp) : List Nat → Table Warp
  | [] => t
  | k :: ks => releaseWarps (Table.set t k (Table.get Warp.blank t k).releaseBsync) ks

/-- The workgroup barrier's phase completes when every live lane has arrived (R157). -/
def State.settleBarrier (s : State) (wg : Nat) : State :=
  let g := s.wgAt wg
  if g.arrived = 0 ∨ g.arrived < s.liveLanes g then s
  else
    let s1 := s.setWg wg { g with arrived := 0, bphase := g.bphase + 1 }
    { s1 with warps := releaseWarps s1.warps g.warps }

/-- The lanes of ACT end (R135): the unit's other lanes go on, ended slices count as arrived, the workgroup barrier may
complete. -/
def State.endLanes (s : State) (ended : Lanes) : Eff :=
  let w := { s.w with live := s.w.live &&& ~~~ ended }
  match w.divide s.unit (s.u.lanes &&& ~~~ ended) s.fallDest with
  | .error n => .trap .splitOvf n
  | .ok w1 => s.closing (fun s => .moved (((s.setW (w1.pruneLoops.settle settleFuel)).closeWindows).settleBarrier s.w.wg))

/-! ### JOIN and REGANG (R128, R129) -/

/-- The issuing unit has passed its instruction and waits; its windows have ended. -/
def State.parkNext (s : State) (p : Park) : State :=
  s.setU { s.u with pc := s.u.pc + 4, frame := Framing.blank, issued := none, mid := false, cover := none, park := p }

def execJoin (s : State) :=
  s.closed (fun s => s.issue acceptNone [] false (fun s =>
    if s.unit < 8 then .done s
    else
      let s1 := s.parkNext .join
      .moved (s1.setW (s1.w.settle settleFuel))))

/-- Another unit waits at a REGANG that this one contradicts. -/
def clash (mask mine : BitVec 8) (u : IUnit) : Bool :=
  match u.park with
  | .regang m => decide (m ≠ mask) && (decide (sliceMask u.lanes &&& mask ≠ 0) || decide (m &&& mine ≠ 0))
  | _ => false

def execRegang (k : BitVec 8) (s : State) :=
  s.closed (fun s => s.issue acceptNone [] false (fun s =>
    let mine := sliceMask s.u.lanes
    if k = 0 || 8 ≤ s.unit || mine &&& ~~~k ≠ 0 || s.w.units.any (fun x => clash k mine x.2) then
      .trap .illegalOp s.ir.toNat
    else
      let s1 := s.parkNext (.regang k)
      .moved (s1.setW (s1.w.settle settleFuel))))

/-! ### Hardware loops (R136 to R139) -/

/-- The word at an address as a unit's active loops took it (R139). -/
def bufferedWord (ls : List LoopRec) (m : Lanes) (a : W64) : Option W32 :=
  (ls.reverse.find? (fun l => l.lanes &&& m ≠ 0 && l.holds a)).bind (fun l => l.words[(a - l.start).toNat / 4]?)

/-- Replace words by those of active loops. -/
def overlay (ls : List LoopRec) (m : Lanes) (a : W64) : List W32 → List W32
  | [] => []
  | x :: xs => (bufferedWord ls m a).getD x :: overlay ls m (a + 4) xs

/-- Read n instruction words for the issuing unit, from its loops' buffers where they hold them. -/
def State.fetchCode (s : State) (who : Who) (a : W64) (n : Nat) : Got (List W32) :=
  let here := overlay s.w.loops s.u.lanes a (List.replicate n 0)
  if (List.range n).all (fun i => (bufferedWord s.w.loops s.u.lanes (a + BitVec.ofNat 64 (4 * i))).isSome) then .ok s here
  else match s.reach who accFetch [(a.toNat, 4 * n)] with
    | .ok s1 p => (match s1.segBytes who.waiter 0 p with
      | some bs => .ok (s1.forget who.waiter) (overlay s.w.loops s.u.lanes a (words32 n bs))
      | none => .wait (s1.ask who.waiter 0 p))
    | .fault s1 d i => .fault s1 d i
    | .full s1 => .full s1
    | .denied s1 => .denied s1
    | .wait s1 => .wait s1

/-- A word is a prefix word. -/
def isPrefix (w : W32) : Bool := decide (w.toNat % 128 ≤ 2)

/-- LOOP (R136): checks in order, then a count of 0 goes to the end address, any other starts the loop; `started` is what the start of
a loop does beside (R139). -/
def State.startLoop (s : State) (who : Who) (started : State → Eff) (c b : BitVec 7) (n : BitVec 2) : Host.Outcome State Fault Refusal :=
  let ops := [ss .b b]
  s.closed (fun s => s.issue acceptNone ops (!(Instr.loop c b n).wf) (fun s =>
    let count : W32 := (s.valueAt intConsts ops .b 0).setWidth 32
    if 3 ≤ s.w.loops.length then .trap .loopNest 0
    else if s.w.loops.any (fun l => decide (l.ctr = n.toNat)) then .trap .illegalOp s.ir.toNat
    else (s.fetchCode who (s.u.pc + 4) c.toNat).eff (fun s ws =>
      if isPrefix (ws.getLastD 0) then .trap .illegalOp s.ir.toNat
      else
        let stop := s.u.pc + 4 + BitVec.ofNat 64 (4 * c.toNat)
        let w1 := ({ s.w with lcs := Table.put 0#32 s.w.lcs n.toNat count }).unregion s.u.lanes
        if count = 0 then
          let s1 := s.setW w1
          .moved (s1.setU { s1.u with pc := stop, frame := Framing.blank, issued := none, mid := false, park := restAt w1.loops s1.u.lanes stop })
        else
          started (s.setW { w1 with loops := w1.loops ++
            [{ ctr := n.toNat, start := s.u.pc + 4, stop := stop, lanes := s.u.lanes, words := ws }] }))))

def execLoop (c b : BitVec 7) (n : BitVec 2) (s : State) := s.startLoop s.who State.spillBodies c b n

/-- A unit waits at the back-edge of a loop: where loops inside it end at the same address, those turn first. -/
def waitsAt (l : LoopRec) (inside : List LoopRec) (u : IUnit) : Bool :=
  decide (u.park = .backEdge) && decide (u.pc = l.stop) && decide (u.lanes &&& l.lanes ≠ 0) && !endsLoop inside u.lanes u.pc

/-- A unit that waits at the end of a loop goes on. -/
def LoopRec.release (l : LoopRec) (inside rest : List LoopRec) (again : Bool) (x : Nat × IUnit) : Nat × IUnit :=
  if waitsAt l inside x.2 then
    (x.1, if again then { x.2 with park := .ready, pc := l.start } else { x.2 with park := restAt rest x.2.lanes x.2.pc })
  else x

/-- A unit that waits at a back-edge has results whose windows closed there and which have not committed (R36, R139). -/
def Warp.owing (w : Warp) (us : Table IUnit) : Bool := w.pend.any (fun p => us.any (fun x => decide (x.1 = p.unit)))

/-- LOOP_BACK_EDGE (R137): every live lane of a loop waits at its back-edge, the results of their windows committed. -/
def Warp.backEdge (w : Warp) (level : Nat) : Warp :=
  match w.loops[level]? with
  | none => w
  | some l =>
    let m := l.lanes &&& w.live
    let inside := w.loops.drop (level + 1)
    let waiting := w.units.filter (fun x => waitsAt l inside x.2)
    if m = 0 then w.pruneLoops
    else if m &&& ~~~ unionOf waiting ≠ 0 || w.owing waiting then w
    else
      let lc := Table.get 0#32 w.lcs l.ctr
      if lc.toNat ≤ 1 then
        let rest := w.loops.eraseIdx level
        Warp.unregion { w with lcs := Table.put 0#32 w.lcs l.ctr 0, loops := rest, units := w.units.map (l.release inside rest false) }
          (unionOf waiting)
      else
        Warp.unregion { w with lcs := Table.put 0#32 w.lcs l.ctr (lc - 1), units := w.units.map (l.release inside w.loops true) }
          (unionOf waiting)

def execLoopBackEdge (warp level : Nat) (s : State) : Host.Outcome State Fault Refusal :=
  .next (s.setWarp warp ((s.warpAt warp).backEdge level))

/-! ### The warp's own registers (R140, R311) -/

def execNop (s : State) := s.issue acceptG [] false (fun s => .done s)

/-- REGION (R140, R311). -/
def execRegion (s : State) :=
  s.issue acceptNone [] false (fun s =>
    .done (s.setW { s.w with rgent := s.u.pc, rgcnt := s.w.rgcnt + 1, region := some ⟨s.unit, s.u.lanes⟩ }))

def execWbase (c : BitVec 7) (s : State) :=
  s.issue acceptI [] (decide (63 < (s.imm32 c).toNat)) (fun s =>
    .done (s.setW { s.w with wb := BitVec.ofNat 16 (16 * (s.imm32 c).toNat) }))

def execXset (c b : BitVec 7) (x : BitVec 2) (s : State) :=
  let ops := [ss .b b]
  s.issue acceptI ops false (fun s =>
    let v := s.valueAt intConsts ops .b 0 + (s.simm32 c).signExtend 64
    .done (s.setW { s.w with xregs := Table.put 0#16 s.w.xregs x.toNat (v.setWidth 16) }))

/-- A partition width (R39, R140). -/
def isPartition (v : Nat) : Bool := [2, 4, 8, 16, 32].contains v

def execSetpart (c : BitVec 7) (s : State) :=
  s.issue acceptI [] (!isPartition (s.imm32 c).toNat) (fun s =>
    .done (s.setW { s.w with part := (s.imm32 c).setWidth 8 }))

/-- First lane and lanes of lane L's partition tile (R141). -/
def tileStart (w L : Nat) : Nat := L / w * w
def tileMask (w L : Nat) : Lanes := Lanes.of (fun J => decide (tileStart w J = tileStart w L))

def execGetmask (c a : BitVec 7) (s : State) :=
  let ops := [vd .a a 1]
  s.issue acceptNone ops (!(Instr.getmask c a).wf) (fun s =>
    .done (s.setW (s.w.setVreg s.act (s.regAt ops .a) (fun L =>
      match c.toNat with
      | 0 => s.u.lanes
      | 1 => s.w.live
      | _ => tileMask s.w.part.toNat L))))

/-! ### Commits (R36) -/

/-- The workgroup of a warp is on its core. -/
def State.onCore (s : State) (wg : Nat) : Bool := decide ((s.wgAt wg).phase = .resident) || decide ((s.wgAt wg).phase = .leaving)

/-- LONG_LATENCY_COMMIT (R36): a result whose window has closed reaches its destinations, after every earlier result
of the same registers. Its flags are those of the core on which the warp is (R59): one that is out commits once it is back. -/
def execLongLatencyCommit (warp index : Nat) (s : State) : Host.Outcome State Fault Refusal :=
  let w := s.warpAt warp
  match w.pend[index]? with
  | none => .next s
  | some p =>
    if p.left ≠ 0 || (w.pend.take index).any p.meets || !s.onCore w.wg then .next s
    else .next ((s.setWarp warp { w with pend := w.pend.eraseIdx index }).commitAll warp [p])

end Sys2Proof.Machine
end

