-- ==== Sys2Proof/Machine/Float.lean ====
section
/-! DEFINITION. The floating-point formats (R55), exact values, rounding (R57), the arithmetic of R92 to R100, the
conversions of R60 and block quantization (R64). Every computation is exact until its one rounding. -/
namespace Sys2Proof.Machine

/-! ### Formats and values (R55, R56) -/

/-- A format: exponent and mantissa widths, and whether its all-ones exponent is infinity and NaN (E4M3's is not). -/
structure Fmt where
  ew   : Nat
  mw   : Nat
  ieee : Bool

def f32 : Fmt := ⟨8, 23, true⟩
def f16 : Fmt := ⟨5, 10, true⟩
def bf16 : Fmt := ⟨8, 7, true⟩
def e4m3 : Fmt := ⟨4, 3, false⟩
def e5m2 : Fmt := ⟨5, 2, true⟩

/-- The value of a type code of R45, 0 f32, 1 f16, 2 bf16. -/
def fmtOf (t : Nat) : Fmt := if t = 0 then f32 else if t = 1 then f16 else bf16

def Fmt.width (f : Fmt) : Nat := 1 + f.ew + f.mw
def Fmt.bias (f : Fmt) : Int := 2 ^ (f.ew - 1) - 1
/-- Exponent of the last place of a subnormal. -/
def Fmt.qmin (f : Fmt) : Int := 1 - f.bias - f.mw
def Fmt.signBit (f : Fmt) : Nat := 2 ^ (f.ew + f.mw)
/-- Bits of the largest finite magnitude. -/
def Fmt.maxFin (f : Fmt) : Nat := if f.ieee then (2 ^ f.ew - 1) * 2 ^ f.mw - 1 else 2 ^ (f.ew + f.mw) - 2
/-- The canonical NaN. -/
def Fmt.nan (f : Fmt) : Nat :=
  if f.ieee then (2 ^ f.ew - 1) * 2 ^ f.mw + 2 ^ (f.mw - 1) else 2 ^ (f.ew + f.mw) - 1
/-- Infinity of a sign; E4M3 takes its NaN (R57). -/
def Fmt.inf (f : Fmt) (neg : Bool) : Nat :=
  if f.ieee then (2 ^ f.ew - 1) * 2 ^ f.mw + (if neg then f.signBit else 0) else f.nan
def Fmt.zero (f : Fmt) (neg : Bool) : Nat := if neg then f.signBit else 0
def Fmt.max (f : Fmt) (neg : Bool) : Nat := f.maxFin + (if neg then f.signBit else 0)

/-- A value: NaN (signalling or not), infinity, or the exact number ± m * 2^e. -/
inductive FVal where
  | nan (sig : Bool)
  | inf (neg : Bool)
  | num (neg : Bool) (m : Nat) (e : Int)
  deriving DecidableEq

/-- Decode the low bits of a word in a format (R55, R56). -/
def decodeF (f : Fmt) (x : Nat) : FVal :=
  let neg := x.testBit (f.ew + f.mw)
  let ex := x / 2 ^ f.mw % 2 ^ f.ew
  let fr := x % 2 ^ f.mw
  if f.ieee && decide (ex = 2 ^ f.ew - 1) then
    (if fr = 0 then .inf neg else .nan (!fr.testBit (f.mw - 1)))
  else if !f.ieee && decide (ex = 2 ^ f.ew - 1) && decide (fr = 2 ^ f.mw - 1) then .nan false
  else if ex = 0 then .num neg fr f.qmin
  else .num neg (2 ^ f.mw + fr) (f.qmin + ex - 1)

def FVal.isNan : FVal → Bool
  | .nan _ => true
  | _ => false
def FVal.isSig : FVal → Bool
  | .nan s => s
  | _ => false
def FVal.isInf : FVal → Bool
  | .inf _ => true
  | _ => false
def FVal.isZero : FVal → Bool
  | .num _ m _ => decide (m = 0)
  | _ => false
def FVal.neg : FVal → Bool
  | .nan _ => false
  | .inf n => n
  | .num n _ _ => n
/-- The value with the opposite sign. -/
def FVal.flip : FVal → FVal
  | .nan s => .nan s
  | .inf n => .inf (!n)
  | .num n m e => .num (!n) m e

/-! ### Rounding (R57) -/

/-- A result and its flags. -/
abbrev FRes := Nat × BitVec 5

/-- Round m * 2^e, or a little more where `st` is set, to a multiple of 2^q in mode rnd: the multiple, and whether it
differs. -/
def roundAt (rnd : Nat) (neg : Bool) (m : Nat) (e : Int) (st : Bool) (q : Int) : Nat × Bool :=
  if q ≤ e then (m * 2 ^ (e - q).toNat, st)
  else
    let sh := min (q - e).toNat (Nat.log2 m + 2)
    let kept := m / 2 ^ sh
    let r := m % 2 ^ sh
    let half := 2 ^ (sh - 1)
    let inexact := decide (r ≠ 0) || st
    let up := match rnd with
      | 0 => decide (half < r) || (decide (r = half) && (st || decide (kept % 2 = 1)))
      | 1 => false
      | 2 => inexact && !neg
      | _ => inexact && neg
    (kept + (if up then 1 else 0), inexact)

/-- Bits and flags of an overflow (R57). -/
def overflowF (f : Fmt) (rnd : Nat) (sat neg : Bool) : FRes :=
  let toInf := match rnd with
    | 0 => true
    | 1 => false
    | 2 => !neg
    | _ => neg
  (if sat || !toInf then f.max neg else f.inf neg, OF ||| NX)

/-- Round an exact value (R57), tininess detected after rounding (R56). `st` says that the exact magnitude lies above
m * 2^e and below (m + 1) * 2^e. -/
def roundF (f : Fmt) (rnd : Nat) (sat neg : Bool) (m : Nat) (e : Int) (st : Bool) : FRes :=
  if m = 0 && !st then (f.zero neg, 0)
  else
    let top := e + Nat.log2 m
    let q := max (top - f.mw) f.qmin
    let r := roundAt rnd neg m e st q
    let bits := (q - f.qmin).toNat * 2 ^ f.mw + r.1
    if f.maxFin < bits then overflowF f rnd sat neg
    else
      let tiny := decide (top < f.qmin + f.mw) &&
        decide ((roundAt rnd neg m e st (top - f.mw)).1 < 2 ^ (f.mw + 1) ∨ top + 1 < f.qmin + f.mw)
      (bits + (if neg then f.signBit else 0), flagIf r.2 NX ||| flagIf (tiny && r.2) UF)

/-- Round a value that may be special; a NaN gives the canonical NaN. -/
def roundV (f : Fmt) (rnd : Nat) (v : FVal) (fl : BitVec 5) : FRes :=
  match v with
  | .nan _ => (f.nan, fl)
  | .inf n => (f.inf n, fl)
  | .num n m e => let r := roundF f rnd false n m e false; (r.1, r.2 ||| fl)

/-! ### Sums of products (R92, R93, R99, R100) -/

/-- The product of two values: NaN as R92 says. -/
def mulV (x y : FVal) : FVal :=
  match x, y with
  | .nan s, .nan t => .nan (s || t)
  | .nan s, _ => .nan s
  | _, .nan s => .nan s
  | .inf n, y => if y.isZero then .nan true else .inf (n != y.neg)
  | x, .inf n => if x.isZero then .nan true else .inf (x.neg != n)
  | .num n m e, .num n' m' e' => .num (n != n') (m * m') (e + e')

/-- A value as an integer multiple of 2^q, for q no greater than its exponent. -/
def scaled (q : Int) : FVal → Int
  | .num n m e => (if n then -1 else 1) * (m * 2 ^ (e - q).toNat : Nat)
  | _ => 0

/-- The least exponent of a list of numbers. -/
def leastExp : List FVal → Int
  | [] => 0
  | [.num _ _ e] => e
  | .num _ _ e :: vs => min e (leastExp vs)
  | _ :: vs => leastExp vs

/-- The exact sum of a list of values, and whether it is invalid (R92); an exact zero has the terms' sign where all
agree and is -0 in mode .rd, else +0 (R56). -/
def sumV (rnd : Nat) (vs : List FVal) : FVal × BitVec 5 :=
  let inv := vs.any FVal.isSig
  if inv then (.nan true, NV)
  else if vs.any FVal.isNan then (.nan false, 0)
  else if vs.any FVal.isInf then
    (if vs.any (fun v => v.isInf && v.neg) && vs.any (fun v => v.isInf && !v.neg) then (.nan true, NV)
     else (.inf (vs.any (fun v => v.isInf && v.neg)), 0))
  else
    let q := leastExp vs
    let t := (vs.map (scaled q)).sum
    if t = 0 then
      (.num (if vs.all FVal.neg then true else if vs.any FVal.neg then decide (rnd = 3) else false) 0 q, 0)
    else (.num (decide (t < 0)) t.natAbs q, 0)

/-- B * C + A rounded once (R93). -/
def fmaF (f : Fmt) (rnd : Nat) (b c a : FVal) : FRes :=
  let r := sumV rnd [mulV b c, a]
  roundV f rnd r.1 r.2

def addF (f : Fmt) (rnd : Nat) (b c : FVal) : FRes :=
  let r := sumV rnd [b, c]
  roundV f rnd r.1 r.2

def mulF (f : Fmt) (rnd : Nat) (b c : FVal) : FRes :=
  let v := mulV b c
  roundV f rnd v (flagIf v.isSig NV)

/-! ### Comparison, minimum, maximum, class (R94, R95, R98) -/

/-- The numerical comparison of two values that are not NaN: less, and equal. -/
def lessV (x y : FVal) : Bool :=
  match x, y with
  | .nan _, _ => false
  | _, .nan _ => false
  | .inf n, .inf n' => n && !n'
  | .inf n, .num _ _ _ => n
  | .num _ _ _, .inf n => !n
  | .num n m e, .num n' m' e' =>
    let q := min e e'
    decide (scaled q (.num n m e) < scaled q (.num n' m' e'))

def eqV (x y : FVal) : Bool := !x.isNan && !y.isNan && !lessV x y && !lessV y x

/-- FMIN and FMAX (R94) on bit patterns. -/
def minmaxF (f : Fmt) (wantMax : Bool) (x y : Nat) : FRes :=
  let u := decodeF f x
  let v := decodeF f y
  let fl := flagIf (u.isSig || v.isSig) NV
  if u.isNan && v.isNan then (f.nan, fl)
  else if u.isNan then (y % 2 ^ f.width, fl)
  else if v.isNan then (x % 2 ^ f.width, fl)
  else
    let xLess := lessV u v || (eqV u v && u.neg)
    ((if xLess != wantMax then x else y) % 2 ^ f.width, fl)

/-- FCLASS (R95). -/
def classF (f : Fmt) (x : Nat) : Nat :=
  match decodeF f x with
  | .nan true => 2 ^ 8
  | .nan false => 2 ^ 9
  | .inf n => if n then 2 ^ 0 else 2 ^ 7
  | .num n m e =>
    if m = 0 then (if n then 2 ^ 3 else 2 ^ 4)
    else if decide (m < 2 ^ f.mw) && decide (e = f.qmin) then (if n then 2 ^ 2 else 2 ^ 5)
    else if n then 2 ^ 1 else 2 ^ 6

/-- FSETP's tests (R98): the result and NV. -/
def cmpF (f : Fmt) (k : Nat) (x y : Nat) : Bool × BitVec 5 :=
  let u := decodeF f x
  let v := decodeF f y
  let anyNan := u.isNan || v.isNan
  let nv := if decide (2 ≤ k) && decide (k ≤ 5) then anyNan else u.isSig || v.isSig
  let t := match k with
    | 0 => eqV u v
    | 1 => !eqV u v
    | 2 => lessV u v
    | 3 => lessV u v || eqV u v
    | 4 => lessV v u
    | 5 => lessV v u || eqV u v
    | 6 => !anyNan
    | _ => anyNan
  (t, flagIf nv NV)

/-! ### Integral rounding and scaling (R96, R97) -/

/-- FRND (R96). -/
def frndF (f : Fmt) (rnd : Nat) (x : Nat) : FRes :=
  match decodeF f x with
  | .nan s => (f.nan, flagIf s NV)
  | .inf n => (f.inf n, 0)
  | .num n m e =>
    if m = 0 || decide (0 ≤ e) then (x % 2 ^ f.width, 0)
    else
      let k := (roundAt rnd n m e false 0).1
      ((roundF f 0 false n k 0 false).1, 0)

/-- FLDX (R97). -/
def fldxF (f : Fmt) (rnd : Nat) (x : Nat) (n : Int) : FRes :=
  match decodeF f x with
  | .nan s => (f.nan, flagIf s NV)
  | .inf s => (f.inf s, 0)
  | .num s m e => roundF f rnd false s m (e + n) false

/-- FSIGN (R95). -/
def fsignF (f : Fmt) (x y : Nat) : Nat := x % f.signBit + (if y.testBit (f.ew + f.mw) then f.signBit else 0)

/-! ### Conversions (R60) -/

/-- The width and signedness of an integer type code (R43), and the format of a float type code. -/
def typeBits (t : Nat) : Nat :=
  if t ≤ 1 then 8 else if t ≤ 3 then 16 else if t ≤ 5 then 32 else if t ≤ 7 then 64
  else if t = 8 then 32 else if t ≤ 10 then 16 else 8
def typeSigned (t : Nat) : Bool := decide (t < 8) && decide (t % 2 = 0)
def typeFloat (t : Nat) : Bool := decide (8 ≤ t)
def typeFmt (t : Nat) : Fmt :=
  if t = 8 then f32 else if t = 9 then f16 else if t = 10 then bf16 else if t = 11 then e4m3 else e5m2

/-- An integer read from the low bits of a word. -/
def intOf (t : Nat) (x : Nat) : Int :=
  let n := typeBits t
  if typeSigned t then (BitVec.ofNat n x).toInt else x % 2 ^ n
def typeMin (t : Nat) : Int := if typeSigned t then -(2 ^ (typeBits t - 1)) else 0
def typeMax (t : Nat) : Int := if typeSigned t then 2 ^ (typeBits t - 1) - 1 else 2 ^ typeBits t - 1

/-- An integer as the bits of a type, before extension. -/
def intBits (t : Nat) (v : Int) : Nat := (BitVec.ofInt (typeBits t) v).toNat

/-- Float to float. Types of equal width (f16 and bf16, e4m3 and e5m2) convert as to a narrower one: they round, and .sat clamps
(DESIGN CHOICE: R60 has a row for the wider and one for the narrower type). -/
def cvtFF (src dst : Nat) (rnd : Nat) (sat : Bool) (x : Nat) : FRes :=
  let f := typeFmt dst
  let narrow := decide (typeBits dst ≤ typeBits src) && decide (src ≠ dst)
  match decodeF (typeFmt src) x with
  | .nan s => (f.nan, flagIf s NV)
  | .inf n =>
    if narrow && sat then (f.max n, 0)
    else if f.ieee then (f.inf n, 0) else (f.nan, NV)
  | .num n m e => if src = dst then (x % 2 ^ f.width, 0) else roundF f rnd (narrow && sat) n m e false

/-- Float to integer. -/
def cvtFI (src dst : Nat) (rnd : Nat) (x : Nat) : FRes :=
  match decodeF (typeFmt src) x with
  | .nan _ => (0, NV)
  | .inf n => (intBits dst (if n then typeMin dst else typeMax dst), NV)
  | .num n m e =>
    let big := decide (0 < m) && decide (100 < e + Nat.log2 m)
    let r := if big then (0, false) else roundAt rnd n m e false 0
    let v : Int := if n then -(r.1 : Int) else r.1
    if big then (intBits dst (if n then typeMin dst else typeMax dst), NV)
    else if v < typeMin dst then (intBits dst (typeMin dst), NV)
    else if typeMax dst < v then (intBits dst (typeMax dst), NV)
    else (intBits dst v, flagIf r.2 NX)

/-- Integer to float. -/
def cvtIF (src dst : Nat) (rnd : Nat) (sat : Bool) (x : Nat) : FRes :=
  let v := intOf src x
  roundF (typeFmt dst) rnd sat (decide (v < 0)) v.natAbs 0 false

/-- Integer to integer. -/
def cvtII (src dst : Nat) (sat : Bool) (x : Nat) : FRes :=
  let v := intOf src x
  if sat then
    let w := if v < typeMin dst then typeMin dst else if typeMax dst < v then typeMax dst else v
    (intBits dst w, flagIf (decide (w ≠ v)) OF)
  else (intBits dst v, 0)

/-- cvt(x, type, rnd, sat) (R60): the bits of the destination type. -/
def cvtBits (src dst : Nat) (rnd : Nat) (sat : Bool) (x : Nat) : FRes :=
  if typeFloat src then (if typeFloat dst then cvtFF src dst rnd sat x else cvtFI src dst rnd x)
  else if typeFloat dst then cvtIF src dst rnd sat x else cvtII src dst sat x

/-- A converted value as it fills a register: s8 and s16 sign-extended to 32 bits, the others zero-extended (R87). -/
def fillReg (t : Nat) (x : Nat) : W64 :=
  if typeSigned t && decide (typeBits t < 32) then ((BitVec.ofNat (typeBits t) x).signExtend 32).setWidth 64
  else BitVec.ofNat 64 x

/-! ### Block quantization (R64) -/

/-- floor(log2 |x|) of a nonzero number. -/
def expOf : FVal → Option Int
  | .num _ m e => if m = 0 then none else some (e + Nat.log2 m)
  | _ => none

def maxExp : List FVal → Int
  | [] => -127
  | v :: vs => match expOf v with
    | some e => max e (maxExp vs)
    | none => maxExp vs

/-- A mantissa, whether the clamp changed it and whether it is exact (R64). -/
def bx5Mant (E : Int) : FVal → Int × Bool × Bool
  | .num n m e =>
    let r := roundAt 0 n m e false (E - 3)
    let v : Int := if n then -(r.1 : Int) else r.1
    if v < -16 then (-16, true, false) else if 15 < v then (15, true, false) else (v, false, !r.2)
  | _ => (0, false, true)

/-- A quantized block: code, mantissas, saturation count, and whether a source was NaN or infinite, and whether every
mantissa is exact. -/
structure Block where
  code  : Byte
  mants : List Int
  sats  : Nat
  bad   : Bool
  exact : Bool

def quantize (xs : List FVal) : Block :=
  if xs.any (fun v => v.isNan || v.isInf) then
    { code := 0xFF, mants := xs.map (fun _ => 0), sats := 0, bad := true, exact := true }
  else
    let E := maxExp xs
    let ms := xs.map (bx5Mant E)
    { code := BitVec.ofInt 8 (E + 127), mants := ms.map (·.1), sats := (ms.filter (fun m => m.2.1)).length, bad := false,
      exact := ms.all (fun m => m.2.2) }

/-! ### The matrix multiplier (R65 to R67) -/

/-- G of one K step: the exact sum of a[k] * n[k] (R66); `code` 0xFF is the NaN scale. -/
def groupSum (as : List FVal) (ns : List Int) (code : Byte) : FVal :=
  if code = 0xFF then .nan false
  else
    let ps := (as.zip ns).map (fun p => mulV p.1 (.num (decide (p.2 < 0)) p.2.natAbs 0))
    let r := (sumV 0 ps).1
    if r.isZero then .num false 0 0 else r

/-- Scale by a power of two. -/
def scaleV (g : Int) : FVal → FVal
  | .num n m e => .num n m (e + g)
  | v => v

/-- One K step on one element (R66): the new value before the saturation rule. -/
def kStepX (c : W32) (as : List FVal) (ns : List Int) (code : Byte) (g : Int) : Nat :=
  let h := (roundV f32 0 (groupSum as ns code) 0).1
  let h2 := (roundV f32 0 (scaleV g (decodeF f32 h)) 0).1
  (addF f32 0 (decodeF f32 c.toNat) (decodeF f32 h2)).1

end Sys2Proof.Machine
end

