-- ==== Sys2Proof/Machine/Special.lean ====
section
/-! DEFINITION. The correctly rounded functions (R69, R101, R103). FRCP, FRSQ, FSQRT and FDIV are exact with a sticky
bit; FEXP2, FLOG2, FSIN and FCOS are enclosed between two numbers of 2^-P until both ends round alike (the values
are irrational wherever they are not exact by a case of their own). -/
namespace Sys2Proof.Machine

/-! ### Quotients and roots -/

/-- The integer square root, bit by bit from bit b - 1 down. -/
def rootFrom (n : Nat) : Nat → Nat → Nat
  | 0, r => r
  | b + 1, r => rootFrom n b (if (r + 2 ^ b) * (r + 2 ^ b) ≤ n then r + 2 ^ b else r)
def isqrt (n : Nat) : Nat := rootFrom n (Nat.log2 n / 2 + 1) 0

/-- The rounded quotient of two nonzero magnitudes. -/
def quotF (f : Fmt) (neg : Bool) (m : Nat) (e : Int) (m' : Nat) (e' : Int) : FRes :=
  let k := f.mw + 4 + Nat.log2 m'
  roundF f 0 false neg (m * 2 ^ k / m') (e - e' - k) (decide (m * 2 ^ k % m' ≠ 0))

/-- FDIV (R101, R103). -/
def fdivF (f : Fmt) (x y : Nat) : FRes :=
  let u := decodeF f x
  let v := decodeF f y
  let s := u.neg != v.neg
  if u.isSig || v.isSig then (f.nan, NV)
  else if u.isNan || v.isNan then (f.nan, 0)
  else match u, v with
    | .inf _, .inf _ => (f.nan, NV)
    | .inf _, _ => (f.inf s, 0)
    | _, .inf _ => (f.zero s, 0)
    | .num _ m e, .num _ m' e' =>
      if m' = 0 then (if m = 0 then (f.nan, NV) else (f.inf s, DZ))
      else if m = 0 then (f.zero s, 0)
      else quotF f s m e m' e'
    | _, _ => (f.nan, 0)

/-- FRCP. -/
def frcpF (f : Fmt) (x : Nat) : FRes :=
  match decodeF f x with
  | .nan s => (f.nan, flagIf s NV)
  | .inf n => (f.zero n, 0)
  | .num n m e => if m = 0 then (f.inf n, DZ) else quotF f n 1 0 m e

/-- A magnitude with an even exponent. -/
def evenExp (m : Nat) (e : Int) : Nat × Int := if e % 2 = 0 then (m, e) else (2 * m, e - 1)

/-- FSQRT. -/
def fsqrtF (f : Fmt) (x : Nat) : FRes :=
  match decodeF f x with
  | .nan s => (f.nan, flagIf s NV)
  | .inf n => if n then (f.nan, NV) else (f.inf false, 0)
  | .num n m e =>
    if m = 0 then (f.zero n, 0)
    else if n then (f.nan, NV)
    else
      let v := evenExp m e
      let k := f.mw + 4
      let big := v.1 * 2 ^ (2 * k)
      let r := isqrt big
      roundF f 0 false false r (v.2 / 2 - k) (decide (r * r ≠ big))

/-- FRSQ. -/
def frsqF (f : Fmt) (x : Nat) : FRes :=
  match decodeF f x with
  | .nan s => (f.nan, flagIf s NV)
  | .inf n => if n then (f.nan, NV) else (f.zero false, 0)
  | .num n m e =>
    if m = 0 then (f.inf n, DZ)
    else if n then (f.nan, NV)
    else
      let v := evenExp m e
      let k := f.mw + 4 + Nat.log2 v.1
      let r := isqrt (2 ^ (2 * k) / v.1)
      roundF f 0 false false r (-(v.2 / 2) - k) (decide (r * r * v.1 ≠ 2 ^ (2 * k)))

/-! ### Enclosures: pairs (lo, hi) of multiples of 2^-P -/

abbrev Ivl := Nat × Nat

def mulI (P : Nat) (a b : Ivl) : Ivl := (a.1 * b.1 / 2 ^ P, a.2 * b.2 / 2 ^ P + 1)
def divI (a : Ivl) (n : Nat) : Ivl := (a.1 / n, a.2 / n + 1)
def addI (a b : Ivl) : Ivl := (a.1 + b.1, a.2 + b.2)

/-- exp(y) for y below 1: the sum of y^n / n! from term n on. -/
def expSeries (P : Nat) (y : Ivl) : Nat → Nat → Ivl → Ivl → Ivl
  | 0, _, t, acc => (acc.1, acc.2 + 2 * t.2 + 2)
  | k + 1, n, t, acc => expSeries P y k (n + 1) (divI (mulI P t y) (n + 1)) (addI acc t)

/-- atanh(z) for z at most 1/3: the sum of z^(2n+1) / (2n+1). -/
def atanhSeries (P : Nat) (z2 : Ivl) : Nat → Nat → Ivl → Ivl → Ivl
  | 0, _, t, acc => (acc.1, acc.2 + 2 * t.2 + 2)
  | k + 1, n, t, acc => atanhSeries P z2 k (n + 2) (mulI P t z2) (addI acc (divI t n))

/-- atan(1/k) as the alternating sum, the sign of the term in `odd`. -/
def atanInv (k2 : Nat) : Nat → Nat → Bool → Ivl → Ivl → Ivl → Ivl
  | 0, _, _, t, pos, neg => (pos.1 - neg.2 - t.2 - 1, pos.2 - neg.1 + t.2 + 1)
  | j + 1, n, odd, t, pos, neg =>
    let x := divI t n
    atanInv k2 j (n + 2) (!odd) (divI t k2) (if odd then pos else addI pos x) (if odd then addI neg x else neg)

def atanOf (P k : Nat) : Ivl :=
  atanInv (k * k) (P / 4 + 4) 1 false (2 ^ P / k, 2 ^ P / k + 1) (0, 0) (0, 0)

/-- pi/2 by Machin's formula: 8 atan(1/5) - 2 atan(1/239). -/
def halfPi (P : Nat) : Ivl :=
  let a := atanOf P 5
  let b := atanOf P 239
  (8 * a.1 - 2 * b.2, 8 * a.2 - 2 * b.1)

/-- ln 2 = 2 atanh(1/3). -/
def ln2 (P : Nat) : Ivl :=
  let z : Ivl := (2 ^ P / 3, 2 ^ P / 3 + 1)
  let r := atanhSeries P (mulI P z z) (P / 3 + 4) 1 z (0, 0)
  (2 * r.1, 2 * r.2)

/-- sin (first = r) or cos (first = 1) of r below 1: terms r^n / n! with alternating signs. -/
def trigSeries (P : Nat) (r2 : Ivl) : Nat → Nat → Bool → Ivl → Ivl → Ivl → Ivl
  | 0, _, _, t, pos, neg => (pos.1 - neg.2 - t.2 - 1, pos.2 - neg.1 + t.2 + 1)
  | j + 1, n, odd, t, pos, neg =>
    trigSeries P r2 j (n + 2) (!odd) (divI (mulI P t r2) ((n + 1) * (n + 2)))
      (if odd then pos else addI pos t) (if odd then addI neg t else neg)

def sinI (P : Nat) (r : Ivl) : Ivl := trigSeries P (mulI P r r) (P / 6 + 8) 1 false r (0, 0) (0, 0)
def cosI (P : Nat) (r : Ivl) : Ivl := trigSeries P (mulI P r r) (P / 6 + 8) 0 false (2 ^ P, 2 ^ P) (0, 0) (0, 0)

/-- The magnitude m * 2^e between two multiples of 2^-P. -/
def encl (P m : Nat) (e : Int) : Ivl :=
  if 0 ≤ e + P then (m * 2 ^ (e + P).toNat, m * 2 ^ (e + P).toNat)
  else (m / 2 ^ (-(e + P)).toNat, m / 2 ^ (-(e + P)).toNat + 1)

/-- The common rounding of an irrational value enclosed by a pair, scaled by 2^g, if its ends round alike. -/
def decided (f : Fmt) (P : Nat) (neg : Bool) (v : Ivl) (g : Int) : Option FRes :=
  if v.1 = 0 || decide (v.2 ≤ v.1) then none
  else
    let lo := roundF f 0 false neg v.1 (g - P) true
    let hi := roundF f 0 false neg (v.2 - 1) (g - P) true
    if lo = hi then some lo else none

/-- Try precisions until one decides. -/
def tryAll (g : Nat → Option FRes) (other : FRes) : List Nat → FRes
  | [] => other
  | P :: ps => match g P with
    | some r => r
    | none => tryAll g other ps

def precisions : List Nat := [256, 512, 1024]

/-- The result left undecided at every precision (log entry 9). -/
def undecidedF (f : Fmt) (code x : Nat) : FRes := (Config.undecided code x % 2 ^ f.width, NX)

/-! ### FEXP2, FLOG2, FSIN, FCOS -/

/-- 2^x at precision P for a number that is no integer and of magnitude below 4096. -/
def exp2At (f : Fmt) (n : Bool) (m : Nat) (e : Int) (P : Nat) : Option FRes :=
  let x : Int := if n then -(m : Int) else m
  let fl : Int := x / 2 ^ (-e).toNat
  let fr : Nat := (x - fl * 2 ^ (-e).toNat).toNat
  let y := mulI P (encl P fr e) (ln2 P)
  decided f P false (expSeries P y (P / 4 + 8) 0 (2 ^ P, 2 ^ P) (0, 0)) fl

def fexp2F (f : Fmt) (x : Nat) : FRes :=
  match decodeF f x with
  | .nan s => (f.nan, flagIf s NV)
  | .inf n => if n then (f.zero false, 0) else (f.inf false, 0)
  | .num n m e =>
    if m = 0 then roundF f 0 false false 1 0 false
    else if 12 ≤ e + Nat.log2 m then
      (if n then roundF f 0 false false 1 (-4096) true else overflowF f 0 false false)
    else if 0 ≤ e || decide (m % 2 ^ (-e).toNat = 0) then
      let k : Int := if 0 ≤ e then m * 2 ^ e.toNat else m / 2 ^ (-e).toNat
      roundF f 0 false false 1 (if n then -k else k) false
    else tryAll (exp2At f n m e) (undecidedF f 3 x) precisions

/-- log2 of a number m * 2^e that is no power of two, at precision P. -/
def log2At (f : Fmt) (m : Nat) (e : Int) (P : Nat) : Option FRes :=
  let l := Nat.log2 m
  let E : Int := e + l
  let one := 2 ^ l
  let z : Ivl := ((m - one) * 2 ^ P / (m + one), (m - one) * 2 ^ P / (m + one) + 1)
  let a := atanhSeries P (mulI P z z) (P / 3 + 4) 1 z (0, 0)
  let d := ln2 P
  let fr : Ivl := (2 * a.1 * 2 ^ P / d.2, 2 * a.2 * 2 ^ P / d.1 + 1)
  if 0 ≤ E then decided f P false (E.toNat * 2 ^ P + fr.1, E.toNat * 2 ^ P + fr.2) 0
  else decided f P true ((-E).toNat * 2 ^ P - fr.2, (-E).toNat * 2 ^ P - fr.1) 0

def flog2F (f : Fmt) (x : Nat) : FRes :=
  match decodeF f x with
  | .nan s => (f.nan, flagIf s NV)
  | .inf n => if n then (f.nan, NV) else (f.inf false, 0)
  | .num n m e =>
    if m = 0 then (f.inf true, DZ)
    else if n then (f.nan, NV)
    else if m = 2 ^ Nat.log2 m then
      let k : Int := e + Nat.log2 m
      roundF f 0 false (decide (k < 0)) k.natAbs 0 false
    else tryAll (log2At f m e) (undecidedF f 4 x) precisions

/-- Quadrant and remainder of a magnitude by pi/2: the quadrant number, whether the remainder is negative, and its
magnitude; none where the precision does not decide the sign. -/
def reduce (P m : Nat) (e : Int) : Option (Nat × Bool × Ivl) :=
  let x := encl P m e
  let h := halfPi P
  let k := (2 * x.1 + h.1) / (2 * h.1)
  if k = 0 then some (0, false, x)
  else if k * h.2 ≤ x.1 then some (k, false, (x.1 - k * h.2, x.2 - k * h.1))
  else if x.2 ≤ k * h.1 then some (k, true, (k * h.1 - x.2, k * h.2 - x.1))
  else none

/-- sin (shift 0) or cos (shift 1) of the magnitude m * 2^e, negated if neg, at precision P. -/
def trigAt (f : Fmt) (neg : Bool) (m : Nat) (e : Int) (shift P : Nat) : Option FRes :=
  match reduce P m e with
  | none => none
  | some (k, rneg, r) =>
    let q := (k + shift) % 4
    let odd := decide (q % 2 = 1)
    let v := if odd then cosI P r else sinI P r
    let s := (neg != decide (2 ≤ q)) != (rneg && !odd)
    decided f P s v 0

def fsinF (f : Fmt) (x : Nat) : FRes :=
  match decodeF f x with
  | .nan s => (f.nan, flagIf s NV)
  | .inf _ => (f.nan, NV)
  | .num n m e => if m = 0 then (f.zero n, 0) else tryAll (trigAt f n m e 0) (undecidedF f 5 x) precisions

def fcosF (f : Fmt) (x : Nat) : FRes :=
  match decodeF f x with
  | .nan s => (f.nan, flagIf s NV)
  | .inf _ => (f.nan, NV)
  | .num _ m e =>
    if m = 0 then roundF f 0 false false 1 0 false else tryAll (trigAt f false m e 1) (undecidedF f 6 x) precisions

end Sys2Proof.Machine
end

