-- ==== Sys2Proof/Machine/VFloat.lean ====
section
/-! DEFINITION. Floating-point and special-function instructions: majors 0x30 to 0x3C (06_float.md). -/
namespace Sys2Proof.Machine

/-- `one` and `mone` of a float type code of R45 (R26). -/
def constsT (t : Nat) : Consts :=
  if t = 0 then ⟨0x3F800000, 0xBF800000, false⟩
  else if t = 1 then ⟨0x3C00, 0xBC00, false⟩ else ⟨0x3F80, 0xBF80, false⟩

/-- `one` and `mone` of packed pairs: the constant in each half. -/
def constsP (bf : Bool) : Consts := if bf then ⟨0x3F803F80, 0xBF80BF80, false⟩ else ⟨0x3C003C00, 0xBC00BC00, false⟩

/-- An IMM constant with bits [31:16] set does not fit a 16-bit operand (R31). -/
def State.immWide (s : State) (t : Nat) : Bool :=
  decide (t ≠ 0) && (match s.u.frame.imm with
    | some p => decide (p >>> 9 ≠ 0)
    | none => false)

/-- Low bits of an operand in a float type. -/
def lowF (t : Nat) (x : W64) : Nat := x.toNat % 2 ^ (fmtOf t).width

/-- A float instruction of type t with sources b and c, the destination's old value first. -/
def State.fbin (s : State) (t : BitVec 2) (c b a : BitVec 7) (illegal : Bool) (la : Option (BitVec 4))
    (f : Fmt → Nat → Nat → Nat → FRes) : Host.Outcome State Fault Refusal :=
  s.vmap acceptAll [vd .a a 1, vs .b b 1, vs .c c 1] (illegal || s.immWide t.toNat) (constsT t.toNat) 1 la
    (fun _ _ a b c =>
      let r := f (fmtOf t.toNat) (lowF t.toNat a) (lowF t.toNat b) (lowF t.toNat c)
      (BitVec.ofNat 64 r.1, r.2))

/-- A unary float instruction. -/
def State.fun1 (s : State) (t : BitVec 2) (b a : BitVec 7) (illegal : Bool) (la : Option (BitVec 4))
    (f : Fmt → Nat → FRes) : Host.Outcome State Fault Refusal :=
  s.vmap acceptGX [vd .a a 1, vs .b b 1] illegal (constsT t.toNat) 1 la
    (fun _ _ _ b _ => let r := f (fmtOf t.toNat) (lowF t.toNat b); (BitVec.ofNat 64 r.1, r.2))

/-! ### R93 to R97 -/

def execFadd (r : BitVec 2) (c b a : BitVec 7) (t : BitVec 2) (s : State) :=
  s.fbin t c b a (!(Instr.fadd r c b a t).wf) none (fun f _ b c => addF f r.toNat (decodeF f b) (decodeF f c))
def execFsub (r : BitVec 2) (c b a : BitVec 7) (t : BitVec 2) (s : State) :=
  s.fbin t c b a (!(Instr.fsub r c b a t).wf) none (fun f _ b c => addF f r.toNat (decodeF f b) (decodeF f c).flip)
def execFmul (r : BitVec 2) (c b a : BitVec 7) (t : BitVec 2) (s : State) :=
  s.fbin t c b a (!(Instr.fmul r c b a t).wf) none (fun f _ b c => mulF f r.toNat (decodeF f b) (decodeF f c))
def execFma (r : BitVec 2) (c b a : BitVec 7) (t : BitVec 2) (s : State) :=
  s.fbin t c b a (!(Instr.fma r c b a t).wf) none
    (fun f a b c => fmaF f r.toNat (decodeF f b) (decodeF f c) (decodeF f a))
def execFms (r : BitVec 2) (c b a : BitVec 7) (t : BitVec 2) (s : State) :=
  s.fbin t c b a (!(Instr.fms r c b a t).wf) none
    (fun f a b c => fmaF f r.toNat (decodeF f b) (decodeF f c) (decodeF f a).flip)
def execFnma (r : BitVec 2) (c b a : BitVec 7) (t : BitVec 2) (s : State) :=
  s.fbin t c b a (!(Instr.fnma r c b a t).wf) none
    (fun f a b c => fmaF f r.toNat (decodeF f b).flip (decodeF f c) (decodeF f a))
def execFmin (c b a : BitVec 7) (t : BitVec 2) (s : State) :=
  s.fbin t c b a (!(Instr.fmin c b a t).wf) none (fun f _ b c => minmaxF f false b c)
def execFmax (c b a : BitVec 7) (t : BitVec 2) (s : State) :=
  s.fbin t c b a (!(Instr.fmax c b a t).wf) none (fun f _ b c => minmaxF f true b c)
def execFsign (c b a : BitVec 7) (t : BitVec 2) (s : State) :=
  s.fbin t c b a (!(Instr.fsign c b a t).wf) none (fun f _ b c => (fsignF f b c, 0))
def execFclass (b a : BitVec 7) (t : BitVec 2) (s : State) :=
  s.fun1 t b a (!(Instr.fclass b a t).wf) none (fun f b => (classF f b, 0))
def execFrnd (r : BitVec 2) (b a : BitVec 7) (t : BitVec 2) (s : State) :=
  s.fun1 t b a (!(Instr.frnd r b a t).wf) none (fun f b => frndF f r.toNat b)

/-- FLDX (R97): c is a 32-bit integer, so that `one` and `mone` in c are the integers 1 and -1 (DESIGN CHOICE, log entry 20: R26 and R90
give both in the instruction's type). -/
def execFldx (t r : BitVec 2) (c b a : BitVec 7) (s : State) :=
  let ops := [vd .a a 1, vs .b b 1, vs .c c 1]
  s.vmap acceptAll ops (!(Instr.fldx t r c b a).wf) (constsT t.toNat) 1 none
    (fun s L _ b _ =>
      let n := (s.valueAt intConsts ops .c L).setWidth 32
      let x := fldxF (fmtOf t.toNat) r.toNat (lowF t.toNat b) n.toInt
      (BitVec.ofNat 64 x.1, x.2))

/-- FSETP (R98). -/
def execFsetp (k : BitVec 4) (c b : BitVec 7) (t : BitVec 2) (p : BitVec 3) (s : State) :=
  s.vpred acceptAll [vs .b b 1, vs .c c 1] (!(Instr.fsetp k c b t p).wf || s.immWide t.toNat) (constsT t.toNat) p
    (fun _ _ b c => cmpF (fmtOf t.toNat) k.toNat (lowF t.toNat b) (lowF t.toNat c))

/-! ### Packed pairs and DOT4 (R99, R100) -/

/-- Half h of a register. -/
def halfOf (x : W64) (h : Nat) : Nat := x.toNat / 2 ^ (16 * h) % 2 ^ 16

def State.packed (s : State) (bf : BitVec 1) (c b a : BitVec 7) (f : Fmt → Nat → Nat → Nat → FRes) :
    Host.Outcome State Fault Refusal :=
  let fm := if bf = 1 then bf16 else f16
  s.vmap acceptAll [vd .a a 1, vs .b b 1, vs .c c 1] false (constsP (decide (bf = 1))) 1 none
    (fun _ _ a b c =>
      let lo := f fm (halfOf a 0) (halfOf b 0) (halfOf c 0)
      let hi := f fm (halfOf a 1) (halfOf b 1) (halfOf c 1)
      (BitVec.ofNat 64 (hi.1 * 2 ^ 16 + lo.1), lo.2 ||| hi.2))

def execPfadd (f r : BitVec 1) (c b a : BitVec 7) (s : State) :=
  s.packed f c b a (fun m _ b c => addF m r.toNat (decodeF m b) (decodeF m c))
def execPfmul (f r : BitVec 1) (c b a : BitVec 7) (s : State) :=
  s.packed f c b a (fun m _ b c => mulF m r.toNat (decodeF m b) (decodeF m c))
def execPfma (f r : BitVec 1) (c b a : BitVec 7) (s : State) :=
  s.packed f c b a (fun m a b c => fmaF m r.toNat (decodeF m b) (decodeF m c) (decodeF m a))

/-- `one` and `mone` of an FP8 operand of DOT4 (R100). -/
def constsE (e5 : Bool) : Consts := if e5 then ⟨0x3C3C3C3C, 0xBCBCBCBC, false⟩ else ⟨0x38383838, 0xB8B8B8B8, false⟩

/-- The products of DOT4 in one lane, and the addend. -/
def dot4Terms (fb fc : Fmt) (a b c : W64) : List FVal :=
  (List.range 4).map (fun i =>
    mulV (decodeF fb (b.toNat / 2 ^ (8 * i) % 256)) (decodeF fc (c.toNat / 2 ^ (8 * i) % 256))) ++
  [decodeF f32 (a.toNat % 2 ^ 32)]

def execDot4 (f : BitVec 2) (c b a : BitVec 7) (s : State) :=
  let ops := [vd .a a 1, vs .b b 1, vs .c c 1]
  let b5 := decide (f = 1 ∨ f = 3)
  let c5 := decide (f = 1 ∨ f = 2)
  s.vmap acceptAll ops false intConsts 1 none
    (fun s L a _ _ =>
      let v := sumV 0 (dot4Terms (if b5 then e5m2 else e4m3) (if c5 then e5m2 else e4m3) a
        (s.valueAt (constsE b5) ops .b L) (s.valueAt (constsE c5) ops .c L))
      let r := roundV f32 0 v.1 v.2
      (BitVec.ofNat 64 r.1, r.2))

/-! ### Special functions and division (R101 to R103) -/

def execFrcp (l : BitVec 4) (t : BitVec 2) (b a : BitVec 7) (s : State) :=
  s.fun1 t b a (!(Instr.frcp l t b a).wf) (some l) frcpF
def execFrsq (l : BitVec 4) (t : BitVec 2) (b a : BitVec 7) (s : State) :=
  s.fun1 t b a (!(Instr.frsq l t b a).wf) (some l) frsqF
def execFsqrt (l : BitVec 4) (t : BitVec 2) (b a : BitVec 7) (s : State) :=
  s.fun1 t b a (!(Instr.fsqrt l t b a).wf) (some l) fsqrtF
def execFexp2 (l : BitVec 4) (t : BitVec 2) (b a : BitVec 7) (s : State) :=
  s.fun1 t b a (!(Instr.fexp2 l t b a).wf) (some l) fexp2F
def execFlog2 (l : BitVec 4) (t : BitVec 2) (b a : BitVec 7) (s : State) :=
  s.fun1 t b a (!(Instr.flog2 l t b a).wf) (some l) flog2F
def execFsin (l : BitVec 4) (t : BitVec 2) (b a : BitVec 7) (s : State) :=
  s.fun1 t b a (!(Instr.fsin l t b a).wf) (some l) fsinF
def execFcos (l : BitVec 4) (t : BitVec 2) (b a : BitVec 7) (s : State) :=
  s.fun1 t b a (!(Instr.fcos l t b a).wf) (some l) fcosF
def execFdivF32 (l : BitVec 4) (c b a : BitVec 7) (s : State) :=
  s.fbin 0 c b a false (some l) (fun f _ b c => fdivF f b c)
def execFdivF16 (l : BitVec 4) (c b a : BitVec 7) (s : State) :=
  s.fbin 1 c b a false (some l) (fun f _ b c => fdivF f b c)
def execFdivBf16 (l : BitVec 4) (c b a : BitVec 7) (s : State) :=
  s.fbin 2 c b a false (some l) (fun f _ b c => fdivF f b c)

end Sys2Proof.Machine
end

