-- ==== Sys2Proof/Machine/LaneOps.lean ====
section
/-! DEFINITION. Operations across the lanes of a partition tile: majors 0x48 to 0x4D (R141 to R146). -/
namespace Sys2Proof.Machine

/-- Width of the current partition tiles. -/
def State.tileW (s : State) : Nat := s.w.part.toNat

/-- ACT within lane L's tile. -/
def State.actTile (s : State) (L : Nat) : Lanes := s.act &&& tileMask s.tileW L

/-! ### POLL (R143) -/

/-- The lanes of L's tile, within ACT, where a predicate holds. -/
def State.votes (s : State) (b : BitVec 3) (L : Nat) : Lanes := s.actTile L &&& s.w.pred b.toNat

def execPollAnd (b a : BitVec 3) (s : State) :=
  s.vpred acceptGX [] false intConsts a (fun s L _ _ => (decide (s.votes b L = s.actTile L), 0))
def execPollOr (b a : BitVec 3) (s : State) :=
  s.vpred acceptGX [] false intConsts a (fun s L _ _ => (decide (s.votes b L ≠ 0), 0))
def execPollSame (b a : BitVec 3) (s : State) :=
  s.vpred acceptGX [] false intConsts a (fun s L _ _ => (decide (s.votes b L = 0 ∨ s.votes b L = s.actTile L), 0))
def execPollMask (b : BitVec 3) (a : BitVec 7) (s : State) :=
  s.vmap acceptGX [vd .a a 1] false intConsts 1 none (fun s L _ _ _ => ((s.votes b L).setWidth 64, 0))

/-! ### SHFL (R144) -/

/-- A shuffle: `pos` gives the source position from the lane's position, the width and the selector. -/
def State.shuffle (s : State) (w : BitVec 1) (c b a : BitVec 7) (pos : Nat → Nat → Nat → Nat) :
    Host.Outcome State Fault Refusal :=
  let ops := [vd .a a (regsW w), vs .b b (regsW w), vs .c c 1]
  s.vmap acceptAll ops false intConsts (regsW w) none (fun s L _ b c =>
    let t0 := tileStart s.tileW L
    let J := t0 + pos (L - t0) s.tileW (c.toNat % 2 ^ 32)
    (if s.act.getLsbD J then s.valueAt intConsts ops .b J else b, 0))

def execShflIdx (w : BitVec 1) (c b a : BitVec 7) (s : State) := s.shuffle w c b a (fun _ w c => c % w)
def execShflUp (w : BitVec 1) (c b a : BitVec 7) (s : State) := s.shuffle w c b a (fun j _ c => if j < c then j else j - c)
def execShflDown (w : BitVec 1) (c b a : BitVec 7) (s : State) :=
  s.shuffle w c b a (fun j w c => if w ≤ j + c then j else j + c)
def execShflXor (w : BitVec 1) (c b a : BitVec 7) (s : State) := s.shuffle w c b a (fun j w c => j ^^^ (c % w))

/-! ### REDUX and SCAN (R145) -/

/-- A lane operation on 32-bit operands (R41). -/
def laneOp32 (k : Nat) (x y : W32) : W32 × BitVec 5 :=
  match k with
  | 0 => (x + y, 0)
  | 1 => (minOf 32 true x y, 0)
  | 2 => (minOf 32 false x y, 0)
  | 3 => (maxOf 32 true x y, 0)
  | 4 => (maxOf 32 false x y, 0)
  | 5 => (x &&& y, 0)
  | 6 => (x ||| y, 0)
  | 7 => (x ^^^ y, 0)
  | 8 => let r := addF f32 0 (decodeF f32 x.toNat) (decodeF f32 y.toNat); (BitVec.ofNat 32 r.1, r.2)
  | 9 => let r := minmaxF f32 false x.toNat y.toNat; (BitVec.ofNat 32 r.1, r.2)
  | _ => let r := minmaxF f32 true x.toNat y.toNat; (BitVec.ofNat 32 r.1, r.2)

def laneOp (k : Nat) (x y : W64) : W64 × BitVec 5 :=
  if k = 11 then (x + y, 0)
  else let r := laneOp32 k (x.setWidth 32) (y.setWidth 32); (r.1.setWidth 64, r.2)

/-- The fixed pairwise tree over the 2^n positions from lo on. -/
def tree (op : W64 → W64 → W64 × BitVec 5) (val : Nat → Option W64) (lo : Nat) : Nat → Option (W64 × BitVec 5)
  | 0 => (val lo).map (fun v => (v, 0))
  | n + 1 =>
    match tree op val lo n, tree op val (lo + 2 ^ n) n with
    | none, h => h
    | l, none => l
    | some l, some h => let r := op l.1 h.1; some (r.1, l.2 ||| h.2 ||| r.2)

/-- Identities of the exclusive scan. -/
def scanIdentity (k : Nat) : W64 :=
  match k with
  | 1 => 0x7FFFFFFF
  | 2 => 0xFFFFFFFF
  | 5 => 0xFFFFFFFF
  | 3 => 0x80000000
  | 9 => 0x7F800000
  | 10 => 0xFF800000
  | _ => 0

/-- `one` and `mone` in the type of a lane operation. -/
def laneConsts (k : Nat) : Consts := if 8 ≤ k ∧ k ≤ 10 then constsT 0 else intConsts

/-- Registers of a lane operation's operands. -/
def laneRegs (k : Nat) : Nat := if k = 11 then 2 else 1

/-- A combination over each tile: `sees` says which positions a lane's position takes in. -/
def State.combine (s : State) (k : BitVec 4) (b a : BitVec 7) (sees : Nat → Nat → Bool) : Host.Outcome State Fault Refusal :=
  let n := laneRegs k.toNat
  let ops := [vd .a a n, vs .b b n]
  let ks := laneConsts k.toNat
  s.vmap acceptGX ops (decide (11 < k.toNat)) ks n none (fun s L _ _ _ =>
    let t0 := tileStart s.tileW L
    let val := fun i => if s.act.getLsbD (t0 + i) && sees (L - t0) i then some (s.valueAt ks ops .b (t0 + i)) else none
    (tree (laneOp k.toNat) val 0 (Nat.log2 s.tileW)).getD (scanIdentity k.toNat, 0))

def execRedux (k : BitVec 4) (b a : BitVec 7) (s : State) := s.combine k b a (fun _ _ => true)
def execScanIncl (k : BitVec 4) (b a : BitVec 7) (s : State) := s.combine k b a (fun j i => decide (i ≤ j))
def execScanExcl (k : BitVec 4) (b a : BitVec 7) (s : State) := s.combine k b a (fun j i => decide (i < j))

/-! ### LREORD (R146) -/

/-- A key as a number that orders as R146 gives. -/
def keyOrder (k : Nat) (x : W64) : Nat :=
  let lo := x.setWidth 32
  match k with
  | 0 => lo.toNat
  | 1 => (lo ^^^ 0x80000000#32).toNat
  | 2 => (if lo.getLsbD 31 then lo ^^^ 0xFFFFFFFF#32 else lo ^^^ 0x80000000#32).toNat
  | 3 => x.toNat
  | _ => (x ^^^ 0x8000000000000000#64).toNat

/-- Insert a lane among lanes in order of key, after its equals. -/
def insertLane (key : Nat → Nat) (L : Nat) : List Nat → List Nat
  | [] => [L]
  | J :: Js => if key L < key J then L :: J :: Js else J :: insertLane key L Js

/-- The lanes of a set in ascending order of key, equal keys in lane order. -/
def sortLanes (key : Nat → Nat) (m : Lanes) : List Nat := (Lanes.list m).foldl (fun ls L => insertLane key L ls) []

def execLreord (k : BitVec 4) (c b a : BitVec 7) (s : State) :=
  let n := if 3 ≤ k.toNat then 2 else 1
  let kc := if k.toNat = 2 then constsT 0 else intConsts
  let ops := [vd .a a 1, vs .b b 1, vs .c c n]
  s.vmap acceptGX ops (!(Instr.lreord k c b a).wf) kc 1 none (fun s L _ _ _ =>
    let m := s.actTile L
    let rank := ((Lanes.list m).filter (fun J => decide (J < L))).length
    let src := (sortLanes (fun J => keyOrder k.toNat (s.valueAt kc ops .c J)) m).getD rank L
    (s.valueAt kc ops .b src, 0))

end Sys2Proof.Machine
end

