-- ==== Sys2Proof/Machine/MemInstr.lean ====
section
/-! DEFINITION. Memory instructions: majors 0x50 to 0x5A (R48, R49, R179 to R188). -/
namespace Sys2Proof.Machine

/-! ### The memory immediate (R48, R49, R180) -/

def attrOf (i : W32) : Nat := i.toNat % 128
def scopeOf (i : W32) : Nat := i.toNat / 128 % 8
def offOf (i : W32) : BitVec 22 := (i >>> 10).setWidth 22

/-- Bytes of a width code, and registers of its value. -/
def codeBytes (k : Nat) : Nat := if k ≤ 1 then 1 else if k ≤ 3 then 2 else if k = 4 then 4 else 8
def codeRegs (k : Nat) : Nat := if k = 5 then 2 else 1

/-- Legal attributes of LD, LDS, SLD and LDK: width, order .rlx or, where allowed, .acq, and the scope. -/
def loadLegal (i : W32) (acq wide : Bool) : Bool :=
  decide (attrOf i % 8 ≤ 5) && decide (attrOf i / 32 = 0) &&
  (decide (attrOf i / 8 = 0) || (acq && decide (attrOf i / 8 = 1))) &&
  (decide (scopeOf i = 0) || (wide && decide (scopeOf i ≤ 4) && decide (attrOf i / 8 = 1)))

/-- Legal attributes of ST, STS and SST. -/
def storeLegal (i : W32) (wide : Bool) : Bool :=
  [0, 2, 4, 5].contains (attrOf i % 8) && decide (attrOf i / 32 = 0) &&
  (decide (attrOf i / 8 = 0) || decide (attrOf i / 8 = 2)) &&
  (decide (scopeOf i = 0) || (wide && decide (scopeOf i ≤ 4) && decide (attrOf i / 8 = 2)))

/-- Operation code, width and order of an atomic. -/
def atomOp (i : W32) : Nat := attrOf i / 8
def atomWide (i : W32) : Bool := i.getLsbD 2
def atomRegs (i : W32) : Nat := if atomWide i then 2 else 1
def atomBytes (i : W32) : Nat := if atomWide i then 8 else 4

/-- Legal attributes of ATOM and ATOMS. -/
def atomLegal (i : W32) (wide : Bool) : Bool :=
  decide (atomOp i ≤ 14) && !(decide (12 ≤ atomOp i) && atomWide i) &&
  (decide (scopeOf i = 0) || (wide && decide (scopeOf i ≤ 4)))

/-- Legal attributes of RED. -/
def redLegal (i : W32) : Bool :=
  atomLegal i true && decide (atomOp i ≠ 8) && decide (atomOp i ≠ 9) && (decide (attrOf i % 4 = 0) || decide (attrOf i % 4 = 2))

/-- Global address of lane L. -/
def State.globalAddr (s : State) (ops : List Opnd) (i : W32) (L : Nat) : Nat :=
  (s.valueAt intConsts ops .b L + (offOf i).signExtend 64).toNat

/-- Scratchpad or private-scratch offset of lane L. -/
def State.offsetAddr (s : State) (ops : List Opnd) (i : W32) (L : Nat) : Nat :=
  ((s.valueAt intConsts ops .b L).setWidth 32 + (offOf i).signExtend 32).toNat

/-! ### Checks and parts of an access -/

/-- A lane that is misaligned, or beyond the scratchpad (R165, R181). -/
def State.misaligned (s : State) (addr : Nat → Nat) (n : Nat) (natural spad : Bool) : Option Nat :=
  (Lanes.list s.act).find? (fun L =>
    (natural && decide (addr L % n ≠ 0)) || (spad && decide (s.spadSize s.g < addr L + n)))

/-- Every lane's bytes lie in present scratchpad lines (R174). -/
def State.allPresent (s : State) (addr : Nat → Nat) (n : Nat) : Bool :=
  (Lanes.list s.act).all (fun L => s.g.present (addr L) n)

/-- The runs of bytes of each lane of ACT: global bytes, or the bytes of private scratch by R164. -/
def State.globalRuns (s : State) (addr : Nat → Nat) (n : Nat) : List (Nat × List (Nat × Nat)) :=
  (Lanes.list s.act).map (fun L => (L, [(addr L, n)]))
/-- The bytes of private scratch that n bytes from o on are, one run for each word that they touch (R164, R173). -/
def wordRuns (base o n L : Nat) : List (Nat × Nat) :=
  (List.range' (o / 4) ((o + n + 3) / 4 - o / 4)).map (fun k =>
    (scratchAddr base (max o (4 * k)) L, min (o + n) (4 * k + 4) - max o (4 * k)))

def State.scratchRuns (s : State) (addr : Nat → Nat) (n : Nat) : List (Nat × List (Nat × Nat)) :=
  (Lanes.list s.act).map (fun L => (L, wordRuns (s.scrbase s.g s.w.index) (addr L) n L))

/-- The bytes that lanes read, or none while a remote answer is outstanding. -/
def State.laneBytes (s : State) : List (Nat × Segs) → Option (List (Nat × List Byte))
  | [] => some []
  | (L, p) :: r =>
    match s.segBytes s.who.waiter (tagOf L) p with
    | none => none
    | some bs => (State.laneBytes s r).map ((L, bs) :: ·)

/-- Ask for all remote bytes of lanes. -/
def State.askLanes (s : State) : List (Nat × Segs) → State
  | [] => s
  | (L, p) :: r => State.askLanes (s.ask s.who.waiter (tagOf L) p) r

/-- A lane's entry in a list. -/
def laneEntry {α : Type} (d : α) (t : List (Nat × α)) (L : Nat) : α := ((t.find? (fun x => x.1 = L)).map (·.2)).getD d

/-- The bytes of an access to its value. -/
def bytes64 (bs : List Byte) : W64 := BitVec.ofNat 64 (bytesVal bs)

/-- What a load writes (R183). -/
def extend (code : Nat) (v : W64) : W64 :=
  match code with
  | 0 => (v.setWidth 8).setWidth 64
  | 1 => ((v.setWidth 8).signExtend 32).setWidth 64
  | 2 => (v.setWidth 16).setWidth 64
  | 3 => ((v.setWidth 16).signExtend 32).setWidth 64
  | 4 => (v.setWidth 32).setWidth 64
  | _ => v

/-- Open the window of a result of n registers from e on. -/
def State.pushValues (s : State) (la : BitVec 4) (e n : Nat) (f : Nat → W64) : Eff :=
  let lo := (e, allLanes (fun L => (f L).setWidth 32))
  let hi := (e + 1, allLanes (fun L => (f L >>> 32).setWidth 32))
  s.pushResult la (Pending.of s.act (if n = 2 then [lo, hi] else [lo]) [])

/-! ### Loads (R183, R186) -/

/-- The load of a translated space. -/
def State.loadRuns (s : State) (la : BitVec 4) (e code : Nat) (runs : List (Nat × List (Nat × Nat))) : Eff :=
  (s.reachLanes s.who accRead runs).eff (fun s ps =>
    match s.laneBytes ps with
    | none => .held (s.askLanes ps)
    | some t => (s.forget s.who.waiter).pushValues la e (codeRegs code)
        (fun L => extend code (bytes64 (laneEntry [] t L))))

/-- LD and LDK. -/
def State.loadGlobal (s : State) (l : BitVec 4) (c b a : BitVec 7) (acq : Bool) : Host.Outcome State Fault Refusal :=
  let i := s.imm32 c
  let code := attrOf i % 8
  let ops := [vd .a a (codeRegs code), vbase .b b]
  s.issue acceptAll ops (!loadLegal i acq acq) (fun s =>
    match s.misaligned (s.globalAddr ops i) (codeBytes code) (decide (attrOf i / 8 = 1)) false with
    | some L => .trap .misalign L
    | none => if s.full then .wait s
      else s.loadRuns l (s.regAt ops .a) code (s.globalRuns (s.globalAddr ops i) (codeBytes code)))

def execLd (l : BitVec 4) (c b a : BitVec 7) (s : State) := s.loadGlobal l c b a true

/-- LDK reads the current value, one that the byte has held since the launch began (R186, log entry 13). -/
def execLdk (l : BitVec 4) (c b a : BitVec 7) (s : State) := s.loadGlobal l c b a false

/-- Stack offset of a lane that runs a routine of a recursion object (R269, R270). -/
def State.stackFrom (s : State) (L : Nat) : Option Nat :=
  (Table.find s.w.frames L).bind (fun f => (Table.find s.objs f.obj).map (fun o => (o.words.getD 5 0).toNat))

/-- The bytes a lane reads from offset o of its private scratch on: those of a recursion lane's stack area are left open. -/
def State.openBytes (s : State) (L o : Nat) (bs : List Byte) : List Byte :=
  match s.stackFrom L with
  | none => bs
  | some k => bs.mapIdx (fun j b => if k ≤ o + j ∧ o + j < s.launch.scratch then Config.freeByte (s.freeCount + 8 * L + j) else b)

/-- SLD (R183), with free values for the stack area of a recursion lane (R270). -/
def State.loadScratch (s : State) (la : BitVec 4) (e code : Nat) (addr : Nat → Nat) : Eff :=
  (s.reachLanes s.who accRead (s.scratchRuns addr (codeBytes code))).eff (fun s ps =>
    match s.laneBytes ps with
    | none => .held (s.askLanes ps)
    | some t => { s.forget s.who.waiter with freeCount := if s.w.frames.isEmpty then s.freeCount else s.freeCount + 256 }.pushValues la e (codeRegs code)
        (fun L => extend code (bytes64 (s.openBytes L (addr L) (laneEntry [] t L)))))

def execSld (l : BitVec 4) (c b a : BitVec 7) (s : State) :=
  let i := s.imm32 c
  let code := attrOf i % 8
  let ops := [vd .a a (codeRegs code), voff .b b]
  s.issue acceptAll ops (!loadLegal i true false) (fun s =>
    match s.misaligned (s.offsetAddr ops i) (codeBytes code) (decide (attrOf i / 8 = 1)) false with
    | some L => .trap .misalign L
    | none => if s.full then .wait s
      else s.loadScratch l (s.regAt ops .a) code (s.offsetAddr ops i))

def execLds (l : BitVec 4) (c b a : BitVec 7) (s : State) :=
  let i := s.imm32 c
  let code := attrOf i % 8
  let ops := [vd .a a (codeRegs code), voff .b b]
  s.issue acceptAll ops (!loadLegal i true false) (fun s =>
    match s.misaligned (s.offsetAddr ops i) (codeBytes code) true true with
    | some L => .trap .misalign L
    | none => if s.full || !s.allPresent (s.offsetAddr ops i) (codeBytes code) then .wait s
      else s.pushValues l (s.regAt ops .a) (codeRegs code) (fun L =>
        extend code (BitVec.ofNat 64 (Memory.readN s.g.spad (s.offsetAddr ops i L) (codeBytes code)))))

/-! ### Lane by lane -/

/-- The lanes of a list whose accesses this step performs: those that have not been performed, or the next of them where other
agents' accesses, or the evaluation of a WAIT, come between (R161, R172, R185). -/
def State.lanesNow {α : Type} (s : State) (ps : List (Nat × α)) : List (Nat × α) :=
  let left := ps.filter (fun x => !s.u.olds.any (fun y => y.1 = x.1))
  if s.byLane then left.take 1 else left

/-- Lanes have been performed, with what each had read: the instruction is complete once all have. -/
def State.lanesDone {α : Type} (s : State) (ps : List (Nat × α)) (olds : List (Nat × W64)) (k : State → (Nat → W64) → Eff) : Eff :=
  if ps.all (fun x => (s.u.olds ++ olds).any (fun y => y.1 = x.1)) then k s (laneEntry 0 (s.u.olds ++ olds))
  else .held (s.setU { s.u with olds := s.u.olds ++ olds })

/-! ### Stores (R184) -/

/-- Store the lanes' bytes in ascending order of lanes, so that the highest writes last (R172). -/
def State.storeLanes (s : State) (o : Waiter) (n : Nat) (f : Nat → W64) : List (Nat × Segs) → State
  | [] => s
  | (L, p) :: r => State.storeLanes (s.storeSegs o p (valBytes n (f L).toNat)) o n f r

/-- The store of a translated space. -/
def State.storeRuns (s : State) (n : Nat) (f : Nat → W64) (runs : List (Nat × List (Nat × Nat))) : Eff :=
  (s.reachLanes s.who accWrite runs).eff (fun s ps =>
    let now := s.lanesNow ps
    (s.storeLanes s.who.waiter n f now).lanesDone ps (now.map (fun x => (x.1, 0))) (fun s _ => .done s))

def execSt (c b a : BitVec 7) (s : State) :=
  let i := s.imm32 c
  let code := attrOf i % 8
  let ops := [vdata .a a (codeRegs code), vbase .b b]
  s.issue acceptAll ops (!storeLegal i true) (fun s =>
    match s.misaligned (s.globalAddr ops i) (codeBytes code) (decide (attrOf i / 8 = 2)) false with
    | some L => .trap .misalign L
    | none => s.storeRuns (codeBytes code) (s.valueAt intConsts ops .a) (s.globalRuns (s.globalAddr ops i) (codeBytes code)))

def execSst (c b a : BitVec 7) (s : State) :=
  let i := s.imm32 c
  let code := attrOf i % 8
  let ops := [vdata .a a (codeRegs code), voff .b b]
  s.issue acceptAll ops (!storeLegal i false) (fun s =>
    match s.misaligned (s.offsetAddr ops i) (codeBytes code) (decide (attrOf i / 8 = 2)) false with
    | some L => .trap .misalign L
    | none => s.storeRuns (codeBytes code) (s.valueAt intConsts ops .a) (s.scratchRuns (s.offsetAddr ops i) (codeBytes code)))

/-- Store the lanes' values in a scratchpad, in ascending order of lanes. -/
def storeSpad (m : Memory) (addr : Nat → Nat) (n : Nat) (f : Nat → W64) : List Nat → Memory
  | [] => m
  | L :: Ls => storeSpad (Memory.writeN m (addr L) n (f L).toNat) addr n f Ls

def execSts (c b a : BitVec 7) (s : State) :=
  let i := s.imm32 c
  let code := attrOf i % 8
  let ops := [vdata .a a (codeRegs code), voff .b b]
  s.issue acceptAll ops (!storeLegal i false) (fun s =>
    match s.misaligned (s.offsetAddr ops i) (codeBytes code) true true with
    | some L => .trap .misalign L
    | none => if !s.allPresent (s.offsetAddr ops i) (codeBytes code) then .wait s
      else
        let lanes := (Lanes.list s.act).map (fun L => (L, ()))
        let now := (s.lanesNow lanes).map (·.1)
        let m := storeSpad s.g.spad (s.offsetAddr ops i) (codeBytes code) (s.valueAt intConsts ops .a) now
        (s.setG { s.g with spad := m }).lanesDone lanes (now.map (fun L => (L, 0))) (fun s _ => .done s))

/-! ### Atomics (R185, R186) -/

/-- The new value of an atomic operation at width n; `swap` is CAS's second operand. -/
def atomNew (n : Nat) (op : Nat) (old v swap : BitVec n) : BitVec n :=
  match op with
  | 0 => old + v
  | 1 => old &&& v
  | 2 => old ||| v
  | 3 => old ^^^ v
  | 4 => minOf n true old v
  | 5 => minOf n false old v
  | 6 => maxOf n true old v
  | 7 => maxOf n false old v
  | 8 => v
  | 9 => if old = v then swap else old
  | 10 => if v.toNat ≤ old.toNat then 0 else old + 1
  | 11 => if old = 0 ∨ v.toNat < old.toNat then v else old - 1
  | 12 => BitVec.ofNat n (addF f32 0 (decodeF f32 old.toNat) (decodeF f32 v.toNat)).1
  | 13 => BitVec.ofNat n (minmaxF f32 false old.toNat v.toNat).1
  | _ => BitVec.ofNat n (minmaxF f32 true old.toNat v.toNat).1

/-- The same on 64-bit values, at 32 or 64 bits. -/
def atomNew64 (wide : Bool) (op : Nat) (old v swap : W64) : W64 :=
  if wide then atomNew 64 op old v swap
  else (atomNew 32 op (old.setWidth 32) (v.setWidth 32) (swap.setWidth 32)).setWidth 64

/-- One lane's remote part of an atomic: the request, if it has not been made. -/
def State.askAtomic (s : State) (o : Waiter) (tag n op : Nat) (v swap : W64) : Segs → State
  | (.away h d pa, _) :: _ =>
    if s.pending.any (Access.isOf o tag) then s
    else s.request o tag h d pa n none (some (BitVec.ofNat 4 op, v, swap))
  | _ => s

def State.askAtomics (s : State) (n op : Nat) (v swap : Nat → W64) : List (Nat × Segs) → State
  | [] => s
  | (L, p) :: r => State.askAtomics (s.askAtomic s.who.waiter (tagOf L) n op (v L) (swap L) p) n op v swap r

/-- Every remote part of an atomic has been answered. -/
def State.allAnswered (s : State) (ps : List (Nat × Segs)) : Bool :=
  ps.all (fun x => match x.2 with
    | (.away _ _ _, _) :: _ => (s.answer s.who.waiter (tagOf x.1)).isSome
    | _ => true)

/-- Perform the lanes' operations in ascending order; the old values. -/
def State.performAtomics (s : State) (wide : Bool) (op : Nat) (v swap : Nat → W64) :
    List (Nat × Segs) → State × List (Nat × W64)
  | [] => (s, [])
  | (L, p) :: r =>
    let n := if wide then 8 else 4
    match p with
    | (.here pa key, _) :: _ =>
      let old := bytes64 (s.loadBytes pa key n)
      let s1 := s.storeBytes pa key (valBytes n (atomNew64 wide op old (v L) (swap L)).toNat)
      let q := State.performAtomics s1 wide op v swap r
      (q.1, (L, old) :: q.2)
    | _ =>
      let q := State.performAtomics s wide op v swap r
      (q.1, (L, bytes64 ((s.answer s.who.waiter (tagOf L)).getD [])) :: q.2)

/-- A global atomic: every lane translates, remote lanes ask and wait, then they are performed in turn. -/
def State.atomicGlobal (s : State) (i : W32) (v swap : Nat → W64) (addr : Nat → Nat)
    (k : State → (Nat → W64) → Eff) : Eff :=
  (s.reachLanes s.who accAtomic (s.globalRuns addr (atomBytes i))).eff (fun s ps =>
    let now := s.lanesNow ps
    if s.allAnswered now then
      let q := s.performAtomics (atomWide i) (atomOp i) v swap now
      q.1.lanesDone ps q.2 (fun s old => k (s.forget s.who.waiter) old)
    else .held (s.askAtomics (atomBytes i) (atomOp i) v swap now))

/-- The operand a of ATOM and ATOMS: an operand, or CAS's block of compare and swap (R186). -/
def atomOpnd (i : W32) (a : BitVec 7) : Opnd :=
  let n := atomRegs i
  if atomOp i = 9 then vblock .a a (2 * n) (2 * n) else vblock .a a n n

/-- Compare value or operand, and swap value, from register e on. -/
def State.atomVal (s : State) (wide : Bool) (e L : Nat) : W64 :=
  if wide then s.given.pair e L else (s.given.vreg e L).setWidth 64

def execAtom (l : BitVec 4) (c b a : BitVec 7) (s : State) :=
  let i := s.imm32 c
  let ops := [atomOpnd i a, vbase .b b]
  s.issue acceptAll ops (!atomLegal i true) (fun s =>
    match s.misaligned (s.globalAddr ops i) (atomBytes i) true false with
    | some L => .trap .misalign L
    | none => if s.full then .wait s
      else
        let e := s.regAt ops .a
        s.atomicGlobal i (s.atomVal (atomWide i) e) (s.atomVal (atomWide i) (e + atomRegs i)) (s.globalAddr ops i)
          (fun s old => s.pushValues l e (atomRegs i) old))

/-- ATOMS on a scratchpad, lane by lane in ascending order; the old values. -/
def atomicSpad (wide : Bool) (op : Nat) (addr : Nat → Nat) (v swap : Nat → W64) :
    Memory → List Nat → Memory × List (Nat × W64)
  | m, [] => (m, [])
  | m, L :: Ls =>
    let n := if wide then 8 else 4
    let old := BitVec.ofNat 64 (Memory.readN m (addr L) n)
    let q := atomicSpad wide op addr v swap (Memory.writeN m (addr L) n (atomNew64 wide op old (v L) (swap L)).toNat) Ls
    (q.1, (L, old) :: q.2)

def execAtoms (l : BitVec 4) (c b a : BitVec 7) (s : State) :=
  let i := s.imm32 c
  let ops := [atomOpnd i a, voff .b b]
  s.issue acceptAll ops (!atomLegal i false) (fun s =>
    match s.misaligned (s.offsetAddr ops i) (atomBytes i) true true with
    | some L => .trap .misalign L
    | none => if s.full || !s.allPresent (s.offsetAddr ops i) (atomBytes i) then .wait s
      else
        let e := s.regAt ops .a
        let lanes := (Lanes.list s.act).map (fun L => (L, ()))
        let q := atomicSpad (atomWide i) (atomOp i) (s.offsetAddr ops i) (s.atomVal (atomWide i) e)
          (s.atomVal (atomWide i) (e + atomRegs i)) s.g.spad ((s.lanesNow lanes).map (·.1))
        (s.setG { s.g with spad := q.1 }).lanesDone lanes q.2 (fun s old => s.pushValues l e (atomRegs i) old))

/-- A remote reduction is posted under a tag of its own. -/
def State.postReds (s : State) (n op : Nat) (v : Nat → W64) : List (Nat × Segs) → State
  | [] => s
  | (L, p) :: r => State.postReds (s.askAtomic s.who.waiter (redTag + s.nextId) n op (v L) 0 p) n op v r

/-- The lanes whose place is in local HBM. -/
def localLanes (ps : List (Nat × Segs)) : List (Nat × Segs) :=
  ps.filter (fun x => match x.2 with
    | (.here _ _, _) :: _ => true
    | _ => false)

def execRed (c b a : BitVec 7) (s : State) :=
  let i := s.imm32 c
  let ops := [vdata .a a (atomRegs i), vbase .b b]
  s.issue acceptAll ops (!redLegal i) (fun s =>
    match s.misaligned (s.globalAddr ops i) (atomBytes i) true false with
    | some L => .trap .misalign L
    | none =>
      (s.reachLanes s.who accAtomic (s.globalRuns (s.globalAddr ops i) (atomBytes i))).eff (fun s ps =>
        let v := fun L => s.valueAt (if 12 ≤ atomOp i then constsT 0 else intConsts) ops .a L
        let now := s.lanesNow ps
        ((s.performAtomics (atomWide i) (atomOp i) v (fun _ => 0) (localLanes now)).1.postReds
          (atomBytes i) (atomOp i) v now).lanesDone ps (now.map (fun x => (x.1, 0))) (fun s _ => .done s)))

/-! ### FENCE, PREF, CLINE (R187, R188) -/

/-- FENCE (R187): a memory instruction of a warp issues once everything that the warp has posted is performed (log entry 10;
State.runWord), so every earlier access has been performed when it issues. -/
def execFence (c : BitVec 7) (s : State) :=
  let i := s.imm32 c
  s.issue acceptI [] (!(decide (attrOf i / 4 = 0) && decide (attrOf i ≠ 0) && decide (scopeOf i ≤ 4) && decide (offOf i = 0)))
    (fun s => .done s)

/-- An access that the warp has posted has not been performed. -/
def State.unperformed (s : State) : Bool := s.unperformedBy s.who.waiter

/-- FENCE.SC (R187): drain, then wait for the next heartbeat. -/
def execFenceSc (s : State) :=
  s.issue acceptI [] (match s.u.frame.imm with
      | some p => decide (p ≠ 0)
      | none => false)
    (fun s =>
      if s.unperformed then .wait s
      else
        let s1 := s.retire
        .moved (s1.setU { s1.u with park := .fenceSc (s.hbeat + 1) }))

/-- The lines of the lanes' addresses. -/
def State.lineRuns (s : State) (ops : List Opnd) (i : W32) : List (Nat × List (Nat × Nat)) :=
  (Lanes.list s.act).map (fun L => (L, [(s.globalAddr ops i L / 128 * 128, 128)]))

/-- PREF (R188): a lane whose line does not translate drops its prefetch. -/
def State.prefetch (s : State) : List (Nat × List (Nat × Nat)) → Eff
  | [] => .done s
  | (_, rs) :: r =>
    match s.xlateRuns s.who accRead rs with
    | (s1, .ok _) => State.prefetch s1 r
    | (_, .fault _ _ _) => State.prefetch s r
    | (s1, .denied) => .moved s1.uncontained

def execPref (c b : BitVec 7) (s : State) :=
  let i := s.imm32 c
  let ops := [vbase .b b]
  s.issue acceptI ops (!(decide (attrOf i ≤ 1) && decide (scopeOf i = 0))) (fun s => s.prefetch (s.lineRuns ops i))

/-- Write a block back: HBM and L2 agree. -/
def State.clean (s : State) (block : Nat) : State := { s with dirty := Table.erase s.dirty block }

/-- Discard a block of L2: what HBM holds is what it reads as, unless the block had been written back already. A page that a
checkpoint has marked is copied first (R330). -/
def State.discard (s0 : State) (block : Nat) : State :=
  let s := s0.copyFirst (64 * block) 64
  match Table.find s.dirty block with
  | none => s
  | some (bs, k) =>
    let s1 := { s with freeCount := s.freeCount + 1, dirty := Table.erase s.dirty block }
    if Config.writtenBack s.freeCount then s1
    else { s1 with mem := Memory.writeBytes s.mem (64 * block) (bs.take 64), keyOf := Table.put 0#512 s.keyOf block k }

/-- The blocks of local HBM that translated lines lie in. -/
def blocksOf (ps : List (Nat × Segs)) : List Nat :=
  ps.flatMap (fun x => x.2.flatMap (fun y => match y.1 with
    | .here pa _ => [pa / 64, pa / 64 + 1]
    | .away _ _ _ => []))

/-- CLINE (R188): clean reads the line, the others write it. A line of a remote page is in no cache of this device. -/
def State.cline (s : State) (c b : BitVec 7) (kind : BitVec 2) (f : State → Nat → State) : Host.Outcome State Fault Refusal :=
  let i := s.imm32 c
  let ops := [vbase .b b]
  s.issue acceptI ops (!(decide (attrOf i = 0) && decide (scopeOf i = 0))) (fun s =>
    (s.reachLanes s.who kind (s.lineRuns ops i)).eff (fun s ps => .done ((blocksOf ps).foldl f s)))

def execClineClean (c b : BitVec 7) (s : State) := s.cline c b accRead State.clean
def execClineInv (c b : BitVec 7) (s : State) := s.cline c b accWrite State.discard
def execClineFlush (c b : BitVec 7) (s : State) := s.cline c b accWrite State.clean

end Sys2Proof.Machine
end

