-- ==== Sys2Proof/Machine/Barrier.lean ====
section
/-! DEFINITION. Barrier objects, the workgroup barrier, WAIT and the heartbeat: majors 0x5B and 0x5C (R147 to R162). -/
namespace Sys2Proof.Machine

/-! ### Barrier objects (R147 to R150) -/

/-- A barrier object's fields (R147). -/
structure BarObj where
  bytes    : W32
  phase    : BitVec 16
  expected : BitVec 24
  arrivals : BitVec 24
  deriving DecidableEq, Repr

/-- The fields of the 16 bytes of an object. -/
def BarObj.ofNat (v : Nat) : BarObj :=
  { arrivals := BitVec.ofNat 24 v, expected := BitVec.ofNat 24 (v / 2 ^ 24), phase := BitVec.ofNat 16 (v / 2 ^ 48),
    bytes := BitVec.ofNat 32 (v / 2 ^ 64) }

/-- The 16 bytes of an object: bits [127:96] are zero (R147). -/
def BarObj.toNat (b : BarObj) : Nat :=
  b.arrivals.toNat + 2 ^ 24 * b.expected.toNat + 2 ^ 48 * b.phase.toNat + 2 ^ 64 * b.bytes.toNat

/-- The phase flip that follows an update (R149). -/
def BarObj.flip (b : BarObj) : BarObj :=
  if b.arrivals = 0 ∧ b.bytes = 0 then { b with phase := b.phase + 1, arrivals := b.expected, bytes := 0 } else b

/-- n arrivals (R155); excess arrivals are discarded. -/
def BarObj.arrive (b : BarObj) (n : Nat) (bytes : W32) : BarObj :=
  BarObj.flip { b with bytes := b.bytes + bytes, arrivals := BitVec.ofNat 24 (b.arrivals.toNat - n) }

/-- An engine's bytes have been performed (R150). -/
def BarObj.landed (b : BarObj) (n : Nat) : BarObj := BarObj.flip { b with bytes := b.bytes - BitVec.ofNat 32 n }

/-- A barrier reference names the scratchpad; its address (R148). -/
def refSpad (r : W64) : Bool := r.getLsbD 60
def refAddr (r : W64) : Nat := r.toNat % 2 ^ 57

/-- A reference that R152 calls misaligned. -/
def refBad (r : W64) : Bool :=
  decide (r >>> 61 ≠ 0) || decide ((r >>> 57).toNat % 8 ≠ 0) || decide (refAddr r % 16 ≠ 0) ||
  (refSpad r && decide (2 ^ 19 ≤ refAddr r))

/-- Another agent of this device is at an update of an object on a remote page: it has read it, or what it wrote is not yet
performed there. Updates of one object are made one after the other (R149). -/
def State.objectBusy (s : State) (o : Waiter) : Segs → Bool
  | (.away h d pa, _) :: _ => s.pending.any (fun a =>
      decide (a.host = h) && decide (a.dev = d) && decide (a.addr = pa) && decide (a.owner ≠ o) && decide (a.tag = objectTag))
  | _ => false

/-- The update of an object on a remote page is written in the place of its read: from that read on no other write of this device
reaches the object before it (State.heldByObject). -/
def State.writeBack (s : State) (o : Waiter) (bs : List Byte) : State :=
  { s with nextId := s.nextId + 1, pending := s.pending.map (fun a =>
      if a.isOf o objectTag then { a with id := s.nextId, write := some bs, via := none, answer := none } else a) }

/-- The object as it stands, read with the access of an update (R152) as request `tag`. -/
def State.readObject (s : State) (w : Who) (wg : Nat) (r : W64) (tag : Nat) : Got BarObj :=
  if refSpad r then
    let g := s.wgAt wg
    if !g.present (refAddr r) 16 then .wait s else .ok s (BarObj.ofNat (Memory.readN g.spad (refAddr r) 16))
  else
    match s.reach w accAtomic [(refAddr r, 16)] with
    | .ok s1 p => (match s1.segBytes w.waiter tag p with
      | none => .wait (s1.ask w.waiter tag p)
      | some bs => .ok s1 (BarObj.ofNat (bytesVal bs)))
    | .fault s1 d i => .fault s1 d i
    | .full s1 => .full s1
    | .denied s1 => .denied s1
    | .wait s1 => .wait s1

/-- One indivisible update of an object; what it was before (R149). -/
def State.updateObject (s : State) (w : Who) (wg : Nat) (r : W64) (f : BarObj → BarObj) : Got BarObj :=
  if refSpad r then
    let g := s.wgAt wg
    if !g.present (refAddr r) 16 then .wait s
    else
      let v := BarObj.ofNat (Memory.readN g.spad (refAddr r) 16)
      .ok (s.setWg wg { g with spad := Memory.writeN g.spad (refAddr r) 16 (f v).toNat }) v
  else
    match s.reach w accAtomic [(refAddr r, 16)] with
    | .ok s1 p =>
      if s1.objectBusy w.waiter p then .wait s1
      else match s1.segBytes w.waiter objectTag p with
        | none => .wait (s1.ask w.waiter objectTag p)
        | some bs =>
          let v := BarObj.ofNat (bytesVal bs)
          match p with
          | (.away _ _ _, _) :: _ => .ok (s1.writeBack w.waiter (valBytes 16 (f v).toNat)) v
          | _ => .ok (s1.storeSegs w.waiter p (valBytes 16 (f v).toNat)) v
    | .fault s1 d i => .fault s1 d i
    | .full s1 => .full s1
    | .denied s1 => .denied s1
    | .wait s1 => .wait s1

/-- An update of an object; with no update, its value. -/
def State.barrier (s : State) (w : Who) (wg : Nat) (r : W64) (f : Option (BarObj → BarObj)) : Got BarObj :=
  match f with
  | some f => s.updateObject w wg r f
  | none => (s.readObject w wg r 0).bind (fun s v => .ok (s.forget w.waiter) v)

/-- An update by the issuing unit, with the bounds of the scratchpad checked as for a 16-byte STS (R152). -/
def State.barrierOp (s : State) (r : W64) (f : Option (BarObj → BarObj)) (k : State → BarObj → Eff) : Eff :=
  if refBad r || (refSpad r && decide (s.spadSize s.g < refAddr r + 16)) then .trap .misalign (Lanes.lowest s.u.lanes)
  else (s.barrier s.who s.w.wg r f).eff k

/-- BINIT (R154). -/
def execBinit (c b : BitVec 7) (s : State) :=
  let ops := [sblock .b b 1, ss .c c]
  let n : W32 := (s.valueAt intConsts ops .c 0).setWidth 32
  s.issue acceptI ops (ops.all (fun o => (s.boundOp o).isNone) && (decide (n = 0) || decide (2 ^ 24 ≤ n.toNat))) (fun s =>
    s.barrierOp (s.valueAt intConsts ops .b 0)
      (some fun _ => { bytes := 0, phase := 0, expected := n.setWidth 24, arrivals := n.setWidth 24 }) (fun s _ => .done s))

/-- ARRIVE and ARRIVEX (R155). -/
def State.arriveOp (s : State) (acc : Accept) (ops : List Opnd) (bytes : State → W32) : Host.Outcome State Fault Refusal :=
  s.issue acc ops false (fun s =>
    s.barrierOp (s.valueAt intConsts ops .b 0) (some fun o => o.arrive (Lanes.count s.act) (bytes s))
      (fun s o => .done (s.setSreg (s.regAt ops .a) (o.phase.setWidth 64))))

def execArrive (b a : BitVec 7) (s : State) := s.arriveOp acceptNone [sd .a a, sblock .b b 1] (fun _ => 0)
def execArrivex (c b a : BitVec 7) (s : State) :=
  let ops := [sd .a a, sblock .b b 1, ss .c c]
  s.arriveOp acceptI ops (fun s => (s.valueAt intConsts ops .c 0).setWidth 32)

/-- BTEST (R156): it reads the object, and is no update of it (R149 lists ARRIVE, ARRIVEX, BINIT and the byte counts). -/
def execBtest (c b : BitVec 7) (p : BitVec 3) (s : State) :=
  let ops := [sblock .b b 1, ss .c c]
  s.issue acceptI ops false (fun s =>
    s.barrierOp (s.valueAt intConsts ops .b 0) none (fun s o =>
      let t : BitVec 16 := (s.valueAt intConsts ops .c 0).setWidth 16
      .done (s.setW (s.w.setPred s.act p.toNat (if o.phase ≠ t then BitVec.allOnes 32 else 0)))))

/-- BSYNC (R157). -/
def execBsync (s : State) :=
  s.closed (fun s => s.issue acceptNone [] false (fun s =>
    let n := Lanes.count s.act
    let s1 := s.parkNext .bsync
    .moved ((s1.setG { s1.g with arrived := s1.g.arrived + n }).settleBarrier s1.w.wg)))

/-- An engine of a workgroup counts bytes that it has performed (R150). -/
def State.countBytes (s : State) (w : Who) (wg : Nat) (r : W64) (n : Nat) : Got Unit :=
  if n = 0 then .ok s () else (s.barrier w wg r (some fun o => o.landed n)).bind (fun s1 _ => .ok s1 ())

/-- The state that an attempt left. -/
def Got.state {α : Type} : Got α → State
  | .ok s _ => s
  | .fault s _ _ => s
  | .full s => s
  | .denied s => s
  | .wait s => s

/-! ### WAIT (R159 to R161) -/

def condKind (d : W64) : Nat := d.toNat / 2 ^ 61
def condTest (d : W64) : Nat := d.toNat / 2 ^ 57 % 8

/-- A condition that raises ILLEGAL_OP, for its kind, its test or an unused bit, or MISALIGN (R160). -/
def condIllegal (x : W64 × W64) : Bool :=
  decide (3 < condKind x.1) || (decide (condKind x.1 = 1) && decide (5 < condTest x.1)) ||
  (decide (condKind x.1 = 0) && (decide (condTest x.1 ≠ 0) || decide (2 ^ 16 ≤ x.2.toNat) || (refSpad x.1 && decide (2 ^ 19 ≤ refAddr x.1)))) ||
  (decide (2 ≤ condKind x.1) && decide (x.1.toNat % 2 ^ 61 ≠ 0)) || (decide (condKind x.1 = 2) && decide (x.2 ≠ 0))
def condCrooked (size : Nat) (x : W64 × W64) : Bool :=
  (decide (condKind x.1 = 0) && (decide (refAddr x.1 % 16 ≠ 0) || (refSpad x.1 && decide (size < refAddr x.1 + 16)))) ||
  (decide (condKind x.1 = 1) && (decide (refAddr x.1 % 8 ≠ 0) || (refSpad x.1 && decide (size < refAddr x.1 + 8))))

/-- A memory comparison (R160). -/
def condCompare (t : Nat) (v o : W64) : Bool :=
  match t with
  | 0 => decide (v = o)
  | 1 => decide (v ≠ o)
  | 2 => decide (v.toInt < o.toInt)
  | 3 => decide (o.toInt ≤ v.toInt)
  | 4 => decide (v.toNat < o.toNat)
  | _ => decide (o.toNat ≤ v.toNat)

/-- What has been read goes on to a test; what waits for an answer, or for its scratchpad line, is not known yet. -/
def Got.known {α : Type} (g : Got α) (f : α → Bool) : Got (Option Bool) :=
  match g with
  | .ok s a => .ok s (some (f a))
  | .wait s => .ok s none
  | .fault s d i => .fault s d i
  | .full s => .full s
  | .denied s => .denied s

/-- The word of a memory comparison (R160). -/
def State.condWord (s : State) (w : Who) (i : Nat) (d : W64) : Got W64 :=
  if refSpad d then
    if !s.g.present (refAddr d) 8 then .wait s else .ok s (BitVec.ofNat 64 (Memory.readN s.g.spad (refAddr d) 8))
  else match s.reach w accRead [(refAddr d, 8)] with
    | .ok s1 p => (match s1.segBytes w.waiter (64 * i) p with
      | some bs => .ok s1 (bytes64 bs)
      | none => .wait (s1.ask w.waiter (64 * i) p))
    | .fault s1 d j => .fault s1 d j
    | .full s1 => .full s1
    | .denied s1 => .denied s1
    | .wait s1 => .wait s1

/-- One condition of the current unit, with the accesses it makes; none while its word is not known. A global object is read with the
access that R152 gives to barrier instructions, an atomic one (DESIGN CHOICE, log entry 32: R160 names none for WAIT). -/
def State.evalCond (s : State) (w : Who) (i : Nat) (x : W64 × W64) : Got (Option Bool) :=
  match condKind x.1 with
  | 0 => (s.readObject w s.w.wg x.1 (64 * i)).known (fun o => decide (o.phase ≠ x.2.setWidth 16))
  | 1 => (s.condWord w i x.1).known (fun v => condCompare (condTest x.1) v x.2)
  | 2 => .ok s (some (!s.w.opq.isEmpty))
  | _ => .ok s (some (decide (x.2.toNat ≤ s.hbeat)))

def State.evalConds (s : State) (w : Who) : Nat → List (W64 × W64) → Got (List (Option Bool))
  | _, [] => .ok s []
  | i, x :: xs => (s.evalCond w i x).bind (fun s b => (State.evalConds s w (i + 1) xs).bind (fun s bs => .ok s (b :: bs)))

/-- The combination holds (R161). -/
def WaitRec.holds (r : WaitRec) (bs : List (Option Bool)) : Bool :=
  if r.allOf then bs.all (fun b => b = some true) else bs.any (fun b => b = some true)

/-- Bit i for each condition that was true. -/
def boolBits : List (Option Bool) → Nat
  | [] => 0
  | b :: bs => (b.getD false).toNat + 2 * boolBits bs

/-- The unit wakes from WAIT with its result (R161). -/
def State.wakeWait (s : State) (r : WaitRec) (bits : Nat) : State :=
  let s1 := s.setSreg r.dst (BitVec.ofNat 64 bits)
  (s1.setU { s1.u with park := restAt s1.w.loops s1.u.lanes s1.u.pc }).dropAsked (.waitWord s1.cur s1.me)

/-- The current unit's accesses when it evaluates its conditions. -/
def State.waitWho (s : State) : Who := { s.who with waiter := .waitWord s.cur s.me }

/-- The 128-byte line of local HBM that a condition's word lies in, and what it holds. -/
def State.lineOf (s : State) (x : W64 × W64) : List (Nat × List Byte) :=
  if 2 ≤ condKind x.1 ∨ refSpad x.1 = true then []
  else match s.xlatePage s.waitWho accRead (refAddr x.1) 8 with
    | (_, .ok ((.here pa _, _) :: _)) => [(pa / 128, Memory.readBytes s.mem (pa / 128 * 128) 128)]
    | _ => []

/-- The current unit's WAIT has been evaluated: the lines of its words as they stand. -/
def State.note (s : State) (r : WaitRec) : State :=
  s.setU { s.u with park := .wait { r with lines := r.conds.flatMap s.lineOf } }

/-- Evaluate every condition of the current unit; wake it if the combination holds, or has held before. -/
def State.evaluate (s : State) (r : WaitRec) : State :=
  match r.woken with
  | some bits => s.wakeWait r bits
  | none => match s.evalConds s.waitWho 0 r.conds with
    | .ok s1 bs =>
      if r.holds bs then s1.wakeWait r (boolBits bs)
      else (if bs.all Option.isSome then s1.forget (.waitWord s1.cur s1.me) else s1).note r
    | .denied s1 => s1.uncontained
    | g => g.state.note r

/-- A fault-buffer entry holds an access of the current unit's WAIT. -/
def State.waitFaulted (s : State) : Bool :=
  s.faults.any (fun x => x.2.waiters.contains (.waitWord s.cur s.me))

/-- Act as unit k of warp w, then come back. -/
def State.asUnit (s : State) (warp unit : Nat) (f : State → State) : State :=
  { (f { s with cur := warp, unit := unit }) with cur := s.cur, unit := s.unit }

/-- Time-out of the current unit's WAIT (R161). -/
def State.timedOut (s : State) (r : WaitRec) : Bool := decide (r.timeout ≠ 0) && decide (r.start + r.timeout ≤ s.tick)

/-- The workgroup of the current warp is resident, so that its units run. -/
def State.running (s : State) : Bool := decide (s.g.phase = .resident)

def execWait (c b a : BitVec 7) (s : State) := s.closed (fun s =>
  let ctl := s.valueAt (unsConsts true) [ss .c c] .c 0
  let n := ctl.toNat % 8
  let bad := decide (n = 0) || decide (4 < n) || decide (ctl.toNat / 16 % 2 ^ 28 ≠ 0)
  let ops := [sd .a a, sblock .b b (if bad then 1 else 2 * n), ss .c c]
  s.issue acceptI ops (ops.all (fun o => (s.boundOp o).isNone) && bad) (fun s =>
    let e := s.regAt ops .b
    let conds := (List.range n).map (fun i => (s.w.sreg (e + 2 * i), s.w.sreg (e + 2 * i + 1)))
    if conds.any condIllegal then .trap .illegalOp s.ir.toNat
    else if conds.any (condCrooked (s.spadSize s.g)) then .trap .misalign (Lanes.lowest s.u.lanes)
    else
      let r : WaitRec := { conds := conds, allOf := ctl.getLsbD 3, timeout := ctl.toNat / 2 ^ 32, start := s.tick, dst := s.regAt ops .a,
                           lines := [], woken := none }
      .moved ((s.parkNext (.wait r)).evaluate r)))

/-- WAIT_WAKE (R161): a re-evaluation of one waiting unit. -/
def execWaitWake (warp unit : Nat) (s : State) : Host.Outcome State Fault Refusal :=
  .next (s.asUnit warp unit (fun s =>
    match s.u.park with
    | .wait r => if s.running && !s.waitFaulted then s.evaluate r else s
    | _ => s))

/-- A fault-buffer entry holds the word of a condition of the current unit. -/
def State.condFaulted (s : State) (x : W64 × W64) : Bool :=
  decide (condKind x.1 ≤ 1) && !refSpad x.1 &&
  s.faults.any (fun y => y.2.waiters.contains (.waitWord s.cur s.me) && decide (y.2.va.toNat / 4096 = refAddr x.1 / 4096))

/-- The conditions of the current unit as far as they are known; the bit of a faulted word is clear. -/
def State.seen (s : State) (r : WaitRec) : List (Option Bool) :=
  r.conds.mapIdx (fun i x => if s.condFaulted x then none else match s.evalCond s.waitWho i x with
    | .ok _ b => b
    | _ => none)

/-- An access no longer waits on any fault-buffer entry. -/
def FaultEntry.without (e : FaultEntry) (o : Waiter) : FaultEntry := { e with waiters := e.waiters.filter (fun y => y ≠ o) }
def State.unwait (s : State) (o : Waiter) : State := { s with faults := s.faults.map (fun x => (x.1, x.2.without o)) }

/-- WAIT_TIMEOUT (R161). -/
def execWaitTimeout (warp unit : Nat) (s : State) : Host.Outcome State Fault Refusal :=
  .next (s.asUnit warp unit (fun s =>
    match s.u.park with
    | .wait r =>
      if s.running && s.timedOut r then
        (s.unwait (.waitWord s.cur s.me)).wakeWait r (16 + boolBits (s.seen r))
      else s
    | _ => s))

/-- The conditions of the current unit's WAIT as the state stands, where all of their words translate. -/
def State.peek (s : State) (r : WaitRec) : Option (List (Option Bool)) :=
  match s.evalConds s.waitWho 0 r.conds with
  | .ok _ bs => some bs
  | _ => none

/-- A line of the WAIT's words has been written since the last evaluation (R161). -/
def State.rewritten (s : State) (r : WaitRec) : Bool :=
  r.lines.any (fun x => decide (Memory.readBytes s.mem (128 * x.1) 128 ≠ x.2))

/-- A WAIT that is to be evaluated (R161): a line of its words has been written, its combination is true as the state stands, or has
been at an evaluation between the writes of one step. -/
def State.ripe (s : State) (warp unit : Nat) : Bool :=
  let s1 := { s with cur := warp, unit := unit }
  match s1.u.park with
  | .wait r =>
    s1.running && !s1.waitFaulted && (r.woken.isSome || s1.rewritten r ||
    (match s1.peek r with
     | some bs => r.holds bs
     | none => false))
  | _ => false

/-- A WAIT whose time-out has been reached. -/
def State.expired (s : State) (warp unit : Nat) : Bool :=
  let s1 := { s with cur := warp, unit := unit }
  match s1.u.park with
  | .wait r => s1.running && s1.timedOut r
  | _ => false

/-- Every unit of the device: warp and unit keys. -/
def State.allUnits (s : State) : List (Nat × Nat) :=
  s.warps.flatMap (fun x => x.2.units.map (fun y => (x.1, y.1)))

/-- Evaluate the WAITs of units in turn. -/
def State.evaluateAll (s : State) : List (Nat × Nat) → State
  | [] => s
  | (w, u) :: r =>
    State.evaluateAll (s.asUnit w u (fun s =>
      match s.u.park with
      | .wait c => if s.running && !s.waitFaulted then s.evaluate c else s
      | _ => s)) r

/-- Some unit of the device waits at a WAIT: a write is followed by its evaluation (R161). -/
def State.anyWait (s : State) : Bool :=
  s.allUnits.any (fun x => match (Table.get IUnit.blank (s.warpAt x.1).units x.2).park with
    | .wait _ => true
    | _ => false)

/-- An evaluation of the WAITs of some units between two writes of one step: what it finds true stays true for them. -/
def State.noteWaits (s : State) : List (Nat × Nat) → State
  | [] => s
  | (w, u) :: r =>
    State.noteWaits (s.asUnit w u (fun s => match s.u.park with
      | .wait c => (match s.peek c with
        | some bs => if s.running && !s.waitFaulted && c.woken.isNone && c.holds bs then
            s.setU { s.u with park := .wait { c with woken := some (boolBits bs) } } else s
        | none => s)
      | _ => s)) r

/-! ### Writes of engines -/

/-- Write bytes for an engine, which may write more in the same step: WAITs are evaluated after each write (R161). -/
def State.put (s : State) (w : Who) (va : Nat) (bs : List Byte) : Got Unit :=
  (s.putBytes w va bs).bind (fun s _ => .ok (if s.anyWait then s.noteWaits s.allUnits else s) ())

/-- Write n bytes of a value. -/
def State.writeVal (s : State) (w : Who) (va n v : Nat) : Got Unit := s.put w va (valBytes n v)

/-! ### The heartbeat (R9, R187) -/

/-- A unit whose FENCE.SC has its heartbeat goes on. -/
def passFence (loops : List LoopRec) (h : Nat) (u : IUnit) : IUnit :=
  match u.park with
  | .fenceSc t => if t ≤ h then { u with park := restAt loops u.lanes u.pc } else u
  | _ => u

def Warp.passFence (w : Warp) (h : Nat) : Warp :=
  { w with units := w.units.map (fun x => (x.1, Machine.passFence w.loops h x.2)),
           tframe := w.tframe.map (fun f => { f with units := f.units.map (fun x => (x.1, Machine.passFence f.loops h x.2)) }) }

def State.passFences (s : State) (t : Table Warp) : Table Warp := t.map (fun x => (x.1, x.2.passFence s.hbeat))

/-- A deadline stream is raised while stamp - guard <= heartbeat < stamp (R249). -/
def Deadline.on (d : Deadline) (h : Nat) : Bool := decide (d.stamp.toNat ≤ h + d.guard.toNat) && decide (h < d.stamp.toNat)

/-- A stream raised or lowered as its stamp and guard say at a heartbeat. -/
def Deadline.refresh (d : Deadline) (h : Nat) : Deadline := { d with raised := d.on h }

end Sys2Proof.Machine
end

