-- ==== Sys2Proof/Machine/Fetch.lean ====
section
/-! DEFINITION. Which unit issues next and how its instruction word is fetched (R20, R132, R139, R175), the tick of an
event, and the state that holds one program for withFetchWord (log entry 7). -/
namespace Sys2Proof.Machine

/-- Issue of a context is held: it has gang slices and none of them runs (R327). -/
def State.gangHeld (s : State) (asid : Nat) : Bool :=
  s.slices.any (fun x => decide (x.2.asid = asid)) && !s.slices.any (fun x => decide (x.2.asid = asid) && x.2.running.isSome)

/-- A unit may issue: it waits for nothing, its workgroup is resident and no gang holds its context, save that a fused group
is not split (R104). -/
def State.mayIssue (s : State) (warp unit : Nat) : Bool :=
  let w := s.warpAt warp
  decide ((s.wgAt w.wg).phase = .resident) && (match Table.find w.units unit with
    | some u => (!s.gangHeld (s.wgAt w.wg).asid || u.mid) && (match u.park with
      | .ready => true
      | .tileOps q => decide (q ≤ (s.wgAt w.wg).eng.retired)
      | _ => false)
    | none => false)

/-- A loop whose live lanes all wait at its back-edge with no result of theirs left to commit, or which no lane is in any
more. -/
def Warp.ripeLoop (w : Warp) : Option Nat :=
  (List.range w.loops.length).find? (fun i => match w.loops[i]? with
    | some l =>
      let waiting := w.units.filter (fun x => waitsAt l (w.loops.drop (i + 1)) x.2)
      decide (l.lanes &&& w.live = 0) || (decide ((l.lanes &&& w.live) &&& ~~~ unionOf waiting = 0) && !w.owing waiting)
    | none => false)

/-- A result that may commit whose unit waits at a back-edge, where its window ended (R36, R139). -/
def Warp.ripeCommit (w : Warp) : Option Nat :=
  (List.range w.pend.length).find? (fun i => match w.pend[i]? with
    | some p => decide (p.left = 0) && decide ((Table.get IUnit.blank w.units p.unit).park = .backEdge) && !(w.pend.take i).any p.meets
    | none => false)

/-- A result of the device that may commit at a back-edge. -/
def State.ripeCommit (s : State) : Option (Nat × Nat) :=
  s.warps.findSome? (fun x => if s.onCore x.2.wg then (x.2.ripeCommit).map (fun i => (x.1, i)) else none)

/-- A loop of the device that is complete. -/
def State.ripeLoop (s : State) : Option (Nat × Nat) :=
  s.warps.findSome? (fun x => if decide ((s.wgAt x.2.wg).phase = .resident) then (x.2.ripeLoop).map (fun l => (x.1, l)) else none)

/-- A WAIT of the device that wakes: its combination is true, or its time-out has been reached. -/
def State.ripeWait (s : State) : Option (Nat × Nat) := s.allUnits.find? (fun x => s.ripe x.1 x.2)
def State.expiredWait (s : State) : Option (Nat × Nat) := s.allUnits.find? (fun x => s.expired x.1 x.2)

/-- Reference ticks pass within the current heartbeat. -/
def State.pass (s : State) (ticks : Nat) : State := { s with tick := s.tick + min ticks (63 - s.tick % 64) }

/-- The accesses of the current unit's instruction fetch. -/
def State.fetchWho (s : State) : Who := { s.who with waiter := .fetch s.cur s.me }

/-- Fetch the current unit's next word. -/
def State.fetchWord (s : State) : Got W32 :=
  (s.fetchCode s.fetchWho s.u.pc 1).bind (fun s ws => .ok s (ws.getD 0 0))

/-! ### One program in memory (log entry 7) -/

/-- Physical and virtual address of the instruction that withFetchWord places. -/
def slotPc : Nat := 0x10000

/-- Page tables at 0x1000, 0x2000 and 0x3000: one 1 GiB leaf, R, W and X, key id 0, from address 0. -/
def slotTables (m : Memory) : Memory :=
  Memory.writeN (Memory.writeN (Memory.writeN m 0x1000 8 0x2000001) 0x2000 8 0x3000001) 0x3000 8 0x1F

/-- One warp of all lanes at the placed instruction. -/
def slotWarp (key : Nat) : Warp :=
  { Warp.blank with wg := key, live := BitVec.allOnes 32,
                    units := [(0, { IUnit.blank with lanes := BitVec.allOnes 32, pc := BitVec.ofNat 64 slotPc })] }

/-- The state with an instruction's bytes placed, and a context, launch, workgroup and warp that run it next. -/
def State.placeCode (s : State) (bytes : Nat) (w : Nat) : State :=
  let k := s.nextId
  let m := Memory.writeN (slotTables s.mem) slotPc bytes w
  { s with
    mem := m, keyOf := [], keys := Table.set s.keys 0 0, tlb := [], access := [], agenda := [], power := .run,
    ctxs := Table.set s.ctxs 1 { Context.blank with state := .running, root := 0x1000, pool := 0x40000000 },
    launches := Table.set s.launches k { Launch.blank with asid := 1, phase := .running, alloc := 64, total := 1 },
    slices := [], order := [], stalled := [], byLane := false,
    wgs := [(k, { Workgroup.blank with launch := k, asid := 1, phase := .resident, warps := [k] })],
    warps := [(k, slotWarp k)], nextId := k + 1, cur := k, unit := 0 }

end Sys2Proof.Machine
end

