-- ==== Sys2Proof/Machine/Scalar.lean ====
section
/-! DEFINITION. Scalar integer instructions: majors 0x28 to 0x2F (R44, R71, 05_values.md). A 32-bit scalar type reads
the low 32 bits of its sources and writes its result zero-extended. -/
namespace Sys2Proof.Machine

/-- Two sources and a destination. -/
def State.sbin (s : State) (w : BitVec 1) (c b a : BitVec 7) (uns : Bool)
    (f : (n : Nat) → BitVec n → BitVec n → BitVec n → BitVec n) : Host.Outcome State Fault Refusal :=
  s.smap acceptAll [sd .a a, ss .b b, ss .c c] false (unsConsts uns) (fun s => lift3 (bitsW w) (f (bitsW w)) s 0)

/-- The same with flags. -/
def State.sbinF (s : State) (w : BitVec 1) (c b a : BitVec 7) (uns : Bool)
    (f : (n : Nat) → BitVec n → BitVec n → BitVec n × BitVec 5) : Host.Outcome State Fault Refusal :=
  s.smap acceptAll [sd .a a, ss .b b, ss .c c] false (unsConsts uns) (fun s => liftF (bitsW w) (f (bitsW w)) s 0)

/-- A unary instruction: c is unused. -/
def State.sun (s : State) (w : BitVec 1) (b a : BitVec 7) (f : (n : Nat) → BitVec n → BitVec n) :
    Host.Outcome State Fault Refusal :=
  s.smap acceptGX [sd .a a, ss .b b] false intConsts (fun s => lift1 (bitsW w) (f (bitsW w)) s 0)

/-- A shift, rotate or bit-field extraction: the count or control is the low 32 bits of c. -/
def State.sshift (s : State) (w : BitVec 1) (c b a : BitVec 7) (f : (n : Nat) → BitVec n → Nat → BitVec n) :
    Host.Outcome State Fault Refusal :=
  s.smap acceptAll [sd .a a, ss .b b, ss .c c] false intConsts
    (fun _ _ b c => ((f (bitsW w) (b.setWidth (bitsW w)) (c.toNat % 2 ^ 32)).setWidth 64, 0))

/-- ADDC and SUBB (R76): carry in from the lowest lane of ACT, carry out to every lane of ACT. -/
def State.scarry (s : State) (w : BitVec 1) (c b a : BitVec 7)
    (f : (n : Nat) → BitVec n → BitVec n → Bool → BitVec n × Bool) : Host.Outcome State Fault Refusal :=
  let ops := [sd .a a, ss .b b, ss .c c]
  let n := bitsW w
  s.sdo acceptAll ops false (fun s =>
    let r := f n ((s.valueAt intConsts ops .b 0).setWidth n) ((s.valueAt intConsts ops .c 0).setWidth n)
      (Lanes.has (s.w.pred 7) (Lanes.lowest s.act))
    let s1 := s.setSreg (s.regAt ops .a) (r.1.setWidth 64)
    .done (s1.setW (s1.w.setPred s.act 7 (if r.2 then BitVec.allOnes 32 else 0))))

/-! ### Arithmetic: majors 0x28 and 0x29 (R75, R76); the even major of a pair is the 64-bit one (R44) -/

def execSAdd (c b a : BitVec 7) (w : BitVec 1) (s : State) := s.sbin (~~~w) c b a false (fun _ _ b c => b + c)
def execSSub (c b a : BitVec 7) (w : BitVec 1) (s : State) := s.sbin (~~~w) c b a false (fun _ _ b c => b - c)
def execSAddc (c b a : BitVec 7) (w : BitVec 1) (s : State) := s.scarry (~~~w) c b a addCarry
def execSSubb (c b a : BitVec 7) (w : BitVec 1) (s : State) := s.scarry (~~~w) c b a subBorrow
def execSSadd (z : BitVec 1) (c b a : BitVec 7) (w : BitVec 1) (s : State) :=
  s.sbinF (~~~w) c b a (decide (z = 1)) (if z = 1 then saddZ else saddS)
def execSSsub (z : BitVec 1) (c b a : BitVec 7) (w : BitVec 1) (s : State) :=
  s.sbinF (~~~w) c b a (decide (z = 1)) (if z = 1 then ssubZ else ssubS)
def execSMul (c b a : BitVec 7) (w : BitVec 1) (s : State) := s.sbin (~~~w) c b a false (fun _ _ b c => b * c)
def execSMulhS (c b a : BitVec 7) (w : BitVec 1) (s : State) := s.sbin (~~~w) c b a false (fun n _ b c => mulHighS n b c)
def execSMulhZ (c b a : BitVec 7) (w : BitVec 1) (s : State) := s.sbin (~~~w) c b a true (fun n _ b c => mulHighZ n b c)
def execSMad (c b a : BitVec 7) (w : BitVec 1) (s : State) := s.sbin (~~~w) c b a false (fun _ a b c => a + b * c)
def execSMadh (z : BitVec 1) (c b a : BitVec 7) (w : BitVec 1) (s : State) :=
  s.sbin (~~~w) c b a (decide (z = 1)) (if z = 1 then madHighZ else madHighS)
def execSNeg (b a : BitVec 7) (w : BitVec 1) (s : State) := s.sun (~~~w) b a (fun _ b => -b)
def execSAbs (b a : BitVec 7) (w : BitVec 1) (s : State) := s.sun (~~~w) b a absInt

/-! ### Logic, shifts, counts, bit fields: majors 0x2A and 0x2B (R78, R79) -/

def execSAnd (c b a : BitVec 7) (w : BitVec 1) (s : State) := s.sbin (~~~w) c b a false (fun _ _ b c => b &&& c)
def execSOr (c b a : BitVec 7) (w : BitVec 1) (s : State) := s.sbin (~~~w) c b a false (fun _ _ b c => b ||| c)
def execSXor (c b a : BitVec 7) (w : BitVec 1) (s : State) := s.sbin (~~~w) c b a false (fun _ _ b c => b ^^^ c)
def execSAndn (c b a : BitVec 7) (w : BitVec 1) (s : State) := s.sbin (~~~w) c b a false (fun _ _ b c => b &&& ~~~ c)
def execSNot (b a : BitVec 7) (w : BitVec 1) (s : State) := s.sun (~~~w) b a (fun _ b => ~~~ b)
def execSShl (c b a : BitVec 7) (w : BitVec 1) (s : State) := s.sshift (~~~w) c b a shlBy
def execSShr (c b a : BitVec 7) (w : BitVec 1) (s : State) := s.sshift (~~~w) c b a shrBy
def execSSar (c b a : BitVec 7) (w : BitVec 1) (s : State) := s.sshift (~~~w) c b a sarBy
def execSRol (c b a : BitVec 7) (w : BitVec 1) (s : State) := s.sshift (~~~w) c b a rolBy
def execSClz (b a : BitVec 7) (w : BitVec 1) (s : State) := s.sun (~~~w) b a clzOf
def execSCtz (b a : BitVec 7) (w : BitVec 1) (s : State) := s.sun (~~~w) b a ctzOf
def execSPopc (b a : BitVec 7) (w : BitVec 1) (s : State) := s.sun (~~~w) b a popOf
def execSBrev (b a : BitVec 7) (w : BitVec 1) (s : State) := s.sun (~~~w) b a revOf
def execSBfxS (c b a : BitVec 7) (w : BitVec 1) (s : State) := s.sshift (~~~w) c b a bfxSOf
def execSBfxZ (c b a : BitVec 7) (w : BitVec 1) (s : State) := s.sshift (~~~w) c b a bfxZOf
def execSBfi (c b a : BitVec 7) (w : BitVec 1) (s : State) :=
  let ops := [sd .a a, ss .b b, sblock .c c 2]
  s.smap acceptGX ops false intConsts (fun s _ b i =>
    let ctl := s.w.sreg (s.regAt ops .c + 1)
    ((bfiOf (bitsW (~~~w)) (b.setWidth (bitsW (~~~w))) (i.setWidth (bitsW (~~~w))) (ctl.toNat % 2 ^ 32)).setWidth 64, 0))

/-! ### Division, minimum, maximum: major 0x2C (R77) -/

def execSDiv (w z : BitVec 1) (c b a : BitVec 7) (s : State) :=
  s.sbin w c b a (decide (z = 1)) (fun n _ b c => if z = 1 then (divZ n b c).1 else (divS n b c).1)
def execSRem (w z : BitVec 1) (c b a : BitVec 7) (s : State) :=
  s.sbin w c b a (decide (z = 1)) (fun n _ b c => if z = 1 then (divZ n b c).2 else (divS n b c).2)
def execSMin (w z : BitVec 1) (c b a : BitVec 7) (s : State) :=
  s.sbin w c b a (decide (z = 1)) (fun n _ b c => minOf n (decide (z = 0)) b c)
def execSMax (w z : BitVec 1) (c b a : BitVec 7) (s : State) :=
  s.sbin w c b a (decide (z = 1)) (fun n _ b c => maxOf n (decide (z = 0)) b c)

/-! ### Predicates and moves: majors 0x2D to 0x2F (R80, R83, R85) -/

/-- SETP of the scalar class writes its result in every lane of ACT (R44). -/
def execSSetp (k : BitVec 4) (c b : BitVec 7) (w : BitVec 1) (p : BitVec 3) (s : State) :=
  s.vpred acceptAll [ss .b b, ss .c c] (!(Instr.sSetp k c b w p).wf) (unsConsts (decide (6 ≤ k.toNat))) p
    (fun _ _ b c => (cmpInt (bitsW w) k.toNat (b.setWidth _) (c.setWidth _), 0))

def execSMov (b a : BitVec 7) (s : State) :=
  s.smap acceptGX [sd .a a, ss .b b] false intConsts (fun _ _ b _ => (b, 0))
def execSMoviS64 (c a : BitVec 7) (s : State) :=
  s.smap acceptAll [sd .a a] false intConsts (fun s _ _ _ => ((s.simm32 c).signExtend 64, 0))
def execSMoviZ64 (c a : BitVec 7) (s : State) :=
  s.smap acceptAll [sd .a a] false intConsts (fun s _ _ _ => ((s.simm32 c).setWidth 64, 0))
def execSMoviHi (c a : BitVec 7) (s : State) :=
  s.smap acceptAll [sd .a a] false intConsts (fun s a _ _ => (s.simm32 c ++ a.setWidth 32, 0))
def execSCvtS64S32 (b a : BitVec 7) (s : State) :=
  s.smap acceptGX [sd .a a, ss .b b] false intConsts (fun _ _ b _ => ((b.setWidth 32).signExtend 64, 0))
def execSCvtZ64Z32 (b a : BitVec 7) (s : State) :=
  s.smap acceptGX [sd .a a, ss .b b] false intConsts (fun _ _ b _ => ((b.setWidth 32).setWidth 64, 0))
def execSAddImm (i : BitVec 11) (b a : BitVec 7) (s : State) :=
  s.smap acceptGX [sd .a a, ss .b b] false intConsts
    (fun _ _ b _ => ((b.setWidth 32 + i.signExtend 32).setWidth 64, 0))

/-- The meaning of a scalar-class integer instruction, which an access slice may also hold (R18). -/
def scalarMeaning (i : Instr) : Option (State → Host.Outcome State Fault Refusal) :=
  match i with
  | .sAdd c b a w => some (execSAdd c b a w)
  | .sSub c b a w => some (execSSub c b a w)
  | .sAddc c b a w => some (execSAddc c b a w)
  | .sSubb c b a w => some (execSSubb c b a w)
  | .sSadd z c b a w => some (execSSadd z c b a w)
  | .sSsub z c b a w => some (execSSsub z c b a w)
  | .sMul c b a w => some (execSMul c b a w)
  | .sMulhS c b a w => some (execSMulhS c b a w)
  | .sMulhZ c b a w => some (execSMulhZ c b a w)
  | .sMad c b a w => some (execSMad c b a w)
  | .sMadh z c b a w => some (execSMadh z c b a w)
  | .sNeg b a w => some (execSNeg b a w)
  | .sAbs b a w => some (execSAbs b a w)
  | .sAnd c b a w => some (execSAnd c b a w)
  | .sOr c b a w => some (execSOr c b a w)
  | .sXor c b a w => some (execSXor c b a w)
  | .sAndn c b a w => some (execSAndn c b a w)
  | .sNot b a w => some (execSNot b a w)
  | .sShl c b a w => some (execSShl c b a w)
  | .sShr c b a w => some (execSShr c b a w)
  | .sSar c b a w => some (execSSar c b a w)
  | .sRol c b a w => some (execSRol c b a w)
  | .sClz b a w => some (execSClz b a w)
  | .sCtz b a w => some (execSCtz b a w)
  | .sPopc b a w => some (execSPopc b a w)
  | .sBrev b a w => some (execSBrev b a w)
  | .sBfxS c b a w => some (execSBfxS c b a w)
  | .sBfxZ c b a w => some (execSBfxZ c b a w)
  | .sBfi c b a w => some (execSBfi c b a w)
  | .sDiv w z c b a => some (execSDiv w z c b a)
  | .sRem w z c b a => some (execSRem w z c b a)
  | .sMin w z c b a => some (execSMin w z c b a)
  | .sMax w z c b a => some (execSMax w z c b a)
  | .sSetp k c b w p => some (execSSetp k c b w p)
  | .sMov b a => some (execSMov b a)
  | .sMoviS64 c a => some (execSMoviS64 c a)
  | .sMoviZ64 c a => some (execSMoviZ64 c a)
  | .sMoviHi c a => some (execSMoviHi c a)
  | .sCvtS64S32 b a => some (execSCvtS64S32 b a)
  | .sCvtZ64Z32 b a => some (execSCvtZ64Z32 b a)
  | .sAddImm j b a => some (execSAddImm j b a)
  | _ => none

end Sys2Proof.Machine
end

