-- ==== Sys2Proof/Machine/Tile.lean ====
section
/-! DEFINITION. The matrix engine: rendezvous latches, tile operations, K steps and accumulators, majors 0x60 to 0x63
(R62 to R68, R189 to R202). -/
namespace Sys2Proof.Machine

/-! ### The envelope (R194) -/

def envA (e : W32) : Nat := e.toNat % 8
def envB (e : W32) : Nat := e.toNat / 8 % 8
def envScale (e : W32) : Nat := e.toNat / 64 % 8
def envSat (e : W32) : Bool := e.getLsbD 9
def envOut (e : W32) : Nat := e.toNat / 1024 % 4
def envRelu (e : W32) : Bool := e.getLsbD 12
def envOutSat (e : W32) : Bool := e.getLsbD 13

/-- A code of the envelope is reserved. -/
def envBad (e : W32) : Bool :=
  decide (2 ^ 14 ≤ e.toNat) || decide (2 < envA e) || decide (2 < envB e) || decide (1 < envScale e)

/-- Element size of the output format, and its type code (R43). -/
def outSize (e : W32) : Nat := match envOut e with
  | 0 => 4
  | 3 => 1
  | _ => 2
def outType (e : W32) : Nat := match envOut e with
  | 0 => 8
  | 1 => 10
  | 2 => 9
  | _ => 11

/-! ### The operation queue (R191) -/

def TileOp.seq : TileOp → Nat
  | .mma q _ _ _ => q
  | .accz q _ => q
  | .accwr q _ _ => q
  | .accepi q _ _ _ _ _ _ _ _ => q

/-- The queue holds 8 operations. -/
def Engine.full (e : Engine) : Bool := decide (8 ≤ e.ops.length)

/-- Accept an operation on a tile. -/
def Engine.accept (e : Engine) (tile : Nat) (op : Nat → TileOp) : Engine :=
  { e with ops := e.ops ++ [op (e.accepted + 1)], accepted := e.accepted + 1,
           lastOp := Table.set e.lastOp tile (e.accepted + 1) }

/-- The operation at the head has retired. -/
def Engine.retireHead (e : Engine) : Engine :=
  match e.ops with
  | [] => e
  | op :: r => { e with ops := r, retired := op.seq }

def State.setEng (s : State) (wg : Nat) (e : Engine) : State := s.setWg wg { s.wgAt wg with eng := e }

/-- A tile operation of a scalar instruction: it waits where the queue is full. -/
def State.queueOp (s : State) (tile : Nat) (op : Nat → TileOp) : Eff :=
  if s.g.eng.full then .wait s else .done (s.setEng s.w.wg (s.g.eng.accept tile op))

/-! ### Latches (R195 to R197) -/

/-- The current unit traps, unless an uncontained error has just removed its warp. -/
def State.trapHere (s : State) (t : Trap) (info : Nat) : State := if s.w.live = 0 then s else s.takeTrap t info

/-- Trap every unit that has arrived at a latch at its own MMA. -/
def State.trapArrivals (s : State) (t : Trap) (info : Arrival → Nat) : List Arrival → State
  | [] => s
  | a :: as =>
    State.trapArrivals (s.asUnit a.warp a.unit (fun s =>
      if s.w.live = 0 then s else (s.setU { s.u with park := .ready }).takeTrap t (info a))) t info as

/-- A latch of a workgroup closes. -/
def State.closeLatch (s : State) (wg tile : Nat) : State :=
  let e := (s.wgAt wg).eng
  s.setEng wg { e with latches := Table.erase e.latches tile }

/-- Latches close with GANG_MISMATCH in every warp that had arrived. -/
def State.mismatch (s : State) (wg : Nat) : List (Nat × Latch) → State
  | [] => s
  | (tile, l) :: r =>
    State.mismatch ((s.closeLatch wg tile).trapArrivals .gangMismatch (fun _ => l.list.toNat) l.arrivals) wg r

/-- A warp has ended: a latch that lists it and is collecting closes (R197). -/
def State.warpEnded (s : State) (warp : Nat) : State :=
  let w := s.warpAt warp
  if w.live ≠ 0 then s
  else s.mismatch w.wg ((s.wgAt w.wg).eng.latches.filter (fun x => x.2.list.getLsbD w.index))

/-- The warp of a workgroup with an index, ended or not there. -/
def State.indexEnded (s : State) (g : Workgroup) (i : Nat) : Bool :=
  match g.warps[i]? with
  | some k => decide ((s.warpAt k).live = 0)
  | none => true

/-- The warp indices of a gang list. -/
def gangOf (list : W32) : List Nat := Lanes.list list

/-- Envelope values of a latch by ascending warp index and lane. -/
def orderedVals (as : List Arrival) : List (Nat × W32) :=
  lanes32.flatMap (fun i => (as.filter (fun a => a.index = i)).flatMap (fun a => a.vals.map (fun x => (32 * i + x.1, x.2))))

/-- Every unit of a completed gang but the current one has issued its MMA. -/
def State.passArrivals (s : State) : List Arrival → State
  | [] => s
  | a :: as =>
    State.passArrivals (if a.warp = s.cur then s
      else s.asUnit a.warp a.unit (fun s => (s.setU { s.u with park := .ready }).retire)) as

/-- The vote of a complete latch (R196 rule 3). -/
def State.vote (s : State) (tile steps : Nat) (as : List Arrival) : Eff :=
  let vals := orderedVals as
  let ref := (vals.headD (0, 0)).2
  let others := as.filter (fun a => a.warp ≠ s.cur)
  let closed := s.closeLatch s.w.wg tile
  match vals.find? (fun x => x.2 ≠ ref) with
  | some d => .moved ((closed.trapArrivals .fmtDiverge (fun _ => d.1) others).trapHere .fmtDiverge d.1)
  | none =>
    if envBad ref then
      .moved ((closed.trapArrivals .illegalOp (fun a => a.word.toNat) others).trapHere .illegalOp s.ir.toNat)
    else if s.g.eng.full then .wait s
    else
      let e := closed.g.eng.accept tile (fun q => .mma q tile ref steps)
      .done ((closed.setEng s.w.wg { e with envs := Table.put 0#32 e.envs tile ref }).passArrivals others)

/-- The current unit arrives at a tile's latch (R196, R197). -/
def State.arriveMma (s : State) (tile steps : Nat) (vals : List (Nat × W32)) : Eff :=
  let list := s.w.gangList
  let clash := s.g.eng.latches.filter (fun x =>
    if x.1 = tile then decide (x.2.list ≠ list) || decide (x.2.steps ≠ steps) else x.2.list.getLsbD s.w.index)
  match clash with
  | (_, l) :: _ =>
    let s1 := s.mismatch s.w.wg clash
    .moved (s1.trapHere .gangMismatch l.list.toNat)
  | [] =>
    if (gangOf list).any (s.indexEnded s.g) then .trap .gangMismatch list.toNat
    else
      let me : Arrival := { warp := s.cur, index := s.w.index, unit := s.unit, word := s.ir, vals := vals }
      let before := ((Table.find s.g.eng.latches tile).map (·.arrivals)).getD []
      let as := before ++ [me]
      if (gangOf list).all (fun i => as.any (fun a => decide (a.index = i))) then s.vote tile steps as
      else
        let e := s.g.eng
        let s1 := s.setEng s.w.wg { e with latches := Table.set e.latches tile { list := list, steps := steps, arrivals := as } }
        .moved (s1.park (.latch tile))

/-- MMA (R196, R199). -/
def execMma (c b : BitVec 7) (t : BitVec 2) (s : State) :=
  let ops := [vblock .b b 1 1]
  let steps := (s.imm32 c).toNat
  s.issue acceptXI ops
    (!s.launch.matrix || decide (steps = 0) || decide (8 ≤ s.unit) || decide (s.u.lanes ≠ s.w.live) || decide (s.w.gangList = 0))
    (fun s => s.arriveMma t.toNat steps
      ((Lanes.list s.act).map (fun L => (L, (s.valueAt intConsts ops .b L).setWidth 32))))

/-- GANGSET (R195). -/
def execGangset (b : BitVec 7) (s : State) :=
  let ops := [sblock .b b 1]
  s.issue acceptX ops (!s.launch.matrix) (fun s =>
    let v := s.valueAt intConsts ops .b 0
    let m : W32 := v.setWidth 32
    let n := Lanes.count m
    if 2 ^ 32 ≤ v.toNat || decide (n < 2) || decide (6 < n) || !m.getLsbD s.w.index ||
        decide (2 ^ s.g.nwarps ≤ m.toNat) then .trap .illegalOp s.ir.toNat
    else .done (s.setW { s.w with gangList := m }))

/-- ACCZ (R200). -/
def execAccz (t : BitVec 2) (s : State) :=
  s.issue acceptX [] (!s.launch.matrix) (fun s => s.queueOp t.toNat (fun q => .accz q t.toNat))

/-- Element index of lane L. -/
def State.elemIndex (s : State) (ops : List Opnd) (L : Nat) : Nat := (s.valueAt intConsts ops .c L).toNat % 16384

/-- ACCWR (R200): data and indices are read at issue; its data reads fixed values as .f32 (R198). -/
def execAccwr (c b : BitVec 7) (t : BitVec 2) (s : State) :=
  let ops := [vs .b b 1, vblock .c c 1 1]
  s.issue acceptXI ops (!s.launch.matrix) (fun s =>
    s.queueOp t.toNat (fun q => .accwr q t.toNat
      ((Lanes.list s.act).map (fun L => (s.elemIndex ops L, (s.valueAt (constsT 0) ops .b L).setWidth 32)))))

/-- The envelope that an ACCEPI accepted now will use (R202). -/
def envAfter (tile : Nat) (e : W32) : List TileOp → W32
  | [] => e
  | .mma _ t v _ :: r => envAfter tile (if t = tile then v else e) r
  | .accz _ t :: r => envAfter tile (if t = tile then 0 else e) r
  | _ :: r => envAfter tile e r

def Engine.envOf (e : Engine) (tile : Nat) : W32 := envAfter tile (Table.get 0#32 e.envs tile) e.ops

/-- A barrier reference that an engine's start refuses: 0 names none. -/
def State.engineRefBad (s : State) (r : W64) : Bool :=
  decide (r ≠ 0) && (refBad r || (refSpad r && decide (s.spadSize s.g < refAddr r + 16)))

/-- ACCEPI (R202). A malformed reference raises MISALIGN (DESIGN CHOICE, log entry 36). -/
def execAccepi (b : BitVec 7) (t : BitVec 2) (s : State) :=
  let ops := [sblock .b b 4]
  s.issue acceptX ops (!s.launch.matrix) (fun s =>
    let e := s.regAt ops .b
    let dest := s.w.sreg e
    let pitch : W32 := (s.w.sreg (e + 1)).setWidth 32
    let bias := s.w.sreg (e + 2)
    let ref := s.w.sreg (e + 3)
    let env := s.g.eng.envOf t.toNat
    if decide (pitch.toNat % 4 ≠ 0) || decide (pitch.toNat < 128 * outSize env) then .trap .illegalOp s.ir.toNat
    else if decide (dest.toNat % 4 ≠ 0) || decide (bias.toNat % 4 ≠ 0) || s.engineRefBad ref then
      .trap .misalign (Lanes.lowest s.act)
    else s.queueOp t.toNat (fun q => .accepi q t.toNat env dest pitch bias ref 0 none))

/-! ### Reading a tile (R201) -/

def Engine.elem (e : Engine) (tile i : Nat) : W32 := Table.get 0#32 e.elems (16384 * tile + i)

/-- The element and step count of every lane, taken at one moment, open their window. -/
def State.readTile (s : State) (la : BitVec 4) (ops : List Opnd) (tile : Nat) : Eff :=
  let e := s.regAt ops .a
  let eng := s.g.eng
  s.pushResult la (Pending.of s.act
    [(e, allLanes (fun L => eng.elem tile (s.elemIndex ops L))), (e + 1, allLanes (fun _ => Table.get 0#32 eng.steps tile))] [])

/-- ACCRD takes its snapshot when it issues. -/
def execAccrd (l : BitVec 4) (c : BitVec 7) (t : BitVec 2) (a : BitVec 7) (s : State) :=
  let ops := [vd .a a 2, vblock .c c 1 1]
  s.issue acceptAll ops (!s.launch.matrix) (fun s => if s.full then .wait s else s.readTile l ops t.toNat)

/-- The operation for which an ACCRDI of the current unit waits: the last of its tile when it first issued. -/
def State.rdiSeq (s : State) (tile : Nat) : Nat :=
  match s.u.park with
  | .tileOps q => q
  | _ => Table.get 0 s.g.eng.lastOp tile

def execAccrdi (l : BitVec 4) (c : BitVec 7) (t : BitVec 2) (a : BitVec 7) (s : State) :=
  let ops := [vd .a a 2, vblock .c c 1 1]
  s.issue acceptAll ops (!s.launch.matrix) (fun s =>
    let q := s.rdiSeq t.toNat
    if s.act = 0 || decide (q ≤ s.g.eng.retired) then
      (if s.full then .wait s else (s.park .ready).readTile l ops t.toNat)
    else .held (s.park (.tileOps q)))

/-! ### K steps (R62 to R68, R192) -/

/-- Cut a list into k pieces of n. -/
def pieces {α : Type} (n : Nat) : Nat → List α → List (List α)
  | 0, _ => []
  | k + 1, l => l.take n :: pieces n k (l.drop n)

def slabA (env : W32) : Nat := if envA env = 2 then 8192 else 4096
def groupBytes (env : W32) : Nat := match envB env with
  | 0 => 16
  | 1 => 12
  | _ => 20
def slabBW (env : W32) : Nat := 128 * groupBytes env
def slabBS (env : W32) : Nat := if envScale env = 0 then 128 else 0

/-- The rows of an A slab as values (R65, R192). -/
def rowsA (env : W32) (bs : List Byte) : List (List FVal) :=
  let one : List Byte → FVal := fun b =>
    decodeF (match envA env with
      | 0 => e4m3
      | 1 => e5m2
      | _ => bf16) (bytesVal b)
  let size := if envA env = 2 then 2 else 1
  (pieces (32 * size) 128 bs).map (fun row => (pieces size 32 row).map one)

/-- The n's of a group of the B format (R62, R63): 32 signed fields of a width. -/
def fieldsOf (width : Nat) (v : Nat) : List Int :=
  (List.range 32).map (fun k => (BitVec.ofNat width (v / 2 ^ (width * k))).toInt)

def groupWidth (env : W32) : Nat := match envB env with
  | 0 => 4
  | 1 => 3
  | _ => 5

/-- The columns of a B slab: integers, code and group exponent (R65, R194). -/
def colsB (env : W32) (bw bs : List Byte) : List (List Int × Byte × Int) :=
  let base : Int := if envB env = 2 then 130 else 127
  let fixed : Byte := if envB env = 2 then 130 else 127
  let codes := if envScale env = 0 then bs else List.replicate 128 fixed
  ((pieces (groupBytes env) 128 bw).zip codes).map (fun x => (fieldsOf (groupWidth env) (bytesVal x.1), x.2, (x.2.toNat : Int) - base))

/-- One element of a K step with its counts (R66, R67): the value, and whether it was infinite or has become NaN. -/
def stepElem (sat : Bool) (as : List FVal) (c : W32) (col : List Int × Byte × Int) : W32 × Nat × Nat :=
  let x := kStepX c as col.1 col.2.1 col.2.2
  let v := decodeF f32 x
  let becomes := v.isNan && !(decodeF f32 c.toNat).isNan
  (BitVec.ofNat 32 (if v.isInf && sat then f32.max v.neg else x), v.isInf.toNat, becomes.toNat)

/-- A row of the tile. -/
def stepRow (sat : Bool) (as : List FVal) : List W32 → List (List Int × Byte × Int) → List (W32 × Nat × Nat)
  | c :: cs, k :: ks => stepElem sat as c k :: stepRow sat as cs ks
  | _, _ => []

def stepRows (sat : Bool) (cols : List (List Int × Byte × Int)) : List (List FVal) → List (List W32) → List (W32 × Nat × Nat)
  | a :: as, c :: cs => stepRow sat a c cols ++ stepRows sat cols as cs
  | _, _ => []

/-- The count word after a step (R68); each field stops at its all-ones value. -/
def countAfter (w : W32) (sats nans : Nat) : W32 :=
  BitVec.ofNat 32 (min (w.toNat / 2 ^ 24 + nans) 255 * 2 ^ 24 + min (w.toNat % 2 ^ 24 + sats) (2 ^ 24 - 1))

/-- The slabs a step takes are present. -/
def Engine.slabsReady (e : Engine) (env : W32) : Bool :=
  decide (slabA env ≤ e.fifoA.length) && decide (slabBW env ≤ e.fifoBW.length) && decide (slabBS env ≤ e.fifoBS.length)

/-- One K step on a tile. It records its own envelope, also over that of an MMA accepted behind it on the tile (DESIGN CHOICE, log entry 35:
R190 speaks of the last MMA started, R196 of the last accepted). -/
def Engine.kStep (e : Engine) (tile : Nat) (env : W32) : Engine :=
  let rows := rowsA env (e.fifoA.take (slabA env))
  let cols := colsB env (e.fifoBW.take (slabBW env)) (e.fifoBS.take (slabBS env))
  let old := pieces 128 128 (Table.span 0#32 e.elems (16384 * tile) 16384)
  let new := stepRows (envSat env) cols rows old
  let sats := (new.map (fun x => x.2.1)).sum
  let nans := (new.map (fun x => x.2.2)).sum
  { e with
    elems := Table.setSpan 0#32 e.elems (16384 * tile) (new.map (·.1)),
    steps := Table.put 0#32 e.steps tile (Table.get 0#32 e.steps tile + 1),
    counts := Table.put 0#32 e.counts tile (countAfter (Table.get 0#32 e.counts tile) sats nans),
    envs := Table.put 0#32 e.envs tile env,
    fifoA := e.fifoA.drop (slabA env), fifoBW := e.fifoBW.drop (slabBW env), fifoBS := e.fifoBS.drop (slabBS env) }

/-- The engine of a workgroup works: it is resident. -/
def State.engineOn (s : State) (wg : Nat) : Bool := decide ((s.wgAt wg).phase = .resident)

/-- K_STEP (R192, R199). -/
def execKStep (wg : Nat) (s : State) : Host.Outcome State Fault Refusal :=
  let e := (s.wgAt wg).eng
  match e.ops with
  | .mma q t env left :: r =>
    if s.engineOn wg && e.slabsReady env then
      let e1 := e.kStep t env
      .next (s.setEng wg (if left ≤ 1 then e1.retireHead else { e1 with ops := .mma q t env (left - 1) :: r }))
    else .next s
  | _ => .next s

/-- ACCZ_APPLY (R200). -/
def execAcczApply (wg : Nat) (s : State) : Host.Outcome State Fault Refusal :=
  let e := (s.wgAt wg).eng
  match e.ops with
  | .accz _ t :: _ =>
    if s.engineOn wg then
      .next (s.setEng wg { e.retireHead with
        elems := e.elems.filter (fun x => x.1 / 16384 ≠ t), steps := Table.erase e.steps t,
        counts := Table.erase e.counts t, envs := Table.erase e.envs t })
    else .next s
  | _ => .next s

/-- Write elements in turn. -/
def putElems (t : Table W32) (tile : Nat) : List (Nat × W32) → Table W32
  | [] => t
  | (i, v) :: r => putElems (Table.put 0#32 t (16384 * tile + i) v) tile r

/-- ACCWR_APPLY (R200). -/
def execAccwrApply (wg : Nat) (s : State) : Host.Outcome State Fault Refusal :=
  let e := (s.wgAt wg).eng
  match e.ops with
  | .accwr _ t es :: _ =>
    if s.engineOn wg then .next (s.setEng wg { e.retireHead with elems := putElems e.elems t es }) else .next s
  | _ => .next s

end Sys2Proof.Machine
end

