-- ==== Sys2Proof/Machine/Courier.lean ====
section
/-! DEFINITION. Couriers: streams, access slices, copies, halos, feeds and operand queues, majors 0x64 and 0x65, and the
epilogue of ACCEPI (R202 to R212). -/
namespace Sys2Proof.Machine

/-! ### Streams -/

def State.streamAt (s : State) (core n : Nat) : Stream := Table.get Stream.blank (s.coreAt core).streams n
def State.setStream (s : State) (core n : Nat) (st : Stream) : State :=
  s.setCoreAt core { s.coreAt core with streams := Table.set (s.coreAt core).streams n st }

/-- The lowest free stream of a core among some. -/
def State.freeStream (s : State) (core : Nat) (ns : List Nat) : Option Nat :=
  ns.find? (fun n => decide ((s.streamAt core n).state = .free))

/-- A stream as an agent (R176): courier 0 runs streams 0 to 3, courier 1 streams 4 to 7. -/
def State.streamWho (s : State) (core n : Nat) : Who :=
  engineWho (s.wgAt (s.streamAt core n).wg).asid (dieOf core) (BitVec.ofNat 4 (1 + n / 4)) (n % 4) (core % 48) (.stream core n)

/-- A one-shot stream of a workgroup. -/
def Stream.oneShot (wg : Nat) (j : Job) : Stream := { Stream.blank with state := .running, wg := wg, jobs := [j] }

/-! ### Jobs as they are issued (R206 to R208) -/

def copyDir (ctl : Nat) : Nat := ctl / 2 ^ 30
def copyBytes (ctl : Nat) : Nat := ctl % 2 ^ 30

/-- A control word that raises ILLEGAL_OP. -/
def copyIllegal (ctl : Nat) : Bool := decide (copyDir ctl = 3) || decide (copyBytes ctl % 16 ≠ 0)

/-- An address, bound or reference that raises MISALIGN, for a scratchpad of a size (a malformed reference: DESIGN CHOICE, log entry 36). -/
def copyCrooked (size ctl dst src : Nat) (ref : W64) : Bool :=
  decide (dst % 16 ≠ 0) || decide (src % 16 ≠ 0) ||
  (decide (copyDir ctl = 0) && decide (copyBytes ctl ≠ 0) && decide (size < dst + copyBytes ctl)) ||
  (decide (copyDir ctl = 1) && decide (copyBytes ctl ≠ 0) && decide (size < src + copyBytes ctl)) ||
  (decide (ref ≠ 0) && (refBad ref || (refSpad ref && decide (size < refAddr ref + 16))))

def copyJob (ctl : Nat) (dst src ref : W64) : Job := .copy (BitVec.ofNat 2 (copyDir ctl)) dst src (copyBytes ctl) ref 0

/-- Scratchpad bytes that a job has still to write, as runs. -/
def Job.runs : Job → List (Nat × Nat)
  | .copy dir dst _ n _ done => if dir = 0 then [(dst.toNat + done, n - done)] else []
  | .halo _ _ doff _ dpitch rb rows _ row => (List.range' row (rows - row)).map (fun r => (doff + r * dpitch, rb))
  | .feed _ _ _ _ _ _ => []
  | .epilogue => []

/-- Lines that a job has still to write. -/
def Job.lines (j : Job) : List Nat := (j.runs.flatMap (fun r => linesOf r.1 r.2)).eraseDups

/-- Issuing a job clears the presence bits of the lines it will write (R174). -/
def State.clearFor (s : State) (wg : Nat) (j : Job) : State := s.setWg wg ((s.wgAt wg).clearLines j.lines)

/-- Ports that a feed takes: a converting feed of BW also fills BS. -/
def feedPorts (port conv : BitVec 2) : List Nat := if conv = 0 then [port.toNat] else [1, 2]

/-- Source size of a conversion. -/
def convSize (conv : BitVec 2) : Nat := if conv = 1 then 4 else 2
def convFmt (conv : BitVec 2) : Fmt := if conv = 1 then f32 else if conv = 2 then bf16 else f16

/-- Fields of CRFEED that raise ILLEGAL_OP (R208). -/
def feedIllegal (port conv : BitVec 2) (n : Nat) : Bool :=
  decide (port = 3) || (decide (conv ≠ 0) && decide (port ≠ 1)) || decide (n = 0) || decide (n % 16 ≠ 0) ||
  (decide (conv ≠ 0) && decide (n % (32 * convSize conv) ≠ 0))
def feedCrooked (size : Nat) (spad : Bool) (src n : Nat) : Bool :=
  decide (src % 16 ≠ 0) || (spad && decide (size < src + n))

/-! ### Jobs at work -/

/-- What an attempt of a stream gives. -/
inductive Try where
  | moved (s : State)
  | blocked (s : State)
  | parked (s : State) (die index : Nat)
  | denied (s : State)
  | bad (s : State)
  | later (s : State)

/-- An access of a stream. -/
def Got.attempt {α : Type} (g : Got α) (f : State → α → Try) : Try :=
  match g with
  | .ok s a => f s a
  | .fault s d i => .parked s d i
  | .full s => .later s
  | .denied s => .denied s
  | .wait s => .later s

/-- Put the head job of a stream, with the bytes just moved and those to be counted. -/
def State.advance (s : State) (core n : Nat) (j : Job) (moved owed : Nat) : State :=
  let st := s.streamAt core n
  s.setStream core n { st with jobs := j :: st.jobs.tail, owed := st.owed + owed, bytes := st.bytes + BitVec.ofNat 32 moved }

/-- Bytes written to a scratchpad. -/
def State.spadPut (s : State) (wg o : Nat) (bs : List Byte) : State :=
  let g := s.wgAt wg
  s.setWg wg { g with spad := Memory.writeBytes g.spad o bs }

/-- A piece of a copy: up to the end of a line of its destination (R206, R211). -/
def State.copyPiece (s : State) (core n : Nat) (dir : BitVec 2) (dst src : W64) (bytes : Nat) (ref : W64) (done : Nat) : Try :=
  let wg := (s.streamAt core n).wg
  let w := s.streamWho core n
  let d := (dst + BitVec.ofNat 64 done).toNat
  let from_ := (src + BitVec.ofNat 64 done).toNat
  let k := min (min (bytes - done) (128 - d % 128)) (65536 - done % 65536)
  let next := fun (s : State) => Try.moved (s.advance core n (.copy dir dst src bytes ref (done + k)) k (if ref = 0 then 0 else k))
  if dir = 0 then (s.fetchBytes w from_ k).attempt (fun s bs => next (s.spadPut wg d bs))
  else if dir = 1 then
    (if !(s.wgAt wg).present from_ k then .blocked s
     else (s.put w d (Memory.readBytes (s.wgAt wg).spad from_ k)).attempt (fun s _ => next s))
  else (s.fetchBytes w from_ k).attempt (fun s bs => (s.put w d bs).attempt (fun s _ => next s))

/-- The workgroup of a launch with a linear index. -/
def State.peer (s : State) (launch idx : Nat) : Option Nat :=
  (s.wgs.find? (fun x => decide (x.2.launch = launch) && decide (x.2.wgx.toNat = idx) && decide (x.2.phase = .resident))).map (·.1)

/-- One row of a halo (R207). -/
def State.haloRow (s : State) (core n src soff doff sp dp rb rows : Nat) (ref : W64) (row : Nat) : Try :=
  let wg := (s.streamAt core n).wg
  match s.peer (s.wgAt wg).launch src with
  | none => .blocked s
  | some p =>
    if decide (rb ≠ 0) && !(s.wgAt p).present (soff + row * sp) rb then .blocked s
    else
      let bs := Memory.readBytes (s.wgAt p).spad (soff + row * sp) rb
      .moved ((s.spadPut wg (doff + row * dp) bs).advance core n (.halo src soff doff sp dp rb rows ref (row + 1)) rb
        (if ref = 0 then 0 else rb))

/-- Free bytes of a port (R192). -/
def Engine.room (e : Engine) (port : Nat) : Nat :=
  match port with
  | 0 => 65536 - e.fifoA.length
  | 1 => 61440 - e.fifoBW.length
  | _ => 4096 - e.fifoBS.length

/-- Bytes enter a port. -/
def Engine.push (e : Engine) (port : Nat) (bs : List Byte) : Engine :=
  match port with
  | 0 => { e with fifoA := e.fifoA ++ bs }
  | 1 => { e with fifoBW := e.fifoBW ++ bs }
  | _ => { e with fifoBS := e.fifoBS ++ bs }

/-- A job is a feed under way on one of some ports. -/
def Job.holds (ports : List Nat) : Job → Bool
  | .feed p c _ _ n done => decide (0 < done) && decide (done < n) && (feedPorts p c).any ports.contains
  | _ => false

/-- Another stream's run is entering one of the ports (R193). -/
def State.portTaken (s : State) (core n : Nat) (ports : List Nat) : Bool :=
  (s.coreAt core).streams.any (fun x => decide (x.1 ≠ n) && decide (x.2.wg = (s.streamAt core n).wg) &&
    (x.2.jobs.head?.map (Job.holds ports)).getD false)

/-- Convert whole blocks of 32 values: records for BW, codes for BS, saturation count (R64, R208). -/
def convBlocks (conv : BitVec 2) (blocks : List (List Byte)) : List Byte × List Byte × Nat :=
  let qs := blocks.map (fun b => quantize ((pieces (convSize conv) 32 b).map (fun x => decodeF (convFmt conv) (bytesVal x))))
  (qs.flatMap (fun q => valBytes 20 (q.mants.foldr (fun m v => (m % 32).toNat + 32 * v) 0)),
   qs.map (·.code), (qs.map (·.sats)).sum)

/-- A piece of a feed: what its port has room for, up to 4096 bytes or 32 blocks. -/
def State.feedPiece (s : State) (core n : Nat) (port conv : BitVec 2) (spad : Bool) (src : W64) (bytes done : Nat) : Try :=
  let wg := (s.streamAt core n).wg
  let g := s.wgAt wg
  let ended := decide (g.phase = .done)
  let unit := if conv = 0 then 16 else 32 * convSize conv
  let room := if ended then 4096
    else if conv = 0 then g.eng.room port.toNat
    else min (g.eng.room 1 / 20) (g.eng.room 2) * unit
  let k := min (min (min (bytes - done) 4096) (65536 - done % 65536)) (room / unit * unit)
  let a := (src + BitVec.ofNat 64 done).toNat
  if k = 0 || s.portTaken core n (feedPorts port conv) then .blocked s
  else if spad && !g.present a k then .blocked s
  else
    let got := if spad then Got.ok s (Memory.readBytes g.spad a k) else s.fetchBytes (s.streamWho core n) a k
    got.attempt (fun s bs =>
      let e := (s.wgAt wg).eng
      let j := Job.feed port conv spad src bytes (done + k)
      if conv = 0 then .moved ((s.setEng wg (e.push port.toNat bs)).advance core n j k 0)
      else
        let r := convBlocks conv (pieces unit (k / unit) bs)
        let s1 := s.setEng wg ((e.push 1 r.1).push 2 r.2.1)
        let st := s1.streamAt core n
        .moved ((s1.setStream core n { st with sat := BitVec.ofNat 32 (min (st.sat.toNat + r.2.2) (2 ^ 32 - 1)) }).advance core n j k 0))

/-- Bytes or rows are left to move. -/
def Job.unfinished : Job → Bool
  | .copy _ _ _ n _ done => decide (done < n)
  | .halo _ _ _ _ _ _ rows _ row => decide (row < rows)
  | .feed _ _ _ _ n done => decide (done < n)
  | .epilogue => true

/-- The barrier reference of a job. -/
def Job.ref : Job → W64
  | .copy _ _ _ _ r _ => r
  | .halo _ _ _ _ _ _ _ r _ => r
  | .feed _ _ _ _ _ _ => 0
  | .epilogue => 0

/-- Take a finished job off its stream; a one-shot stream with no job left is free (R203). -/
def Stream.next (st : Stream) : Stream :=
  match st.jobs with
  | j :: js => if j.unfinished || decide (st.owed ≠ 0) then st
    else if js.isEmpty && !st.slice then st.freed else { st with jobs := js }
  | [] => if st.slice then st else st.freed

def State.nextJob (s : State) (core n : Nat) : State := s.setStream core n (s.streamAt core n).next

/-- Count the bytes a stream has written on the barrier object of its job, once they are performed (R150). -/
def State.countOwed (s : State) (core n : Nat) (j : Job) : Try :=
  let st := s.streamAt core n
  if st.owed = 0 then .moved s
  else if s.unperformedBy (.stream core n) then .later s
  else
    match s.countBytes (s.streamWho core n) st.wg j.ref st.owed with
    | .ok s1 _ => .moved (s1.setStream core n { s1.streamAt core n with owed := 0 })
    | .fault s1 d i => .parked s1 d i
    | .full s1 => .later s1
    | .denied s1 => .denied s1
    | .wait s1 => if refSpad j.ref then .blocked s1 else .later s1

/-- An attempt at the job at the head. -/
def State.tryJob (s : State) (core n : Nat) (j : Job) : Try :=
  let piece := match j with
    | .copy dir dst src bytes ref done => s.copyPiece core n dir dst src bytes ref done
    | .halo src so d sp dp rb rows ref row => s.haloRow core n src so d sp dp rb rows ref row
    | .feed p c x src bytes done => s.feedPiece core n p c x src bytes done
    | .epilogue => .blocked s
  if (s.streamAt core n).owed ≠ 0 then
    (match s.countOwed core n j with
     | .moved s1 => .moved (s1.nextJob core n)
     | t => t)
  else if !j.unfinished then .moved (s.nextJob core n)
  else match piece with
    | .moved s1 => (match s1.countOwed core n j with
      | .moved s2 => .moved (s2.nextJob core n)
      | .blocked s2 => .moved s2
      | .later s2 => .moved s2
      | t => t)
    | t => t

/-! ### Access slices (R18, R204, R205, R210) -/

/-- The stream's slice as a unit of one lane that the scalar meanings act on: warp key 0 holds it, a trap shows as
handler mode. SETP, ADDC and SUBB of a slice read and write one-lane predicates of the stream's own, false at its start (DESIGN
CHOICE: R205 gives a stream s0 to s31 and lc0 to lc2 only, and R18 admits these instructions). -/
def State.sliceState (s : State) (core n : Nat) : State :=
  let st := s.streamAt core n
  let l := (s.wgAt st.wg).launch
  let u := { IUnit.blank with lanes := 1, pc := st.pc, frame := { Framing.blank with imm := st.imm } }
  let w := { Warp.blank with wg := st.wg, index := (s.warpAt st.warp).index, live := 1, units := [(0, u)],
                             sregs := st.sregs, lcs := st.lcs, preds := st.preds, loops := st.loops }
  ({ s with warps := Table.set s.warps 0 w, cur := 0, unit := 0 }).setLaunch l { s.launchAt l with handler := 4 }

/-- What of a slice's run belongs to the device. -/
def State.afterSlice (p s : State) : State :=
  { p with warps := Table.erase p.warps 0, launches := s.launches, cores := s.cores, cur := s.cur, unit := s.unit, ir := s.ir }

/-- The stream takes back its registers and position from a slice's run. -/
def State.keepSlice (p s : State) (core n : Nat) : State :=
  let w := p.w
  let u := p.u
  let st := s.streamAt core n
  (p.afterSlice s).setStream core n
    { st with pc := u.pc, imm := u.frame.imm, sregs := w.sregs, lcs := w.lcs, preds := w.preds, loops := w.loops }

/-- The loops of a slice that are complete turn. -/
def Warp.turnLoops (w : Warp) : Nat → Warp
  | 0 => w
  | k + 1 => match w.ripeLoop with
    | some l => Warp.turnLoops (w.backEdge l) k
    | none => w

/-- The end of an instruction of a slice. -/
def State.sliceDone (p s : State) (core n : Nat) : Try :=
  if p.w.live = 0 || (decide (p.g.phase = .done) && decide ((s.wgAt p.w.wg).phase ≠ .done)) then .denied s
  else if p.w.handler then .bad s
  else match p.u.park with
    | .fault d i => .parked (p.afterSlice s) d i
    | _ =>
      let p1 := p.setW (p.w.turnLoops 4)
      .moved (p1.keepSlice s core n)

/-- Field values of a slice word that name stream registers. -/
def sliceRegs (w : W32) (imm : Bool) : List Nat :=
  let op := w.toNat % 128
  let a := w.toNat / 2 ^ 7 % 128
  let b := w.toNat / 2 ^ 14 % 128
  let c := w.toNat / 2 ^ 21 % 128
  let m := w.toNat / 2 ^ 28
  if decide (0x28 ≤ op) && decide (op ≤ 0x2C) then
    [a, b] ++ (if imm then [] else [c]) ++ (if decide (op = 0x2A ∨ op = 0x2B) && decide (m = 15) then [c + 1] else [])
  else if op = 0x2D then b :: (if imm then [] else [c])
  else if op = 0x2E || op = 0x2F || op = 0x52 then [a, b]
  else if op = 0x05 || op = 0x65 then [b]
  else if op = 0x64 then
    (if m = 1 then [a, b] ++ (if imm then [] else [c, c + 1]) else b :: (if imm then [] else [c]))
  else []

/-- A register above s31 (R205). -/
def sliceBound (w : W32) (imm : Bool) : Bool := (sliceRegs w imm).any (fun f => decide (32 ≤ f) && decide (f < 112))

/-- The value LDS writes in a slice (R205). -/
def extendScalar (code : Nat) (v : Nat) : W64 :=
  match code with
  | 1 => (BitVec.ofNat 8 v).signExtend 64
  | 3 => (BitVec.ofNat 16 v).signExtend 64
  | _ => BitVec.ofNat 64 v

/-- LDS of a slice (R174, R205). -/
def State.sliceLds (p s : State) (core n : Nat) (c b a : BitVec 7) : Try :=
  let i := p.imm32 c
  let ops := [sd .a a, ss .b b]
  let k := codeBytes (attrOf i % 8)
  let o := ((p.valueAt intConsts ops .b 0).setWidth 32 + (offOf i).signExtend 32).toNat
  if !loadLegal i true false || ops.any p.illOp then .bad s
  else if decide (o % k ≠ 0) || decide (p.spadSize p.g < o + k) then .bad s
  else if !p.g.present o k then .blocked s
  else ((p.setSreg a.toNat (extendScalar (attrOf i % 8) (Memory.readN p.g.spad o k))).retire).sliceDone s core n

/-- QPUT (R210): a free place of the consumer's queue, then 128 bytes as one entry. Under IMM, c is the constant (R31), and one past the
space bit is ILLEGAL_OP of the slice, as for QPOP (log entry 28). -/
def State.sliceQput (p s : State) (core n : Nat) (space : BitVec 1) (b : BitVec 7) : Try :=
  let ops := [sblock .b b 1]
  let st := s.streamAt core n
  let a := (p.valueAt intConsts ops .b 0).toNat
  let spad := !(p.imm32 (space.setWidth 7)).getLsbD 0
  let push := fun (p : State) (bs : List Byte) =>
    let w := p.warpAt st.warp
    ((p.setWarp st.warp { w with opq := w.opq ++ [words32 32 bs] }).retire).sliceDone s core n
  if ops.any p.illOp || decide (2 ≤ (p.imm32 (space.setWidth 7)).toNat) || decide (a % 4 ≠ 0) || (spad && decide (p.spadSize p.g < a + 128)) then .bad s
  else if (p.warpAt st.warp).live = 0 then p.retire.sliceDone s core n
  else if 16 ≤ (p.warpAt st.warp).opq.length then .blocked s
  else if spad then
    (if !p.g.present a 128 then .blocked s else push p (Memory.readBytes p.g.spad a 128))
  else match p.fetchBytes (s.streamWho core n) a 128 with
    | .ok p1 bs => push p1 bs
    | .fault p1 d i => .parked (p1.afterSlice s) d i
    | .full p1 => .later (p1.afterSlice s)
    | .denied _ => .denied s
    | .wait p1 => .later (p1.afterSlice s)

/-- A job of a slice joins its stream; four may be outstanding (R205). -/
def State.sliceJob (p s : State) (core n : Nat) (j : Job) : Try :=
  if 4 ≤ (s.streamAt core n).jobs.length then .blocked s
  else
    let wg := (s.streamAt core n).wg
    match p.retire.sliceDone s core n with
    | .moved s1 =>
      let s2 := s1.clearFor wg j
      let st := s2.streamAt core n
      .moved (s2.setStream core n { st with jobs := st.jobs ++ [j] })
    | t => t

/-- CRCOPY of a slice. -/
def State.sliceCopy (p s : State) (core n : Nat) (c b a : BitVec 7) : Try :=
  let ops := [sblock .a a 1, sblock .b b 1, sblock .c c 2]
  let ctl := (p.valueAt intConsts ops .c 0).toNat % 2 ^ 32
  let ref : W64 := if p.u.frame.imm.isSome then 0 else p.w.sreg (c.toNat + 1)
  let dst := p.valueAt intConsts ops .a 0
  let src := p.valueAt intConsts ops .b 0
  if ops.any p.illOp || copyIllegal ctl || copyCrooked (p.spadSize p.g) ctl dst.toNat src.toNat ref then .bad s
  else p.sliceJob s core n (copyJob ctl dst src ref)

/-- CRFEED of a slice: a workgroup that does not hold the engine puts the stream in Error (R189). -/
def State.sliceFeed (p s : State) (core n : Nat) (c b : BitVec 7) (x : BitVec 1) (k port : BitVec 2) : Try :=
  let ops := [sblock .b b 1, sblock .c c 1]
  let src := p.valueAt intConsts ops .b 0
  let bytes := (p.valueAt intConsts ops .c 0).toNat % 2 ^ 32
  if !p.launch.matrix || ops.any p.illOp || feedIllegal port k bytes ||
      feedCrooked (p.spadSize p.g) (decide (x = 1)) src.toNat bytes then .bad s
  else p.sliceJob s core n (.feed port k (decide (x = 1)) src bytes 0)

/-- The instructions that a slice may hold (R18), run on the slice's state. -/
def State.sliceWord (p s : State) (core n : Nat) (w : W32) : Try :=
  let op : BitVec 7 := w.setWidth 7
  let m : BitVec 4 := w.extractLsb' 28 4
  let c : BitVec 7 := w.extractLsb' 21 7
  let b : BitVec 7 := w.extractLsb' 14 7
  let a : BitVec 7 := w.extractLsb' 7 7
  let p := { p with ir := w }
  let run := fun (o : Host.Outcome State Fault Refusal) => match o with
    | .next p1 => p1.sliceDone s core n
    | _ => Try.bad s
  if sliceBound w p.u.frame.imm.isSome then .bad s
  else if op = 1#7 then run (execImm (w.extractLsb' 7 25) p)
  else if op = 5#7 then (match dec05 m c b a with
    | .ok (.loop c b z) => run (p.startLoop (s.streamWho core n) .done c b z)
    | _ => .bad s)
  else if op = 6#7 then (match dec06 m c b a with
    | .ok .exit =>
      if p.u.frame.imm.isSome then .bad s
      else
        let st := s.streamAt core n
        .moved ((p.afterSlice s).setStream core n ({ st with slice := false, loops := [] }).next)
    | _ => .bad s)
  else if op = 0x52#7 then p.sliceLds s core n c b a
  else if op = 0x64#7 then (match dec64 m c b a with
    | .ok (.crcopy c b a) => p.sliceCopy s core n c b a
    | .ok (.crfeed c b x k q) => p.sliceFeed s core n c b x k q
    | _ => .bad s)
  else if op = 0x65#7 then (match dec65 m c b a with
    | .ok (.qput z b) => p.sliceQput s core n z b
    | _ => .bad s)
  else match decodeGroup2 op m c b a with
    | .ok i => (match scalarMeaning i with
      | some f => run (f p)
      | none => .bad s)
    | .error _ => .bad s

/-- One instruction of a slice. -/
def State.trySlice (s : State) (core n : Nat) : Try :=
  let p := s.sliceState core n
  match p.fetchCode (s.streamWho core n) p.u.pc 1 with
  | .ok p1 ws => p1.sliceWord (p1.afterSlice s) core n (ws.getD 0 0)
  | .fault p1 d i => .parked (p1.afterSlice s) d i
  | .full p1 => .later (p1.afterSlice s)
  | .denied _ => .denied s
  | .wait p1 => .later (p1.afterSlice s)

/-- An attempt of a stream: its job, or where none moves an instruction of its slice. -/
def State.tryStream (s : State) (core n : Nat) : Try :=
  let st := s.streamAt core n
  match st.jobs with
  | [] => if st.slice then s.trySlice core n else .moved (s.nextJob core n)
  | j :: _ => match s.tryJob core n j with
    | .blocked s1 => if st.slice && decide ((s.wgAt st.wg).phase = .resident) then s1.trySlice core n else .blocked s1
    | t => t

/-- The stream goes to Error: an uncontained error of its launch's fault domain (R203, R358). With its workgroup, which that removes or
which had ended before, it is Free. -/
def State.streamError (s : State) (core n : Nat) : State :=
  let st := s.streamAt core n
  let l := s.launchAt (s.wgAt st.wg).launch
  let s1 := (s.setStream core n { st with state := .error }).endDomain l.asid l.domain
  if (s1.wgAt st.wg).phase = .done then s1.setStream core n (s1.streamAt core n).freed else s1

/-- The job stands where its position may be saved: not begun, done, or at a 64 KiB boundary of its bytes (R314). -/
def Job.atBoundary : Job → Bool
  | .copy _ _ _ n _ done => decide (done % 65536 = 0) || decide (n ≤ done)
  | .halo _ _ _ _ _ rb rows _ row => decide (row = 0) || decide (rows ≤ row) || decide (row * rb % 65536 < rb)
  | .feed _ _ _ _ n done => decide (done % 65536 = 0) || decide (n ≤ done)
  | .epilogue => true

/-- A running stream whose transfer has still to drain before its workgroup leaves (R212, R314). -/
def Stream.drains (st : Stream) : Bool :=
  decide (st.state = .running) && (decide (st.owed ≠ 0) || (match st.jobs with
    | j :: _ => !j.atBoundary
    | [] => false))

/-- The stream's workgroup runs, or is leaving and a transfer drains, or has ended and its issued jobs complete. -/
def State.streamLive (s : State) (core n : Nat) : Bool :=
  let st := s.streamAt core n
  let g := s.wgAt st.wg
  decide (g.phase = .resident) || decide (g.phase = .done) || (decide (g.phase = .leaving) && st.drains)

/-- What an attempt leaves of a stream (R203). -/
def Try.end_ (t : Try) (core stream : Nat) : State :=
  match t with
  | .moved s1 => s1
  | .blocked s1 => s1.setStream core stream { s1.streamAt core stream with state := .waiting }
  | .parked s1 d i => s1.setStream core stream { s1.streamAt core stream with state := .parked d i }
  | .denied s1 => s1.streamError core stream
  | .bad s1 => s1.streamError core stream
  | .later s1 => s1

/-- COURIER_JOB (R203, R205): a running stream does one piece of work, once what it has posted to remote pages is performed
(R211). -/
def execCourierJob (core stream : Nat) (s : State) : Host.Outcome State Fault Refusal :=
  let st := s.streamAt core stream
  if st.state ≠ .running || !s.streamLive core stream || decide (st.jobs = [.epilogue]) || s.unperformedBy (.stream core stream) then .next s
  else .next ((s.tryStream core stream).end_ core stream)

/-- ENGINE_BYTE_COUNT (R150): a running stream counts the bytes that it has performed on the object of its job; the event names how
many these are, and one of another number is none of this stream's. -/
def execEngineByteCount (core stream bytes : Nat) (s : State) : Host.Outcome State Fault Refusal :=
  let st := s.streamAt core stream
  match st.jobs with
  | [] => .next s
  | j :: _ =>
    if st.state ≠ .running || !s.streamLive core stream || decide (bytes ≠ st.owed) then .next s
    else match s.countOwed core stream j with
      | .moved s1 => .next (s1.nextJob core stream)
      | t => .next (t.end_ core stream)

/-- STREAM_WAIT_CLEAR (R203): a waiting stream whose condition has cleared runs again. -/
def execStreamWaitClear (core stream : Nat) (s : State) : Host.Outcome State Fault Refusal :=
  let st := s.streamAt core stream
  if st.state ≠ .waiting || !s.streamLive core stream then .next s
  else match s.tryStream core stream with
    | .blocked _ => .next s
    | _ => .next (s.setStream core stream { st with state := .running })

/-- Every job outstanding for a workgroup: those of its core's streams and those saved with it. -/
def State.jobsOf (s : State) (wg : Nat) : List Job :=
  let g := s.wgAt wg
  ((s.coreAt g.core).streams.filter (fun x => x.2.wg = wg)).flatMap (fun x => x.2.jobs) ++
  g.streams.flatMap (fun x => x.2.jobs)

/-- COPY_LINE_LAND (R174): every byte of engine copies for an absent line has been written, and its bit sets. -/
def execCopyLineLand (wg line : Nat) (s : State) : Host.Outcome State Fault Refusal :=
  let g := s.wgAt wg
  if g.absent.contains line && !(s.jobsOf wg).any (fun j => j.lines.contains line) then .next (s.setWg wg (g.setLine line))
  else .next s

/-! ### Starting streams from a warp -/

/-- A stream is bound to a workgroup: what it asked for before goes unused. -/
def State.bindStream (s : State) (core n : Nat) (st : Stream) : State := (s.dropAsked (.stream core n)).setStream core n st

/-- A one-shot job of the current unit: it waits for a free stream (R206). -/
def State.oneShot (s : State) (j : Job) : Eff :=
  match s.freeStream s.g.core (List.range 8) with
  | none => .wait s
  | some n => .done ((s.clearFor s.w.wg j).bindStream s.g.core n (Stream.oneShot s.w.wg j))

/-- CRSTART (R204). IMM is accepted (R33): the constant stands for the register that c names, s0 of the stream; the fifteen that
follow it are free values (DESIGN CHOICE: no rule gives them). -/
def execCrstart (c b a : BitVec 7) (s : State) :=
  let ops := [sd .a a, sblock .b b 1, sblock .c c 16]
  s.issue acceptXI ops false (fun s =>
    let entry := s.valueAt intConsts ops .b 0
    let e := s.regAt ops .c
    if entry.toNat % 4 ≠ 0 then .trap .misalign (Lanes.lowest s.act)
    else match s.freeStream s.g.core (List.range 8) with
      | none => .done (s.setSreg (s.regAt ops .a) (BitVec.allOnes 64))
      | some n =>
        let imm := s.u.frame.imm.isSome
        let regs := (List.range 16).map (fun i =>
          if imm then (if i = 0 then s.valueAt intConsts ops .c 0 else Config.freeWord (s.freeCount + i)) else s.w.sreg (e + i))
        let st := { Stream.blank with state := .running, wg := s.w.wg, warp := s.cur, slice := true, pc := entry,
                                      sregs := Table.putAll 0#64 [] 0 regs }
        let s1 := { s with freeCount := if imm then s.freeCount + 16 else s.freeCount }
        .done ((s1.bindStream s.g.core n st).setSreg (s.regAt ops .a) (BitVec.ofNat 64 n)))

/-- CRCOPY (R206). -/
def execCrcopy (c b a : BitVec 7) (s : State) :=
  let ops := [sblock .a a 1, sblock .b b 1, sblock .c c 2]
  s.issue acceptXI ops false (fun s =>
    let ctl := (s.valueAt intConsts ops .c 0).toNat % 2 ^ 32
    let ref : W64 := if s.u.frame.imm.isSome then 0 else s.w.sreg (s.regAt ops .c + 1)
    let dst := s.valueAt intConsts ops .a 0
    let src := s.valueAt intConsts ops .b 0
    if copyIllegal ctl then .trap .illegalOp s.ir.toNat
    else if copyCrooked (s.spadSize s.g) ctl dst.toNat src.toNat ref then .trap .misalign (Lanes.lowest s.act)
    else s.oneShot (copyJob ctl dst src ref))

/-- Workgroups of the launch of the current warp. -/
def State.launchSize (s : State) : Nat := s.launch.total

/-- CRHALO (R207): fields beyond a map's alignment raise ILLEGAL_OP, offsets and rows outside a scratchpad MISALIGN; bits of S[b+1] that
the table does not list are ignored (DESIGN CHOICE, log entry 36). -/
def execCrhalo (b : BitVec 7) (s : State) :=
  let ops := [sblock .b b 4]
  s.issue acceptX ops false (fun s =>
    let e := s.regAt ops .b
    let x := s.w.sreg e
    let o := (s.w.sreg (e + 1)).toNat
    let p := (s.w.sreg (e + 2)).toNat
    let ref := s.w.sreg (e + 3)
    let so := o % 2 ^ 19
    let d := o / 2 ^ 32 % 2 ^ 19
    let sp := p % 2 ^ 16
    let dp := p / 2 ^ 16 % 2 ^ 16
    let rb := p / 2 ^ 32 % 2 ^ 16
    let rows := p / 2 ^ 48
    let size := s.spadSize s.g
    let outside := fun (off pitch : Nat) => decide (0 < rows) && decide (size < off + (rows - 1) * pitch + rb)
    if decide (s.launchSize ≤ x.toNat) || decide (sp % 4 ≠ 0) || decide (dp % 4 ≠ 0) || decide (rb % 4 ≠ 0) then
      .trap .illegalOp s.ir.toNat
    else if decide (so % 4 ≠ 0) || decide (d % 4 ≠ 0) || outside so sp || outside d dp || s.engineRefBad ref then
      .trap .misalign (Lanes.lowest s.act)
    else s.oneShot (.halo x.toNat so d sp dp rb rows ref 0))

/-- CRFEED (R208). -/
def execCrfeed (c b : BitVec 7) (x : BitVec 1) (k p : BitVec 2) (s : State) :=
  let ops := [sblock .b b 1, sblock .c c 1]
  s.issue acceptXI ops (!s.launch.matrix) (fun s =>
    let src := s.valueAt intConsts ops .b 0
    let n := (s.valueAt intConsts ops .c 0).toNat % 2 ^ 32
    if feedIllegal p k n then .trap .illegalOp s.ir.toNat
    else if feedCrooked (s.spadSize s.g) (decide (x = 1)) src.toNat n then .trap .misalign (Lanes.lowest s.act)
    else s.oneShot (.feed p k (decide (x = 1)) src n 0))

/-- State codes of CRSTAT (R203). -/
def StreamState.code : StreamState → Nat
  | .free => 0
  | .running => 1
  | .waiting => 2
  | .parked _ _ => 3
  | .error => 5

/-- CRSTAT (R209). -/
def execCrstat (b a : BitVec 7) (s : State) :=
  let ops := [sblock .a a 2, sblock .b b 1]
  s.issue acceptX ops false (fun s =>
    let n := (s.valueAt intConsts ops .b 0).toNat
    if 7 < n then .trap .illegalOp s.ir.toNat
    else
      let st := s.streamAt s.g.core n
      let mine := decide (st.state = .free) || decide (st.wg = s.w.wg)
      let v : Nat := if mine then st.bytes.toNat * 2 ^ 32 + n * 2 ^ 8 + st.state.code else n * 2 ^ 8
      let e := s.regAt ops .a
      .done ((s.setSreg e (BitVec.ofNat 64 v)).setSreg (e + 1) (if mine then st.sat.setWidth 64 else 0)))

/-- QPUT by a warp (R210): ILLEGAL_OP. -/
def execQput (_z : BitVec 1) (_b : BitVec 7) (s : State) : Host.Outcome State Fault Refusal :=
  s.finish (.trap .illegalOp s.ir.toNat)

/-- QPOP (R210): an entry, or two, by the rules of R27. Under IMM, c is the constant, and a value past the width bit is
ILLEGAL_OP. -/
def execQpop (w : BitVec 1) (a : BitVec 7) (s : State) :=
  let k := regsW w
  let ops := [vd .a a k]
  s.issue acceptXI ops (decide (2 ≤ (s.imm32 (w.setWidth 7)).toNat)) (fun s =>
    if s.w.opq.length < k then .wait s
    else
      let e := s.regAt ops .a
      let w1 := s.w.setVreg s.act e (s.w.queueWord 0)
      let w2 := if k = 2 then w1.setVreg s.act (e + 1) (s.w.queueWord 1) else w1
      .done ((s.setW w2).pop k))

/-- QCNT (R210). -/
def execQcnt (a : BitVec 7) (s : State) :=
  let ops := [sd .a a]
  s.issue acceptX ops false (fun s => .done (s.setSreg (s.regAt ops .a) (BitVec.ofNat 64 s.w.opq.length)))

/-! ### The epilogue (R202) -/

/-- An element as ACCEPI writes it: bias, ReLU, conversion, which makes every NaN canonical (R56). With FP32 output an infinite value stays
infinite under output .sat (DESIGN CHOICE, log entry 18: R60 has no row for f32 to f32). -/
def epilogueElem (env : W32) (bias : Option W32) (c : W32) : List Byte :=
  let y0 := match bias with
    | none => c.toNat
    | some b => (addF f32 0 (decodeF f32 c.toNat) (decodeF f32 b.toNat)).1
  let v := decodeF f32 y0
  let y := if envRelu env && v.neg && !v.isNan then 0 else y0
  valBytes (outSize env) (cvtBits 8 (outType env) 0 (envOutSat env) y).1

def epilogueRow (env : W32) : List W32 → List (Option W32) → List Byte
  | c :: cs, b :: bs => epilogueElem env b c ++ epilogueRow env cs bs
  | _, _ => []

/-- The bias words of a row. -/
def State.biasRow (s : State) (w : Who) (bias : W64) : Got (List (Option W32)) :=
  if bias = 0 then .ok s (List.replicate 128 none)
  else (s.fetchBytes w bias.toNat 512).bind (fun s bs => .ok s ((words32 128 bs).map some))

/-- Write the rows of a tile that are left, then its count word, then, once all are performed, count the bytes; how far it came. -/
def State.epilogue (s : State) (w : Who) (wg tile : Nat) (env : W32) (dest : W64) (pitch : W32) (bias ref : W64) :
    Nat → Nat → State × Nat × Option (Got Unit)
  | 0, row => (s, row, none)
  | fuel + 1, row =>
    let e := (s.wgAt wg).eng
    let at_ := fun (off : Nat) => (dest + BitVec.ofNat 64 off).toNat
    let got : Got Unit :=
      if row < 128 then
        (s.biasRow w bias).bind (fun s b =>
          s.put w (at_ (row * pitch.toNat)) (epilogueRow env (Table.span 0#32 e.elems (16384 * tile + 128 * row) 128) b))
      else if row = 128 then
        s.put w (at_ (127 * pitch.toNat + 128 * outSize env)) (valBytes 4 (Table.get 0#32 e.counts tile).toNat)
      else if s.unperformedBy w.waiter then .wait s else if ref = 0 then .ok s () else s.countBytes w wg ref (16384 * outSize env + 4)
    match got with
    | .ok s1 _ => State.epilogue s1 w wg tile env dest pitch bias ref fuel (row + 1)
    | g => (g.state, row, some g)

/-- ACCEPI_APPLY (R202): the operation at the head takes a free stream of courier 0 and writes its tile; where its workgroup ends
meanwhile, it still completes (R203). -/
def execAccepiApply (wg : Nat) (s : State) : Host.Outcome State Fault Refusal :=
  let g := s.wgAt wg
  match g.eng.ops with
  | .accepi q t env dest pitch bias ref row str :: r =>
    match str.orElse (fun _ => s.freeStream g.core [0, 1, 2, 3]) with
    | none => .next s
    | some n =>
      let s1 := if str.isSome then s else s.bindStream g.core n (Stream.oneShot wg .epilogue)
      if (!s1.engineOn wg && !(str.isSome && decide (g.phase = .done))) || decide ((s1.streamAt g.core n).state ≠ .running) then .next s
      else
        let x := s1.epilogue (s1.streamWho g.core n) wg t env dest pitch bias ref (130 - row) row
        let st := x.1.streamAt g.core n
        let moved := 128 * outSize env * (min x.2.1 128 - min row 128) + (if row ≤ 128 ∧ 128 < x.2.1 then 4 else 0)
        let st1 := { st with bytes := st.bytes + BitVec.ofNat 32 moved }
        let e := (x.1.wgAt wg).eng
        let keep := { e with ops := .accepi q t env dest pitch bias ref x.2.1 (some n) :: r }
        match x.2.2 with
        | none => .next ((x.1.setStream g.core n st1.freed).setEng wg e.retireHead)
        | some (.fault _ d i) => .next ((x.1.setStream g.core n { st1 with state := .parked d i }).setEng wg keep)
        | some (.denied _) => .next (((x.1.setStream g.core n st1).setEng wg keep).streamError g.core n)
        | some _ => .next ((x.1.setStream g.core n st1).setEng wg keep)
  | _ => .next s

end Sys2Proof.Machine
end

