-- ==== Sys2Proof/Machine/Image.lean ====
section
/-! DEFINITION. The context image (R304, R305): the group image of a workgroup as bytes, the register areas, and the
device's accesses to the image pool. -/
namespace Sys2Proof.Machine

/-! ### Pieces of the image

Where R305 leaves fields of a record to the device, their places in it are the model's (log entry 22). -/

/-- A run of little-endian fields at an offset: each a width in bytes and a value. -/
def fieldsAt (o : Nat) (fs : List (Nat × Nat)) : Nat × List Byte := (o, fs.flatMap (fun f => valBytes f.1 f.2))

/-- Bytes that the manual leaves to the device: n from an offset on, drawn from a count. -/
def openRun (draw o n : Nat) : Nat × List Byte := (o, (List.range n).map (fun i => Config.freeByte (draw + o + i)))

/-- A bit as a number. -/
def bit (b : Bool) : Nat := if b then 1 else 0

/-- The units as an image shows them. -/
abbrev Units := Table IUnit

/-- A split-table entry (R127): a unit stands at the first framing word of its instruction (R314). One that waits for something other than
a JOIN or its children shows as ready (DESIGN CHOICE, log entry 22: R127 gives that no code). -/
def splitEntry (t : Units) (k : Nat) : Nat :=
  match Table.find t (8 + k) with
  | none => 0
  | some u =>
    let sl := lowestSlice u.lanes
    let st := match u.park with
      | .parent => 3
      | .join => 2
      | _ => 1
    u.origin.toNat % 2 ^ 57 + 2 ^ 64 * sl + 2 ^ 67 * (u.lanes.toNat / 2 ^ (4 * sl) % 16) + 2 ^ 71 * st + 2 ^ 73 * bit u.root +
    2 ^ 74 * (if u.root then 0 else (u.parent - 8) % 64)

/-- The program counter of a slice: that of its gang; none where it is divided or not live. -/
def slicePc (t : Units) (sl : Nat) : Option W64 :=
  (t.find? (fun x => decide (x.1 < 8) && decide (x.2.lanes &&& sliceLanes sl ≠ 0))).map (fun x => x.2.origin)

/-- The eight program counters at an offset; that of a slice without one is open. -/
def pcRuns (draw o : Nat) (t : Units) : List (Nat × List Byte) :=
  (List.range 8).map (fun sl => match slicePc t sl with
    | some a => fieldsAt (o + 8 * sl) [(8, a.toNat)]
    | none => openRun draw (o + 8 * sl) 8)

/-- What a unit waits for, as a code and its operand. -/
def Park.code : Park → Nat
  | .ready => 0 | .join => 1 | .parent => 2 | .regang m => 3 + 2 ^ 8 * m.toNat | .backEdge => 4 | .bsync => 5 | .wait _ => 6
  | .latch t => 7 + 2 ^ 8 * t | .fault d i => 8 + 2 ^ 8 * (1024 * d + i) | .line r => 9 + 2 ^ 8 * r | .fenceSc _ => 10 | .tileOps _ => 11

/-- GUARD coverage: predicate, sense, instructions left. -/
def coverCode : Option Cover → Nat
  | none => 0
  | some c => c.pred.toNat + 2 ^ 3 * bit c.sense + 2 ^ 4 * c.left

/-- Gang and rendezvous state: for each slice the lanes of the gang it leads, its wait, its coverage. -/
def gangRun (o : Nat) (t : Units) : Nat × List Byte :=
  fieldsAt o ((List.range 8).flatMap (fun sl => match Table.find t sl with
    | some u => [(4, u.lanes.toNat), (3, u.park.code), (1, coverCode u.cover)]
    | none => [(8, 0)]))

/-- Entries of the split table from one on. -/
def splitRun (o : Nat) (t : Units) (first n : Nat) : Nat × List Byte :=
  fieldsAt o ((List.range' first n).map (fun k => (16, splitEntry t k)))

/-- The records of active loops, in order of activation. -/
def loopFields (ls : List LoopRec) : List (Nat × Nat) :=
  (List.range 3).flatMap (fun i => match ls[i]? with
    | some l => [(8, l.start.toNat), (8, l.stop.toNat), (4, l.lanes.toNat), (4, l.ctr + 1)]
    | none => [(24, 0)])

/-- x0 to x3. -/
def indexFields (t : Table (BitVec 16)) : List (Nat × Nat) := (List.range 4).map (fun i => (2, (Table.get 0#16 t i).toNat))

/-- The region record. -/
def regionFields : Option RegionRec → List (Nat × Nat)
  | none => [(8, 0)]
  | some r => [(1, 1), (3, r.unit), (4, r.lanes.toNat)]

/-- The 16-byte header of an uncommitted result. -/
def Pending.header (p : Pending) : List Byte :=
  let scalar := !p.scl.isEmpty
  let first := if scalar then ((p.scl.head?.map (·.1)).getD 0) else ((p.vec.head?.map (·.1)).getD 0)
  let count := if scalar then p.scl.length else p.vec.length
  let pr := match p.pred with
    | some (n, _) => 2 * n.toNat + 16
    | none => 0
  let lanes := match p.pred with
    | some (_, m) => m.toNat
    | none => 0
  valBytes 2 first ++ valBytes 1 (bit scalar) ++ valBytes 1 count ++ valBytes 1 p.left ++ valBytes 1 (1 + pr) ++
  valBytes 2 0 ++ valBytes 4 lanes ++ valBytes 4 0

/-- The value lines of an uncommitted result, at their offsets from its place. -/
def Pending.lines (p : Pending) : List (Nat × List Byte) :=
  if p.scl.isEmpty then (p.vec.mapIdx (fun i v => (128 * i, v.2.flatMap (fun x => valBytes 4 x.toNat))))
  else p.scl.mapIdx (fun i v => (128 * i, valBytes 8 v.2.toNat))

/-! ### Warp records -/

/-- The warp's own registers, loops and gang list, at 0x500 of its record. -/
def Warp.ownFields (w : Warp) : List (Nat × Nat) :=
  [(2, w.wb.toNat), (1, w.part.toNat), (1, w.splext.toNat), (2, w.cshape.toNat), (2, 0)] ++ indexFields w.xregs ++
  (List.range 3).map (fun i => (4, (Table.get 0#32 w.lcs i).toNat)) ++ [(4, w.live.toNat)] ++ loopFields w.loops ++
  [(8, w.rgent.toNat), (4, w.rgcnt.toNat), (4, w.gangList.toNat), (1, bit w.handler)]

/-- A lane's predicates, flags, post sequence number and recursion frame context, at 0x600 of the record: the frame, its level and child
index, the routine with the leaf mark, the RSPLIT count and the RKIDS position (R278). -/
def Warp.laneFields (w : Warp) (L : Nat) : List (Nat × Nat) :=
  [(1, ((List.range' 1 7).map (fun p => 2 ^ p * bit ((Table.get 0#32 w.preds p).getLsbD L))).sum), (1, (Table.get 0#8 w.cflags L).toNat),
   (4, Table.get 0 w.postSeq L)] ++
  (match Table.find w.frames L with
    | some f => [(4, f.frame), (1, f.level), (1, f.child), (1, 1 + 2 * f.routine + 8 * bit f.leaf + 16 * bit f.depth), (1, f.made.length), (1, f.pos), (1, 0)]
    | none => [(10, 0)])

/-- A lane's network version and RCQT post sequence number, at 0x1200 of the record. -/
def Warp.netFields (w : Warp) (L : Nat) : List (Nat × Nat) := [(4, (Table.get 0xFFFFFFFF#32 w.rcver L).toNat), (4, Table.get 0 w.rcqtSeq L)]

/-- The trap frame with the trap's registers, at 0x900 of the record. -/
def Warp.frameRuns (w : Warp) (draw o : Nat) : List (Nat × List Byte) :=
  match w.tframe with
  | none => [openRun draw o 768]
  | some f =>
    pcRuns draw o f.units ++
    [gangRun (o + 0x40) f.units, splitRun (o + 0x80) f.units 0 16,
     fieldsAt (o + 0x180) ([(2, f.wb.toNat), (1, f.part.toNat), (1, coverCode f.after)] ++ indexFields f.xregs ++
       (List.range' 1 7).map (fun p => (4, (Table.get 0#32 f.preds p).toNat)) ++ f.high.map (fun x => (8, x.toNat)) ++ loopFields f.loops ++
       regionFields f.region ++ [(8, w.tpc.toNat), (8, w.tnext.toNat), (8, w.trgent.toNat), (4, w.trgcnt.toNat), (4, w.tmask.toNat),
         (2, w.tunit.toNat), (1, w.tcause.toNat), (1, bit w.tregion), (4, f.unit), (8, w.tinfo.toNat)])]

/-- A warp record at its offset in the image. -/
def Warp.record (w : Warp) (draw : Nat) : List (Nat × List Byte) :=
  let o := w.recordAt
  let far := match w.tframe with
    | some f => if w.units.any (fun x => decide (24 ≤ x.1)) then w.units else f.units
    | none => w.units
  [fieldsAt o ((List.range 112).map (fun i => (8, (w.sreg i).toNat)))] ++ pcRuns draw (o + 0x380) w.units ++
  [gangRun (o + 0x3C0) w.units, splitRun (o + 0x400) w.units 0 16, fieldsAt (o + 0x500) w.ownFields,
   fieldsAt (o + 0x600) ((List.range 32).flatMap w.laneFields), fieldsAt (o + 0x800) (regionFields w.region)] ++
  w.frameRuns draw (o + 0x900) ++
  [splitRun (o + 0xC00) far 16 48, (o + 0xF00, ((w.uncommitted.flatMap Pending.header) ++ List.replicate 256 0).take 256),
   (o + 0x1000, (w.spilled.take 125).flatMap (fun x => valBytes 4 x.toNat)), fieldsAt (o + 0x1200) ((List.range 32).flatMap w.netFields)]

/-- A warp's operand queue and its count, and its uncommitted values. -/
def Warp.queues (w : Warp) : List (Nat × List Byte) :=
  (w.opq.mapIdx (fun i e => (0x50000 + 2048 * w.index + 128 * i, e.flatMap (fun x => valBytes 4 x.toNat)))) ++
  [(0x62000 + 8 * w.index, valBytes 8 w.opq.length)] ++
  ((w.uncommitted.take 16).mapIdx (fun r p => p.lines.map (fun l => (0x180000 + 0x4000 * w.index + 0x400 * r + l.1, l.2)))).flatten

/-! ### Engine and couriers -/

/-- The matrix engine's part. -/
def Engine.image (e : Engine) : List (Nat × List Byte) :=
  (List.range 4).map (fun t => (0x100000 + 0x10000 * t, (Table.span 0#32 e.elems (16384 * t) 16384).flatMap (fun x => valBytes 4 x.toNat))) ++
  (List.range 4).map (fun t => (0x140000 + 16 * t, [e.steps, e.counts, e.envs].flatMap (fun f => valBytes 4 (Table.get 0#32 f t).toNat))) ++
  [(0x150000, e.fifoA), (0x160000, e.fifoBW), (0x16F000, e.fifoBS),
   (0x170000, valBytes 4 e.fifoA.length ++ valBytes 4 e.fifoBW.length ++ valBytes 4 e.fifoBS.length ++ valBytes 4 0)]

/-- A queued tile operation in 64 bytes: kind, tile, then its operands. -/
def TileOp.fields : TileOp → List (Nat × Nat)
  | .mma q t env left => [(1, 1), (1, t), (2, 0), (4, q), (4, env.toNat), (4, left), (48, 0)]
  | .accz q t => [(1, 2), (1, t), (2, 0), (4, q), (56, 0)]
  | .accwr q t es => [(1, 3), (1, t), (2, es.length), (4, q), (56, 0)]
  | .accepi q t env dest pitch bias ref row st =>
    [(1, 4), (1, t), (2, row), (4, q), (4, env.toNat), (4, pitch.toNat), (8, dest.toNat), (8, bias.toNat), (8, ref.toNat),
     (4, (st.map (· + 1)).getD 0), (20, 0)]

/-- The values of a queued ACCWR: one number of an element and its value a lane. -/
def TileOp.values : TileOp → List (Nat × Nat)
  | .accwr _ _ es => es.flatMap (fun x => [(2, x.1), (4, x.2.toNat)])
  | _ => []

/-- An open latch: its gang list, steps, and the warps that have arrived. -/
def Latch.fields (l : Latch) : List (Nat × Nat) :=
  [(4, l.list.toNat), (4, l.steps), (4, (l.arrivals.map (fun a => 2 ^ a.index)).sum), (4, 0)]

/-- An arrival: its warp's index, its unit, its word and its lanes. -/
def Arrival.fields (a : Arrival) : List (Nat × Nat) := [(2, a.index), (2, a.unit), (4, a.word.toNat), (4, (Lanes.of (fun L => a.vals.any (fun v => v.1 = L))).toNat)]

/-- The envelope values of an arrival by lane, 0 where the lane has supplied none. -/
def Arrival.envelopes (a : Arrival) : List (Nat × Nat) :=
  lanes32.map (fun L => (4, ((a.vals.find? (fun v => v.1 = L)).map (fun v => v.2.toNat)).getD 0))

/-- A collecting latch's arrivals, at most five, and what their lanes supplied (R212). -/
def Latch.runs (t : Nat) (l : Latch) : List (Nat × List Byte) :=
  [fieldsAt (0x61E00 + 64 * t) ((l.arrivals.take 5).flatMap Arrival.fields),
   fieldsAt (0x61400 + 640 * t) ((l.arrivals.take 5).flatMap Arrival.envelopes)]

/-- Tile operations, latches with their envelopes, and gang lists, from 0x61000 on, and the values of queued ACCWRs in the header from 0x400
on. -/
def Engine.opRuns (e : Engine) (lists : List W32) : List (Nat × List Byte) :=
  [fieldsAt 0x61000 ((e.ops.take 8).flatMap TileOp.fields),
   fieldsAt 0x61200 ((List.range 4).flatMap (fun t => match Table.find e.latches t with
     | some l => l.fields
     | none => [(16, 0)])),
   fieldsAt 0x61280 (lists.map (fun x => (4, x.toNat)))] ++
  e.latches.flatMap (fun x => x.2.runs x.1) ++ (e.ops.take 8).mapIdx (fun i o => fieldsAt (0x400 + 256 * i) o.values)

/-! ### Rays (R290) -/

/-- A ray in flight in 56 bytes: its descriptor's address, t, n, tag, and the origin, direction and bounds it was started with. -/
def Ray.fields (r : Ray) : List (Nat × Nat) :=
  [(8, r.desc.toNat), (4, r.t.toNat), (4, r.n), (4, r.tag.toNat)] ++ (List.range 8).map (fun i => (4, (r.vals.getD i 0).toNat)) ++ [(4, bit r.held.isSome)]

/-- What the sampling unit holds of a queue. -/
def SampleQ.fields (q : SampleQ) : List (Nat × Nat) := [(4, q.off), (4, q.seq), (4, q.batch), (4, 0)]

/-- The rays of a workgroup, on its core or saved with it, in the group header from 0x1000 on, and its sample queues. -/
def State.rayRuns (s : State) (key : Nat) : List (Nat × List Byte) :=
  let g := s.wgAt key
  let c := s.coreAt g.core
  [fieldsAt 0x1000 (((c.rays.filter (fun x => x.2.wg = key)).map (·.2) ++ g.rays).flatMap Ray.fields),
   fieldsAt 0x63000 ((c.queues.filter (fun q => q.wg = key) ++ g.queues).flatMap SampleQ.fields)]

/-- The state code that CRSTAT reports, and the fault entry of a parked stream. -/
def StreamState.fields : StreamState → List (Nat × Nat)
  | .free => [(4, 0)] | .running => [(4, 1)] | .waiting => [(4, 2)]
  | .parked d i => [(4, 3 + 2 ^ 8 * (1024 * d + i))] | .error => [(4, 5)]

/-- An outstanding job in 48 bytes: kind, operands, position. -/
def Job.fields : Job → List (Nat × Nat)
  | .copy dir dst src n ref done => [(2, 1), (2, dir.toNat), (4, n), (8, dst.toNat), (8, src.toNat), (8, ref.toNat), (8, done), (8, 0)]
  | .halo src so d sp dp rb rows ref row =>
    [(2, 2), (2, 0), (4, src), (4, so), (4, d), (4, sp), (4, dp), (4, rb), (4, rows), (4, row), (8, ref.toNat), (4, 0)]
  | .feed port conv spad src n done => [(2, 3), (2, port.toNat + 4 * conv.toNat + 16 * bit spad), (4, n), (8, src.toNat), (8, done), (24, 0)]
  | .epilogue => [(2, 4), (46, 0)]

/-- A courier stream's record of 512 bytes. -/
def Stream.fields (st : Stream) (consumer : Nat) : List (Nat × Nat) :=
  st.state.fields ++ [(2, bit st.slice), (2, consumer), (8, st.pc.toNat), (4, st.bytes.toNat), (4, st.sat.toNat), (4, st.owed), (4, (st.imm.map (·.toNat + 2 ^ 25)).getD 0)] ++
  (List.range 32).map (fun i => (8, (Table.get 0#64 st.sregs i).toNat)) ++ (List.range 3).map (fun i => (4, (Table.get 0#32 st.lcs i).toNat)) ++ [(4, 0)] ++
  (st.jobs.take 4).flatMap Job.fields

/-- The streams of a workgroup, on its core or saved with it. -/
def State.streamsOf (s : State) (key : Nat) : Table Stream :=
  (s.coreAt (s.wgAt key).core).streams.filter (fun x => decide (x.2.wg = key)) ++ (s.wgAt key).streams

/-- The bytes of the group image (R305). -/
def State.imageRuns (s : State) (key : Nat) : List (Nat × List Byte) :=
  let g := s.wgAt key
  let l := s.launchAt g.launch
  let ws := g.warps.map s.warpAt
  let present := fun k => decide (k < l.lines) && !g.absent.contains k
  let bits := fun i => ((List.range 8).map (fun b => 2 ^ b * bit (present (8 * i + b)))).sum
  [(0, valBytes 8 (1 + 2 ^ 8 * g.nwarps + 2 ^ 16 * bit l.matrix + 2 ^ 17 * bit l.cohort + 2 ^ 32 * (l.seq % 2 ^ 32))), (8, valBytes 8 l.desc.toNat),
   (0x10, valBytes 8 g.wgx.toNat), (0x18, valBytes 4 (g.arrived + 2 ^ 16 * g.bphase.toNat)),
   (0x200, (List.range 512).flatMap (fun i => valBytes 1 (bits i)))] ++
  (s.streamsOf key).map (fun x => fieldsAt (0x60000 + 512 * x.1) (x.2.fields (s.warpAt x.2.warp).index)) ++ g.eng.opRuns (ws.map (·.gangList)) ++
  s.rayRuns key ++
  [(0x80000, Memory.readBytes g.spad 0 (128 * l.lines))] ++
  ws.flatMap (fun w => w.record s.freeCount ++ w.queues) ++ (if l.matrix then g.eng.image else [])

/-! ### Writing and reading it -/

/-- Write the group image of a workgroup; without an image slot there is nothing to write. -/
def State.writeImage (s : State) (key : Nat) : State :=
  let g := s.wgAt key
  let done := fun (s : State) => s.setWg key { s.wgAt key with due := false }
  match g.image with
  | none => done s
  | some i => match s.putAt (s.poolWho g) (s.slotBase g i) (s.imageRuns key) with
    | .ok s1 _ => { done s1 with freeCount := s.freeCount + 0x200000 }
    | _ => s.poolError g

/-- Reach the runs of an image: how many bytes at which offset. -/
def State.touchAt (s : State) (who : Who) (base : Nat) : List (Nat × Nat) → Got Unit
  | [] => .ok s ()
  | (o, n) :: r => (s.reach who accRead [(base + o, n)]).bind (fun s _ => State.touchAt s who base r)

/-- The group image can be read back. What it holds is the workgroup's state: software that writes into it makes the workgroup's
behaviour undefined (R305). -/
def State.imageReads (s : State) (key : Nat) : Got Unit :=
  let g := s.wgAt key
  match g.image with
  | none => .ok s ()
  | some i => s.touchAt (s.poolWho g) (s.slotBase g i) ((s.imageRuns key).map (fun r => (r.1, r.2.length)))

/-- The register areas of a workgroup are brought up to date. -/
def State.writeAreas (s : State) (key : Nat) : State :=
  let g := s.wgAt key
  if g.image.isNone then s
  else match s.putCached false g.warps with
    | .ok s1 _ => s1
    | _ => s.poolError g

/-- A workgroup whose group image is to be written. -/
def State.dueGroup (s : State) : Option Nat := (s.wgs.find? (fun x => x.2.due)).map (·.1)

end Sys2Proof.Machine
end

