-- ==== Sys2Proof/Machine/World.lean ====
section
/-! DEFINITION. The world: tables, handles, posts, collections, compaction and cursors, majors 0x69 to 0x6E (R254 to
R268, R353, R354, R359). -/
namespace Sys2Proof.Machine

/-! ### Tables in memory (R254 to R256) -/

/-- A world's descriptor (R254). -/
structure WorldDesc where
  addr : Nat
  num : Nat
  quar : Nat
  strict : Bool
  coll : Nat
  types : Nat
  ntypes : Nat
  bundles : Nat
  nbundles : Nat
  slots : Nat
  cap : Nat
  free : Nat
  head : Nat
  tail : Nat
  outbox : Nat
  outCap : Nat
  posted : Nat
  log : Nat
  logCap : Nat
  written : Nat
  cursors : Nat
  cbar : W64

/-- A reference that names a global barrier object, or none. -/
def globalRef (r : W64) : Bool := decide (r = 0) || (!refBad r && !refSpad r)

/-- The descriptor breaks R254, or the world has failed (R359). -/
def descBad (a w : Nat) (v : List Nat) : Bool :=
  let f := fun i => v.getD i 0
  decide (a % 4096 ≠ 0) || decide (f 0 % 256 ≠ w) || decide (f 0 / 2 ^ 13 ≠ 0) || decide (f 1 / 2 ^ 32 ≠ 0) ||
  decide (f 2 % 64 ≠ 0) || decide (f 3 = 0) || decide (1024 < f 3) || decide (f 4 % 64 ≠ 0) || decide (f 5 = 0) ||
  decide (65536 < f 5) || decide (f 6 % 128 ≠ 0) || decide (f 7 = 0) || decide (2 ^ 32 < f 7) || decide (f 11 % 32 ≠ 0) ||
  decide (f 13 % 32 ≠ 0) || decide (f 14 = 0) || decide (f 14 / 2 ^ 32 ≠ 0) || decide (f 16 % 512 ≠ 0) ||
  !globalRef (BitVec.ofNat 64 (f 17)) || (v.drop 18).any (fun x => decide (x ≠ 0))

def descOf (a w : Nat) (v : List Nat) : WorldDesc :=
  let f := fun i => v.getD i 0
  { addr := a, num := w, quar := f 0 / 256 % 16, strict := decide (f 0 / 4096 % 2 = 1), coll := f 1 % 2 ^ 32, types := f 2,
    ntypes := f 3, bundles := f 4, nbundles := f 5, slots := f 6, cap := f 7, free := f 8, head := f 9, tail := f 10,
    outbox := f 11, outCap := f 12 % 2 ^ 32, posted := f 12 / 2 ^ 32, log := f 13, logCap := f 14, written := f 15, cursors := f 16,
    cbar := BitVec.ofNat 64 (f 17) }

/-- What a world number names. -/
inductive Named where
  | undefined
  | broken
  | world (d : WorldDesc)

/-- Read the descriptor of world w of a context. -/
def State.worldDesc (s : State) (who : Who) (w : Nat) : Got Named :=
  (s.readVal who ((s.ctxAt who.asid).worlds.toNat + 8 * w) 8).bind (fun s a =>
    if a = 0 then .ok s .undefined
    else (s.partBytes who a 4096).bind (fun s bs =>
      let v := (words64 512 bs).map BitVec.toNat
      .ok s (if descBad a w v then .broken else .world (descOf a w v))))

/-- A bundle table entry (R255). -/
structure Bundle where
  num : Nat
  addr : Nat
  set : Nat
  cols : Nat
  slotCol : Nat
  count : Nat
  cap : Nat
  live : Nat

def State.bundleAt (s : State) (who : Who) (d : WorldDesc) (b : Nat) : Got Bundle :=
  let a := d.bundles + 64 * b
  (s.partBytes who a 40).bind (fun s bs =>
    let v := (words64 5 bs).map BitVec.toNat
    (s.readVal who (v.getD 0 0) 128).bind (fun s set =>
      .ok s { num := b, addr := a, set := set, cols := v.getD 1 0, slotCol := v.getD 2 0, count := v.getD 3 0 % 2 ^ 32,
              cap := v.getD 3 0 / 2 ^ 32, live := v.getD 4 0 % 2 ^ 32 }))

/-- Write a bundle's row count and live rows. -/
def State.putCounts (s : State) (who : Who) (b : Bundle) (count live : Nat) : Got Bundle :=
  (s.writeVal who (b.addr + 24) 4 count).bind (fun s _ =>
    (s.writeVal who (b.addr + 32) 4 live).bind (fun s _ => .ok s { b with count := count, live := live }))

/-- A slot-map entry (R256). -/
structure Slot where
  mark : Nat
  state : Nat
  bundle : Nat
  row : Nat
  num : Nat
  deriving DecidableEq

def slotOf (v : Nat) : Slot :=
  { mark := v % 2 ^ 24, state := v / 2 ^ 24 % 256, bundle := v / 2 ^ 32 % 2 ^ 16, row := v / 2 ^ 48 % 2 ^ 32, num := v / 2 ^ 80 % 2 ^ 32 }
def Slot.toNat (e : Slot) : Nat :=
  e.mark + 2 ^ 24 * e.state + 2 ^ 32 * e.bundle + 2 ^ 48 * e.row + 2 ^ 80 * (e.num % 2 ^ 32)

/-- The sorting offices serve slot n by the office of die n mod 4 (R8, R256); other agents read the map themselves. -/
def Who.forSlot (w : Who) (n : Nat) : Who := if w.unit = 6 then { w with die := n % 4 } else w

def State.slotAt (s : State) (who : Who) (d : WorldDesc) (n : Nat) : Got Slot :=
  (s.readVal (who.forSlot n) (d.slots + 16 * n) 16).bind (fun s v => .ok s (slotOf v))
def State.putSlot (s : State) (who : Who) (d : WorldDesc) (n : Nat) (e : Slot) : Got Unit :=
  s.writeVal (who.forSlot n) (d.slots + 16 * n) 16 e.toNat

/-- Fields of a handle (R256). -/
def handleWorld (h : Nat) : Nat := h / 2 ^ 56
def handleMark (h : Nat) : Nat := h / 2 ^ 32 % 2 ^ 24
def handleSlot (h : Nat) : Nat := h % 2 ^ 32

/-- The entry of a handle's slot, if the handle is current in a world. -/
def State.currentSlot (s : State) (who : Who) (d : WorldDesc) (h : Nat) : Got (Option Slot) :=
  if d.cap ≤ handleSlot h then .ok s none
  else (s.slotAt who d (handleSlot h)).bind (fun s e =>
    .ok s (if e.state = 1 ∧ e.mark = handleMark h then some e else none))

/-- Row r of a bundle is a tombstone (R255); its slot-column entry otherwise. -/
def State.rowSlot (s : State) (who : Who) (d : WorldDesc) (b : Bundle) (r : Nat) : Got (Option Nat) :=
  (s.readVal who (b.slotCol + 4 * r) 4).bind (fun s v =>
    if v ≠ 0xFFFFFFFF then .ok s (some v)
    else if d.cap ≤ 0xFFFFFFFF then .ok s none
    else (s.slotAt who d v).bind (fun s e =>
      .ok s (if e.state = 1 ∧ e.bundle = b.num ∧ e.row = r then some v else none)))

/-- Size of a component type, and the base of its column, 0 where it is absent. -/
def State.typeSize (s : State) (who : Who) (d : WorldDesc) (t : Nat) : Got Nat :=
  (s.readVal who (d.types + 8 * t) 8).bind (fun s v => .ok s (v % 512))
def State.columnBase (s : State) (who : Who) (b : Bundle) (t : Nat) : Got Nat := s.readVal who (b.cols + 8 * t) 8

/-- Types in a set, in ascending order. -/
def typesOf (set n : Nat) : List Nat := (List.range n).filter (fun t => set.testBit t)

/-! ### Instructions: shared checks -/

/-- An instruction that names a world: it must be defined, sound and not failed (R254, R359). -/
def State.inWorld {α : Type} (s : State) (w : Nat) (k : State → WorldDesc → Got (Ans α)) : Got (Ans α) :=
  (s.worldDesc s.who w).bind (fun s d => match d with
    | .world d => k s d
    | _ => .ok s (.trap .illegalOp s.ir.toNat))

/-! ### WLOOK, WCOL, WDEAD (R257, R263, R264) -/

/-- One lane's look-up: the pair it writes, or a trap. -/
def State.look (s : State) (L h : Nat) : Got (Ans (W64 × Bool)) :=
  let out := fun (code bundle row : Nat) =>
    BitVec.ofNat 64 (code * 2 ^ 24 + handleWorld h * 2 ^ 16 + bundle + row * 2 ^ 32)
  if h = 0 then .ok s (.val (out 2 0 0, false))
  else (s.worldDesc s.who (handleWorld h)).bind (fun s d => match d with
    | .undefined => .ok s (.val (out 3 0 0, false))
    | .broken => .ok s (.trap .illegalOp s.ir.toNat)
    | .world d => (s.currentSlot s.who d h).bind (fun s e => match e with
      | some e => .ok s (.val (out 0 e.bundle e.row, true))
      | none => .ok s (if d.strict then .trap .stale L else .val (out 1 0 0, false))))

/-- The look-ups of lanes; the first trap ends them. -/
def State.looks (s : State) (f : Nat → Nat) : List Nat → Got (Ans (List (Nat × W64 × Bool)))
  | [] => .ok s (.val [])
  | L :: Ls => (s.look L (f L)).bind (fun s a => match a with
    | .trap t i => .ok s (.trap t i)
    | .val v => (State.looks s f Ls).bind (fun s r => match r with
      | .trap t i => .ok s (.trap t i)
      | .val vs => .ok s (.val ((L, v) :: vs))))

/-- WLOOK (R257). -/
def execWlook (l : BitVec 4) (p : BitVec 3) (b a : BitVec 7) (s : State) :=
  let ops := [vd .a a 2, vbase .b b]
  s.issue acceptGX ops false (fun s =>
    if s.full then .wait s
    else ((s.looks (fun L => (s.valueAt intConsts ops .b L).toNat) (Lanes.list s.act)).atomic s s.who.waiter).eff
      (fun s r => match r with
        | .trap t i => .trap t i
        | .val vs =>
          let e := s.regAt ops .a
          let v := fun L => laneEntryOr vs L
          let pend := Pending.of s.act
            [(e, allLanes (fun L => (v L).1.setWidth 32)), (e + 1, allLanes (fun L => ((v L).1 >>> 32).setWidth 32))] []
          s.pushResult l { pend with pred := some (p, Lanes.of (fun L => (v L).2)) }))
where
  laneEntryOr (vs : List (Nat × W64 × Bool)) (L : Nat) : W64 × Bool := laneEntry (0, false) vs L

/-- World and bundle of a bundle reference (R255). -/
def refWorld (r : W64) : Nat := r.toNat / 2 ^ 16 % 256
def refBundle (r : W64) : Nat := r.toNat % 2 ^ 16

/-- WCOL (R264). -/
def execWcol (l : BitVec 4) (c b a : BitVec 7) (s : State) :=
  let ops := [sd .a a, ss .b b]
  let t := (s.imm32 c).toNat
  s.slong acceptAll ops false l (fun s =>
    let r := s.valueAt intConsts ops .b 0
    let zero : State → Got (Ans (List W64)) := fun s => .ok s (.val [0])
    (s.worldDesc s.who (refWorld r)).bind (fun s d => match d with
      | .undefined => zero s
      | .broken => .ok s (.trap .illegalOp s.ir.toNat)
      | .world d =>
        if d.nbundles ≤ refBundle r ∨ d.ntypes ≤ t then zero s
        else (s.readVal s.who (d.bundles + 64 * refBundle r + 8) 8).bind (fun s cols =>
          (s.readVal s.who (cols + 8 * t) 8).bind (fun s v => .ok s (.val [BitVec.ofNat 64 v])))))

/-- WDEAD (R263). -/
def execWdead (l : BitVec 4) (b a : BitVec 7) (s : State) :=
  let ops := [sblock .a a 2, ss .b b]
  s.slong acceptGX ops false l (fun s =>
    let w := (s.valueAt intConsts ops .b 0).toNat
    if 256 ≤ w then .ok s (.trap .illegalOp s.ir.toNat)
    else s.inWorld w (fun s d => .ok s (.val [BitVec.ofNat 64 d.written, BitVec.ofNat 64 d.coll])))

/-! ### The dead-letter log (R263) -/

def kindCode : PostKind → Nat
  | .wnew => 0 | .wdel => 1 | .wadd => 2 | .wrem => 3

/-- The words of an entry. -/
def logEntry (number : Nat) (p : Post) (reason : Nat) : Nat :=
  (reason + 2 ^ 8 * kindCode p.kind + 2 ^ 16 * p.rank + 2 ^ 32 * number) +
  2 ^ 64 * p.target.toNat + 2 ^ 128 * p.index + 2 ^ 192 * (p.seq % 2 ^ 32 + 2 ^ 32 * (p.typ.toNat % 2 ^ 16))

/-- Append an entry to the log; the descriptor with its count. -/
def State.deadLetter (s : State) (who : Who) (d : WorldDesc) (number : Nat) (p : Post) (reason : Nat) : Got WorldDesc :=
  (s.writeVal who (d.log + 32 * (d.written % d.logCap)) 32 (logEntry number p reason)).bind (fun s _ =>
    (s.writeVal who (d.addr + 0x78) 8 (d.written + 1)).bind (fun s _ => .ok s { d with written := d.written + 1 }))

/-! ### Posting (R258) -/

/-- The bytes of an outbox entry: the form is the sorting offices' own (R356), so they are free bytes; the entry's contents are
held in WorldState.posts. -/
def State.outboxBytes (s : State) : State × List Byte :=
  ({ s with freeCount := s.freeCount + 32 }, (List.range 32).map (fun i => Config.freeByte (s.freeCount + i)))

/-- A post takes the next outbox entry; entries at and beyond the count, as a world set up afresh has them, hold nothing. -/
def State.takeEntry (s : State) (asid : Nat) (d : WorldDesc) (p : Post) : Got Unit :=
  let r := s.outboxBytes
  (r.1.put s.who (d.outbox + 32 * d.posted) r.2).bind (fun s _ =>
    (s.writeVal s.who (d.addr + 0x64) 4 (d.posted + 1)).bind (fun s _ =>
      let w := s.worldAt asid d.num
      .ok (s.setWorld asid d.num { w with posts := w.posts.take d.posted ++ [p] }) ()))

/-- Post the changes of lanes in ascending order: into the outbox, or to the log where it is full. -/
def State.postAll (s : State) (asid : Nat) (d : WorldDesc) : List Post → Got Unit
  | [] => .ok s ()
  | p :: ps =>
    if d.outCap ≤ d.posted then
      (s.deadLetter s.who d d.coll p 6).bind (fun s d => State.postAll s asid d ps)
    else (s.takeEntry asid d p).bind (fun s _ => State.postAll s asid { d with posted := d.posted + 1 } ps)

/-- The office of a die denies this master (R178). -/
def State.officeDenies (s : State) (w : Who) (die : Nat) : Bool := s.tableDenies (16 + die % 4) w.master accWrite

/-- The office that takes a post: that of its slot's die (R8), for WNEW that of the poster's. -/
def Post.office (p : Post) (die : Nat) : Nat := if p.kind = .wnew then die else handleSlot p.target.toNat % 4

/-- Add one to the post sequence number of every lane of a set. -/
def bumpSeq (t : Table Nat) : List Nat → Table Nat
  | [] => t
  | L :: Ls => bumpSeq (Table.set t L (Table.get 0 t L + 1)) Ls

/-- The prefixes of a posting instruction: IMM only where it has a c operand (R22, R33). -/
def postAccept (ops : List Opnd) : Accept := if (opAt ops .c).isSome then acceptAll else acceptGX

/-- A posting instruction: which lanes' address must be aligned, and the post of a lane. -/
def State.posting (s : State) (ops : List Opnd) (kind : PostKind) : Host.Outcome State Fault Refusal :=
  s.issue (postAccept ops) ops (decide (s.launch.kind ≠ .query) || s.g.parcel.isSome) (fun s =>
    let b := fun L => s.valueAt intConsts ops .b L
    let c := fun L => s.valueAt intConsts ops .c L
    match (Lanes.list s.act).find? (fun L => (opAt ops .c).isSome && decide ((c L).toNat % 8 ≠ 0)) with
    | some L => .trap .misalign L
    | none =>
      let post := fun L : Nat =>
        ({ rank := s.launch.rank, launch := s.launch.seq, index := s.g.wgx.toNat * 32 * s.g.nwarps + 32 * s.w.index + L,
           seq := Table.get 0 s.w.postSeq L, kind := kind, target := b L,
           typ := (s.valueAt intConsts ops .a L).setWidth 32, addr := c L } : Post)
      let ps := (Lanes.list s.act).map post
      ((s.inWorld s.launch.world (fun s d =>
        if ps.any (fun p => s.officeDenies s.who (p.office s.who.die)) then .denied s
        else (s.postAll s.g.asid d ps).bind (fun s _ => .ok s (.val ())))).atomic s s.who.waiter).eff
        (fun s r => match r with
          | .trap t i => .trap t i
          | .val _ => .done (s.setW { s.w with postSeq := bumpSeq s.w.postSeq (Lanes.list s.act) })))

/-- b or c of a posting instruction: registers, or s0 to s7. -/
def postReg (p : Pos) (f : BitVec 7) (n : Nat) : Opnd := ⟨p, f.toNat, false, n, n, 120⟩

def execWnew (c b : BitVec 7) (s : State) := s.posting [postReg .b b 1, postReg .c c 2] .wnew
def execWdel (b : BitVec 7) (s : State) := s.posting [postReg .b b 2] .wdel
def execWadd (c b a : BitVec 7) (s : State) :=
  s.posting [vs .a a 1, postReg .b b 2, postReg .c c 2] .wadd
def execWrem (b a : BitVec 7) (s : State) := s.posting [vs .a a 1, postReg .b b 2] .wrem

/-! ### Requesting a collection (R260) -/

/-- Request a collection of a world; the number it will produce. -/
def State.requestCollection (s : State) (asid : Nat) (d : WorldDesc) (ref : W64) : State × Nat :=
  let w := s.worldAt asid d.num
  (s.setWorld asid d.num { w with requests := w.requests ++ [ref], requested := w.requested + 1 }, d.coll + w.requests.length + 1)

/-- WCOLL (R260). -/
def execWcoll (c b a : BitVec 7) (s : State) :=
  let ops := [sd .a a, ss .b b, ss .c c]
  s.sact acceptAll ops false (fun s =>
    let w := (s.valueAt intConsts ops .b 0).toNat
    if 256 ≤ w ∨ globalRef (s.valueAt intConsts ops .c 0) = false ∨ (s.launch.kind = .query ∧ s.launch.world = w) then
      .ok s (.trap .illegalOp s.ir.toNat)
    else s.inWorld w (fun s d => if s.officeDenies s.who s.who.die then .denied s else .ok s (.val d)))
    (fun s d =>
      let r := s.requestCollection s.g.asid d (s.valueAt intConsts ops .c 0)
      .done (r.1.setSreg (s.regAt ops .a) (BitVec.ofNat 64 r.2)))

/-! ### Cursors (R266, R267) -/

/-- A cursor record. -/
structure Cursor where
  addr : Nat
  open_ : Bool
  opened : Nat
  query : Nat
  next : Nat
  bundle : Nat
  fwd : Bool
  done : Bool
  rows : Nat
  list : List Nat

def State.cursorAt (s : State) (who : Who) (d : WorldDesc) (k : Nat) : Got Cursor :=
  let a := d.cursors + 512 * k
  (s.partBytes who a 0x140).bind (fun s bs =>
    let v := (words64 4 bs).map BitVec.toNat
    let n := min (v.getD 3 0 / 2 ^ 32 % 128) 64
    .ok s { addr := a, open_ := decide (v.getD 0 0 % 2 = 1), opened := v.getD 0 0 / 2 ^ 32, query := v.getD 1 0,
            next := v.getD 2 0 % 2 ^ 32, bundle := v.getD 2 0 / 2 ^ 32 % 2 ^ 16, fwd := decide (v.getD 2 0 / 2 ^ 48 % 2 = 1),
            done := decide (v.getD 2 0 / 2 ^ 49 % 2 = 1), rows := v.getD 3 0 % 2 ^ 32,
            list := ((words32 64 (bs.drop 0x40)).map BitVec.toNat).take n })

/-- The bytes of a cursor's record. -/
def Cursor.bytes (c : Cursor) : List Byte :=
  valBytes 8 (c.open_.toNat + 2 ^ 32 * c.opened) ++ valBytes 8 c.query ++
  valBytes 8 (c.next % 2 ^ 32 + 2 ^ 32 * c.bundle + 2 ^ 48 * c.fwd.toNat + 2 ^ 49 * c.done.toNat) ++
  valBytes 8 (c.rows + 2 ^ 32 * c.list.length) ++ List.replicate 32 0 ++
  (c.list ++ List.replicate (64 - c.list.length) 0).flatMap (valBytes 4)

def State.putCursor (s : State) (who : Who) (c : Cursor) : Got Unit := s.put who c.addr c.bytes

/-- The lowest closed cursor of those from k on. -/
def State.closedCursor (s : State) (who : Who) (d : WorldDesc) : List Nat → Got (Option (Nat × Cursor))
  | [] => .ok s none
  | k :: ks => (s.cursorAt who d k).bind (fun s c => if c.open_ then State.closedCursor s who d ks else .ok s (some (k, c)))

/-- A query descriptor (R266): world, rank and its four masks. -/
structure Query where
  world : Nat
  rank : Nat
  req : Nat
  excl : Nat
  read : Nat
  write : Nat

def State.queryAt (s : State) (who : Who) (a : Nat) : Got (Option Query) :=
  if a % 64 ≠ 0 then .ok s none
  else (s.partBytes who a 576).bind (fun s bs =>
    let v := bytesVal (bs.take 64)
    let mask := fun i => bytesVal ((bs.drop (64 + 128 * i)).take 128)
    .ok s (if v % 256 + v / 2 ^ 16 % 2 ^ 16 * 2 ^ 16 ≠ v then none
      else some { world := v % 256, rank := v / 2 ^ 16 % 2 ^ 16, req := mask 0, excl := mask 1, read := mask 2, write := mask 3 }))

/-- A bundle's set matches a query. -/
def Query.takes (q : Query) (set : Nat) : Bool := decide (set &&& q.req = q.req) && decide (set &&& q.excl = 0)

/-- Row r is deliverable to a cursor (R267). -/
def State.deliverable (s : State) (who : Who) (d : WorldDesc) (b : Bundle) (opened r : Nat) : Got Bool :=
  (s.rowSlot who d b r).bind (fun s o => match o with
    | none => .ok s false
    | some n => (s.slotAt who d n).bind (fun s e => .ok s (decide (e.num ≤ opened))))

/-- The first deliverable row from r on, among n rows. -/
def State.firstRow (s : State) (who : Who) (d : WorldDesc) (b : Bundle) (opened : Nat) : Nat → Nat → Got (Option Nat)
  | 0, _ => .ok s none
  | n + 1, r => (s.deliverable who d b opened r).bind (fun s y =>
    if y then .ok s (some r) else State.firstRow s who d b opened n (r + 1))

/-- Rows from r on while deliverable, at most n. -/
def State.countRows (s : State) (who : Who) (d : WorldDesc) (b : Bundle) (opened : Nat) : Nat → Nat → Got Nat
  | 0, _ => .ok s 0
  | n + 1, r => (s.deliverable who d b opened r).bind (fun s y =>
    if y then (State.countRows s who d b opened n (r + 1)).bind (fun s k => .ok s (k + 1)) else .ok s 0)

/-- Take rows off a forwarding list until one is deliverable. -/
def State.forwarded (s : State) (who : Who) (d : WorldDesc) (b : Bundle) (opened : Nat) : List Nat → Got (Option Nat × List Nat)
  | [] => .ok s (none, [])
  | h :: hs =>
    if b.count ≤ h then State.forwarded s who d b opened hs
    else (s.deliverable who d b opened h).bind (fun s y =>
      if y then .ok s (some h, hs) else State.forwarded s who d b opened hs)

/-- The cursor goes on to the next bundle. -/
def Cursor.advance (c : Cursor) (d : WorldDesc) : Cursor :=
  if c.bundle + 1 < d.nbundles then { c with bundle := c.bundle + 1, next := 0, fwd := false }
  else { c with next := 0, fwd := false, done := true }

/-- One WNEXT step (R267), through at most n bundles: the range it returns. -/
def State.nextRange (s : State) (who : Who) (d : WorldDesc) (q : Query) : Nat → Cursor → Got (Cursor × Option (Nat × Nat × Nat))
  | 0, c => .ok s (c, none)
  | n + 1, c =>
    if c.done then .ok s (c, none)
    else (s.bundleAt who d c.bundle).bind (fun s b =>
      if !q.takes b.set then State.nextRange s who d q n (c.advance d)
      else
        let ahead := if c.fwd then .ok s none else s.firstRow who d b c.opened (b.count - c.next) c.next
        ahead.bind (fun s r => match r with
          | some r => (s.countRows who d b c.opened (min c.rows (b.count - r)) r).bind (fun s k =>
            .ok s ({ c with next := r + k }, some (c.bundle, r, k)))
          | none => (s.forwarded who d b c.opened c.list).bind (fun s f => match f.1 with
            | some h => .ok s ({ c with fwd := true, list := f.2 }, some (c.bundle, h, 1))
            | none => State.nextRange s who d q n ({ c with fwd := true, list := [] }.advance d))))

/-- A cursor reference: world and number (R266). -/
def cursorRef (w k : Nat) : W64 := BitVec.ofNat 64 (16 * w + k)

/-- The lowest closed cursor of a query's world, opened; its record is not written yet. -/
def State.openCursor (s : State) (who : Who) (q rows : Nat) : Got (Option (Option (WorldDesc × Query × Nat × Cursor))) :=
  (s.queryAt who q).bind (fun s x => match x with
    | none => .ok s none
    | some x => (s.worldDesc who x.world).bind (fun s d => match d with
      | .world d => (s.closedCursor who d (List.range 16)).bind (fun s k => match k with
        | none => .ok s (some none)
        | some (k, c) =>
          let c1 := { c with open_ := true, opened := d.coll, query := q, next := 0, bundle := 0, fwd := false, done := false,
                             rows := rows, list := [] }
          .ok s (some (some (d, x, k, c1))))
      | _ => .ok s none))

/-- Rows per range of WOPEN. -/
def State.openRows (s : State) (c : BitVec 7) : Nat :=
  if s.u.frame.imm.isSome then (s.imm32 c).toNat else if c = 0 then 256 else c.toNat

/-- WOPEN (R267). -/
def execWopen (l : BitVec 4) (c b a : BitVec 7) (s : State) :=
  let ops := [sd .a a, ss .b b]
  let rows := s.openRows c
  s.slong acceptAll ops (decide (rows = 0) || decide (65536 < rows)) l (fun s =>
    (s.openCursor s.who (s.valueAt intConsts ops .b 0).toNat rows).bind (fun s r => match r with
      | none => .ok s (.trap .illegalOp s.ir.toNat)
      | some none => .ok s (.val [BitVec.allOnes 64])
      | some (some (d, _, k, c)) => (s.putCursor s.who c).bind (fun s _ => .ok s (.val [cursorRef d.num k]))))

/-- The world and cursor of a reference, for an instruction. -/
def State.inCursor {α : Type} (s : State) (r : W64) (k : State → WorldDesc → Cursor → Got (Ans α)) : Got (Ans α) :=
  if 2 ^ 12 ≤ r.toNat then .ok s (.trap .illegalOp s.ir.toNat)
  else s.inWorld (r.toNat / 16) (fun s d => (s.cursorAt s.who d (r.toNat % 16)).bind (fun s c => k s d c))

/-- WNEXT (R267). -/
def execWnext (l : BitVec 4) (b a : BitVec 7) (s : State) :=
  let ops := [sblock .a a 3, ss .b b]
  s.slong acceptGX ops false l (fun s =>
    s.inCursor (s.valueAt intConsts ops .b 0) (fun s d c =>
      if !c.open_ then .ok s (.trap .illegalOp s.ir.toNat)
      else (s.queryAt s.who c.query).bind (fun s q => match q with
        | none => .ok s (.trap .illegalOp s.ir.toNat)
        | some q => (s.nextRange s.who d q (d.nbundles + 1) c).bind (fun s r =>
          (s.putCursor s.who r.1).bind (fun s _ => .ok s (.val (match r.2 with
            | none => [0, 0, 0]
            | some (b, row, n) => [BitVec.ofNat 64 (d.num * 2 ^ 16 + b), BitVec.ofNat 64 row, BitVec.ofNat 64 n])))))))

/-- WCLOSE (R267): it has no effect on a closed cursor. -/
def execWclose (b : BitVec 7) (s : State) :=
  let ops := [ss .b b]
  s.sact acceptGX ops false (fun s =>
    s.inCursor (s.valueAt intConsts ops .b 0) (fun s _ c =>
      if !c.open_ then .ok s (.val ())
      else (s.putCursor s.who { c with open_ := false, list := [] }).bind (fun s _ => .ok s (.val ()))))
    (fun s _ => .done s)

/-! ### Runs and phases (R259) -/

/-- Collections of a world that have ended. -/
def WorldState.ended (w : WorldState) : Nat := w.requested - w.requests.length

/-- The run is one of a world, and has not ended. -/
def Launch.runOf (l : Launch) (asid w : Nat) : Bool :=
  decide (l.asid = asid) && decide (l.kind = .query) && decide (l.world = w) && decide (l.phase ≠ .ended) && decide (l.phase ≠ .submitted)

/-- The launch has completed a run, and its prologue has not started the next. -/
def Launch.between (l : Launch) : Bool := decide (l.phase = .prologue) && l.repeats

/-- A run belongs to a phase that a collection about to begin closes. -/
def State.phaseBusy (s : State) (asid w : Nat) : Bool :=
  s.launches.any (fun x => x.2.runOf asid w && !x.2.between && decide (x.2.worldPhase ≤ (s.worldAt asid w).ended))

/-! ### Sorting offices: collections (R260, R261) -/

/-- A sorting office (R8) for a world. -/
def officeWho (asid world die : Nat) : Who := engineWho asid (die % 4) 6 0 0 (.office asid world)

/-- Slot key of a post. -/
def Post.key (p : Post) : Nat := if p.kind = .wnew then 2 ^ 32 else handleSlot p.target.toNat

/-- A post stands before another in sorted order. -/
def Post.before (p q : Post) : Bool :=
  let k := fun (x : Post) => [x.rank, x.key, x.index, x.seq, x.launch]
  go (k p) (k q)
where
  go : List Nat → List Nat → Bool
    | a :: as, b :: bs => if a = b then go as bs else decide (a < b)
    | _, _ => false

/-- Put a post into a sorted list, after those that do not stand behind it. -/
def insertPost (p : Post) : List Post → List Post
  | [] => [p]
  | q :: qs => if p.before q then p :: q :: qs else q :: insertPost p qs

def sortPosts (ps : List Post) : List Post := ps.foldl (fun acc p => insertPost p acc) []

/-- Copy component values between two places. -/
def State.copyTypes (s : State) (who : Who) (d : WorldDesc) (src dst : Bundle) (rs rd : Nat) : List Nat → Got Unit
  | [] => .ok s ()
  | t :: ts => (s.typeSize who d t).bind (fun s n => (s.columnBase who src t).bind (fun s a =>
    (s.columnBase who dst t).bind (fun s b => (s.partBytes who (a + rs * n) n).bind (fun s bs =>
      (s.put who (b + rd * n) bs).bind (fun s _ => State.copyTypes s who d src dst rs rd ts)))))

/-- Copy component values from a staging record. -/
def State.fromStaging (s : State) (who : Who) (d : WorldDesc) (dst : Bundle) (row : Nat) : Nat → List Nat → Got Unit
  | _, [] => .ok s ()
  | a, t :: ts => (s.typeSize who d t).bind (fun s n => (s.columnBase who dst t).bind (fun s b =>
    (s.partBytes who a n).bind (fun s bs => (s.put who (b + row * n) bs).bind (fun s _ =>
      State.fromStaging s who d dst row (a + n) ts))))

/-- The bundle whose set equals a set, among those from b on. -/
def State.bundleOf (s : State) (who : Who) (d : WorldDesc) (set : Nat) : Nat → Nat → Got (Option Bundle)
  | 0, _ => .ok s none
  | n + 1, b => (s.bundleAt who d b).bind (fun s x => if x.set = set then .ok s (some x) else State.bundleOf s who d set n (b + 1))

/-- What a collection carries from change to change: the descriptor and the handles deleted so far. -/
structure Collecting where
  desc : WorldDesc
  gone : List Nat

/-- A change is rejected. -/
def State.reject (s : State) (who : Who) (x : Collecting) (p : Post) (reason : Nat) : Got Collecting :=
  (s.deadLetter who x.desc (x.desc.coll + 1) p reason).bind (fun s d => .ok s { x with desc := d })

/-- WNEW as a change (R261). -/
def State.applyNew (s : State) (who : Who) (x : Collecting) (p : Post) : Got Collecting :=
  let d := x.desc
  if refWorld p.target ≠ d.num then s.reject who x p 7
  else if d.nbundles ≤ refBundle p.target then s.reject who x p 4
  else if d.tail = d.head then s.reject who x p 3
  else (s.bundleAt who d (refBundle p.target)).bind (fun s b =>
    if b.count = b.cap then s.reject who x p 5
    else (s.readVal who (d.free + 4 * (d.head % d.cap)) 4).bind (fun s n =>
      let who := who.forSlot n
      (s.writeVal who (d.addr + 0x48) 8 (d.head + 1)).bind (fun s _ =>
        (s.slotAt who d n).bind (fun s e =>
          (s.writeVal who p.addr.toNat 8 (d.num * 2 ^ 56 + e.mark * 2 ^ 32 + n)).bind (fun s _ =>
            (s.fromStaging who d b b.count (p.addr.toNat + 8) (typesOf b.set d.ntypes)).bind (fun s _ =>
              (s.writeVal who (b.slotCol + 4 * b.count) 4 n).bind (fun s _ =>
                (s.putSlot who d n { e with state := 1, bundle := b.num, row := b.count, num := d.coll + 1 }).bind (fun s _ =>
                  (s.putCounts who b (b.count + 1) (b.live + 1)).bind (fun s _ =>
                    .ok s { x with desc := { d with head := d.head + 1 } })))))))))

/-- Delete a current entity. -/
def State.applyDel (s : State) (who : Who) (x : Collecting) (p : Post) (e : Slot) : Got Collecting :=
  let d := x.desc
  let h := p.target.toNat
  (s.bundleAt who d e.bundle).bind (fun s b =>
    (s.writeVal who (b.slotCol + 4 * e.row) 4 0xFFFFFFFF).bind (fun s _ =>
      (s.putCounts who b b.count (b.live - 1)).bind (fun s _ =>
        let e1 := if e.mark = 0xFFFFFF then { e with state := 3 } else { e with mark := e.mark + 1, state := 2, num := d.coll + 1 }
        (s.putSlot who d (handleSlot h) e1).bind (fun s _ => .ok s { x with gone := h :: x.gone }))))

/-- Move an entity to another bundle; the row it takes there (R261). -/
def State.moveEntity (s : State) (who : Who) (x : Collecting) (slot : Nat) (e : Slot) (src dst : Bundle) : Got Nat :=
  let d := x.desc
  (s.copyTypes who d src dst e.row dst.count (typesOf (src.set &&& dst.set) d.ntypes)).bind (fun s _ =>
    (s.writeVal who (dst.slotCol + 4 * dst.count) 4 slot).bind (fun s _ =>
      (s.writeVal who (src.slotCol + 4 * e.row) 4 0xFFFFFFFF).bind (fun s _ =>
        (s.putCounts who src src.count (src.live - 1)).bind (fun s _ =>
          (s.putCounts who dst (dst.count + 1) (dst.live + 1)).bind (fun s _ =>
            (s.putSlot who d slot { e with bundle := dst.num, row := dst.count, num := d.coll + 1 }).bind (fun s _ =>
              .ok s dst.count))))))

/-- Write a component value from an address over a row's. -/
def State.putValue (s : State) (who : Who) (d : WorldDesc) (b : Bundle) (t row a : Nat) : Got Unit :=
  (s.typeSize who d t).bind (fun s n => (s.columnBase who b t).bind (fun s c =>
    (s.partBytes who a n).bind (fun s bs => s.put who (c + row * n) bs)))

/-- WADD of a current entity. -/
def State.applyAdd (s : State) (who : Who) (x : Collecting) (p : Post) (e : Slot) : Got Collecting :=
  let d := x.desc
  let t := p.typ.toNat
  if d.ntypes ≤ t then s.reject who x p 4
  else (s.bundleAt who d e.bundle).bind (fun s b =>
    if b.set.testBit t then (s.putValue who d b t e.row p.addr.toNat).bind (fun s _ => .ok s x)
    else (s.bundleOf who d (b.set + 2 ^ t) d.nbundles 0).bind (fun s o => match o with
      | none => s.reject who x p 4
      | some b1 =>
        if b1.count = b1.cap then s.reject who x p 5
        else (s.moveEntity who x (handleSlot p.target.toNat) e b b1).bind (fun s row =>
          (s.putValue who d b1 t row p.addr.toNat).bind (fun s _ => .ok s x))))

/-- WREM of a current entity. -/
def State.applyRem (s : State) (who : Who) (x : Collecting) (p : Post) (e : Slot) : Got Collecting :=
  let d := x.desc
  let t := p.typ.toNat
  if d.ntypes ≤ t then s.reject who x p 4
  else (s.bundleAt who d e.bundle).bind (fun s b =>
    if !b.set.testBit t then .ok s x
    else (s.bundleOf who d (b.set - 2 ^ t) d.nbundles 0).bind (fun s o => match o with
      | none => s.reject who x p 4
      | some b1 =>
        if b1.count = b1.cap then s.reject who x p 5
        else (s.moveEntity who x (handleSlot p.target.toNat) e b b1).bind (fun s _ => .ok s x)))

/-- One change (R261), by the office of its slot. A WNEW has no slot before it takes one from the free list: until then the office of die
(bundle reference mod 4) reads its bundle entry and the free list, and writes its dead letter (DESIGN CHOICE, log entry 67: R8 names no
office for it). -/
def State.applyPost (s : State) (who : Who) (x : Collecting) (p : Post) : Got Collecting :=
  let who := who.forSlot (handleSlot p.target.toNat)
  if p.kind = .wnew then s.applyNew who x p
  else if handleWorld p.target.toNat ≠ x.desc.num then s.reject who x p 7
  else if x.gone.contains p.target.toNat then s.reject who x p 2
  else (s.currentSlot who x.desc p.target.toNat).bind (fun s o => match o with
    | none => s.reject who x p 1
    | some e => match p.kind with
      | .wdel => s.applyDel who x p e
      | .wadd => s.applyAdd who x p e
      | _ => s.applyRem who x p e)

def State.applyAll (s : State) (who : Who) (x : Collecting) : List Post → Got Collecting
  | [] => .ok s x
  | p :: ps => (s.applyPost who x p).bind (fun s x => State.applyAll s who x ps)

/-- Step 4 (R260): of n slots from k on, those whose quarantine ends with the collection go to the free-list tail, and their
entries become free (R354). All of them have one freeing number, so the order of R260 is that of the slots. -/
def State.releaseFrom (s : State) (who : Who) (d : WorldDesc) : Nat → Nat → Got WorldDesc
  | 0, _ => .ok s d
  | n + 1, k => (s.slotAt who d k).bind (fun s e =>
    if e.state = 2 ∧ (e.num + d.quar) % 2 ^ 32 = (d.coll + 1) % 2 ^ 32 then
      (s.putSlot who d k { e with state := 0 }).bind (fun s _ =>
        (s.writeVal who (d.free + 4 * (d.tail % d.cap)) 4 k).bind (fun s _ =>
          (s.writeVal who (d.addr + 0x50) 8 (d.tail + 1)).bind (fun s _ =>
            State.releaseFrom s who { d with tail := d.tail + 1 } n (k + 1))))
    else State.releaseFrom s who d n (k + 1))

/-- One arrival on a global object, by a reference that may be 0. -/
def State.arriveOnce (s : State) (who : Who) (ref : W64) (bytes : W32) : Got Unit :=
  if ref = 0 then .ok s () else (s.barrier who 0 ref (some fun o => o.arrive 1 bytes)).bind (fun s _ => .ok s ())

/-- The outbox entries are read. -/
def State.readOutbox (s : State) (who : Who) (d : WorldDesc) : Got Unit :=
  if d.posted = 0 then .ok s () else (s.partBytes who d.outbox (32 * d.posted)).bind (fun s _ => .ok s ())

/-- Steps 2 to 5 of a collection (R260), but for the arrival. -/
def State.collect (s : State) (who : Who) (d : WorldDesc) (st : WorldState) : Got Unit :=
  (s.readOutbox who d).bind (fun s _ =>
    (s.applyAll who { desc := d, gone := [] } (sortPosts (st.posts.take d.posted))).bind (fun s x =>
      (s.releaseFrom who x.desc d.cap 0).bind (fun s _ =>
        (s.writeVal who (d.addr + 8) 4 (d.coll + 1)).bind (fun s _ => s.writeVal who (d.addr + 0x64) 4 0))))

/-- Peek at a 64-bit word of a context's memory, 0 where it does not translate. -/
def State.peek64 (s : State) (asid va : Nat) : W64 :=
  match s.walk asid va with
  | .leaf _ e l => (match placeIn e l va with
    | .here pa key => BitVec.ofNat 64 (bytesVal (s.loadBytes pa key 8))
    | .away _ _ _ => 0)
  | .fault _ _ => 0

/-- The fault domain of a context's root RCB (R218, R358). -/
def State.rootDomain (s : State) (asid : Nat) : BitVec 16 :=
  BitVec.ofNat 16 ((s.peek64 asid ((s.ctxAt asid).rcb.toNat + 32)).toNat / 2 ^ 16)

/-- The reference of an arrival that is still to be made; 0 asks for none. -/
def WorldState.owe (w : WorldState) (ref : W64) : WorldState := if ref = 0 then w else { w with owed := w.owed ++ [ref] }

/-- The first request of a world has ended: its arrival is still to be made. -/
def WorldState.drop (w : WorldState) : WorldState :=
  { w.owe (w.requests.headD 0) with requests := w.requests.tail, posts := [], work := .idle }

/-- The work in hand is abandoned (R359): an abandoned collection counts as ended. -/
def WorldState.abandon (w : WorldState) : WorldState :=
  match w.work with
  | .collect => w.drop
  | .arrive => { w with owed := w.owed.tail, work := .idle }
  | _ => { w with compact := [], moved := 0, work := .idle }

/-- A world fails (R359): the work in hand is abandoned, the failed bit set, an open request answered, and the fault
domain of the context's root RCB ends (R358). -/
def State.failWorld (s : State) (asid w : Nat) : State :=
  let who := officeWho asid w 0
  let s1 := ((s.readVal who ((s.ctxAt asid).worlds.toNat + 8 * w) 8).bind (fun s a => s.writeVal who (a + 12) 4 1)).state
  (s1.setWorld asid w (s.worldAt asid w).abandon).endDomain asid (s.rootDomain asid)

/-- A fault-buffer entry holds an access of the office for a world. -/
def State.officeParked (s : State) (asid w : Nat) : Bool := s.faults.any (fun x => x.2.waiters.contains (.office asid w))

/-- What work of the office leaves: done, in hand with none of its writes, or the world failed at the access. -/
def State.officeEnd {α : Type} (s : State) (asid w : Nat) (work : OfficeWork) (g : Got α) (f : State → α → State) : State :=
  let mark := fun (s : State) (x : OfficeWork) => s.setWorld asid w { s.worldAt asid w with work := x }
  match g with
  | .denied s1 => (mark s1 work).failWorld asid w
  | g => match g.atomic s (.office asid w) with
    | .ok s1 a => f (mark s1 .idle) a
    | g => mark g.state work

/-- The next arrival that the offices still have to make for a world. -/
def State.officeArrive (s : State) (asid w : Nat) (ref : W64) : State :=
  s.officeEnd asid w .arrive (s.arriveOnce (officeWho asid w 0) ref 0) (fun s _ =>
    s.setWorld asid w { s.worldAt asid w with owed := (s.worldAt asid w).owed.tail })

/-- The collection of a world that was requested first; the number of bundles to compact after it. -/
def State.collectionOf (s : State) (asid w : Nat) : Got Nat :=
  let who := officeWho asid w 0
  (s.worldDesc who w).bind (fun s d => match d with
    | .world d => (s.collect who d (s.worldAt asid w)).bind (fun s _ => .ok s d.nbundles)
    | _ => .ok s 0)

/-- The compaction barrier of a world (R254), 0 for none. -/
def State.compactEnd (s : State) (asid w : Nat) : Got W64 :=
  (s.worldDesc (officeWho asid w 0) w).bind (fun s d => .ok s (match d with
    | .world d => d.cbar
    | _ => 0))

/-- The bytes that compaction has written are subtracted on its barrier, once they have been performed (R150). -/
def State.officeCount (s : State) (asid w : Nat) : State :=
  let n := (s.worldAt asid w).moved
  let act := (s.compactEnd asid w).bind (fun s r => if r = 0 then .ok s () else s.countBytes (officeWho asid w 0) 0 r n)
  s.officeEnd asid w .count act (fun s _ => s.setWorld asid w { s.worldAt asid w with moved := 0 })

/-- COLLECTION (R260): every run of the phase has ended. A count and an arrival that are still to be made come first. -/
def execCollection (asid world : Nat) (s : State) : Host.Outcome State Fault Refusal :=
  let w := s.worldAt asid world
  if s.officeParked asid world then .next s
  else if w.moved ≠ 0 then .next (s.officeCount asid world)
  else match w.owed, w.requests with
    | ref :: _, _ => .next (s.officeArrive asid world ref)
    | [], [] => .next s
    | [], _ :: _ =>
      if s.phaseBusy asid world then .next s
      else .next (s.officeEnd asid world .collect (s.collectionOf asid world) (fun s n =>
        s.setWorld asid world { (s.worldAt asid world).drop with compact := List.range n }))

/-! ### Compaction (R265) -/

/-- Row numbers of the lowest tombstone and of the highest live row among the first n rows from r on. -/
def State.holes (s : State) (who : Who) (d : WorldDesc) (b : Bundle) : Nat → Nat → Option Nat → Option Nat → Got (Option Nat × Option Nat)
  | 0, _, h, t => .ok s (h, t)
  | n + 1, r, h, t => (s.rowSlot who d b r).bind (fun s o => match o with
    | none => State.holes s who d b n (r + 1) (h.orElse (fun _ => some r)) t
    | some _ => State.holes s who d b n (r + 1) h (some r))

/-- The open cursors that deliver from a bundle, in their row phase. -/
def State.cursorsOn (s : State) (who : Who) (d : WorldDesc) (b : Nat) : List Nat → Got (List Cursor)
  | [] => .ok s []
  | k :: ks => (s.cursorAt who d k).bind (fun s c => (State.cursorsOn s who d b ks).bind (fun s cs =>
    .ok s (if c.open_ && !c.done && !c.fwd && decide (c.bundle = b) then c :: cs else cs)))

/-- A move forwards a row to the cursors that have passed the hole. -/
def State.forwardTo (s : State) (who : Who) (h t : Nat) : List Cursor → Got Unit
  | [] => .ok s ()
  | c :: cs =>
    if h < c.next ∧ c.next ≤ t then
      (s.putCursor who { c with list := c.list ++ [h] }).bind (fun s _ => State.forwardTo s who h t cs)
    else State.forwardTo s who h t cs

/-- Bytes of a row's components of the types listed. -/
def State.rowSize (s : State) (who : Who) (d : WorldDesc) : List Nat → Got Nat
  | [] => .ok s 0
  | t :: ts => (s.typeSize who d t).bind (fun s n => (State.rowSize s who d ts).bind (fun s k => .ok s (n + k)))

/-- One move of a bundle of a world, or its end: whether the bundle is compact, and the bytes it writes of rows, slot column, slot map and
row count. -/
def State.compactIn (s : State) (who : Who) (d : WorldDesc) (bundle : Nat) : Got (Bool × Nat) :=
  (s.bundleAt who d bundle).bind (fun s b =>
    (s.cursorsOn who d bundle (List.range 16)).bind (fun s cs =>
      if cs.any (fun c => decide (64 ≤ c.list.length)) then .ok s (false, 0)
      else (s.holes who d b b.count 0 none none).bind (fun s x =>
        let trim := fun (s : State) (n : Nat) =>
          if n = b.count then Got.ok s (true, 0) else (s.writeVal who (b.addr + 24) 4 n).bind (fun s _ => .ok s (true, 4))
        match x.1, x.2 with
        | none, _ => .ok s (true, 0)
        | some _, none => trim s 0
        | some h, some t =>
          if t < h then trim s (t + 1)
          else
            (s.copyTypes who d b b t h (typesOf b.set d.ntypes)).bind (fun s _ =>
              (s.rowSlot who d b t).bind (fun s o =>
                let n := o.getD 0xFFFFFFFF
                (s.writeVal who (b.slotCol + 4 * h) 4 n).bind (fun s _ =>
                  (s.slotAt who d n).bind (fun s e =>
                    (s.putSlot who d n { e with row := h }).bind (fun s _ =>
                      (s.writeVal who (b.addr + 24) 4 t).bind (fun s _ =>
                        (s.forwardTo who h t cs).bind (fun s _ =>
                          (s.rowSize who d (typesOf b.set d.ntypes)).bind (fun s k => .ok s (false, k + 12))))))))))))

/-- The same of a bundle of a world: the bytes count where there is a barrier to count them on. -/
def State.compactStep (s : State) (asid w bundle : Nat) : Got (Bool × Nat) :=
  let who := officeWho asid w bundle
  (s.worldDesc who w).bind (fun s d => match d with
    | .world d => (s.compactIn who d bundle).bind (fun s r => .ok s (r.1, if d.cbar = 0 then 0 else r.2))
    | _ => .ok s (true, 0))

/-- The bit of a leaf that permits the access of a fault-buffer entry. -/
def FaultEntry.permit (e : FaultEntry) : W64 := if e.access = accRead then 2#64 else 4#64

/-- The state in which the access of a fault-buffer entry finds its page closed, and back: what has been mapped since the entry was taken
does not let the access through. -/
def State.closePage (s : State) (e : FaultEntry) : State :=
  match s.walk e.asid.toNat e.va.toNat with
  | .leaf a l _ => { s with mem := Memory.writeN s.mem a 8 (l &&& ~~~e.permit).toNat, tlb := [] }
  | .fault _ _ => s
def State.openPage (s s0 : State) (e : FaultEntry) : State :=
  match s0.walk e.asid.toNat e.va.toNat with
  | .leaf a l _ => { s with mem := Memory.writeN s.mem a 8 ((s.phys64 a) ||| (l &&& e.permit)).toNat, tlb := s0.tlb }
  | .fault _ _ => s

/-- The work in hand of a world's offices, run up to the access that it cannot make. -/
def State.workUpTo (s : State) (asid w : Nat) : State :=
  let work : Got Unit := match (s.worldAt asid w).work with
    | .collect => (s.collectionOf asid w).bind (fun s _ => .ok s ())
    | .compact b => (s.compactStep asid w b).bind (fun s _ => .ok s ())
    | _ => .ok s ()
  match work with
  | .fault s1 _ _ => { s1 with faults := s.faults }
  | .wait s1 => s1.dropAsked (.office asid w)
  | _ => s

/-- The writes that the work in hand of a world's offices performed before the access that cannot be made, that of a cancelled entry or
of a remote page that refuses it (R359): the work is run again up to that access. -/
def State.workInHand (s : State) (asid w : Nat) (e : Option FaultEntry) : State :=
  match e with
  | some e => ((s.closePage e).workUpTo asid w).openPage s e
  | none => s.workUpTo asid w

/-- A run of a world has started and not ended. -/
def Launch.startedOf (l : Launch) (asid w : Nat) : Bool :=
  l.runOf asid w && decide (l.phase ≠ .prologue) && decide (l.phase ≠ .accepted)

/-- A started run of a world writes a type of the set. -/
def State.writersOf (s : State) (asid w set : Nat) : Bool :=
  s.launches.any (fun x => x.2.startedOf asid w && decide (x.2.writeMask &&& set ≠ 0))

/-- The bundle's compaction is paused by a run, or by a collection that has begun. -/
def State.compactPaused (s : State) (asid w bundle : Nat) : Bool :=
  let who := officeWho asid w bundle
  decide ((s.worldAt asid w).work = .collect) ||
  match (s.worldDesc who w).bind (fun s d => match d with
    | .world d => s.bundleAt who d bundle
    | _ => .full s) with
  | .ok _ b => s.writersOf asid w b.set
  | _ => false

/-- COMPACTION_MOVE (R265): the next move of a bundle, the lowest of its office. A count of bytes and an arrival that are still to be made
come first, once every move has been performed. -/
def execCompactionMove (asid world bundle : Nat) (s : State) : Host.Outcome State Fault Refusal :=
  let w := s.worldAt asid world
  if s.officeParked asid world then .next s
  else if w.moved ≠ 0 then .next (s.officeCount asid world)
  else match w.owed with
    | ref :: _ => .next (s.officeArrive asid world ref)
    | [] =>
      if !w.compact.contains bundle || w.compact.any (fun b => decide (b < bundle) && decide (b % 4 = bundle % 4)) ||
          s.compactPaused asid world bundle then .next s
      else
        let act := (s.compactStep asid world bundle).bind (fun s x =>
          if x.1 && decide (w.compact = [bundle]) then (s.compactEnd asid world).bind (fun s r => .ok s (true, x.2, r)) else .ok s (x.1, x.2, 0))
        .next (s.officeEnd asid world (.compact bundle) act (fun s r =>
          s.setWorld asid world
            (if r.1 then { (s.worldAt asid world).owe r.2.2 with moved := r.2.1, compact := w.compact.filter (fun b => b ≠ bundle) }
             else { s.worldAt asid world with moved := r.2.1 })))

/-- A run whose query matches a bundle starts only once the bundle has no tombstone below its last live row (R265). -/
def State.tombFree (s : State) (who : Who) (d : WorldDesc) (q : Query) : Nat → Nat → Got Bool
  | 0, _ => .ok s true
  | n + 1, b => (s.bundleAt who d b).bind (fun s x =>
    if !q.takes x.set then State.tombFree s who d q n (b + 1)
    else (s.holes who d x x.count 0 none none).bind (fun s y => match y.1, y.2 with
      | some h, some t => if h < t then .ok s false else State.tombFree s who d q n (b + 1)
      | _, _ => State.tombFree s who d q n (b + 1)))

/-- Every range of a run, by the steps of WNEXT (R230), and the cursor as they leave it. -/
def State.allRanges (s : State) (who : Who) (d : WorldDesc) (q : Query) : Nat → Cursor → Got (List (W64 × Nat × Nat) × Cursor)
  | 0, c => .ok s ([], c)
  | n + 1, c => (s.nextRange who d q (d.nbundles + 1) c).bind (fun s r => match r.2 with
    | none => .ok s ([], r.1)
    | some (b, row, k) => (State.allRanges s who d q n r.1).bind (fun s rs =>
      .ok s ((BitVec.ofNat 64 (d.num * 2 ^ 16 + b), row, k) :: rs.1, rs.2)))

end Sys2Proof.Machine
end

