-- ==== Sys2Proof/Machine/Kernel.lean ====
section
/-! DEFINITION. Launches: RCBs, records, prologues, placement and residency, launches from a kernel, distribution and
fix-up, major 0x68 (R122, R123, R218 to R232), and the lanes of recursion routines as they become resident (R270, R272). -/
namespace Sys2Proof.Machine

/-! ### Making launches (R228) -/

/-- The front end for a launch: unit 9, the buffer of die 0 (R175, R176). -/
def State.frontWho (s : State) (id : Nat) : Who := engineWho (s.launchAt id).asid 0 9 0 0 (.launch id)

/-- Launches of recursion routines, and parcel families, are no launches of the limit of R228 (R272). -/
def LaunchKind.counts : LaunchKind → Bool
  | .grid => true
  | .query => true
  | .stage _ _ => true
  | .parcels => false
  | .routine _ => false

/-- Launches of a context that have not ended. -/
def State.launchesOf (s : State) (asid : Nat) : Nat :=
  (s.launches.filter (fun x => decide (x.2.asid = asid) && decide (x.2.phase ≠ .ended) && x.2.kind.counts)).length

/-- The limit of R228. -/
def State.launchLimit (s : State) (asid : Nat) : Bool := decide (256 ≤ s.launchesOf asid)

/-- Draw the next launch sequence number of a context. -/
def State.takeSeq (s : State) (asid : Nat) : State × Nat :=
  let c := s.ctxAt asid
  (s.setCtx asid { c with nextSeq := c.nextSeq + 1 }, c.nextSeq)

/-- Hand a record to the front end: the state, the launch and its sequence number. -/
def State.submit (s : State) (asid : Nat) (record : W64) (query : Bool) (queue : Option Nat) : State × Nat × Nat :=
  let q := s.takeSeq asid
  let id := q.1.nextId
  let l := { Launch.blank with asid := asid, seq := q.2, kind := if query then .query else .grid, phase := .submitted,
                               record := record, queue := queue }
  (q.1.fresh.setLaunch id l, id, q.2)

/-- LAUNCH and LAUNCHQ (R228). The word issues once what the unit's lanes have posted to remote pages is performed (State.mayWord),
so that the record is handed over with the release that the rule gives. -/
def State.launchOp (s : State) (b a : BitVec 7) (query : Bool) : Host.Outcome State Fault Refusal :=
  let ops := [sd .a a, ss .b b]
  s.issue acceptNone ops false (fun s =>
    let r := s.valueAt intConsts ops .b 0
    if r.toNat % 64 ≠ 0 then .trap .misalign (Lanes.lowest s.act)
    else if s.launchLimit s.g.asid then .wait s
    else
      let q := s.submit s.g.asid r query s.launch.queue
      .done (q.1.setSreg (s.regAt ops .a) (BitVec.ofNat 64 q.2.2)))

def execLaunch (b a : BitVec 7) (s : State) := s.launchOp b a false
def execLaunchq (b a : BitVec 7) (s : State) := s.launchOp b a true

/-! ### RCB trees (R218, R219) -/

/-- An RCB breaks R219 where it stands, apart from its place in the tree. -/
def rcbBad (v : List W64) : Bool :=
  let f := fun i => (v.getD i 0).toNat
  decide (f 4 / 2 ^ 37 ≠ 0) || decide (f 4 / 4 % 2 ^ 14 ≠ 0) || decide (f 5 ≠ 0) || decide (f 6 ≠ 0) || decide (f 7 ≠ 0)

/-- The chain from an RCB to its root: addresses with words, at most n of them; none for one that R219 rejects. -/
def State.rcbChain (s : State) (who : Who) : Nat → W64 → Got (Option (List (W64 × List W64)))
  | 0, _ => .ok s none
  | n + 1, a =>
    if a.toNat % 64 ≠ 0 then .ok s none
    else (s.partBytes who a.toNat 64).bind (fun s bs =>
      let v := words64 8 bs
      if rcbBad v then .ok s none
      else if v.getD 0 0 = 0 then .ok s (if (v.getD 4 0).toNat / 2 ^ 32 % 32 = 31 then some [(a, v)] else none)
      else (State.rcbChain s who n (v.getD 0 0)).bind (fun s r => .ok s (r.map (fun r => (a, v) :: r))))

/-- The nearest RCB of a chain that overrides a field: bit 32 core-time, 33 memory, 34 handler, 35 class, 36 domain. -/
def overrides (bit : Nat) (v : List W64) : Bool := (v.getD 4 0).getLsbD bit
def nearest (bit : Nat) (chain : List (W64 × List W64)) : List W64 :=
  ((chain.find? (fun x => overrides bit x.2)).map (·.2)).getD []

/-- What a chain resolves to. -/
structure Resolved where
  core    : List W64
  noMem   : Bool
  handler : W64
  cls     : BitVec 2
  domain  : BitVec 16

def resolve (chain : List (W64 × List W64)) : Resolved :=
  { core := (chain.filter (fun x => overrides 32 x.2)).map (·.1),
    noMem := chain.any (fun x => overrides 33 x.2 && decide (x.2.getD 2 0 = 0)),
    handler := (nearest 34 chain).getD 3 0, cls := ((nearest 35 chain).getD 4 0).setWidth 2,
    domain := (((nearest 36 chain).getD 4 0) >>> 16).setWidth 16 }

/-- Resolve an RCB of a context; 0 names the root. -/
def State.resolveRcb (s : State) (who : Who) (a : W64) : Got (Option Resolved) :=
  (s.rcbChain who 8 (if a = 0 then (s.ctxAt who.asid).rcb else a)).bind (fun s c => .ok s (c.map resolve))

/-! ### Kernel descriptors and launch records (R221, R223) -/

/-- A kernel descriptor breaks R221, or asks for more private scratch than the context has (R223). -/
def kernelBad (perLane : W32) (v : List W64) : Bool :=
  let f := fun i => (v.getD i 0).toNat
  decide (f 0 % 4 ≠ 0) || decide (f 1 / 2 ^ 35 ≠ 0) || decide (f 1 / 2 ^ 16 % 8 ≠ 0) || decide (f 1 % 2048 < 16) ||
  decide (1024 < f 1 % 2048) || decide (4096 < f 1 / 2 ^ 19 % 2 ^ 13) || decide (f 2 / 2 ^ 32 ≠ 0) || decide (f 2 % 4 ≠ 0) ||
  decide (f 4 % 4 ≠ 0) || decide (f 5 ≠ 0) || decide (f 6 ≠ 0) || decide (f 7 ≠ 0) || decide (perLane.toNat < f 2)

/-- A launch takes a descriptor's fields. -/
def Launch.takeKernel (l : Launch) (desc : W64) (v : List W64) : Launch :=
  let k := (v.getD 1 0).toNat
  { l with desc := desc, entry := v.getD 0 0, alloc := k % 2048, nwarps := k / 2048 % 32 + 1, lines := k / 2 ^ 19 % 2 ^ 13,
           matrix := decide (k / 2 ^ 32 % 2 = 1), cohort := decide (k / 2 ^ 33 % 2 = 1), ordered := decide (k / 2 ^ 34 % 2 = 1),
           scratch := (v.getD 2 0).toNat, prologue := v.getD 4 0 }

/-- A launch takes what its RCB resolves to. -/
def Launch.takeRcb (l : Launch) (r : Resolved) : Launch :=
  { l with rcbs := r.core, cls := r.cls, domain := r.domain, handler := r.handler }

/-- The grid of a record's word 2. -/
def gridWord (w : W64) : Nat × Nat × Nat := (w.toNat % 2 ^ 16, w.toNat / 2 ^ 16 % 2 ^ 16, w.toNat / 2 ^ 32 % 2 ^ 16)
def gridSize (g : Nat × Nat × Nat) : Nat := g.1 * g.2.1 * g.2.2

/-- A grid that a launch may have. -/
def gridBad (g : Nat × Nat × Nat) : Bool :=
  [g.1, g.2.1, g.2.2].any (fun n => decide (n = 0) || decide (65535 < n)) || decide (2 ^ 32 ≤ gridSize g)

/-- A launch record breaks R223; the grid words of a stage's record are ignored (R248). -/
def recordBad (query stage : Bool) (v : List W64) : Bool :=
  let f := fun i => (v.getD i 0).toNat
  decide (f 0 % 64 ≠ 0) || !globalRef (v.getD 6 0) ||
  (if query then
    decide (f 4 % 2 ^ 32 = 0) || decide (65536 < f 4 % 2 ^ 32) || decide (f 5 ≠ 0)
   else (!stage && (decide (f 2 / 2 ^ 48 ≠ 0) || gridBad (gridWord (v.getD 2 0)))) || decide (f 5 / 2 ^ 32 ≠ 0))

/-- A stage launch; the least number of pieces of n that hold k. -/
def Launch.staged (l : Launch) : Bool :=
  match l.kind with
  | .stage _ _ => true
  | _ => false
def ceilDiv (k n : Nat) : Nat := (k + n - 1) / n

/-- A launch takes a record's fields; parameters by R226. A stage launch has ngx by R248. -/
def Launch.takeRecord (l : Launch) (query : Bool) (v : List W64) : Launch :=
  let f := fun i => (v.getD i 0).toNat
  let g := if query then (0, 0, 0) else if l.staged then (ceilDiv ((l.ranges.headD (0, 0, 0)).2.2) l.rows, 1, 1) else gridWord (v.getD 2 0)
  { l with
      params := Table.putAll 0#64 [] 8 [BitVec.ofNat 64 g.1, BitVec.ofNat 64 g.2.1, BitVec.ofNat 64 g.2.2, v.getD 1 0, v.getD 3 0],
      strides := if query then (0, 0, 0) else (f 4 % 2 ^ 32, f 4 / 2 ^ 32, f 5 % 2 ^ 32),
      query := if query then v.getD 2 0 else 0, rows := if query then f 4 % 2 ^ 32 else l.rows,
      rowBytes := if query then f 4 / 2 ^ 32 else 0, ref := v.getD 6 0 }

def Launch.param (l : Launch) (i : Nat) : W64 := Table.get 0#64 l.params i

/-- A run has been accepted: its place in the order, and the phase of its world, by the collections requested so far (R259). -/
def State.enterPhase (s : State) (id : Nat) : State :=
  let l := s.launchAt id
  s.fresh.setLaunch id { l with order := s.nextId, worldPhase := (s.worldAt l.asid l.world).requested }

/-- A run may start. The first run of a launch has been accepted with its record (R241), one after PREPEAT is accepted now. -/
def State.acceptRun (s : State) (id : Nat) (again : Bool) : State :=
  let s1 := if again then s.enterPhase id else s
  s1.setLaunch id { s1.launchAt id with phase := .accepted }

/-- A launch takes the world, rank and masks of its query (R266); a malformed query names no world. -/
def Launch.takeQuery (l : Launch) : Option Query → Launch
  | none => { l with world := 256 }
  | some q => { l with world := q.world, rank := q.rank, readMask := q.read, writeMask := q.write }

/-- A launch stops early with a status code (R223). -/
def State.stopLaunch (s : State) (id : Nat) (code : Byte) : State := s.setLaunch id { s.launchAt id with code := code }

/-- What the front end's look at a launch gives: a code, or the launch with its fields. -/
def State.readLaunch (s : State) (id : Nat) (l : Launch) : Got (Except Byte Launch) :=
  let who := s.frontWho id
  let query := decide (l.kind = .query)
  (s.partBytes who l.record.toNat 64).bind (fun s bs =>
    let r := words64 8 bs
    if decide (l.record.toNat % 64 ≠ 0) || recordBad query l.staged r then .ok s (.error 2)
    else (s.partBytes who (r.getD 0 0).toNat 64).bind (fun s ks =>
      let k := words64 8 ks
      let l1 := (l.takeRecord query r).takeKernel (r.getD 0 0) k
      if kernelBad (s.ctxAt l.asid).perLane k || (query && l1.cohort) then .ok s (.error 2)
      else (s.resolveRcb who (k.getD 3 0)).bind (fun s x => match x with
        | none => .ok s (.error 6)
        | some x =>
          if x.noMem then .ok s (.error 5)
          else if query then (s.queryAt who l1.query.toNat).bind (fun s q => .ok s (.ok ((l1.takeRcb x).takeQuery q)))
          else .ok s (.ok (l1.takeRcb x)))))

/-- An access of a launch waits on a fault-buffer entry. -/
def State.launchParked (s : State) (id : Nat) : Bool := s.faults.any (fun x => x.2.waiters.contains (.launch id))

/-- The access a launch is held at, seen from what can be read of its record, kernel descriptor and RCB path. -/
def State.heldAt (s : State) (id : Nat) (l : Launch) : LaunchHold :=
  let who := s.frontWho id
  match (s.partBytes who l.record.toNat 64).bind (fun s bs => s.partBytes who (((words64 8 bs).getD 0 0).toNat) 64) with
  | .ok s ks => (match s.resolveRcb who ((words64 8 ks).getD 3 0) with
    | .ok _ _ => .query
    | _ => .rcb)
  | _ => .record

/-- A cancelled or denied access of an acceptance (R358): of a record or descriptor status 2, of an RCB status 6. Of a query, as
work that R358 does not name, it ends the domain of the context's root RCB, and the launch with status 2. -/
def State.stopHeld (s : State) (id : Nat) (h : LaunchHold) : State :=
  let s1 := match h with
    | .query => s.endDomain (s.launchAt id).asid (s.rootDomain (s.launchAt id).asid)
    | _ => s
  if (s1.launchAt id).code = 0 then s1.stopLaunch id (match h with
    | .rcb => 6
    | _ => 2) else s1

/-- The completion barrier reference of a launch's record, as far as the record can be read: it is arrived on however the
launch ends (R224). -/
def State.recordRef (s : State) (id : Nat) (l : Launch) : W64 :=
  match s.partBytes (s.frontWho id) l.record.toNat 64 with
  | .ok _ bs => if globalRef ((words64 8 bs).getD 6 0) then (words64 8 bs).getD 6 0 else 0
  | _ => 0

/-- The fault domain that a launch's RCB resolves to has ended since it was submitted (R220). -/
def Launch.lateEnd (l : Launch) : Launch := if l.ends.contains l.domain then { l with code := 7, ends := [] } else { l with ends := [] }

/-- LAUNCH_ACCEPT (R223, R225, R259): the front end reads and checks a record, its descriptor and its RCB path. -/
def execLaunchAccept (id : Nat) (s : State) : Host.Outcome State Fault Refusal :=
  let l := s.launchAt id
  if l.phase ≠ .submitted ∨ l.code ≠ 0 ∨ s.launchParked id = true then .next s
  else match (s.readLaunch id l).atomic s (.launch id) with
    | .ok s1 (.error c) => .next (s1.setLaunch id { l with code := c, ref := s.recordRef id l })
    | .ok s1 (.ok l1) =>
      let c := s1.ctxAt l.asid
      let s2 := s1.setCtx l.asid { c with state := if c.state = .defined then .running else c.state }
      let s3 := (s2.setLaunch id l1.lateEnd).enterPhase id
      if l1.prologue = 0 then .next (s3.acceptRun id false)
      else .next (s3.setLaunch id
        { s3.launchAt id with phase := .prologue, pregs := Table.putAll 0#64 [] 0 [l1.param 11, l1.record], ppreds := [], pframe := Framing.blank, pcover := none, ppc := 0 })
    | .fault s1 _ _ => .next (s1.setLaunch id { l with held := s1.heldAt id l, ref := s.recordRef id l })
    | .denied s1 => .next ((s1.setLaunch id { l with ref := s.recordRef id l }).stopHeld id (s.heldAt id l))
    | g => .next g.state

/-! ### Prologues (R225, R227) -/

/-- A prologue as a unit of one lane for the scalar meanings: warp, workgroup and launch of key 0; a trap shows as
handler mode. -/
def State.prologueState (s : State) (l : Launch) : State :=
  let u := { IUnit.blank with lanes := 1, pc := l.prologue + BitVec.ofNat 64 (4 * l.ppc), frame := l.pframe, cover := l.pcover }
  let w := { Warp.blank with wg := 0, live := 1, units := [(0, u)], sregs := l.pregs, preds := l.ppreds }
  let g := { Workgroup.blank with launch := 0, asid := l.asid, karg := l.param 11, nwarps := l.nwarps,
                                  grid := ((l.param 8).toNat, (l.param 9).toNat, (l.param 10).toNat) }
  { s with warps := Table.set s.warps 0 w, wgs := Table.set s.wgs 0 g,
           launches := Table.set s.launches 0 { Launch.blank with handler := 4 }, cur := 0, unit := 0 }

/-- What a word of a prologue does. -/
inductive Pro where
  | on (s : State) (l : Launch)
  | run (l : Launch) (again : Bool)
  | cancel (l : Launch)
  | bad
  | held (s : State)
  | died (s : State)

/-- The prologue goes on with the registers of its unit. -/
def State.proceed (p s : State) (l : Launch) : Pro :=
  if p.w.handler || decide (p.w.live = 0) then .bad
  else .on s { l with pregs := p.w.sregs, ppreds := p.w.preds, pframe := p.u.frame, pcover := p.u.cover,
                      ppc := ((p.u.pc - l.prologue).toNat / 4) }

/-- PSETP's check of a value (R227). -/
def psetpBad (query : Bool) (i : Nat) (v : W64) : Bool :=
  decide (12 < i) || (decide (8 ≤ i) && decide (i ≤ 10) && (query || decide (v = 0) || decide (65535 < v.toNat))) ||
  (query && decide (i < 3))

/-- LD in a prologue, in the scalar class. -/
def State.proLoad (p s : State) (id : Nat) (l : Launch) (c b a : BitVec 7) : Pro :=
  let i := p.imm32 c
  let ops := [sd .a a, ss .b b]
  let n := codeBytes (attrOf i % 8)
  let v := (p.valueAt intConsts ops .b 0 + (offOf i).signExtend 64).toNat
  if !loadLegal i true false || ops.any p.illOp || (decide (attrOf i / 8 = 1) && decide (v % n ≠ 0)) then .bad
  else match s.partBytes (s.frontWho id) v n with
    | .ok s1 bs => ((p.setSreg a.toNat (extendScalar (attrOf i % 8) (bytesVal bs))).retire).proceed s1 l
    | .fault s1 _ _ => .held s1
    | .full s1 => .held s1
    | .denied s1 => .died s1
    | .wait s1 => .held s1

/-- Registers that a prologue word names. -/
def proRegs (w : W32) (imm : Bool) : List Nat :=
  let op := w.toNat % 128
  if op = 0x50 then [w.toNat / 2 ^ 7 % 128, w.toNat / 2 ^ 14 % 128]
  else if op = 0x68 then [w.toNat / 2 ^ 14 % 128]
  else sliceRegs w imm

/-- One word of a prologue (R225). -/
def State.proWord (s : State) (id : Nat) (l : Launch) (w : W32) : Pro :=
  let op : BitVec 7 := w.setWidth 7
  let m : BitVec 4 := w.extractLsb' 28 4
  let c : BitVec 7 := w.extractLsb' 21 7
  let b : BitVec 7 := w.extractLsb' 14 7
  let a : BitVec 7 := w.extractLsb' 7 7
  let p := { s.prologueState l with ir := w }
  let plain := l.pframe.imm.isNone && p.u.inForce.isNone
  let query := decide (l.kind = .query)
  let run := fun (o : Host.Outcome State Fault Refusal) => match o with
    | .next p1 => p1.proceed s l
    | _ => .bad
  if (proRegs w l.pframe.imm.isSome).any (fun f => decide (32 ≤ f) && decide (f < 112)) then .bad
  else if op = 0#7 then (match dec00 m c b a with
    | .ok (.guard n k q) => run (execGuard n k q p)
    | _ => .bad)
  else if op = 1#7 then run (execImm (w.extractLsb' 7 25) p)
  else if op = 3#7 then (match dec03 m c b a with
    | .ok (.bra o) => if 0 < o.toInt then run (execBra o p) else .bad
    | _ => .bad)
  else if op = 6#7 then (match dec06 m c b a with
    | .ok .exit =>
      if l.pframe.imm.isSome then .bad
      else if p.act = 0 then p.retire.proceed s l
      else if (query || !gridBad ((l.param 8).toNat, (l.param 9).toNat, (l.param 10).toNat)) then .run l false else .bad
    | _ => .bad)
  else if op = 0x50#7 then (match dec50 m c b a with
    | .ok (.ld _ c b a) => if p.act = 0 then p.retire.proceed s l else p.proLoad s id l c b a
    | _ => .bad)
  else if op = 0x68#7 then
    (if !plain then .bad else match dec68 m c b a with
    | .ok (.psetp c b) =>
      let ops := [ss .b b]
      let v := p.valueAt intConsts ops .b 0
      if psetpBad query c.toNat v then .bad
      else .on s { l with params := Table.put 0#64 l.params c.toNat v, ppc := l.ppc + 1 }
    | .ok .pcancel => .cancel l
    | .ok .prepeat => if query || !gridBad ((l.param 8).toNat, (l.param 9).toNat, (l.param 10).toNat) then .run l true else .bad
    | _ => .bad)
  else match decodeGroup2 op m c b a with
    | .ok i => (match scalarMeaning i with
      | some f => run (f p)
      | none => .bad)
    | .error _ => .bad

/-- A prologue from its word on: at most n words, none past the 64th. The answers that a word and its load have had from remote pages
stay until the word is complete. -/
def State.proRun (s : State) (id : Nat) : Nat → Launch → State
  | 0, l => s.setLaunch id { l with code := 2 }
  | n + 1, l =>
    let at_ := (l.prologue + BitVec.ofNat 64 (4 * l.ppc)).toNat
    if 64 ≤ l.ppc then s.setLaunch id { l with code := 2 }
    else match s.reach (s.frontWho id) accFetch [(at_, 4)] with
      | .ok s1 p => (match s1.segBytes (.launch id) (64 * at_ + 32) p with
        | some bs =>
          let s2 := s1.forget (.launch id)
          (match s1.proWord id l (BitVec.ofNat 32 (bytesVal bs)) with
          | .on s3 l1 => State.proRun (s3.forget (.launch id)) id n l1
          | .run l1 again =>
            (s2.setLaunch id { l1 with repeats := again, ppc := 0, pframe := Framing.blank, pcover := none }).acceptRun id l.repeats
          | .cancel l1 => s2.setLaunch id { l1 with code := 1 }
          | .bad => s2.setLaunch id { l with code := 2 }
          | .held s3 => s3.setLaunch id l
          | .died s3 => s3.setLaunch id { l with code := 7 })
        | none => (s1.ask (.launch id) (64 * at_ + 32) p).setLaunch id l)
      | .denied s1 => s1.setLaunch id { l with code := 7 }
      | g => g.state.setLaunch id l

/-- PROLOGUE_RUN (R225). -/
def execPrologueRun (id : Nat) (s : State) : Host.Outcome State Fault Refusal :=
  let l := s.launchAt id
  if l.phase ≠ .prologue ∨ l.code ≠ 0 ∨ s.launchParked id = true then .next s else .next (s.proRun id 64 l)

/-- PSETP, PCANCEL and PREPEAT in a warp (R227). -/
def State.notHere (s : State) : Host.Outcome State Fault Refusal := s.finish (.trap .illegalOp s.ir.toNat)
def execPsetp (_c _b : BitVec 7) (s : State) : Host.Outcome State Fault Refusal := s.notHere
def execPcancel (s : State) : Host.Outcome State Fault Refusal := s.notHere
def execPrepeat (s : State) : Host.Outcome State Fault Refusal := s.notHere

/-! ### Placing the workgroups of a run (R229, R230) -/

/-- Tile address of a workgroup (R229): with a base, by strides or by rows; else from its index. -/
def tileAddrOf (base : W64) (off wgx : Nat) : W64 := if base = 0 then BitVec.ofNat 64 (2 ^ 21 * (wgx / 4)) else base + BitVec.ofNat 64 off

/-- A workgroup of a launch, Pending. -/
def Launch.group (l : Launch) (id wgx : Nat) (coord grid : Nat × Nat × Nat) (init : List W64) (off : Nat) : Workgroup :=
  { Workgroup.blank with
      launch := id, asid := l.asid, wgx := BitVec.ofNat 32 wgx,
      coord := (BitVec.ofNat 32 coord.1, BitVec.ofNat 32 coord.2.1, BitVec.ofNat 32 coord.2.2), grid := grid, phase := .pending,
      nwarps := l.nwarps, init := Table.putAll 0#64 [] 0 init, karg := l.param 11, tileAddr := tileAddrOf (l.param 12) off wgx }

/-- List workgroups under the next keys. -/
def State.addGroups (s : State) : List Workgroup → State
  | [] => s
  | g :: gs => State.addGroups ((s.setWg s.nextId g).fresh) gs

/-- The workgroups of a grid in ascending linear index. -/
def Launch.gridGroups (l : Launch) (id : Nat) : List Workgroup :=
  let g := ((l.param 8).toNat, (l.param 9).toNat, (l.param 10).toNat)
  let init := (List.range 8).map l.param
  (List.range (gridSize g)).map (fun i =>
    let x := i % g.1
    let y := i / g.1 % g.2.1
    let z := i / (g.1 * g.2.1)
    l.group id i (x, y, z) g init (x * l.strides.1 + y * l.strides.2.1 + z * l.strides.2.2))

/-- The workgroups of a query's ranges. -/
def Launch.rangeGroups (l : Launch) (id : Nat) (rs : List (W64 × Nat × Nat)) : List Workgroup :=
  (List.range rs.length).map (fun i =>
    let r := rs.getD i (0, 0, 0)
    l.group id i (i, 0, 0) (rs.length, 1, 1)
      ([r.1, BitVec.ofNat 64 r.2.1, BitVec.ofNat 64 r.2.2] ++ (List.range 5).map (fun j => l.param (3 + j))) (r.2.1 * l.rowBytes))

/-- The workgroups of a stage's batch (R248): the input header, the first entry and the count of each. -/
def Launch.batchGroups (l : Launch) (id : Nat) : List Workgroup :=
  let x := l.ranges.headD (0, 0, 0)
  let g := ((l.param 8).toNat, (l.param 9).toNat, (l.param 10).toNat)
  (List.range (gridSize g)).map (fun i =>
    l.group id i (i, 0, 0) g ([x.1, BitVec.ofNat 64 (x.2.1 + i * l.rows), BitVec.ofNat 64 (min l.rows (x.2.2 - i * l.rows))] ++
      (List.range 5).map (fun j => l.param (3 + j))) (i * l.strides.1))

/-- The run of a launch starts with its workgroups. -/
def State.startRun (s : State) (id : Nat) (gs : List Workgroup) : State :=
  (s.addGroups gs).setLaunch id { s.launchAt id with phase := .running, total := gs.length }

/-- Two runs conflict (R259). -/
def Launch.conflicts (p q : Launch) : Bool :=
  decide (p.writeMask &&& (q.readMask ||| q.writeMask) ≠ 0) || decide (q.writeMask &&& (p.readMask ||| p.writeMask) ≠ 0)

/-- Another run of the phase that this one must wait for (R259): it conflicts, has not ended, and has a lower rank, the
same rank and an earlier acceptance, or has started. -/
def State.mustFollow (s : State) (id : Nat) (l : Launch) : Bool :=
  s.launches.any (fun x => decide (x.1 ≠ id) && x.2.runOf l.asid l.world && !x.2.between &&
    decide (x.2.worldPhase = l.worldPhase) && x.2.conflicts l &&
    (decide (x.2.rank < l.rank) || (decide (x.2.rank = l.rank) && decide (x.2.order < l.order)) || x.2.startedOf l.asid l.world))

/-- What the start of a query run gives: a status code, a wait, or its ranges with the query as it was read. -/
inductive QueryStart where
  | stop (code : Byte)
  | later
  | ranges (q : Query) (rs : List (W64 × Nat × Nat))

/-- The front end checks a query and its world, and forms the ranges of the run (R230, R259, R265). Its cursor is open within this step
only, and leaves no trace in the cursor's record (R356; log entry 69). -/
def State.queryStart (s : State) (id : Nat) (l : Launch) : Got QueryStart :=
  let who := s.frontWho id
  (s.queryAt who l.query.toNat).bind (fun s q => match q with
    | none => .ok s (.stop 2)
    | some q => (s.worldDesc who q.world).bind (fun s d => match d with
      | .world d =>
        if (s.worldAt l.asid q.world).ended < l.worldPhase || s.mustFollow id (l.takeQuery (some q)) then .ok s .later
        else (s.tombFree who d q d.nbundles 0).bind (fun s ok =>
          if !ok then .ok s .later
          else (s.openCursor who l.query.toNat l.rows).bind (fun s c => match c with
            | none => .ok s (.stop 2)
            | some none => .ok s (.stop 4)
            | some (some (d, q, _, c)) => (s.allRanges who d q (2 ^ 32) c).bind (fun s rs => .ok s (.ranges q rs.1))))
      | _ => .ok s (.stop 2)))

/-! ### Cores (R10, R122, R189, R229) -/

/-- Workgroups that occupy a core. -/
def State.groupsOn (s : State) (core : Nat) : Table Workgroup :=
  s.wgs.filter (fun x => decide (x.2.core = core) && (decide (x.2.phase = .resident) || decide (x.2.phase = .leaving)))

/-- Core 64k + i of the device is withheld by bit i of %withheld k (R339). -/
def State.withheldCore (s : State) (core : Nat) : Bool := (Table.get 0#64 s.withheld (core / 64)).getLsbD (core % 64)

/-- Warp slots in use on a core. -/
def State.warpSlots (s : State) (core : Nat) : List Nat :=
  (s.groupsOn core).flatMap (fun x => x.2.warps.map (fun k => (s.warpAt k).slot))
def State.wgSlots (s : State) (core : Nat) : List Nat := (s.groupsOn core).map (fun x => x.2.slot)

/-- The first n numbers below a limit that are not in a list. -/
def freeNumbers (limit n : Nat) (used : List Nat) : List Nat := ((List.range limit).filter (fun i => !used.contains i)).take n

/-- The core has room for a workgroup: residency slots, scratchpad and engine. -/
def State.roomOn (s : State) (core : Nat) (l : Launch) : Bool :=
  let gs := s.groupsOn core
  let lines := (gs.map (fun x => (s.launchAt x.2.launch).lines)).sum
  let warps := (gs.map (fun x => x.2.nwarps)).sum
  !s.withheldCore core && decide (gs.length < 32) && decide (warps + l.nwarps ≤ 64) && decide (lines + l.lines ≤ 4096) &&
  (!l.matrix || !gs.any (fun x => (s.launchAt x.2.launch).matrix))

/-- Workgroups of a kernel that a core holds on an empty device. -/
def perCore (nwarps lines : Nat) (matrix : Bool) : Nat :=
  min (min 32 (64 / nwarps)) (min (if lines = 0 then 32 else 4096 / lines) (if matrix then 1 else 32))

/-- Workgroups of a kernel that the eligible cores of a list hold on an empty device. -/
def State.capacityOf (s : State) (cores : List Nat) (nwarps lines : Nat) (matrix : Bool) : Nat :=
  (cores.filter (fun c => !s.withheldCore c)).length * perCore nwarps lines matrix

/-- Workgroups of a kernel that the eligible cores hold on an empty device (R269). -/
def State.capacity (s : State) (nwarps lines : Nat) (matrix : Bool) : Nat := s.capacityOf (List.range 192) nwarps lines matrix

/-- Home die of a workgroup: its tile address's hint, or its index mod 4 (R229). This translation never faults. -/
def State.homeDie (s : State) (g : Workgroup) : Nat :=
  let other := g.wgx.toNat % 4
  if (s.launchAt g.launch).param 12 = 0 then other
  else match s.walk g.asid g.tileAddr.toNat with
    | .leaf _ e _ => if leafRemote e then other else bitsOf e 14 13
    | .fault _ _ => other

/-- The walk of a tile address uses its leaf (R170). -/
def State.tookHome (s : State) (g : Workgroup) : State :=
  if (s.launchAt g.launch).param 12 = 0 ∨ g.parcel.isSome = true then s
  else match s.walk g.asid g.tileAddr.toNat with
    | .leaf a e l => s.useLeaf g.asid g.tileAddr.toNat accRead a e l
    | .fault _ _ => s

/-- A cohort cannot be resident at once on an empty device: a die's cores do not hold the workgroups whose home it is (R230). -/
def State.cohortOver (s : State) (l : Launch) (gs : List Workgroup) : Bool :=
  (List.range 4).any (fun d =>
    decide (s.capacityOf (List.range' (48 * d) 48) l.nwarps l.lines l.matrix < (gs.filter (fun g => decide (s.homeDie g = d))).length))

/-- A cancelled or denied access of the front end to a query or its world: work that R358 does not name ends the domain
of the context's root RCB, and the launch ends with status 2. -/
def State.dropQuery (s : State) (id : Nat) : State :=
  let l := s.launchAt id
  let s1 := s.endDomain l.asid (s.rootDomain l.asid)
  if (s1.launchAt id).code = 0 then s1.stopLaunch id 2 else s1

/-- RUN_START (R230). -/
def execRunStart (id : Nat) (s : State) : Host.Outcome State Fault Refusal :=
  let l := s.launchAt id
  if l.phase ≠ .accepted ∨ l.code ≠ 0 ∨ s.launchParked id = true then .next s
  else match l.kind with
    | .query => (match (s.queryStart id l).atomic s (.launch id) with
      | .ok s1 (.stop c) => .next (s1.stopLaunch id c)
      | .ok s1 .later => .next s1
      | .ok s1 (.ranges q rs) =>
        let l1 := { l.takeQuery (some q) with ranges := rs }
        .next ((s1.setLaunch id l1).startRun id (l1.rangeGroups id rs))
      | .denied s1 => .next (s1.dropQuery id)
      | g => .next g.state)
    | _ =>
      let gs := if l.staged then l.batchGroups id else l.gridGroups id
      if l.cohort && s.cohortOver l gs then .next (s.stopLaunch id 3)
      else .next (s.startRun id gs)

/-! ### Budgets (R220) -/

/-- A core-time word: its key in the table of budgets. -/
def budgetKey (asid : Nat) (rcb : W64) : Nat := 2 ^ 64 * asid + rcb.toNat
def State.budgetAt (s : State) (k : Nat) : Budget := Table.get { owed := 0, sent := 0, out := true } s.budgets k
def State.setBudget (s : State) (k : Nat) (b : Budget) : State := { s with budgets := Table.set s.budgets k b }

/-- Read a core-time word, subtracting what it is charged, down to 0; what it holds then. On a remote page the subtract is a
compare-and-swap, made again where the word has changed since it was read. -/
def State.subtract (s : State) (k units : Nat) : Got Nat :=
  let who := engineWho (k / 2 ^ 64) 0 9 0 0 (.charge k)
  let va := k % 2 ^ 64 + 8
  match s.reach who (if units = 0 then accRead else accAtomic) [(va, 8)] with
  | .ok s1 p => (match s1.segBytes who.waiter 0 p with
    | none => .wait (s1.ask who.waiter 0 p)
    | some bs =>
      let v := bytesVal bs - units
      if units = 0 then .ok s1 v
      else match p with
        | (.away _ _ _, _) :: _ => (match s1.answer who.waiter 1 with
          | some old => if bytesVal old = bytesVal bs then .ok s1 v else .wait (s1.forget who.waiter)
          | none => .wait (s1.askAtomic who.waiter 1 8 9 (BitVec.ofNat 64 (bytesVal bs)) (BitVec.ofNat 64 v) p))
        | _ => .ok (s1.storeSegs who.waiter p (valBytes 8 v)) v)
  | .fault s1 d i => .fault s1 d i
  | .full s1 => .full s1
  | .denied s1 => .denied s1
  | .wait s1 => .wait s1

/-- What a word is owed is under way, unless an earlier subtract of it is. -/
def Budget.send (b : Budget) : Budget := if b.sent = 0 then { b with owed := 0, sent := b.owed } else b

/-- A charge is made, or is under way while its access waits. A denied one, as work that R358 does not name, ends the domain of the
context's root RCB. -/
def State.chargeOne (s : State) (k : Nat) : State :=
  let b := (s.budgetAt k).send
  let s1 := s.setBudget k b
  if s.faults.any (fun x => x.2.waiters.contains (.charge k)) then s
  else match (s1.subtract k b.sent).atomic s1 (.charge k) with
    | .ok s2 v => s2.setBudget k { b with sent := 0, out := decide (v = 0) }
    | .denied s2 => (s2.setBudget k { b with owed := 0, sent := 0 }).endDomain (k / 2 ^ 64) (s.rootDomain (k / 2 ^ 64))
    | g => g.state

/-- The keys of a launch's core-time words. -/
def Launch.budgets (l : Launch) : List Nat := l.rcbs.map (budgetKey l.asid)

/-- Read the core-time words of a launch, save those found at 0, which are read again at the next pass. -/
def State.lookBudgets (s : State) (l : Launch) : State :=
  (l.budgets.filter (fun k => match Table.find s.budgets k with
    | some b => !b.out
    | none => true)).foldl State.chargeOne s

/-- A core-time word on the path of a launch has been read as 0, or has not been read yet. -/
def State.coreTimeOut (s : State) (l : Launch) : Bool := l.budgets.any (fun k => (s.budgetAt k).out)

/-- Count a charge against the core-time words of a launch. -/
def State.oweAll (s : State) (l : Launch) (units : Nat) : State :=
  l.budgets.foldl (fun s k => s.setBudget k { s.budgetAt k with owed := (s.budgetAt k).owed + units }) s

/-- Every workgroup's residency since the last pass is counted in whole warp-microseconds, of 250 reference ticks each. -/
def State.countAll (s : State) : List (Nat × Workgroup) → State
  | [] => s
  | (k, g0) :: gs =>
    let g := g0.clock s.tick
    State.countAll ((s.setWg k { g with spent := g.spent % 250 }).oweAll (s.launchAt g.launch) (g.spent / 250)) gs

/-- Pre-emption of the workgroups whose budgets are exhausted. -/
def State.exhaust (s : State) : State :=
  { s with wgs := s.wgs.map (fun x =>
      if decide (x.2.phase = .resident) && s.coreTimeOut (s.launchAt x.2.launch) then (x.1, { x.2 with preempt := true }) else x) }

/-- Words that no launch is under and that are owed nothing are of no more interest. -/
def State.pruneBudgets (s : State) : State :=
  { s with budgets := s.budgets.filter (fun x => decide (x.2.owed ≠ 0) || decide (x.2.sent ≠ 0) ||
      s.launches.any (fun l => decide (l.2.phase ≠ .ended) && l.2.budgets.contains x.1)) }

/-- BUDGET_CHARGE_PASS (R220): what workgroups have been resident since the last pass is charged, and every core-time word is
read again. -/
def execBudgetChargePass (s : State) : Host.Outcome State Fault Refusal :=
  let s1 := (s.countAll s.wgs).pruneBudgets
  .next ((s1.budgets.map (·.1)).foldl State.chargeOne s1).exhaust

/-! ### Home dies and residency (R122, R229, R304) -/

/-- The core a workgroup is placed on: the first with room on its home die, counting up from its tile address. -/
def State.coreFor (s : State) (g : Workgroup) : Option Nat :=
  let die := s.homeDie g
  let start := g.tileAddr.toNat / 2 ^ 21 % 48
  ((List.range 48).map (fun i => 48 * die + (start + i) % 48)).find? (fun c => s.roomOn c (s.launchAt g.launch))

/-- The lowest free image slot of a context (R304). -/
def State.freeImage (s : State) (asid : Nat) : Option Nat :=
  let used := (s.wgs.filter (fun x => decide (x.2.asid = asid) && decide (x.2.phase ≠ .done))).filterMap (fun x => x.2.image)
  (List.range (s.ctxAt asid).slots).find? (fun i => !used.contains i)

/-- The context may have workgroups become resident. -/
def State.ctxRuns (s : State) (asid : Nat) : Bool :=
  decide ((s.ctxAt asid).state = .running) || decide ((s.ctxAt asid).state = .defined)

/-- One warp of a workgroup as it becomes resident (R122). -/
def warpFor (key : Nat) (g : Workgroup) (entry : W64) (index slot : Nat) (live : Lanes) (frames : Table LaneFrame) : Warp :=
  { Warp.blank with
      wg := key, index := index, slot := slot, sregs := g.init, live := live, frames := frames,
      units := if live = 0 then [] else [(lowestSlice live, { IUnit.blank with lanes := live, pc := entry })] }

/-! ### Lanes of recursion routines (R270 to R272, R275) -/

/-- The unfolding engine of a die for an object: unit 7. -/
def recWho (o : RecObj) (key : Nat) : Who := engineWho o.asid o.die 7 0 0 (.recursion key)

/-- Fields of a recursion descriptor (R269). -/
def recF (v : List W64) : Nat := (v.getD 4 0).toNat % 512
def recFan (v : List W64) : Nat := (v.getD 4 0).toNat / 2 ^ 12 % 16
def recD (v : List W64) : Nat := (v.getD 4 0).toNat / 2 ^ 16 % 128
def recTarget (v : List W64) : Nat := (v.getD 4 0).toNat / 2 ^ 32
def recStack (v : List W64) : Nat := (v.getD 5 0).toNat
def recArena (v : List W64) : Nat := (v.getD 6 0).toNat
def recEntry (v : List W64) (routine : Nat) : W64 := v.getD routine 0

/-- Address of arena frame i (R271). -/
def arenaAddr (v : List W64) (i : Nat) : Nat := recArena v + i * (32 + recF v)

/-- An arena frame as the engine reads it. -/
structure ArenaFrame where
  level  : Nat
  child  : Nat
  parent : Nat
  kids   : Nat
  first  : Nat
  result : W64
  bytes  : List Byte

def State.arenaFrame (s : State) (who : Who) (v : List W64) (i : Nat) : Got ArenaFrame :=
  (s.partBytes who (arenaAddr v i) (32 + recF v)).bind (fun s bs =>
    let w := (words64 3 bs).map BitVec.toNat
    .ok s { level := w.getD 0 0 / 2 ^ 36 % 64, child := w.getD 0 0 / 2 ^ 32 % 16, parent := w.getD 0 0 % 2 ^ 32,
            kids := w.getD 1 0 / 2 ^ 32 % 16, first := w.getD 1 0 % 2 ^ 32, result := BitVec.ofNat 64 (w.getD 2 0), bytes := bs.drop 32 })

/-- Results of k arena frames from one on. -/
def State.arenaResults (s : State) (who : Who) (v : List W64) : Nat → Nat → Got (List W64)
  | 0, _ => .ok s []
  | k + 1, i => (s.readVal who (arenaAddr v i + 16) 8).bind (fun s r =>
    (State.arenaResults s who v k (i + 1)).bind (fun s rs => .ok s (BitVec.ofNat 64 r :: rs)))

/-- Write a frame into a lane's private scratch, four bytes at a time (R164, R270). -/
def State.putFrame (s : State) (who : Who) (base L : Nat) : Nat → List Byte → Nat → Got Unit
  | 0, _, _ => .ok s ()
  | n + 1, bs, o => (s.put who (scratchAddr base o L) (bs.take 4)).bind (fun s _ =>
    State.putFrame s who base L n (bs.drop 4) (o + 4))

/-- A lane's context at the start of a routine in a launch. -/
def State.laneFrame (s : State) (who : Who) (obj routine : Nat) (depth : Bool) (v : List W64) (i : Nat) : Got LaneFrame :=
  (s.arenaFrame who v i).bind (fun s f =>
    (if routine = 2 then s.arenaResults who v f.kids f.first else .ok s []).bind (fun s rs =>
      .ok s { obj := obj, routine := routine, frame := i, bytes := f.bytes, level := f.level, child := f.child, leaf := false,
              made := [], pos := 0, results := rs, result := 0, depth := depth, stack := [], count := 0 }))

/-- The lanes of one warp of a routine launch, from a lane on, with their frames written. -/
def State.seatLanes (s : State) (who : Who) (obj routine : Nat) (depth : Bool) (v : List W64) (base : Nat) :
    List Nat → Nat → Got (Table LaneFrame)
  | [], _ => .ok s []
  | i :: is, L => (s.laneFrame who obj routine depth v i).bind (fun s f =>
    (s.putFrame who base L (recF v / 4) f.bytes 0).bind (fun s _ =>
      (State.seatLanes s who obj routine depth v base is (L + 1)).bind (fun s t => .ok s ((L, f) :: t))))

/-- Routine code and phase of an object's state. -/
def routineOf : RecPhase → Nat × Bool
  | .base _ => (1, false)
  | .combine _ => (2, false)
  | .depth _ => (0, true)
  | _ => (0, false)

/-- The frames of warp `index` of a routine workgroup: those its lanes take. -/
def framesFor (o : RecObj) (first index : Nat) : List Nat := ((o.frames.drop (first + 32 * index)).take 32)

/-- Seat every warp of a routine workgroup. -/
def State.seatWarps (s : State) (key : Nat) (g : Workgroup) (obj first : Nat) (o : RecObj) : List Nat → Got (List (Lanes × Table LaneFrame))
  | [] => .ok s []
  | i :: is =>
    let fs := framesFor o first i
    let r := routineOf o.phase
    (s.seatLanes (recWho o obj) obj r.1 r.2 o.words (s.scrbase g i) fs 0).bind (fun s t =>
      (State.seatWarps s key g obj first o is).bind (fun s ts =>
        .ok s ((Lanes.of (fun L => decide (L < fs.length)), t) :: ts)))

/-- The recursion object of a key. -/
def State.objAt (s : State) (k : Nat) : RecObj :=
  Table.get { die := 0, asid := 0, seq := 0, desc := 0, words := [], phase := .ended, arena := 0, made := 0, levels := [], base := none,
              dead := false, ends := [], launch := none, frames := [], queue := none } s.objs k
def State.setObj (s : State) (k : Nat) (o : RecObj) : State := { s with objs := Table.set s.objs k o }

/-- Live lanes and contexts of each warp of a workgroup that becomes resident. -/
def State.seats (s : State) (key : Nat) (g : Workgroup) : Got (List (Lanes × Table LaneFrame)) :=
  match g.routine with
  | none => .ok s (List.replicate g.nwarps (BitVec.allOnes 32, []))
  | some (obj, first) => s.seatWarps key g obj first (s.objAt obj) (List.range g.nwarps)

/-- List the warps of a workgroup under the next keys. -/
def State.addWarps (s : State) (key : Nat) (g : Workgroup) (entry : W64) : List (Lanes × Table LaneFrame) → List Nat → Nat → State
  | x :: xs, slot :: slots, i =>
    State.addWarps ((s.setWarp s.nextId (warpFor key g entry i slot x.1 x.2)).fresh) key g entry xs slots (i + 1)
  | _, _, _ => s

/-- Warps that become resident wait for their first turn from now on. -/
def State.seatTurns (s : State) (ws : List Nat) : State :=
  { s with order := s.order.filter (fun x => !ws.contains x.1) ++ ws.map (fun k => (k, 0, s.tick)) }

/-- Where the code of a workgroup begins: a parcel's record names its own. -/
def State.entryOf (s : State) (g : Workgroup) : W64 :=
  match g.parcel with
  | some ws => ws.getD 0 0
  | none => (s.launchAt g.launch).entry

/-- A workgroup becomes resident on a core (R122), with an image slot. -/
def State.seatOn (s : State) (key core : Nat) : Got Unit :=
  let g0 := s.wgAt key
  let used := s.wgSlots core
  let g1 := { g0 with core := core, slot := (freeNumbers 32 1 used).headD 0, image := s.freeImage g0.asid, phase := .resident,
                      since := s.tick }
  ((s.tookHome g0).seats key g1).bind (fun s1 xs =>
    let g := { g1 with warps := List.range' s1.nextId g0.nwarps }
    let s2 := (s1.addWarps key g (s.entryOf g) xs (freeNumbers 64 g.nwarps (s.warpSlots core)) 0).setWg key g
    .ok (State.seatTurns (s2.makeRoom core (s2.cacheUse core)) g.warps) ())

/-- A workgroup may become resident, apart from a core for it: its context runs, its launch goes on, its budgets last,
an image slot is free (R220, R303, R304). -/
def State.admitted (s : State) (g : Workgroup) : Bool :=
  let l := s.launchAt g.launch
  s.ctxRuns g.asid && decide (l.code = 0) && !s.coreTimeOut l && ((s.freeImage g.asid).isSome || g.image.isSome)

/-- Workgroups before this one of its run that have not been resident: in an ordered run any of them (R230), else one that has a
core to be placed on, since placement is in ascending order (R229). -/
def State.earlierPending (s : State) (g : Workgroup) : Bool :=
  s.wgs.any (fun x => decide (x.2.launch = g.launch) && decide (x.2.phase = .pending) && x.2.parcel.isNone &&
    decide (x.2.wgx.toNat < g.wgx.toNat) && ((s.launchAt g.launch).ordered || (s.coreFor x.2).isSome))

/-- Become resident on the core that placement gives. -/
def State.seat (s : State) (key : Nat) : Option (Got Unit) :=
  let g := s.wgAt key
  if !s.admitted g then none else (s.coreFor g).map (fun c => s.seatOn key c)

/-- A cohort becomes resident in one step, or not at all. -/
def State.seatAll (s : State) : List Nat → Option State
  | [] => some s
  | k :: ks => match s.seat k with
    | some (.ok s1 _) => State.seatAll s1 ks
    | _ => none

/-- What waits where a routine's frames are written. -/
def Workgroup.waiter (g : Workgroup) : Waiter :=
  match g.routine with
  | some (obj, _) => .recursion obj
  | none => .other g.asid

/-- WORKGROUP_RESIDENT (R122, R230): once its core-time words have been read. -/
def execWorkgroupResident (wg : Nat) (s0 : State) : Host.Outcome State Fault Refusal :=
  let s := s0.lookBudgets (s0.launchAt (s0.wgAt wg).launch)
  let g := s.wgAt wg
  let l := s.launchAt g.launch
  if g.phase ≠ .pending ∨ g.parcel.isSome = true then .next s
  else if l.cohort then
    let ks := (s.wgs.filter (fun x => decide (x.2.launch = g.launch) && decide (x.2.phase = .pending))).map (·.1)
    .next ((s.seatAll ks).getD s)
  else if s.earlierPending g then .next s
  else match s.seat wg with
    | none => .next s
    | some r => (match r.atomic s g.waiter with
      | .denied s1 => .next (s1.endDomain l.asid l.domain)
      | r => .next r.state)

/-! ### Ends (R123, R224) -/

/-- A store of the workgroup's units has not been performed. -/
def State.storesOut (s : State) (g : Workgroup) : Bool :=
  s.pending.any (fun a => a.posted && a.answer.isNone && (match a.owner with
    | .unit w _ => g.warps.contains w
    | _ => false))

/-- WORKGROUP_DONE (R123): every warp has ended and its stores are performed. -/
def execWorkgroupDone (wg : Nat) (s : State) : Host.Outcome State Fault Refusal :=
  let g := s.wgAt wg
  if g.phase = .resident ∧ g.warps.all (fun k => decide ((s.warpAt k).live = 0)) = true ∧ s.storesOut g = false then
    let s1 := s.setCoreAt g.core ((s.coreAt g.core).release wg)
    .next (s1.setWg wg { g.clock s.tick with phase := .done, image := none, preempt := false })
  else .next s

/-- Work of a launch or family is left: workgroups not done, parcels queued, parcels whose completion is to come. -/
def State.familyBusy (s : State) (id : Nat) : Bool :=
  s.wgs.any (fun x => decide (x.2.launch = id) && (decide (x.2.phase ≠ .done) || x.2.parcel.isSome)) ||
  s.cores.any (fun x => x.2.parcels.any (fun p => decide (p.family = id)))

/-- The status word of a launch (R223). -/
def Launch.status (l : Launch) : Nat := l.code.toNat + 2 ^ 32 * l.runs.toNat

/-- The access that ends a launch, now due: the status store, then the arrival. -/
def State.endAccess (s : State) (id : Nat) : Got Unit :=
  let l := s.launchAt id
  if l.phase = .storing then s.writeVal (s.frontWho id) (l.record.toNat + 56) 8 l.status
  else s.arriveOnce (s.frontWho id) l.ref 0

/-- The phase after an access of a launch's end. -/
def Launch.endNext (l : Launch) : Launch := { l with phase := if l.phase = .storing then .arriving else .ended }

/-- A store of a launch's units to a remote page has not been performed: units that have been removed leave theirs (R220). -/
def State.launchOut (s : State) (id : Nat) : Bool :=
  s.pending.any (fun a => a.posted && a.answer.isNone && (match a.owner with
    | .unit w _ => decide ((s.wgAt (s.warpAt w).wg).launch = id)
    | _ => false))

/-- Perform the accesses of a launch's end as far as they go; a denied one is not made. The arrival waits until the stores of its
workgroups and the status store have been performed (R151, R224): Got.atomic. -/
def State.endLaunch (s : State) (id : Nat) : Nat → State
  | 0 => s
  | n + 1 =>
    if (s.launchAt id).phase = .ended || s.launchOut id then s
    else match (s.endAccess id).atomic s (.launch id) with
      | .ok s1 _ => State.endLaunch (s1.setLaunch id (s1.launchAt id).endNext) id n
      | .denied s1 => State.endLaunch (s1.setLaunch id (s1.launchAt id).endNext) id n
      | g => g.state

/-- Where a launch's end begins: a routine launch stores no status, a parcel family only arrives. -/
def LaunchKind.endPhase : LaunchKind → LaunchPhase
  | .grid => .storing
  | .query => .storing
  | .stage _ _ => .storing
  | .parcels => .arriving
  | .routine _ => .ended

/-- A run of a launch is complete (R227). -/
def Launch.runDone (l : Launch) : Launch :=
  if l.repeats then { l with phase := .prologue, runs := l.runs + 1, ppc := 0, total := 0 }
  else { l with phase := l.kind.endPhase, runs := l.runs + 1 }

/-- After a run: the launch goes back to its prologue, or ends. -/
def State.finishRun (s : State) (id : Nat) : State := if (s.launchAt id).phase = .prologue then s else s.endLaunch id 2

/-- Launches of a context that have not ended, by sequence number. -/
def State.liveSeqs (s : State) (asid : Nat) : List Nat :=
  (s.launches.filter (fun x => decide (x.2.asid = asid) && decide (x.2.phase ≠ .ended))).map (fun x => x.2.seq)

/-- Insert a held sample by launch sequence number, launch-linear index and post number. -/
def insertHeld (h : Nat × Nat × Nat × Nat) : List (Nat × Nat × Nat × Nat) → List (Nat × Nat × Nat × Nat)
  | [] => [h]
  | x :: xs =>
    let before := decide (h.1 < x.1) || (decide (h.1 = x.1) && (decide (h.2.1 < x.2.1) ||
      (decide (h.2.1 = x.2.1) && decide (h.2.2.1 < x.2.2.1))))
    if before then h :: x :: xs else x :: insertHeld h xs

/-- In ordered mode, the samples of launches that have ended, no earlier launch being left, join the carry (R298). -/
def NetSlot.settle (n : NetSlot) (live : List Nat) : NetSlot :=
  let settled := fun (h : Nat × Nat × Nat × Nat) => live.all (fun q => decide (h.1 < q))
  let done := (n.held.filter settled).foldl (fun acc h => insertHeld h acc) []
  { n with carry := n.carry ++ done.map (fun h => h.2.2.2), held := n.held.filter (fun h => !settled h) }

def State.settleNets (s : State) : State :=
  { s with nets := s.nets.map (fun x => (x.1, x.2.settle (s.liveSeqs ((x.2.words.getD 0 0).toNat / 2 ^ 32 % 2 ^ 16)))) }

/-- A launch goes to its end: one that has not been accepted takes the completion reference from its record. -/
def State.toEnd (s : State) (id : Nat) (l : Launch) : Launch :=
  { l with phase := l.kind.endPhase, ref := if l.phase = .submitted then s.recordRef id l else l.ref }

/-- LAUNCH_END (R224, R227): the end of a run, an early stop, or the accesses of an end that were held. -/
def execLaunchEnd (id : Nat) (s : State) : Host.Outcome State Fault Refusal :=
  let l := s.launchAt id
  if l.phase = .ended ∨ s.launchParked id = true then .next s
  else if l.phase = .storing ∨ l.phase = .arriving then .next (s.endLaunch id 2).settleNets
  else if l.code ≠ 0 then
    (if s.familyBusy id then .next s
     else match decide (l.phase = .submitted), s.partBytes (s.frontWho id) l.record.toNat 64 with
       | true, .wait s1 => .next s1
       | _, _ => .next (((s.forget (.launch id)).setLaunch id (s.toEnd id l)).endLaunch id 2).settleNets)
  else if l.phase = .running ∧ s.familyBusy id = false then .next ((s.setLaunch id l.runDone).finishRun id).settleNets
  else .next s

/-! ### DIST and FIXUP (R231, R232) -/

/-- DIST (R231). -/
def execDist (b a : BitVec 7) (s : State) :=
  let ops := [sblock .a a 3, ss .b b]
  s.issue acceptNone ops false (fun s =>
    let v := (s.valueAt intConsts ops .b 0).toNat
    let T := v % 2 ^ 32
    let I := v / 2 ^ 32
    if I = 0 ∨ T % I ≠ 0 then .trap .illegalOp s.ir.toNat
    else
      let P := gridSize s.g.grid
      let w := s.g.wgx.toNat
      let first := w * T / P
      let last := (w + 1) * T / P
      let e := s.regAt ops .a
      let flags := first / I * 2 ^ 32 + (if last % I ≠ 0 then 2 else 0) + (if first % I ≠ 0 then 1 else 0)
      .done (((s.setSreg e (BitVec.ofNat 64 first)).setSreg (e + 1) (BitVec.ofNat 64 last)).setSreg (e + 2) (BitVec.ofNat 64 flags)))

/-- Every ready word of the partials reads 1. -/
def State.partialsReady (s : State) (base stride n : Nat) : Nat → Nat → Got Bool
  | 0, _ => .ok s true
  | k + 1, w => (s.readVal s.who (base + w * stride + 4 * n) 4).bind (fun s v =>
    if v = 1 then State.partialsReady s base stride n k (w + 1) else .ok s false)

/-- The partials' elements, as lists of words. -/
def State.partials (s : State) (base stride n : Nat) : Nat → Nat → Got (List (List W32))
  | 0, _ => .ok s []
  | k + 1, w => (s.partBytes s.who (base + w * stride) (4 * n)).bind (fun s bs =>
    (State.partials s base stride n k (w + 1)).bind (fun s ps => .ok s (words32 n bs :: ps)))

/-- The sums of partials, left to right. -/
def sumPartials : List (List W32) → List W32
  | [] => []
  | p :: ps => ps.foldl (fun acc q => (acc.zip q).map (fun x =>
      BitVec.ofNat 32 (addF f32 0 (decodeF f32 x.1.toNat) (decodeF f32 x.2.toNat)).1)) p

/-- FIXUP (R232): a resume point that waits for the ready words. -/
def execFixup (b : BitVec 7) (s : State) :=
  let ops := [sblock .b b 4]
  s.issue acceptNone ops false (fun s =>
    let e := s.regAt ops .b
    let dest := (s.given.sreg e).toNat
    let base := (s.given.sreg (e + 1)).toNat
    let x := (s.given.sreg (e + 2)).toNat
    let y := (s.given.sreg (e + 3)).toNat
    let stride := x % 2 ^ 32
    let n := x / 2 ^ 32
    let w0 := y / 2 ^ 32
    let w1 := y % 2 ^ 32
    if n = 0 ∨ n % 32 ≠ 0 ∨ 16384 < n ∨ w1 < w0 then .trap .illegalOp s.ir.toNat
    else if dest % 128 ≠ 0 ∨ base % 4 ≠ 0 ∨ stride % 128 ≠ 0 then .trap .misalign (Lanes.lowest s.act)
    else
      let k := w1 - w0 + 1
      let act := (s.partialsReady base stride n k w0).bind (fun s ready =>
        if !ready then .ok s false
        else (s.partials base stride n k w0).bind (fun s ps =>
          (s.put s.who dest ((sumPartials ps).flatMap (fun v => valBytes 4 v.toNat))).bind (fun s _ => .ok s true)))
      (act.atomic s s.who.waiter).eff (fun s1 done => if done then .done s1 else .held s1))

end Sys2Proof.Machine
end

