-- ==== Sys2Proof/Machine/Queue.lean ====
section
/-! DEFINITION. User queues, letterboxes, the mapper and the command fetcher, parcels and the postmaster, stage queues
and their manager, deadlines (R233 to R253). -/
namespace Sys2Proof.Machine

/-! ### Descriptors (R233) -/

/-- Fields of a queue's descriptor. -/
def Queue.word (q : Queue) (i : Nat) : Nat := (q.desc.getD i 0).toNat
def Queue.asid (q : Queue) : Nat := q.word 1 % 2 ^ 16
def Queue.size (q : Queue) : Nat := 2 ^ (q.word 1 / 2 ^ 16 % 32)
def Queue.baseClass (q : Queue) : Nat := q.word 1 / 2 ^ 21 % 4
def Queue.critical (q : Queue) : Bool := (q.desc.getD 1 0).getLsbD 23
def Queue.stream (q : Queue) : Nat := q.word 1 / 2 ^ 24 % 32
def Queue.setEnabled (q : Queue) (on : Bool) : Queue :=
  let d := (q.desc ++ List.replicate 8 0#64).take 8
  let w := d.getD 1 0
  { q with desc := d.set 1 (if on then w ||| 1#64 <<< 32 else w &&& ~~~ (1#64 <<< 32)) }

/-- The front end for a queue: unit 9. -/
def State.queueWho (s : State) (q : Nat) : Who := engineWho (s.queueAt q).asid 0 9 0 0 (.queue q)

/-- A fault holds an access of the queue. -/
def State.queueParked (s : State) (q : Nat) : Bool := s.faults.any (fun x => x.2.waiters.contains (.queue q))

/-- An uncontained error in the domain of a context's root RCB (R358). -/
def State.endRoot (s : State) (asid : Nat) : State := s.endDomain asid (s.rootDomain asid)

/-! ### Report writes (R233, R237, R241) -/

/-- The number of a ring packet that a report carries is the low half of the status word's upper half. -/
def stopStatus (ring : Nat) (code : Nat) : W64 := BitVec.ofNat 64 (ring % 2 ^ 32 * 2 ^ 32 + code)

/-- One report write that is due: a fault holds the queue, a denied one is not made. -/
def State.reportOne (s : State) (q off : Nat) (v : W64) (paid : Queue → Queue) : State :=
  let x := s.queueAt q
  match (s.writeVal (s.queueWho q) (x.word 2 + off) 8 v.toNat).atomic s (.queue q) with
  | .ok s1 _ => s1.setQueue q { paid (s1.queueAt q) with hold := .free }
  | .denied s1 => s1.setQueue q { paid (s1.queueAt q) with hold := .free }
  | .fault s1 _ _ => s1.setQueue q { s1.queueAt q with hold := .report }
  | g => g.state

/-- Make the report writes that are due, unless one is held. -/
def State.report (s : State) (q : Nat) : State :=
  let s1 := if (s.queueAt q).owePtr && !s.queueParked q then s.reportOne q 0 (s.queueAt q).readPtr (fun x => { x with owePtr := false }) else s
  if (s1.queueAt q).oweStatus && !s1.queueParked q then s1.reportOne q 8 (s1.queueAt q).status (fun x => { x with oweStatus := false }) else s1

/-- Nothing holds the queue, and it owes no report. -/
def State.queueFree (s : State) (q : Nat) : Bool :=
  !s.queueParked q && !(s.queueAt q).owePtr && !(s.queueAt q).oweStatus && s.ctxRuns (s.queueAt q).asid

/-! ### The mapper (R236 to R239) -/

/-- The look-ahead is discarded: reading begins again at the packet after those that have issued. -/
def Queue.discard (q : Queue) : Queue :=
  match q.ahead with
  | [] => q
  | f :: _ => { q with ahead := [], calls := f.before, nextRing := if f.before.isEmpty then f.ring else f.ring + 1, barred := false }

/-- The queue holds nothing read and no packet: reading begins at its read pointer. -/
def Queue.fresh (q : Queue) : Queue :=
  { q with ahead := [], calls := [], nextRing := q.readPtr.toNat, barred := false, waiting := none, started := none, tenured := false }

/-- An idle queue whose latch exceeds its read pointer becomes Waiting; an active one that has issued every packet
becomes Idle. -/
def Queue.settle (q : Queue) (tick : Nat) : Queue :=
  match q.state with
  | .idle => if q.readPtr.toNat < q.latch.toNat then { q with state := .waiting, stamp := tick } else q
  | .active =>
    if q.latch = q.readPtr ∧ q.waiting = none ∧ q.started = none ∧ q.owePtr = false then { q.fresh with state := .idle } else q
  | _ => q

/-- While the scheduler restarts, the mapper makes no slot change (R239). -/
def State.settleQueue (s : State) (q : Nat) : State := if s.restarting then s else s.setQueue q ((s.queueAt q).settle s.tick)

/-- A letterbox write (R234). -/
def State.letterbox (s : State) (q : Nat) (v : W64) : State :=
  (s.setQueue q { s.queueAt q with latch := v }).settleQueue q

/-- LETTERBOX_WRITE (R234). -/
def execLetterboxWrite (q : Nat) (v : W64) (s : State) : Host.Outcome State Fault Refusal :=
  if q < 1024 then .next (s.letterbox q v) else .next s

/-- LETTERBOX_WINDOW_WRITE (R234): any other write to the window is discarded. -/
def execLetterboxWindowWrite (_offset : Nat) (_bytes : List Byte) (s : State) : Host.Outcome State Fault Refusal := .next s

/-- QUEUE_ENABLE (R236): Disabled to Idle, with read pointer and status 0. -/
def execQueueEnable (q : Nat) (s : State) : Host.Outcome State Fault Refusal :=
  let x := s.queueAt q
  if 1024 ≤ q ∨ x.state ≠ .disabled then .next s
  else
    let x1 := { (x.setEnabled true) with readPtr := 0, status := 0, state := .idle, owePtr := true, oweStatus := true, hold := .free }
    .next (((s.setQueue q x1.fresh).report q).settleQueue q)

/-- An access no longer waits on any fault-buffer entry, and what it has asked for goes unused. -/
def State.dropAccess (s : State) (o : Waiter) : State := (s.unwait o).dropAsked o

/-- The queue's packets wait for no pipeline any more: those that have ended give up their slots (R248). -/
def State.dropEnded (s : State) (q : Nat) : State := { s with pipes := s.pipes.filter (fun x => !(x.2.ended && decide (x.2.queue = q))) }

/-- QUEUE_DISABLE (R236): launches already started continue; the queue's own accesses go with it. -/
def execQueueDisable (q : Nat) (s : State) : Host.Outcome State Fault Refusal :=
  if 1024 ≤ q then .next s
  else .next (((s.setQueue q { ((s.queueAt q).setEnabled false).fresh with state := .disabled, owePtr := false, oweStatus := false, hold := .free }).dropAccess
    (.queue q)).dropEnded q)

/-- QUEUE_STATUS_CLEAR (R236): Stopped to Idle. -/
def execQueueStatusClear (q : Nat) (s : State) : Host.Outcome State Fault Refusal :=
  let x := s.queueAt q
  if x.state ≠ .stopped then .next s
  else .next (((s.setQueue q { x with state := .idle, status := 0, oweStatus := true }).report q).settleQueue q)

/-- Effective class (R236, R249). -/
def State.queueClass (s : State) (q : Queue) : Nat := if q.critical && (s.deadlineAt q.stream).raised then 0 else q.baseClass

/-- Rank by rules 1 and 2 of R238: class, and within Express the stamp of a raised stream. -/
def State.queueRank (s : State) (q : Queue) : Nat × Nat :=
  let c := s.queueClass q
  (c, if c = 0 then (if q.critical && (s.deadlineAt q.stream).raised then (s.deadlineAt q.stream).stamp.toNat else 2 ^ 64) else 0)

def pairBefore (a b : Nat × Nat) : Bool := decide (a.1 < b.1) || (decide (a.1 = b.1) && decide (a.2 < b.2))

/-- Queue a ranks above queue b by all four rules. -/
def State.ranksAbove (s : State) (a b : Nat × Queue) : Bool :=
  let ra := s.queueRank a.2
  let rb := s.queueRank b.2
  pairBefore ra rb || (decide (ra = rb) && pairBefore (a.2.stamp, a.1) (b.2.stamp, b.1))

def State.queuesIn (s : State) (st : QueueState) : Table Queue := s.queues.filter (fun x => x.2.state = st)

/-- QUEUE_ACTIVATE (R236): a slot is free and no waiting queue is ahead. -/
def execQueueActivate (q : Nat) (s : State) : Host.Outcome State Fault Refusal :=
  let x := s.queueAt q
  if x.state ≠ .waiting ∨ s.restarting = true ∨ 32 ≤ (s.queuesIn .active).length ∨
      (s.queuesIn .waiting).any (fun y => s.ranksAbove y (q, x)) = true then .next s
  else .next (s.setQueue q { x with state := .active, since := s.tick, tenured := false })

/-- The lowest-ranked active queue. -/
def State.lowest (s : State) (q : Nat) : Bool :=
  (s.queuesIn .active).all (fun y => decide (y.1 = q) || s.ranksAbove y (q, s.queueAt q))

/-- A waiting queue evicts this one (R238). -/
def State.evicts (s : State) (x : Queue) (y : Queue) : Bool :=
  pairBefore (s.queueRank y) (s.queueRank x) || (decide (s.queueRank y = s.queueRank x) && x.tenured)

/-- QUEUE_EVICT (R238): the lowest-ranked active queue, at a packet boundary, in favour of a waiting one. -/
def execQueueEvict (q : Nat) (s : State) : Host.Outcome State Fault Refusal :=
  let x := s.queueAt q
  if x.state = .active ∧ s.restarting = false ∧ 32 ≤ (s.queuesIn .active).length ∧ s.lowest q = true ∧
      x.waiting = none ∧ x.started = none ∧ x.owePtr = false ∧ s.queueParked q = false ∧
      (s.queuesIn .waiting).any (fun y => s.evicts x y.2) = true then
    .next (s.setQueue q { x.discard with state := .waiting, stamp := s.tick, tenured := false })
  else .next s

/-- Reference ticks in a millisecond (R9). -/
def tenureTicks : Nat := 250000

/-- EVICTION_TENURE_EXPIRY (R238). -/
def execEvictionTenureExpiry (q : Nat) (s : State) : Host.Outcome State Fault Refusal :=
  let x := s.queueAt q
  if x.state = .active ∧ x.since + tenureTicks ≤ s.tick then .next (s.setQueue q { x with tenured := true }) else .next s

/-- Present every latch as a fresh write. -/
def State.presentAll (s : State) : List Nat → State
  | [] => s
  | q :: qs => State.presentAll (s.letterbox q (s.queueAt q).latch) qs

/-- SCHEDULER_RESTART (R239, R337): the firmware begins to restart, from its beginning where it was restarting already; until
it is up again the mapper makes no slot change. -/
def execSchedulerRestart (s : State) : Host.Outcome State Fault Refusal := .next { s with restarting := true }

/-- The firmware has restarted (R239): it presents every latch as a fresh write. -/
def State.schedulerUp (s : State) : State :=
  if s.restarting then State.presentAll { s with restarting := false } (s.queues.map (·.1)) else s

/-! ### Deadline streams (R234, R249) -/

def State.putStamp (s : State) (n : Nat) (v : W64) : State :=
  s.setDeadline n (({ s.deadlineAt n with stamp := v }).refresh s.hbeat)
def State.putGuard (s : State) (n : Nat) (g : W32) : State :=
  s.setDeadline n (({ s.deadlineAt n with guard := g }).refresh s.hbeat)

/-- A window write of the host reaches a stream whose owner is the aperture's ASID. -/
def State.mayStamp (s : State) (host : Bool) (n : Nat) : Bool :=
  decide (n < 32) && (!host || (match s.aperture with
    | some (a, _) => decide ((s.deadlineAt n).owner.toNat = a)
    | none => false))

/-- DEADLINE_STAMP_WRITE (R234). -/
def execDeadlineStampWrite (host : Bool) (stream : Nat) (v : W64) (s : State) : Host.Outcome State Fault Refusal :=
  if s.mayStamp host stream then .next (s.putStamp stream v) else .next s

/-- DEADLINE_GUARD_WRITE (R234): a guard of 0 or with a nonzero upper half is void. -/
def execDeadlineGuardWrite (host : Bool) (stream : Nat) (v : W64) (s : State) : Host.Outcome State Fault Refusal :=
  if s.mayStamp host stream && decide (0 < v.toNat) && decide (v.toNat < 2 ^ 32) then .next (s.putGuard stream (v.setWidth 32)) else .next s

/-- DEADLINE_STREAM_RAISE and DEADLINE_STREAM_LOWER (R249): the stream as its stamp and guard say. -/
def execDeadlineStreamRaise (stream : Nat) (s : State) : Host.Outcome State Fault Refusal :=
  if (s.deadlineAt stream).on s.hbeat then .next (s.setDeadline stream { s.deadlineAt stream with raised := true }) else .next s
def execDeadlineStreamLower (stream : Nat) (s : State) : Host.Outcome State Fault Refusal :=
  if (s.deadlineAt stream).on s.hbeat then .next s else .next (s.setDeadline stream { s.deadlineAt stream with raised := false })

/-- DEADLINE_STREAM_OWNER_WRITE (R249). -/
def execDeadlineStreamOwnerWrite (stream : Nat) (asid : BitVec 16) (s : State) : Host.Outcome State Fault Refusal :=
  if stream < 32 then .next (s.setDeadline stream { s.deadlineAt stream with owner := asid }) else .next s

/-- The stream operand of DLINE is refused (R253). -/
def State.dlineBad (s : State) (asid : Nat) (b : W64) : Bool :=
  decide (b.toNat / 32 % 2 ^ 27 ≠ 0) || decide ((s.deadlineAt (b.toNat % 32)).owner.toNat ≠ asid) || decide (b.toNat / 2 ^ 32 = 0)

/-- Set stamp and guard of a stream. -/
def State.dline (s : State) (b stamp : W64) : State :=
  (s.putStamp (b.toNat % 32) stamp).putGuard (b.toNat % 32) ((b >>> 32).setWidth 32)

/-- DLINE (R253). -/
def execDline (c b : BitVec 7) (s : State) :=
  let ops := [ss .b b, ss .c c]
  s.issue acceptNone ops false (fun s =>
    let v := s.valueAt intConsts ops .b 0
    if s.dlineBad s.g.asid v then .trap .illegalOp s.ir.toNat else .done (s.dline v (s.valueAt intConsts ops .c 0)))

/-- The control complex's table denies a master the letterbox window (R178). -/
def State.windowDenies (s : State) (w : Who) : Bool := s.tableDenies 20 w.master accWrite

/-- LBOX (R253). The word issues once what the unit's lanes have posted to remote pages is performed (State.mayWord), which is
its release at .sys. -/
def execLbox (c b : BitVec 7) (s : State) :=
  let ops := [ss .b b, ss .c c]
  s.issue acceptNone ops false (fun s =>
    let q := (s.valueAt intConsts ops .b 0).toNat
    if 1024 ≤ q ∨ (s.queueAt q).asid ≠ s.g.asid then .trap .illegalOp s.ir.toNat
    else if s.windowDenies s.who then .moved s.uncontained
    else .done (s.letterbox q (s.valueAt intConsts ops .c 0)))

/-! ### Packets (R240) -/

/-- Words a type uses after its header, and the flags it may have. -/
def packetForm (t : Nat) : Option (Nat × Nat) :=
  match t with
  | 0 => some (0, 0)
  | 1 => some (1, 3)
  | 2 => some (3, 0)
  | 3 => some (2, 0)
  | 4 => some (0, 1)
  | 5 => some (3, 0)
  | 6 => some (2, 1)
  | 7 => some (2, 1)
  | 8 => some (2, 0)
  | 9 => some (1, 0)
  | 10 => some (2, 0)
  | _ => none

def packetType (v : List W64) : Nat := (v.getD 0 0).toNat % 256
def packetFlag (v : List W64) (i : Nat) : Bool := (v.getD 0 0).getLsbD (8 + i)

/-- A WAIT packet's descriptor or operand is refused: unused bits, those of a token among them, are zero (R160). -/
def waitPacketBad (d v : W64) : Bool :=
  decide (1 < condKind d) || refSpad d || condIllegal (d, v) || condCrooked 0 (d, v)

/-- A packet that is malformed as it stands (R240). -/
def packetBad (v : List W64) : Bool :=
  match packetForm (packetType v) with
  | none => true
  | some (n, flags) =>
    decide ((v.getD 0 0).toNat / 2 ^ 16 % 2 ^ 32 ≠ 0) || decide ((v.getD 0 0).toNat / 256 % 256 / (flags + 1) ≠ 0) ||
    (v.drop (1 + n)).any (fun w => decide (w ≠ 0)) ||
    (match packetType v with
     | 2 => !globalRef (v.getD 3 0)
     | 3 => decide ((v.getD 1 0).toNat % 64 ≠ 0) || decide (v.getD 2 0 = 0) || decide (2 ^ 20 < (v.getD 2 0).toNat)
     | 5 => waitPacketBad (v.getD 1 0) (v.getD 2 0)
     | 6 => decide ((v.getD 1 0).toNat % 8 ≠ 0)
     | 7 => decide (v.getD 1 0 = 0) || !globalRef (v.getD 1 0)
     | 8 => decide (256 ≤ (v.getD 1 0).toNat) || !globalRef (v.getD 2 0)
     | _ => false)

/-! ### The look-ahead stage (R235, R241) -/

/-- Address of the next packet to read, if there is one: in the innermost open buffer with packets left, else in the ring. -/
def Queue.nextAddr (q : Queue) : Option W64 :=
  match q.calls with
  | (a, _) :: _ => some a
  | [] =>
    if q.nextRing < q.latch.toNat then some (BitVec.ofNat 64 (q.word 0 + 64 * (q.nextRing % q.size))) else none

/-- Called buffers that end with the packet read: those with nothing left, innermost first. -/
def exhausted : List (W64 × Nat) → Nat
  | (_, 0) :: r => exhausted r + 1
  | _ => 0

/-- A packet has been read. A CALL is entered at once, unless it would be the fifth level. -/
def Queue.took (q : Queue) (addr : W64) (v : List W64) : Queue :=
  let ring := if q.calls.isEmpty then q.nextRing else q.nextRing - 1
  let step : List (W64 × Nat) := match q.calls with
    | (a, n) :: r => (a + 64, n - 1) :: r
    | [] => []
  let q1 := { q with nextRing := if q.calls.isEmpty then q.nextRing + 1 else q.nextRing }
  if packetType v = 3 ∧ packetBad v = false ∧ step.length < 4 then
    { q1 with calls := (v.getD 1 0, (v.getD 2 0).toNat) :: step,
              ahead := q.ahead ++ [{ addr := addr, words := v, ring := ring, before := q.calls, closes := 0 }] }
  else
    let k := exhausted step
    { q1 with calls := step.drop k, barred := decide (packetType v = 4) || packetBad v || decide (packetType v = 3),
              ahead := q.ahead ++ [{ addr := addr, words := v, ring := ring, before := q.calls, closes := k }] }

/-- Read the next packet. -/
def State.readAhead (s : State) (q : Nat) (addr : W64) : Got Unit :=
  (s.partBytes (s.queueWho q) addr.toNat 64).bind (fun s bs =>
    .ok (s.setQueue q ((s.queueAt q).took addr (words64 8 bs))) ())

/-- The queue stops (R236, R237). -/
def State.stopQueue (s : State) (q ring code : Nat) : State :=
  let x := (s.queueAt q).fresh
  ((s.setQueue q { x with state := .stopped, status := stopStatus ring code, oweStatus := true, hold := .free }).dropEnded q).report q

/-- The ring packet that a read from the queue's next position belongs to. -/
def Queue.readRing (q : Queue) : Nat := if q.calls.isEmpty then q.nextRing else q.nextRing - 1

/-- What an access of the queue leaves: a fault holds it, a denial acts as a cancel would (R358). -/
def State.queueEnd {α : Type} (s : State) (q : Nat) (h : QueueHold) (denied : State → State) (g : Got α) (f : State → α → State) : State :=
  match g.atomic s (.queue q) with
  | .ok s1 a => f s1 a
  | .fault s1 _ _ => s1.setQueue q { s1.queueAt q with hold := h }
  | .denied s1 => denied s1
  | g => g.state

/-- PACKET_LOOKAHEAD (R241): one whole packet, up to 16 ahead of issue, while its ring packet is below the latch (R234, R235).
Report writes that are due come first. -/
def execPacketLookahead (q : Nat) (s0 : State) : Host.Outcome State Fault Refusal :=
  let s := s0.report q
  let x := s.queueAt q
  match x.nextAddr with
  | none => .next s
  | some a =>
    if x.latch.toNat ≤ x.readRing then .next s
    else if x.state ≠ .active ∨ 16 ≤ x.ahead.length ∨ x.barred = true ∨ s.queueFree q = false then .next s
    else .next (s.queueEnd q .read (fun s => s.stopQueue q x.readRing 5) (s.readAhead q a) (fun s _ => s))

/-! ### The issue stage (R241) -/

/-- The header of the packet at the head is read again; where it differs, that copy and those after it are discarded
and the packet is read again in full. The packet that then stands at the head. -/
def State.rereadHead (s : State) (q : Nat) (f : Fetched) : Got Fetched :=
  (s.partBytes (s.queueWho q) f.addr.toNat 8).bind (fun s bs =>
    if bytes64 bs = f.words.getD 0 0 then .ok s f
    else ((s.setQueue q (s.queueAt q).discard).readAhead q f.addr).bind (fun s _ =>
      .ok s ((s.queueAt q).ahead.headD f)))

/-- What the issue of a packet gives. -/
inductive Issue where
  | issued (s : State)
  | hold (s : State)
  | stop (s : State) (code : Nat)

/-- The packet at the head has issued: the read pointer counts it, or the CALL whose buffers end with it. The pointer is reported
after each packet (R241). -/
def State.packetIssued (s : State) (q : Nat) : State :=
  let x := s.queueAt q
  match x.ahead with
  | [] => s
  | f :: r =>
    let counts := packetType f.words ≠ 3 ∧ f.closes = f.before.length
    let x1 := { x with ahead := r, waiting := none, started := none, barred := if packetType f.words = 4 then false else x.barred }
    let x2 := { x1 with readPtr := if counts then BitVec.ofNat 64 (f.ring + 1) else x1.readPtr, owePtr := true }
    ((s.setQueue q x2).report q).settleQueue q

/-- The packet at the head is held at issue. -/
def State.heldAtIssue (s : State) (q : Nat) : State :=
  let x := s.queueAt q
  s.setQueue q { x with waiting := x.waiting.orElse (fun _ => some s.tick) }

/-- Launches and families of the queue that have not ended. -/
def State.draining (s : State) (q : Nat) : Bool :=
  (s.queueAt q).launches.any (fun id => decide ((s.launchAt id).phase ≠ .ended))

def Fetched.w (f : Fetched) (i : Nat) : W64 := f.words.getD i 0

/-- The queue has started a launch or family. -/
def State.queueStarted (s : State) (q id : Nat) : State :=
  let x := s.queueAt q
  s.setQueue q { x with launches := x.launches.filter (fun i => (s.launchAt i).phase ≠ .ended) ++ [id] }

/-- A read of a PARCEL packet is denied or cancelled (R358): of its kernel descriptor or RCB, its family ends at once, with status 2 or 6 and
its arrival; of its record, as work that R358 does not name, the root's fault domain ends. `va` is the address of a cancelled entry; of a
denied access it is the first that cannot be read. -/
def State.parcelFailed (s : State) (q : Nat) (va : Option Nat) : State :=
  let x := s.queueAt q
  match x.ahead with
  | [] => s
  | f :: _ =>
    let who := s.queueWho q
    let fails := fun (a : W64) => match va with
      | some v => decide (v / 4096 = a.toNat / 4096)
      | none => (match s.partBytes who a.toNat 64 with
        | .ok _ _ => false
        | _ => true)
    if fails (f.w 1) then (s.endRoot x.asid).packetIssued q
    else
      let l := { Launch.blank with asid := x.asid, kind := .parcels, phase := .running, ref := f.w 3, queue := some q,
                                   code := if fails (f.w 2) then 2 else 6 }
      ((s.fresh.setLaunch s.nextId l).queueStarted q s.nextId).packetIssued q

/-- A packet's own access is denied or cancelled (R358). -/
def State.ownFailed (s : State) (q t : Nat) (va : Option Nat) : State :=
  let x := s.queueAt q
  if t = 9 then (s.packetIssued q).stopQueue q ((x.ahead.map (·.ring)).headD x.readRing) 5
  else if t = 2 then s.parcelFailed q va
  else (s.endRoot x.asid).packetIssued q

/-- What holds a queue whose packet's own access faults. -/
def holdOf (t : Nat) : QueueHold := if t = 9 then .pipe else if t = 2 then .parcel else .own

/-- Issue the packet at the head of a queue, if it is of type t. The packet's own action comes after the header's
second read and the drain; its accesses, where denied or cancelled, end the root's fault domain and the packet issues
without them; those of a PIPELINE packet stop the queue with code 5 (R358). The time-out of a WAIT packet counts from its first evaluation,
whatever that gives (R161). -/
def State.tryPacket (s0 : State) (q t : Nat) (act : State → Fetched → Got Issue) : State :=
  let s := (s0.report q).settleQueue q
  let x := s.queueAt q
  match x.ahead with
  | [] => s
  | f0 :: _ =>
    if x.state ≠ .active ∨ s.queueFree q = false ∨ x.latch.toNat ≤ f0.ring then s
    else
      let reread := fun (s : State) => if x.started.isSome then Got.ok s f0 else s.rereadHead q f0
      s.queueEnd q .reread (fun s => s.stopQueue q f0.ring 5) (reread s) (fun s f =>
        if packetBad f.words then s.stopQueue q f.ring 1
        else if packetType f.words ≠ t then s
        else if packetFlag f.words 0 && x.started.isNone && s.draining q then s.heldAtIssue q
        else
          let s := if t = 5 then s.heldAtIssue q else s
          s.queueEnd q (holdOf t) (fun s => s.ownFailed q t none) (act s f) (fun _ r => match r with
          | .issued s => (s.forget (.queue q)).packetIssued q
          | .hold s => (s.forget (.queue q)).heldAtIssue q
          | .stop s c => (s.forget (.queue q)).stopQueue q f.ring c))

def State.issuePacket (s : State) (q t : Nat) (act : State → Fetched → Got Issue) : Host.Outcome State Fault Refusal :=
  .next (s.tryPacket q t act)

/-- Carry the state of an answer into it. -/
def Got.issue {α : Type} (g : Got α) : Got Issue := g.bind (fun s _ => .ok s (.issued s))

def execNopPacket (q : Nat) (s : State) := s.issuePacket q 0 (fun s _ => .ok s (.issued s))

/-- LAUNCH packet (R228, R240): it waits while 256 launches of the context have not ended; it hands its record over, and issues
once the front end has accepted that, or has ended the launch (R241). -/
def execLaunchPacket (q : Nat) (s : State) :=
  s.issuePacket q 1 (fun s f =>
    let x := s.queueAt q
    match x.started with
    | some id => .ok s (if (s.launchAt id).phase = .submitted ∧ (s.launchAt id).code = 0 then .hold s else .issued s)
    | none =>
      if s.launchLimit x.asid then .ok s (.hold s)
      else
        let r := s.submit x.asid (f.w 1) (packetFlag f.words 1) (some q)
        let s1 := r.1.queueStarted q r.2.1
        let s2 := s1.setQueue q { s1.queueAt q with started := some r.2.1 }
        .ok s2 (.hold s2))

/-- CALL packet (R241): a fifth level stops the queue with code 2. -/
def execCallPacket (q : Nat) (s : State) :=
  s.issuePacket q 3 (fun s f => if 4 ≤ f.before.length then .ok s (.stop s 2) else .ok s (.issued s))

def execJoinPacket (q : Nat) (s : State) := s.issuePacket q 4 (fun s _ => .ok s (.issued s))

/-- The condition of a WAIT packet. -/
def State.packetCond (s : State) (q : Nat) (f : Fetched) : Got Bool :=
  let w := s.queueWho q
  if condKind (f.w 1) = 0 then (s.barrier w 0 (f.w 1) none).bind (fun s o => .ok s (decide (o.phase ≠ (f.w 2).setWidth 16)))
  else (s.readVal w (refAddr (f.w 1)) 8).bind (fun s v => .ok s (condCompare (condTest (f.w 1)) (BitVec.ofNat 64 v) (f.w 2)))

/-- An evaluation of the WAIT packet at a queue's head (R161, R241). -/
def State.waitPacket (s : State) (q : Nat) : State :=
  s.tryPacket q 5 (fun s f => (s.packetCond q f).bind (fun s b => .ok s (if b then .issued s else .hold s)))

def execWaitPacket (q : Nat) (s : State) : Host.Outcome State Fault Refusal := .next (s.waitPacket q)

/-- A WAIT packet waits at the head of the queue. -/
def Queue.atWait (x : Queue) : Bool := decide (x.state = .active) && x.waiting.isSome && x.ahead.head?.any (fun f => decide (packetType f.words = 5))

/-- A WAIT packet that waits and whose condition is true as the state stands: its next evaluation issues it. -/
def State.packetRipe (s : State) (q : Nat) : Bool :=
  let x := s.queueAt q
  match x.ahead with
  | [] => false
  | f0 :: _ =>
    x.atWait && s.queueFree q && decide (f0.ring < x.latch.toNat) && !s.unperformedBy (.queue q) &&
    (match (s.rereadHead q f0).bind (fun s f =>
        if packetBad f.words || decide (packetType f.words ≠ 5) then .ok s false else s.packetCond q f) with
      | .ok _ b => b
      | _ => false)

/-- The WAIT packet at a queue's head has reached its time-out (R236, R240). -/
def State.packetExpired (s : State) (q : Nat) : Bool :=
  let x := s.queueAt q
  match x.ahead, x.waiting with
  | f :: _, some t => decide (x.state = .active) && s.ctxRuns x.asid && decide (packetType f.words = 5) && decide (f.w 3 ≠ 0) &&
      decide (t + (f.w 3).toNat ≤ s.tick)
  | _, _ => false

/-- Queues whose WAIT packet is due: to issue, or to stop at its time-out. -/
def State.ripePacket (s : State) : Option Nat := (s.queues.map (·.1)).find? s.packetRipe
def State.expiredPacket (s : State) : Option Nat := (s.queues.map (·.1)).find? s.packetExpired

/-- WAIT_PACKET_TIMEOUT (R236, R240): a packet whose condition is true at its time-out issues. -/
def execWaitPacketTimeout (q : Nat) (s : State) : Host.Outcome State Fault Refusal :=
  if !s.packetExpired q then .next s
  else if s.packetRipe q then .next (s.waitPacket q)
  else .next ((s.unwait (.queue q)).stopQueue q (((s.queueAt q).ahead.map (·.ring)).headD 0) 3)

/-- WRITE packet (R241): a release store at .sys. -/
def execWritePacket (q : Nat) (s : State) :=
  s.issuePacket q 6 (fun s f => (s.writeVal (s.queueWho q) (f.w 1).toNat 8 (f.w 2).toNat).issue)

/-- ARRIVE packet (R241): ARRIVEX for one arrival. -/
def execArrivePacket (q : Nat) (s : State) :=
  s.issuePacket q 7 (fun s f => (s.barrier (s.queueWho q) 0 (f.w 1) (some fun o => o.arrive 1 ((f.w 2).setWidth 32))).issue)

/-- WCOLL packet (R260): it issues when its collection has ended. -/
def execWcollPacket (q : Nat) (s : State) :=
  s.issuePacket q 8 (fun s f =>
    let x := s.queueAt q
    let w := (f.w 1).toNat
    match x.started with
    | some n => .ok s (if n ≤ (s.worldAt x.asid w).ended then .issued s else .hold s)
    | none => (s.worldDesc (s.queueWho q) w).bind (fun s d => match d with
      | .world d =>
        if s.officeDenies (s.queueWho q) 0 then .denied s
        else
        let s1 := (s.requestCollection x.asid d (f.w 2)).1
        let s2 := s1.setQueue q { s1.queueAt q with started := some (s1.worldAt x.asid w).requested }
        .ok s2 (.hold s2)
      | _ => .ok s (.stop s 1)))

/-- DEADLINE packet (R242): DLINE with the owning context's authority. -/
def execDeadlinePacket (q : Nat) (s : State) :=
  s.issuePacket q 10 (fun s f =>
    if s.dlineBad (s.queueAt q).asid (f.w 1) then .ok s (.stop s 1)
    else .ok s (.issued (s.dline (f.w 1) (f.w 2))))

/-! ### Parcels (R243, R244) -/

/-- A parcel record that raises MISALIGN, or ILLEGAL_OP (R250). -/
def parcelCrooked (v : List W64) : Bool := decide ((v.getD 0 0).toNat % 4 ≠ 0) || decide ((v.getD 3 0).toNat % 16 ≠ 0)
def parcelIllegal (v : List W64) : Bool :=
  decide ((v.getD 2 0).toNat / 2 ^ 48 ≠ 0) || decide (1 < (v.getD 4 0).toNat) || (v.drop 5).any (fun w => decide (w ≠ 0))

/-- A parcel queue holds 256 records. -/
def State.parcelRoom (s : State) (core : Nat) : Bool := decide ((s.coreAt core).parcels.length < 256)

/-- Append a parcel to a core's queue. -/
def State.sendParcel (s : State) (core : Nat) (p : Parcel) : State :=
  let c := s.coreAt core
  s.setCoreAt core { c with parcels := c.parcels ++ [p] }

/-- PSEND (R250). Its release is that of State.mayWord: the word issues once what the unit's lanes have posted is performed. -/
def execPsend (b : BitVec 7) (s : State) :=
  let ops := [ss .b b]
  s.issue acceptNone ops false (fun s =>
    let a := s.valueAt intConsts ops .b 0
    if a.toNat % 64 ≠ 0 then .trap .misalign (Lanes.lowest s.act)
    else (s.fetchWords s.who a.toNat 8).eff (fun s v =>
      if parcelCrooked v then .trap .misalign (Lanes.lowest s.act)
      else if parcelIllegal v then .trap .illegalOp s.ir.toNat
      else if !s.parcelRoom s.g.core then .wait s
      else .done (s.sendParcel s.g.core { family := s.g.launch, asid := s.g.asid, addr := a, words := v })))

/-- The core to which a PARCEL packet sends: the first that is not withheld and has room. -/
def State.packetCore (s : State) : Option Nat := (List.range 192).find? (fun c => !s.withheldCore c && s.parcelRoom c)

/-- PARCEL packet (R244): the family takes the packet's kernel descriptor and the queue's RCB. A record, descriptor or
RCB that breaks its rules stops the queue with code 4. -/
def execParcelPacket (q : Nat) (s : State) :=
  s.issuePacket q 2 (fun s f =>
    let x := s.queueAt q
    let who := s.queueWho q
    (s.partBytes who (f.w 1).toNat 64).bind (fun s bs => (s.partBytes who (f.w 2).toNat 64).bind (fun s ks =>
      (s.resolveRcb who (x.desc.getD 3 0)).bind (fun s r =>
        let v := words64 8 bs
        let k := words64 8 ks
        let bad := decide ((f.w 1).toNat % 64 ≠ 0) || decide ((f.w 2).toNat % 64 ≠ 0) || parcelCrooked v || parcelIllegal v ||
          kernelBad (s.ctxAt x.asid).perLane k
        match r, s.packetCore with
        | some r, some core =>
          if bad || r.noMem then .ok s (.stop s 4)
          else
            let l := (({ Launch.blank with asid := x.asid, kind := .parcels, phase := .running, ref := f.w 3, queue := some q }).takeKernel
              (f.w 2) k).takeRcb r
            let s1 := s.fresh.setLaunch s.nextId l
            let s2 := (s1.queueStarted q s.nextId).sendParcel core { family := s.nextId, asid := x.asid, addr := f.w 1, words := v }
            let c := s2.ctxAt x.asid
            let s3 := s2.setCtx x.asid { c with state := if c.state = .defined then .running else c.state }
            .ok s3 (.issued s3)
        | none, _ => .ok s (.stop s 4)
        | _, none => .ok s (.hold s)))))

/-- The workgroup of a parcel (R244). -/
def State.parcelGroup (s : State) (p : Parcel) : Workgroup :=
  let l := s.launchAt p.family
  let c := (p.words.getD 2 0)
  { Workgroup.blank with
      launch := p.family, asid := p.asid, phase := .pending,
      coord := ((c.setWidth 16).setWidth 32, ((c >>> 16).setWidth 16).setWidth 32, ((c >>> 32).setWidth 16).setWidth 32),
      nwarps := l.nwarps, init := Table.put 0#64 [] 0 p.addr, karg := p.words.getD 1 0, parcel := some p.words }

/-- PARCEL_START (R244): the parcel at the head of a core's queue, once the core has the resources. -/
def execParcelStart (core : Nat) (s0 : State) : Host.Outcome State Fault Refusal :=
  let s := match (s0.coreAt core).parcels with
    | [] => s0
    | p :: _ => s0.lookBudgets (s0.launchAt p.family)
  match (s.coreAt core).parcels with
  | [] => .next s
  | p :: r =>
    let g := s.parcelGroup p
    let s1 := (s.setCoreAt core { s.coreAt core with parcels := r }).setWg s.nextId g
    if s.admitted g && s.roomOn core (s.launchAt p.family) then
      .next ((s1.fresh.seatOn s.nextId core).atomic s g.waiter).state
    else .next s

/-- What a completed parcel's counter gives: nothing to send, or the successor's record. -/
def State.countDown (s : State) (who : Who) (addr : Nat) : Got (Option (W64 × List W64)) :=
  (s.readVal who addr 8).bind (fun s n => (s.readVal who (addr + 8) 8).bind (fun s next =>
    if n = 0 then .ok s none
    else (s.writeVal who addr 8 (n - 1)).bind (fun s _ =>
      if n ≠ 1 ∨ next = 0 then .ok s none
      else if next % 64 ≠ 0 then .ok s none
      else (s.partBytes who next 64).bind (fun s bs =>
        let v := words64 8 bs
        .ok s (if parcelCrooked v || parcelIllegal v then none else some (BitVec.ofNat 64 next, v))))))

/-- The parcel has completed. -/
def State.parcelOver (s : State) (wg : Nat) : State := s.setWg wg { s.wgAt wg with parcel := none }

/-- The device's accesses for a completed parcel: unit 9, the buffer of die 0 (R175). -/
def State.parcelWho (s : State) (wg : Nat) : Who := engineWho (s.wgAt wg).asid 0 9 0 0 (.parcel wg)

/-- PARCEL_COMPLETE (R244): the counter's update and the send of the successor are one action; it waits for room in the
core's queue. -/
def execParcelComplete (wg : Nat) (s : State) : Host.Outcome State Fault Refusal :=
  let g := s.wgAt wg
  match g.parcel with
  | none => .next s
  | some v =>
    if g.phase ≠ .done ∨ s.faults.any (fun x => x.2.waiters.contains (.parcel wg)) = true then .next s
    else if v.getD 3 0 = 0 then .next (s.parcelOver wg)
    else match (s.countDown (s.parcelWho wg) (v.getD 3 0).toNat).atomic s (.parcel wg) with
      | .ok s1 none => .next (s1.parcelOver wg)
      | .ok s1 (some (a, ws)) =>
        if s1.parcelRoom g.core then
          .next ((s1.sendParcel g.core { family := g.launch, asid := g.asid, addr := a, words := ws }).parcelOver wg)
        else .next (s.forget (.parcel wg))
      | .denied s1 => .next ((s1.endRoot g.asid).parcelOver wg)
      | r => .next r.state

/-! ### The postmaster (R245) -/

/-- A parcel that may move. -/
def Parcel.loose (asid : Nat) (p : Parcel) : Bool := decide (p.asid = asid) && !(p.words.getD 4 0).getLsbD 0

/-- Loose parcels of a context on each core that is not withheld. -/
def State.occupancy (s : State) (asid : Nat) : List (Nat × Nat) :=
  ((List.range 192).filter (fun c => !s.withheldCore c)).map (fun c => (c, ((s.coreAt c).parcels.filter (Parcel.loose asid)).length))

/-- The first entry that no later entry exceeds, or falls below. -/
def mostOf : List (Nat × Nat) → Option (Nat × Nat)
  | [] => none
  | x :: xs => match mostOf xs with
    | none => some x
    | some y => if x.2 < y.2 then some y else some x
def fewestOf : List (Nat × Nat) → Option (Nat × Nat)
  | [] => none
  | x :: xs => match fewestOf xs with
    | none => some x
    | some y => if y.2 < x.2 then some y else some x

/-- Up to n migration commands for a context, each as if those before it had been carried out. -/
def planMoves (asid : Nat) : Nat → List (Nat × Nat) → List ParcelMove
  | 0, _ => []
  | n + 1, v => match mostOf v, fewestOf v with
    | some a, some b =>
      if a.2 < b.2 + 2 then []
      else
        let k := min 32 ((a.2 - b.2) / 2)
        { src := a.1, dst := b.1, asid := asid, count := k } ::
          planMoves asid n (v.map (fun x => if x.1 = a.1 then (x.1, x.2 - k) else if x.1 = b.1 then (x.1, x.2 + k) else x))
    | _, _ => []

/-- POSTMASTER_PASS (R245). -/
def execPostmasterPass (s : State) : Host.Outcome State Fault Refusal :=
  .next { s with moves := s.moves ++ (s.ctxs.map (·.1)).flatMap (fun a => planMoves a 8 (s.occupancy a)) }

/-- The last k loose parcels of a context in a queue, in order; those that stay. -/
def tailLoose (asid : Nat) : Nat → List Parcel → List Parcel × List Parcel
  | _, [] => ([], [])
  | k, p :: ps =>
    let r := tailLoose asid k ps
    if p.loose asid && decide (r.1.length < k) then (p :: r.1, r.2) else (r.1, p :: r.2)

/-- PARCEL_MIGRATION (R245): the command arrives at the source. -/
def execParcelMigration (src dst asid count : Nat) (s : State) : Host.Outcome State Fault Refusal :=
  let m : ParcelMove := { src := src, dst := dst, asid := asid, count := count }
  if !s.moves.contains m || decide (src = dst) then .next s
  else
    let c := s.coreAt src
    let d := s.coreAt dst
    let x := tailLoose asid (min count (256 - d.parcels.length)) c.parcels
    .next (({ s with moves := s.moves.erase m }.setCoreAt src { c with parcels := x.2 }).setCoreAt dst { d with parcels := d.parcels ++ x.1 })

/-! ### Stage queues (R246, R247) -/

/-- A stage queue header. -/
structure StageHdr where
  addr : W64
  base : Nat
  cap : Nat
  size : Nat
  batch : Nat
  head : Nat
  freed : Nat
  tail : Nat
  committed : Nat
  reserved : Nat
  limit : Nat
  time : Nat

def stageHdrOf (a : W64) (v : List W64) : StageHdr :=
  let f := fun i => (v.getD i 0).toNat
  { addr := a, base := f 0, cap := f 1 % 2 ^ 32, size := f 1 / 2 ^ 32 % 2 ^ 16, batch := f 1 / 2 ^ 48, head := f 2, freed := f 3,
    tail := f 4, committed := f 5, reserved := f 6 % 2 ^ 32, limit := f 6 / 2 ^ 32, time := f 7 }

/-- The words of a header that change. -/
def StageHdr.bytes (h : StageHdr) : List Byte :=
  valBytes 8 h.head ++ valBytes 8 h.freed ++ valBytes 8 h.tail ++ valBytes 8 h.committed ++
  valBytes 4 h.reserved ++ valBytes 4 h.limit ++ valBytes 8 h.time

def StageHdr.free (h : StageHdr) : Nat := h.cap - (h.tail - h.freed) - h.reserved
def StageHdr.available (h : StageHdr) : Nat := h.committed - h.head

/-- Another agent of this device is at an update of a header on a remote page: updates of one header are made one after the
other (R246). -/
def State.hdrBusy (s : State) (who : Who) (a : W64) : Bool :=
  match s.reach who accRead [(a.toNat, 64)] with
  | .ok s1 ((.away h d pa, _) :: _) => s1.pending.any (fun x => decide (x.host = h) && decide (x.dev = d) && decide (x.owner ≠ who.waiter) &&
      ((decide (x.addr = pa) && decide (x.bytes = 64) && x.write.isNone) || (decide (x.addr = pa + 16) && x.write.isSome)))
  | _ => false

/-- Read and write a header. -/
def State.hdrAt (s : State) (who : Who) (a : W64) : Got StageHdr :=
  if s.hdrBusy who a then .wait s
  else (s.partBytes who a.toNat 64).bind (fun s bs => .ok s (stageHdrOf a (words64 8 bs)))
def State.putHdr (s : State) (who : Who) (h : StageHdr) : Got Unit := s.put who (h.addr.toNat + 16) h.bytes

/-- Runs of bytes of n entries from entry e on, as address and length. -/
def StageHdr.runs (h : StageHdr) (e n : Nat) : List (Nat × Nat) :=
  let i := e % h.cap
  let k := min n (h.cap - i)
  [(h.base + i * h.size, k * h.size)] ++ (if k < n then [(h.base, (n - k) * h.size)] else [])

/-- Committing n entries: the head time starts where nothing was available. -/
def StageHdr.commit (h : StageHdr) (n hbeat : Nat) : StageHdr :=
  { h with committed := h.committed + n, time := if h.available = 0 ∧ n ≠ 0 then hbeat else h.time }

/-- Claiming n entries at the head. -/
def StageHdr.take (h : StageHdr) (n hbeat : Nat) : StageHdr :=
  { h with head := h.head + n, time := if h.available ≠ n then hbeat else h.time }

/-- Pass the freed runs at the front of a queue's list. -/
def passFreed : List TakeRun → Nat × List TakeRun
  | [] => (0, [])
  | r :: rs => if r.freed then let x := passFreed rs
                               (r.count + x.1, x.2) else (0, r :: rs)

/-- Runs of one queue, and the others. -/
def State.takesOf (s : State) (asid : Nat) (h : W64) : List TakeRun := s.takes.filter (fun r => r.asid = asid ∧ r.hdr = h)
def State.otherTakes (s : State) (asid : Nat) (h : W64) : List TakeRun := s.takes.filter (fun r => ¬(r.asid = asid ∧ r.hdr = h))

/-- Free a run: the freed head passes every run that is freed in order (R247). -/
def State.freeRun (s : State) (asid : Nat) (h : StageHdr) (start : Nat) : State × StageHdr :=
  let rs := (s.takesOf asid h.addr).map (fun r => if r.start = start then { r with freed := true } else r)
  let x := passFreed rs
  ({ s with takes := s.otherTakes asid h.addr ++ x.2 }, { h with freed := h.freed + x.1 })

/-- A run is claimed by a take. -/
def State.claimRun (s : State) (asid : Nat) (h : W64) (start count : Nat) : State :=
  { s with takes := s.takes ++ [{ asid := asid, hdr := h, start := start, count := count, freed := false }] }

/-- Write bytes over runs. -/
def State.putRuns (s : State) (who : Who) : List (Nat × Nat) → List Byte → Got Unit
  | [], _ => .ok s ()
  | (a, n) :: rs, bs => (s.put who a (bs.take n)).bind (fun s _ => State.putRuns s who rs (bs.drop n))
def State.getRuns (s : State) (who : Who) : List (Nat × Nat) → Got (List Byte)
  | [] => .ok s []
  | (a, n) :: rs => (s.partBytes who a n).bind (fun s bs => (State.getRuns s who rs).bind (fun s r => .ok s (bs ++ r)))

/-! ### QPUSH and QTAKE (R251, R252) -/

/-- Draw n entries on a launch's reservations for a queue; the entries drawn. -/
def drawReserved (h : W64) : Nat → List (W64 × Nat) → Nat × List (W64 × Nat)
  | _, [] => (0, [])
  | n, (a, k) :: rs =>
    let d := if a = h then min n k else 0
    let x := drawReserved h (n - d) rs
    (d + x.1, (a, k - d) :: x.2)

/-- The order in which a unit parked at a push of a queue. -/
def IUnit.pushSeq (h : W64) (u : IUnit) : Option Nat :=
  match u.issued.bind (·.push) with
  | some (.parked a q) => if a = h then some q else none
  | _ => none

/-- Another unit of the context has parked earlier at a push of the queue, on a core or switched out. -/
def State.earlierPusher (s : State) (h : W64) : Bool :=
  s.warps.any (fun x => decide ((s.wgAt x.2.wg).asid = s.g.asid) && decide ((s.wgAt x.2.wg).phase ≠ .done) &&
    x.2.units.any (fun y => match y.2.pushSeq h, s.u.pushSeq h with
      | some q, some mine => decide (q < mine)
      | some _, none => true
      | none, _ => false))

/-- What a push finds: entries from one on are claimed and written, with what is left of the launch's reservations. -/
inductive Push where
  | outside
  | absent
  | short
  | claimed (start : Nat) (reserved : List (W64 × Nat))

/-- A push claims its entries and copies into them. -/
def State.pushClaim (s : State) (a : W64) (n off : Nat) : Got Push :=
  (s.hdrAt s.who a).bind (fun s h =>
    if s.spadSize s.g < off + n * h.size then .ok s .outside
    else if !s.g.present off (n * h.size) then .ok s .absent
    else
      let r := drawReserved a n s.launch.reserved
      if h.free < n - r.1 ∨ s.earlierPusher a = true then .ok s .short
      else
        let bs := Memory.readBytes s.g.spad off (n * h.size)
        (s.putRuns s.who (h.runs h.tail n) bs).bind (fun s _ =>
          (s.putHdr s.who { h with tail := h.tail + n, reserved := h.reserved - r.1 }).bind (fun s _ => .ok s (.claimed h.tail r.2))))

/-- The entries are committed once every run claimed before them is (R247). -/
def State.pushCommit (s : State) (a : W64) (start n : Nat) : Got Bool :=
  (s.hdrAt s.who a).bind (fun s h =>
    if h.committed ≠ start then .ok s false else (s.putHdr s.who (h.commit n s.hbeat)).bind (fun s _ => .ok s true))

/-- The issuing unit waits at its push. -/
def State.atPush (s : State) (p : PushAt) : State := s.setU { s.u with issued := some { s.u.issued.getD s.issuedNow with push := some p } }

/-- The unit waits for space, in the order in which it parked. -/
def State.parkPush (s : State) (h : W64) : State :=
  match s.u.pushSeq h with
  | some _ => s
  | none => (s.atPush (.parked h s.nextId)).fresh

/-- Commit a claimed run, once its entries have been performed (R251: release at .dev). -/
def State.finishPush (s : State) (h : W64) (start n : Nat) : Eff :=
  ((s.pushCommit h start n).atomic s s.who.waiter).eff (fun s1 done => if done then .done s1 else .held s1)

/-- QPUSH (R251). -/
def execQpush (c b a : BitVec 7) (s : State) :=
  let ops := [ss .a a, ss .b b, ss .c c]
  s.issue acceptNone ops false (fun s =>
    let n := (s.valueAt intConsts ops .a 0).toNat % 2 ^ 32
    let h := s.valueAt intConsts ops .b 0
    let off := (s.valueAt intConsts ops .c 0).toNat
    match s.u.issued.bind (·.push) with
    | some (.claimed a start k) => s.finishPush a start k
    | _ =>
    if n = 0 ∨ 65535 < n ∨ 2 ^ 19 ≤ off then .trap .illegalOp s.ir.toNat
    else if off % 16 ≠ 0 ∨ h.toNat % 64 ≠ 0 then .trap .misalign (Lanes.lowest s.act)
    else ((s.pushClaim h n off).atomic s s.who.waiter).eff (fun s1 r => match r with
      | .outside => .trap .misalign (Lanes.lowest s.act)
      | .absent => .held s1
      | .short => .held (s1.parkPush h)
      | .claimed start res => ((s1.setLaunch s1.g.launch { s1.launch with reserved := res }).atPush (.claimed h start n)).finishPush h start n))

/-- What a take finds: the entries taken, and the number of the first. -/
inductive Took where
  | outside
  | absent
  | took (n first : Nat) (bs : List Byte)

/-- One take as a whole: claim, copy, free. -/
def State.takeEntries (s : State) (a : W64) (m off : Nat) : Got Took :=
  (s.hdrAt s.who a).bind (fun s h =>
    let t := min m h.available
    if s.spadSize s.g < off + m * h.size then .ok s .outside
    else if t = 0 then .ok s (.took 0 h.head [])
    else if !s.g.present off (t * h.size) then .ok s .absent
    else (s.getRuns s.who (h.runs h.head t)).bind (fun s bs =>
      let x := (s.claimRun s.g.asid a h.head t).freeRun s.g.asid (h.take t s.hbeat) h.head
      (x.1.putHdr x.1.who x.2).bind (fun s _ => .ok s (.took t h.head bs))))

/-- QTAKE (R252). -/
def execQtake (c b a : BitVec 7) (s : State) :=
  let ops := [sblock .a a 2, ss .b b, ss .c c]
  s.issue acceptNone ops false (fun s =>
    let h := s.valueAt intConsts ops .b 0
    let ctl := (s.valueAt intConsts ops .c 0).toNat
    let off := ctl % 2 ^ 19
    let m := ctl / 2 ^ 32 % 2 ^ 16
    if m = 0 ∨ 2 ^ 48 ≤ ctl ∨ ctl / 2 ^ 19 % 2 ^ 13 ≠ 0 then .trap .illegalOp s.ir.toNat
    else if off % 16 ≠ 0 ∨ h.toNat % 64 ≠ 0 then .trap .misalign (Lanes.lowest s.act)
    else ((s.takeEntries h m off).atomic s s.who.waiter).eff (fun s1 r => match r with
      | .outside => .trap .misalign (Lanes.lowest s.act)
      | .absent => .held s1
      | .took t first bs =>
        let e := s1.regAt ops .a
        let s2 := s1.setG { s1.g with spad := Memory.writeBytes s1.g.spad off bs }
        .done ((s2.setSreg e (BitVec.ofNat 64 t)).setSreg (e + 1) (BitVec.ofNat 64 first))))

/-! ### Stages and their manager (R248) -/

/-- A stage record. -/
structure Stage where
  input : W64
  record : W64
  per : Nat
  outs : List (W64 × Nat)

/-- A stage record breaks R248. -/
def stageBad (v : List W64) : Bool :=
  let x := (v.getD 2 0).toNat
  let n := x / 2 ^ 16 % 8
  decide (x % 2 ^ 16 = 0) || decide (4 < n) || decide (x / 2 ^ 19 % 32 ≠ 0) || decide (2 ^ 56 ≤ x) || decide (v.getD 7 0 ≠ 0) ||
  (List.range 4).any (fun i => decide (n ≤ i) && decide (v.getD (3 + i) 0 ≠ 0)) || decide ((v.getD 0 0).toNat % 64 ≠ 0) ||
  (List.range 4).any (fun i => decide ((v.getD (3 + i) 0).toNat % 64 ≠ 0))

def stageOf (v : List W64) : Stage :=
  let x := (v.getD 2 0).toNat
  { input := v.getD 0 0, record := v.getD 1 0, per := x % 2 ^ 16,
    outs := (List.range (x / 2 ^ 16 % 8)).map (fun i => (v.getD (3 + i) 0, x / 2 ^ (24 + 8 * i) % 256)) }

/-- The manager for a pipeline: unit 9. -/
def State.managerWho (s : State) (p : Nat) : Who :=
  let x := (Table.find s.pipes p).map (·.asid)
  engineWho (x.getD 0) 0 9 0 0 (.pipeline p)

/-- The stages of a pipeline record's addresses; none where one breaks R248. -/
def State.stagesAt (s : State) (who : Who) : List W64 → Got (Option (List Stage))
  | [] => .ok s (some [])
  | a :: r => (s.partBytes who a.toNat 64).bind (fun s bs =>
    let v := words64 8 bs
    (State.stagesAt s who r).bind (fun s x => .ok s (if stageBad v then none else x.map (fun t => stageOf v :: t))))

/-- The stages of a pipeline (R248). -/
def State.pipeline (s : State) (who : Who) (record : W64) : Got (Option (List Stage)) :=
  (s.partBytes who record.toNat 256).bind (fun s bs =>
    let v := words64 32 bs
    let n := (v.getD 0 0).toNat
    if n = 0 ∨ 16 < n ∨ (v.drop (1 + n)).any (fun w => w ≠ 0) = true then .ok s none
    else s.stagesAt who ((v.drop 1).take n))

/-- A stage's headers, input first. -/
def State.stageHdrs (s : State) (who : Who) : List W64 → Got (List StageHdr)
  | [] => .ok s []
  | a :: r => (s.hdrAt who a).bind (fun s h => (State.stageHdrs s who r).bind (fun s hs => .ok s (h :: hs)))

/-- The batch of a stage after the output spaces. -/
def batchOf (h : StageHdr) (outs : List (Nat × Nat)) : Nat :=
  outs.foldl (fun k o => if o.2 = 0 then k else min k (o.1 / o.2)) (min h.available h.batch)

/-- A stage that may be launched: its number, batch, and input header. -/
structure Offer where
  index : Nat
  k : Nat
  hdr : StageHdr
  stage : Stage

/-- The offers of stages. -/
def State.offers (s : State) (who : Who) : Nat → List Stage → Got (List Offer)
  | _, [] => .ok s []
  | i, x :: xs => (s.hdrAt who x.input).bind (fun s h => (s.stageHdrs who (x.outs.map (·.1))).bind (fun s hs =>
    let k := batchOf h ((hs.map StageHdr.free).zip (x.outs.map (·.2)))
    (State.offers s who (i + 1) xs).bind (fun s r => .ok s (if k = 0 then r else { index := i, k := k, hdr := h, stage := x } :: r))))

/-- The first of a list that none precedes in an order. -/
def bestBy {α : Type} (before : α → α → Bool) : List α → Option α
  | [] => none
  | x :: xs => match bestBy before xs with
    | none => some x
    | some y => if before y x then some y else some x

/-- The choice of R248. -/
def choose (hbeat : Nat) (os : List Offer) : Option Offer :=
  match bestBy (fun (a b : Offer) => decide (a.hdr.time < b.hdr.time)) (os.filter (fun o => o.hdr.limit ≤ hbeat - o.hdr.time)) with
  | some o => some o
  | none => bestBy (fun (a b : Offer) => decide (b.hdr.available < a.hdr.available)) (os.filter (fun o => o.k = o.hdr.batch))

/-- Add to the reservations of a stage's outputs. -/
def State.reserve (s : State) (who : Who) (k : Nat) : List (W64 × Nat) → Got Unit
  | [] => .ok s ()
  | (a, n) :: r => (s.hdrAt who a).bind (fun s h =>
    (s.putHdr who { h with reserved := h.reserved + k * n }).bind (fun s _ => State.reserve s who k r))

/-- A launch of the pipeline's stages has yet to end. -/
def Launch.ofPipe (p : Nat) (l : Launch) : Bool :=
  match l.kind with
  | .stage a _ => decide (a = p) && (decide (l.phase ≠ .ended) || !l.ranges.isEmpty)
  | _ => false
def State.pipeBusy (s : State) (p : Nat) : Bool := s.launches.any (fun x => x.2.ofPipe p)

/-- Every queue of the stages is empty. -/
def State.stagesEmpty (s : State) (who : Who) : List Stage → Got Bool
  | [] => .ok s true
  | x :: xs => (s.hdrAt who x.input).bind (fun s h =>
    if h.available = 0 ∧ h.tail = h.committed then State.stagesEmpty s who xs else .ok s false)

/-- Launch the chosen stage. It draws no sequence number (R228 gives them to LAUNCH, LAUNCHQ and launch packets): it carries the last that
was drawn (DESIGN CHOICE, log entry 62). -/
def State.launchStage (s : State) (who : Who) (p : Nat) (pipe : Pipeline) (o : Offer) : Got Unit :=
  (s.putHdr who (o.hdr.take o.k s.hbeat)).bind (fun s _ => (s.reserve who o.k o.stage.outs).bind (fun s _ =>
    let s1 := s.claimRun pipe.asid o.hdr.addr o.hdr.head o.k
    let l := { Launch.blank with
      asid := pipe.asid, seq := (s.ctxAt pipe.asid).nextSeq - 1, kind := .stage p o.index, phase := .submitted, record := o.stage.record, rows := o.stage.per,
      ranges := [(o.hdr.addr, o.hdr.head, o.k)], claimed := o.k, queue := some pipe.queue, reserved := o.stage.outs.map (fun x => (x.1, o.k * x.2)) }
    .ok (s1.fresh.setLaunch s1.nextId l) ()))

/-- What a pass does for a pipeline: it ends it, or launches a stage, or nothing. -/
def State.managePipe (s : State) (p : Nat) (pipe : Pipeline) : Got Bool :=
  let who := s.managerWho p
  (s.pipeline who pipe.record).bind (fun s x => match x with
    | none => .ok s true
    | some stages => (s.stagesEmpty who stages).bind (fun s empty =>
      if empty && !s.pipeBusy p then .ok s true
      else (s.offers who 0 stages).bind (fun s os => match choose s.hbeat os with
        | none => .ok s false
        | some o => if s.launchLimit pipe.asid then .ok s false else (s.launchStage who p pipe o).bind (fun s _ => .ok s false))))

/-- The pipeline's packet waits at issue. -/
def State.pipeAwaited (s : State) (p : Nat) (x : Pipeline) : Bool := decide ((s.queueAt x.queue).started = some p)

/-- A pipeline has ended; its slot is free once its packet issues, at once where no packet waits. -/
def State.endPipe (s : State) (p : Nat) : State :=
  let kept := s.pipes.filter (fun x => decide (x.1 ≠ p) || s.pipeAwaited p x.2)
  { s with pipes := kept.map (fun x => if x.1 = p then (x.1, { x.2 with ended := true }) else x) }

/-- A cancelled access of the manager (R358): the pipeline ends, its packet issues, and the queue stops with code 5. -/
def State.failPipe (s : State) (p : Nat) : State :=
  match Table.find s.pipes p with
  | none => s
  | some x =>
    let f := (s.queueAt x.queue).ahead.headD { addr := 0, words := [], ring := 0, before := [], closes := 0 }
    let s1 := { s with pipes := Table.erase s.pipes p }
    if s.pipeAwaited p x then (s1.packetIssued x.queue).stopQueue x.queue f.ring 5 else s1

/-- The manager's access for a pipeline waits on a fault. -/
def State.pipeParked (s : State) (p : Nat) : Bool := s.faults.any (fun x => x.2.waiters.contains (.pipeline p))

/-- A pass over pipelines. -/
def State.managePipes (s : State) : List (Nat × Pipeline) → State
  | [] => s
  | (p, x) :: r =>
    State.managePipes (if x.ended || s.pipeParked p || !s.ctxRuns x.asid then s
      else match (s.managePipe p x).atomic s (.pipeline p) with
        | .ok s1 true => s1.endPipe p
        | .denied s1 => s1.failPipe p
        | g => g.state) r

/-- STAGE_MANAGER_PASS (R248). -/
def execStageManagerPass (s : State) : Host.Outcome State Fault Refusal := .next (s.managePipes s.pipes)

/-- Return the reservations left of a launch. -/
def State.unreserve (s : State) (who : Who) : List (W64 × Nat) → Got Unit
  | [] => .ok s ()
  | (a, n) :: r => (s.hdrAt who a).bind (fun s h =>
    (s.putHdr who { h with reserved := h.reserved - n }).bind (fun s _ => State.unreserve s who r))

/-- Settle an ended stage launch: its entries are freed and its reservations returned. -/
def State.settleStage (s : State) (id p : Nat) : Got Unit :=
  let l := s.launchAt id
  let who := engineWho l.asid 0 9 0 0 (.pipeline p)
  let x := l.ranges.headD (0, 0, 0)
  (s.unreserve who l.reserved).bind (fun s _ => (s.hdrAt who x.1).bind (fun s h =>
    let y := s.freeRun l.asid h x.2.1
    (y.1.putHdr who y.2).bind (fun s _ => .ok (s.setLaunch id { l with ranges := [], reserved := [], claimed := 0 }) ())))

/-- The pipeline has come to its end (R248). -/
def State.pipeDone (s : State) (p : Nat) (x : Pipeline) : Got Bool :=
  let who := s.managerWho p
  (s.pipeline who x.record).bind (fun s t => match t with
    | none => .ok s true
    | some stages => (s.stagesEmpty who stages).bind (fun s e => .ok s (e && !s.pipeBusy p)))

/-- STAGE_LAUNCH_END (R248). -/
def execStageLaunchEnd (id : Nat) (s : State) : Host.Outcome State Fault Refusal :=
  let l := s.launchAt id
  match l.kind with
  | .stage p _ =>
    if l.phase ≠ .ended ∨ l.ranges = [] ∨ s.pipeParked p = true then .next s
    else
      let act := (s.settleStage id p).bind (fun s _ => match Table.find s.pipes p with
        | none => .ok s false
        | some x => s.pipeDone p x)
      match act.atomic s (.pipeline p) with
      | .ok s1 true => .next (s1.endPipe p)
      | .denied s1 => .next (s1.failPipe p)
      | g => .next g.state
  | _ => .next s

/-- PIPELINE packet (R242, R248): it waits for one of the 8 slots, starts its pipeline, and issues when that has ended. A
pipeline record or a stage record that breaks R248 stops the queue with code 1. -/
def execPipelinePacket (q : Nat) (s : State) :=
  s.issuePacket q 9 (fun s f =>
    let x := s.queueAt q
    match x.started with
    | some p => (match Table.find s.pipes p with
      | some y => if y.ended then
          let s1 := { s with pipes := Table.erase s.pipes p }
          .ok s1 (.issued s1)
        else .ok s (.hold s)
      | none => .ok s (.issued s))
    | none =>
      if 8 ≤ s.pipes.length then .ok s (.hold s)
      else (s.pipeline (s.queueWho q) (f.w 1)).bind (fun s t => match t with
        | none => .ok s (.stop s 1)
        | some _ =>
          let s1 := { s with pipes := Table.set s.pipes s.nextId { queue := q, asid := x.asid, record := f.w 1, ended := false } }
          let s2 := s1.setQueue q { x with started := some s.nextId }
          .ok s2.fresh (.hold s2.fresh)))

/-! ### The heartbeat (R9) -/

/-- The WAIT packets of some queues are evaluated in turn. -/
def State.waitPackets (s : State) : List Nat → State
  | [] => s
  | q :: qs => State.waitPackets (if (s.queueAt q).atWait then s.waitPacket q else s) qs

/-- HEARTBEAT_TICK (R9): the next multiple of 64 reference ticks; streams are raised and lowered (R249), fences pass and
WAITs are evaluated, those of units and of packets. -/
def execHeartbeatTick (s : State) : Host.Outcome State Fault Refusal :=
  let s0 : State := { s with tick := (s.hbeat + 1) * 64 }
  let s1 := { s0 with deadlines := s0.deadlines.map (fun (x : Nat × Deadline) => (x.1, x.2.refresh s0.hbeat)) }
  let s2 := { s1 with warps := s1.passFences s1.warps }
  .next ((s2.evaluateAll s2.allUnits).waitPackets (s2.queues.map (·.1)))

end Sys2Proof.Machine
end

