-- ==== Sys2Proof/Machine/Render.lean ====
section
/-! DEFINITION. Render units: marching, ray tests, texture filtering and the radiance cache, majors 0x70 to 0x77
(R285 to R300). -/
namespace Sys2Proof.Machine

/-! ### Common rules (R285) -/

/-- The address of lane L: the field c, plus the constant of an IMM word. -/
def State.renderAddr (s : State) (ops : List Opnd) (c : BitVec 7) (L : Nat) : Nat :=
  let base := s.valueAt intConsts ops .m L
  (if s.u.frame.imm.isSome then base + (s.imm32 c).signExtend 64 else base).toNat

/-- The current unit, its accesses made through a render unit (R176, R285). -/
def State.renderWho (s : State) (unit : BitVec 4) : Who := { s.who with unit := unit }

/-- A lane whose address is not a multiple of n. -/
def State.crookedLane (s : State) (addr : Nat → Nat) (n : Nat) : Option Nat :=
  (Lanes.list s.act).find? (fun L => decide (addr L % n ≠ 0))

/-- What each lane of a list reads and computes, in ascending order. -/
def State.eachLane {α : Type} (s : State) (f : State → Nat → Got (Ans α)) : List Nat → Got (Ans (List (Nat × α)))
  | [] => .ok s (.val [])
  | L :: Ls => (f s L).bind (fun s a => match a with
    | .trap t i => .ok s (.trap t i)
    | .val v => (State.eachLane s f Ls).bind (fun s r => match r with
      | .trap t i => .ok s (.trap t i)
      | .val vs => .ok s (.val ((L, v) :: vs))))

/-- The result registers from e on, n of them, of lanes with a list of values each; a lane that is not listed keeps
what it holds. -/
def State.laneBlock (s : State) (e n : Nat) (vals : List (Nat × List W32)) : List (Nat × List W32) :=
  (List.range n).map (fun i =>
    (e + i, allLanes (fun L => match vals.find? (fun x => x.1 = L) with
      | some x => x.2.getD i 0
      | none => s.w.vreg (e + i) L)))

/-- A long-latency render instruction that computes n registers a lane from memory; only lanes that `f` gives a value
commit. -/
def State.render (s : State) (l : BitVec 4) (c : BitVec 7) (ops : List Opnd) (align n : Nat)
    (f : State → Nat → Nat → Got (Ans (Option (List W32)))) : Host.Outcome State Fault Refusal :=
  s.issue acceptAll ops false (fun s =>
    match s.crookedLane (s.renderAddr ops c) align with
    | some L => .trap .misalign L
    | none =>
      if s.full then .wait s
      else ((s.eachLane (fun s L => f s L (s.renderAddr ops c L)) (Lanes.list s.act)).atomic s s.who.waiter).eff
        (fun s r => match r with
          | .trap t i => .trap t i
          | .val vs =>
            let taken := vs.filterMap (fun x => x.2.map (fun v => (x.1, v)))
            let act := Lanes.of (fun L => taken.any (fun x => x.1 = L))
            if s.act = 0 then .done s
            else .done (s.setW { s.w with pend := s.w.pend ++
              [{ Pending.of act (s.laneBlock (s.regAt ops .a) n taken) [] with unit := s.unit, left := l.toNat + 1 }] })))

/-- Words of a block of n registers from e on, in lane L. -/
def State.blockWords (s : State) (e n L : Nat) : List Nat := (List.range n).map (fun i => (s.given.vreg (e + i) L).toNat)

/-- 32-bit words of bytes. -/
def words32N (bs : List Byte) (n : Nat) : List Nat := (pieces 4 n bs).map bytesVal

/-! FP32 shorthand, each rounded to nearest-even. -/
def sp (x : Nat) : FVal := decodeF f32 x
def spAdd (x y : Nat) : Nat := (addF f32 0 (sp x) (sp y)).1
def spSub (x y : Nat) : Nat := (addF f32 0 (sp x) (sp y).flip).1
def spMul (x y : Nat) : Nat := (mulF f32 0 (sp x) (sp y)).1
def spFma (x y z : Nat) : Nat := (fmaF f32 0 (sp x) (sp y) (sp z)).1
def spDiv (x y : Nat) : Nat := (fdivF f32 x y).1
def spRcp (x : Nat) : Nat := (frcpF f32 x).1
def spMin (x y : Nat) : Nat := (minmaxF f32 false x y).1
def spMax (x y : Nat) : Nat := (minmaxF f32 true x y).1
def spNat (n : Nat) : Nat := (roundF f32 0 false false n 0 false).1
def spLe (x y : Nat) : Bool := lessV (sp x) (sp y) || eqV (sp x) (sp y)
def spLt (x y : Nat) : Bool := lessV (sp x) (sp y)
def spInf : Nat := 0x7F800000
def spOne : Nat := 0x3F800000

def FVal.finite (v : FVal) : Bool := !v.isNan && !v.isInf

/-- An exact quotient rounded once; +0 where it is zero. -/
def spQuot (x y : FVal) : Nat :=
  match x, y with
  | .num n m e, .num n' m' e' => if m = 0 then 0 else (quotF f32 (n != n') m e m' e').1
  | _, _ => f32.nan

/-- floor of a finite value. -/
def floorV : FVal → Int
  | .num n m e =>
    let v : Int := if n then -(m : Int) else m
    if 0 ≤ e then v * 2 ^ e.toNat else v / 2 ^ (-e).toNat
  | _ => 0

/-! ### BOXT (R291) -/

/-- The distance at which a ray enters a box, if it hits. -/
def boxHit (ray lo hi : List Nat) : Option Nat :=
  let g := fun (l : List Nat) i => l.getD i 0
  let near := fun k => spMul (spSub (g lo k) (g ray k)) (spRcp (g ray (3 + k)))
  let far := fun k => spMul (spSub (g hi k) (g ray k)) (spRcp (g ray (3 + k)))
  let tn := spMax (spMax (spMin (near 0) (far 0)) (spMin (near 1) (far 1))) (spMin (near 2) (far 2))
  let tf := spMin (spMin (spMax (near 0) (far 0)) (spMax (near 1) (far 1))) (spMax (near 2) (far 2))
  let dist := spMax tn (g ray 6)
  if ray.any (fun x => (sp x).isNan) || [0, 1, 2].any (fun k => spLt (g hi k) (g lo k)) then none
  else if spLe dist (spMin tf (g ray 7)) then some dist
  else none

/-- Insert a hit by distance, after those that are no farther. -/
def insertHit (h : Nat × Nat) : List (Nat × Nat) → List (Nat × Nat)
  | [] => [h]
  | x :: xs => if spLt h.1 x.1 then h :: x :: xs else x :: insertHit h xs

/-- The eight result words of a node of 28 words. -/
def boxResult (ray node : List Nat) : List W32 :=
  let hit := fun i => (boxHit ray ((node.drop (6 * i)).take 3) ((node.drop (6 * i + 3)).take 3)).map (fun d => (d, node.getD (24 + i) 0))
  let hits := ([0, 1, 2, 3].filterMap hit).foldl (fun acc h => insertHit h acc) []
  let rest := List.replicate (4 - hits.length) (spInf, 0xFFFFFFFF)
  (hits ++ rest).map (fun h => BitVec.ofNat 32 h.1) ++ (hits ++ rest).map (fun h => BitVec.ofNat 32 h.2)

def execBoxt (l : BitVec 4) (c b a : BitVec 7) (s : State) :=
  let ops := [vblock .a a 8 1, vblock .b b 8 1, vaddr c]
  s.render l c ops 128 8 (fun s L addr =>
    (s.partBytes (s.renderWho 4) addr 128).bind (fun s bs =>
      .ok s (.val (some (boxResult (s.blockWords (s.regAt ops .b) 8 L) (words32N bs 28))))))

/-! ### TRIT (R292) -/

/-- The axis of the largest direction component, the lowest on a tie. -/
def mainAxis (d : Nat → FVal) : Nat :=
  let m := fun k => match d k with
    | .num _ m e => FVal.num false m e
    | v => v
  if !lessV (m 0) (m 1) && !lessV (m 0) (m 2) then 0 else if !lessV (m 1) (m 2) then 1 else 2

/-- The exact difference x*y - z*w. -/
def crossV (x y z w : FVal) : FVal := (sumV 0 [mulV x y, (mulV z w).flip]).1

/-- The hit of a ray on a triangle: t, u and v, where it is not missed and lies between tmin and tmax. -/
def triHit (ray verts : List Nat) : Option (Nat × Nat × Nat) :=
  let g := fun (l : List Nat) i => l.getD i 0
  let kz := mainAxis (fun k => sp (g ray (3 + k)))
  let k1 := (kz + 1) % 3
  let k2 := (k1 + 1) % 3
  let back := spLt (g ray (3 + kz)) 0
  let kx := if back then k2 else k1
  let ky := if back then k1 else k2
  let dz := g ray (3 + kz)
  let sx := spDiv (g ray (3 + kx)) dz
  let sy := spDiv (g ray (3 + ky)) dz
  let sz := spRcp dz
  let q := fun p k => spSub (g verts (3 * p + k)) (g ray k)
  let px := fun p => sp (fmaF f32 0 (sp sx).flip (sp (q p kz)) (sp (q p kx))).1
  let py := fun p => sp (fmaF f32 0 (sp sy).flip (sp (q p kz)) (sp (q p ky))).1
  let pz := fun p => sp (spMul sz (q p kz))
  let ok := (ray ++ verts).all (fun x => (sp x).finite) && (sp sx).finite && (sp sy).finite && (sp sz).finite &&
    [0, 1, 2].all (fun p => (px p).finite && (py p).finite && (pz p).finite)
  let U := crossV (px 2) (py 1) (py 2) (px 1)
  let V := crossV (px 0) (py 2) (py 0) (px 2)
  let W := crossV (px 1) (py 0) (py 1) (px 0)
  let det := (sumV 0 [U, V, W]).1
  let isNeg := fun (v : FVal) => v.neg && !v.isZero
  let isPos := fun (v : FVal) => !v.neg && !v.isZero
  let t := spQuot (sumV 0 [mulV U (pz 0), mulV V (pz 1), mulV W (pz 2)]).1 det
  if !ok then none
  else if ([U, V, W].any isNeg && [U, V, W].any isPos) || det.isZero then none
  else if spLe (g ray 6) t && spLe t (g ray 7) then some (t, spQuot V det, spQuot W det)
  else none

/-- The best hit after a triangle: its five words where it is taken. -/
def triTake (ray best rec : List Nat) : Option (List W32) :=
  match triHit ray (rec.take 9) with
  | none => none
  | some (t, u, v) =>
    let prim := rec.getD 9 0
    let inst := rec.getD 10 0
    let bp := best.getD 3 0
    let take := spLt t (best.getD 0 0) || (eqV (sp t) (sp (best.getD 0 0)) &&
      (decide (prim < bp) || (decide (prim = bp) && decide (inst < best.getD 4 0))))
    if take then some ([t, u, v, prim, inst].map (BitVec.ofNat 32)) else none

def execTrit (l : BitVec 4) (c b a : BitVec 7) (s : State) :=
  let ops := [vblock .a a 5 1, vblock .b b 8 1, vaddr c]
  s.render l c ops 16 5 (fun s L addr =>
    (s.partBytes (s.renderWho 4) addr 48).bind (fun s bs =>
      .ok s (.val (triTake (s.blockWords (s.regAt ops .b) 8 L) (s.blockWords (s.regAt ops .a) 5 L) (words32N bs 11)))))

/-! ### TFILT (R293, R294) -/

/-- A texture: base, sizes as powers of two, levels, format, wrap, trilinear. -/
structure Texture where
  base : Nat
  w    : Nat
  h    : Nat
  levels : Nat
  fmt  : Nat
  wrap : Bool
  tri  : Bool

def textureOf (w0 w1 : Nat) : Texture :=
  { base := w0, w := 2 ^ (w1 % 16), h := 2 ^ (w1 / 16 % 16), levels := w1 / 256 % 16 + 1, fmt := w1 / 4096 % 4,
    wrap := w1.testBit 14, tri := w1.testBit 15 }

def Texture.wAt (t : Texture) (l : Nat) : Nat := max 1 (t.w / 2 ^ l)
def Texture.hAt (t : Texture) (l : Nat) : Nat := max 1 (t.h / 2 ^ l)
def Texture.texel (t : Texture) : Nat := if t.fmt = 0 then 16 else if t.fmt = 1 then 8 else 4

/-- A size rounded up to whole lines. -/
def lineUp (n : Nat) : Nat := (n + 127) / 128 * 128

/-- Address of level l. -/
def Texture.levelBase (t : Texture) (l : Nat) : Nat :=
  t.base + ((List.range l).map (fun i => lineUp (t.wAt i * t.hAt i * t.texel))).sum

/-- The four channels of a texel as FP32. -/
def channels (fmt : Nat) (bs : List Byte) : List Nat :=
  if fmt = 0 then (pieces 4 4 bs).map bytesVal
  else if fmt = 1 then (pieces 2 4 bs).map (fun x => (cvtFF 9 8 0 false (bytesVal x)).1)
  else (bs.take 4).map (fun x => spQuot (.num false x.toNat 0) (.num false 255 0))

/-- A texel coordinate inside a level. -/
def Texture.inside (t : Texture) (i : Int) (n : Nat) : Nat :=
  if t.wrap then (i % n).toNat else (max 0 (min i ((n : Int) - 1))).toNat

def State.texel (s : State) (t : Texture) (l : Nat) (i j : Int) : Got (List Nat) :=
  let x := t.inside i (t.wAt l)
  let y := t.inside j (t.hAt l)
  (s.partBytes (s.renderWho 3) ((t.levelBase l + (y * t.wAt l + x) * t.texel) % 2 ^ 64) t.texel).bind
    (fun s bs => .ok s (channels t.fmt bs))

/-- The coordinate of R294 along an axis of n texels. -/
def texCoord (u n : Nat) : FVal := sp (spMin (spMax (spFma u (spNat n) 0xBF000000) 0xBF800000) (spNat n))

/-- floor((x - floor x) * 512). -/
def frac512 (x : FVal) : Nat :=
  (floorV (match x with
    | .num n m e => .num n m (e + 9)
    | v => v) - 512 * floorV x).toNat

/-- A weight of 2^-18. -/
def weight18 (w : Nat) : Nat := (roundF f32 0 false false w (-18) false).1

/-- The filtered value at level l. -/
def State.filterAt (s : State) (t : Texture) (u v l : Nat) : Got (List Nat) :=
  let x := texCoord u (t.wAt l)
  let y := texCoord v (t.hAt l)
  let i := floorV x
  let j := floorV y
  let a := frac512 x
  let b := frac512 y
  (s.texel t l i j).bind (fun s t00 => (s.texel t l (i + 1) j).bind (fun s t10 =>
    (s.texel t l i (j + 1)).bind (fun s t01 => (s.texel t l (i + 1) (j + 1)).bind (fun s t11 =>
      let term := fun w (x : List Nat) k => spMul (weight18 w) (x.getD k 0)
      .ok s ((List.range 4).map (fun k =>
        spAdd (spAdd (spAdd (term ((512 - a) * (512 - b)) t00 k) (term (a * (512 - b)) t10 k))
          (term ((512 - a) * b) t01 k)) (term (a * b) t11 k)))))))

/-- λ clamped to the levels, NaN read as 0. -/
def lodOf (x levels : Nat) : FVal :=
  if (sp x).isNan then .num false 0 0
  else if spLt x 0 then .num false 0 0
  else if spLe (spNat (levels - 1)) x then sp (spNat (levels - 1)) else sp x

/-- The four channels of a lane. -/
def State.filterLane (s : State) (t : Texture) (u v lam : Nat) : Got (List Nat) :=
  let lod := lodOf lam t.levels
  let l0 := (floorV lod).toNat
  let cw := frac512 lod
  (s.filterAt t u v l0).bind (fun s f0 =>
    if !t.tri then .ok s f0
    else (s.filterAt t u v (min (l0 + 1) (t.levels - 1))).bind (fun s f1 =>
      let w := fun n => (roundF f32 0 false false n (-9) false).1
      .ok s ((List.range 4).map (fun k => spAdd (spMul (f0.getD k 0) (w (512 - cw))) (spMul (f1.getD k 0) (w cw))))))

def execTfilt (l : BitVec 4) (c b a : BitVec 7) (s : State) :=
  let ops := [vblock .a a 4 1, vblock .b b 3 1, vaddr c]
  s.render l c ops 64 4 (fun s L addr =>
    (s.partBytes (s.renderWho 3) addr 16).bind (fun s bs =>
      let t := textureOf (bytesVal (bs.take 8)) (bytesVal (bs.drop 8))
      let x := s.blockWords (s.regAt ops .b) 3 L
      if t.fmt = 3 then .ok s (.trap .illegalOp s.ir.toNat)
      else (s.filterLane t (x.getD 0 0) (x.getD 1 0) (x.getD 2 0)).bind (fun s r =>
        .ok s (.val (some (r.map (BitVec.ofNat 32)))))))

/-! ### The sampling unit (R286 to R290) -/

/-- Fields of a march descriptor. -/
def marchG (v : List W64) : Nat := (v.getD 1 0).toNat % 16
def marchMips (v : List W64) : Nat := (v.getD 1 0).toNat / 16 % 4 + 1
def marchKind (v : List W64) : Nat := (v.getD 1 0).toNat / 64 % 4
def marchLevels (v : List W64) : Nat := (v.getD 1 0).toNat / 256 % 16 + 1
def marchMax (v : List W64) : Nat := (v.getD 1 0).toNat / 2 ^ 16 % 2 ^ 16
def marchQueue (v : List W64) : Nat := (v.getD 1 0).toNat / 2 ^ 32 % 2 ^ 19
def marchDtmin (v : List W64) : Nat := (v.getD 2 0).toNat % 2 ^ 32
def marchDtmax (v : List W64) : Nat := (v.getD 2 0).toNat / 2 ^ 32
def marchShift (v : List W64) : Nat := (v.getD 3 0).toNat % 32
def marchLogT (v : List W64) : Nat := (v.getD 3 0).toNat / 256 % 32
def marchRes (v : List W64) (l : Nat) : Nat := (v.getD (8 + l / 4) 0).toNat / 2 ^ (16 * (l % 4)) % 2 ^ 16

/-- A descriptor that breaks the table of R286. -/
def marchBad (v : List W64) : Bool :=
  let w := fun i => (v.getD i 0).toNat
  decide (w 0 % 128 ≠ 0) || decide (10 < marchG v) || decide (marchG v + 1 < marchMips v) || decide (1 < marchKind v) ||
  decide (w 1 / 2 ^ 12 % 16 ≠ 0) || decide (marchMax v = 0) || decide (marchQueue v % 128 ≠ 0) || decide (2 ^ 51 ≤ w 1) ||
  !spLt 0 (marchDtmin v) || !spLe (marchDtmin v) (marchDtmax v) ||
  decide (w 3 / 32 % 8 ≠ 0) || decide (2 ^ 13 ≤ w 3) || decide (marchLogT v < 10) || decide (24 < marchLogT v) ||
  decide (w 4 % 128 ≠ 0) || [5, 6, 7, 12, 13, 14, 15].any (fun i => decide (w i ≠ 0)) ||
  (List.range (marchLevels v)).any (fun l => decide (marchRes v l = 0))

/-- Words of a sample queue's header (R287): capacity, head, tail, rays in flight. -/
def Workgroup.header (g : Workgroup) (o i : Nat) : Nat := Memory.readN g.spad (o + 4 * i) 4
def Workgroup.setHeader (g : Workgroup) (o i v : Nat) : Workgroup := { g with spad := Memory.writeN g.spad (o + 4 * i) 4 v }

/-- What a core's sampling unit holds of a queue. -/
def Core.queueOf (c : Core) (wg o : Nat) : SampleQ :=
  (c.queues.find? (fun q => decide (q.wg = wg) && decide (q.off = o))).getD { wg := wg, off := o, seq := 0, batch := 0 }
def Core.setQueueOf (c : Core) (q : SampleQ) : Core :=
  { c with queues := q :: c.queues.filter (fun x => !(decide (x.wg = q.wg) && decide (x.off = q.off))) }

/-- The queue does not lie in the scratchpad (log entry 37). -/
def State.queueOut (s : State) (o : Nat) : Bool :=
  decide (s.spadSize s.g < o + 128) || decide (s.spadSize s.g < o + 128 + 128 * s.g.header o 0)

/-- Start the ray of a lane: a place in the sampling unit and one more ray in flight. -/
def State.startRay (s : State) (L : Nat) (desc : Nat) (v : List W64) (ray : List Nat) : State :=
  let o := marchQueue v
  let q := s.core.queueOf s.w.wg o
  let r : Ray :=
    { wg := s.w.wg, desc := BitVec.ofNat 64 desc, words := v, vals := ray.map (BitVec.ofNat 32), t := BitVec.ofNat 32 (ray.getD 6 0),
      n := 0, tag := BitVec.ofNat 32 (q.seq % 2 ^ 27 * 32 + L), held := none }
  let s1 := match Table.freeFrom s.core.rays 0 1024 with
    | some k => s.setCore { s.core with rays := Table.set s.core.rays k r }
    | none => s
  s1.setG (s1.g.setHeader o 3 (s1.g.header o 3 + 1))

def State.startRays (s : State) (addr : Nat → Nat) (b : Nat) : List (Nat × List W64) → State
  | [] => s
  | (L, v) :: r => State.startRays (s.startRay L (addr L) v (s.blockWords b 8 L)) addr b r

/-- One more SMARCH on each of some queues. -/
def State.countMarches (s : State) : List Nat → State
  | [] => s
  | o :: os =>
    let q := s.core.queueOf s.w.wg o
    State.countMarches (s.setCore (s.core.setQueueOf { q with seq := q.seq + 1 })) os

/-- SMARCH (R288): one that needs more than the 1,024 rays of a core waits at issue, before it has issued. -/
def execSmarch (c b a : BitVec 7) (s : State) :=
  let ops := [vd .a a 1, vblock .b b 8 1, vaddr c]
  s.issue acceptAll ops false (fun s =>
    let addr := s.renderAddr ops c
    match s.crookedLane addr 128 with
    | some L => .trap .misalign L
    | none =>
      let read := fun (s : State) L => (s.partBytes (s.renderWho 3) (addr L) 128).bind (fun s bs =>
        let v := words64 16 bs
        if marchBad v then .ok s (.trap .illegalOp s.ir.toNat)
        else if s.queueOut (marchQueue v) then .ok s (.trap .misalign L)
        else .ok s (Ans.val v))
      ((s.eachLane read (Lanes.list s.act)).atomic s s.who.waiter).eff (fun s r => match r with
        | .trap t i => .trap t i
        | .val vs =>
          let os := (vs.map (fun x => marchQueue x.2)).eraseDups
          if 1024 < s.core.rays.length + vs.length then .wait s
          else if os.any (fun o => !s.g.present o 128) then .held s
          else
            let tag := fun L => BitVec.ofNat 32
              ((s.core.queueOf s.w.wg (marchQueue (laneEntry [] vs L))).seq % 2 ^ 27 * 32 + L)
            let s1 := (s.startRays addr (s.regAt ops .b) vs).countMarches os
            .done (s1.setW (s1.w.setVreg s1.act (s1.regAt ops .a) tag))))

/-- SMNEXT (R290). -/
def execSmnext (l : BitVec 4) (c b a : BitVec 7) (s : State) :=
  let ops := [sblock .a a 3, ss .b b]
  let most := (s.imm32 c).toNat
  s.issue acceptAll ops (decide (most = 0)) (fun s =>
    let sb := (s.valueAt intConsts ops .b 0).toNat
    if s.act = 0 then .done s
    else if 2 ^ 19 ≤ sb then .trap .illegalOp s.ir.toNat
    else if sb % 128 ≠ 0 ∨ s.spadSize s.g < sb + 128 then .trap .misalign (Lanes.lowest s.act)
    else if s.full then .wait s
    else if !s.g.present sb 128 then .held s
    else if s.u.frame.imm.isSome && decide (s.g.header sb 0 < most) then .trap .illegalOp s.ir.toNat
    else
      let q := s.core.queueOf s.w.wg sb
      let s1 := (s.setCore (s.core.setQueueOf { q with batch := 0 })).setG (s.g.setHeader sb 1 (s.g.header sb 1 + q.batch))
      let head := s1.g.header sb 1
      let have_ := (s1.g.header sb 2 + 2 ^ 32 - head) % 2 ^ 32
      let rays := s1.g.header sb 3
      if have_ = 0 ∧ rays ≠ 0 then .held s1
      else
        let n := min have_ most
        let e := s1.regAt ops .a
        let vals := [(e, BitVec.ofNat 64 head), (e + 1, BitVec.ofNat 64 n), (e + 2, BitVec.ofNat 64 rays)]
        (s1.setCore (s1.core.setQueueOf { q with batch := n })).pushResult l { Pending.of s1.act [] [] with scl := vals })

/-- The agent of a ray's accesses. -/
def State.rayWho (s : State) (core ray wg : Nat) : Who :=
  { engineWho (s.wgAt wg).asid (dieOf core) 3 0 (core % 48) (.ray core ray) with
    master := (s.wgAt wg).asid, slot := BitVec.ofNat 6 ((s.warpAt ((s.wgAt wg).warps.headD 0)).slot) }

/-- Address of mip level m of the occupancy grid. -/
def gridLevel (v : List W64) (m : Nat) : Nat :=
  (v.getD 0 0).toNat + ((List.range m).map (fun i => lineUp ((2 ^ (3 * (marchG v - i)) + 7) / 8))).sum

/-- The bit of level m whose cell holds the level-0 cell c. -/
def State.gridBit (s : State) (who : Who) (v : List W64) (c : Nat → Nat) (m : Nat) : Got Bool :=
  let side := 2 ^ (marchG v - m)
  let i := c 0 / 2 ^ m + side * (c 1 / 2 ^ m + side * (c 2 / 2 ^ m))
  (s.readVal who ((gridLevel v m + i / 8) % 2 ^ 64) 1).bind (fun s b => .ok s (b.testBit (i % 8)))

/-- The highest level from m down to 1 whose cell is clear, 0 if none of these is. -/
def State.clearLevel (s : State) (who : Who) (v : List W64) (c : Nat → Nat) : Nat → Got Nat
  | 0 => .ok s 0
  | m + 1 => (s.gridBit who v c (m + 1)).bind (fun s b => if b then State.clearLevel s who v c m else .ok s (m + 1))

/-- The level whose clear cell a ray skips, none where the level-0 cell is set. -/
def State.skipLevel (s : State) (who : Who) (v : List W64) (c : Nat → Nat) : Got (Option Nat) :=
  (s.gridBit who v c 0).bind (fun s b =>
    if b then .ok s none else (s.clearLevel who v c (marchMips v - 1)).bind (fun s m => .ok s (some m)))

/-- Index of a corner in level l (R289). -/
def hashIndex (v : List W64) (l x y z : Nat) : Nat :=
  let q := marchRes v l + 1
  let T := 2 ^ marchLogT v
  if q * q * q ≤ T then x + q * (y + q * z)
  else (x ^^^ (y * 0x9E3779B1 % 2 ^ 32) ^^^ (z * 0x85EBCA77 % 2 ^ 32)) % 2 ^ 32 % T

/-- The sums of the two features of a level from corner j on. -/
def State.hashCorners (s : State) (who : Who) (v : List W64) (l : Nat) (i : Nat → Nat) (f : Nat → Nat) :
    List Nat → Option (Nat × Nat) → Got (Nat × Nat)
  | [], acc => .ok s (acc.getD (0, 0))
  | j :: js, acc =>
    let at_ := fun k => i k + (if j.testBit k then 1 else 0)
    let wk := fun k => if j.testBit k then f k else spSub spOne (f k)
    let w := spMul (spMul (wk 0) (wk 1)) (wk 2)
    let a := (v.getD 4 0).toNat + 4 * l * 2 ^ marchLogT v + 4 * hashIndex v l (at_ 0) (at_ 1) (at_ 2)
    (s.readVal who (a % 2 ^ 64) 4).bind (fun s e =>
      let wide := fun x => (cvtFF 9 8 0 false x).1
      let x := spMul w (wide (e % 2 ^ 16))
      let y := spMul w (wide (e / 2 ^ 16))
      State.hashCorners s who v l i f js (match acc with
        | none => some (x, y)
        | some (p, q) => some (spAdd p x, spAdd q y)))

/-- The features of a position, two FP16 values a level, as bytes. -/
def State.features (s : State) (who : Who) (v : List W64) (p : Nat → Nat) : List Nat → Got (List Byte)
  | [] => .ok s []
  | l :: ls =>
    let x := fun k => spMul (p k) (spNat (marchRes v l))
    let i := fun k => (floorV (sp (x k))).toNat
    let f := fun k => spSub (x k) (spNat (i k))
    (s.hashCorners who v l i f (List.range 8) none).bind (fun s r =>
      (State.features s who v p ls).bind (fun s bs =>
        let h := fun x => valBytes 2 (cvtFF 8 9 0 false x).1
        .ok s (h r.1 ++ h r.2 ++ bs)))

/-- The bytes of a sample record (R287). -/
def recordBytes (p : Nat → Nat) (t dt tag : Nat) (feats : List Byte) : List Byte :=
  [p 0, p 1, p 2, t, dt, tag].flatMap (valBytes 4) ++ List.replicate 8 0 ++ (feats ++ List.replicate 64 0).take 64 ++
  List.replicate 32 0

/-- The step of a sample. -/
def marchStep (v : List W64) (t : Nat) : Nat :=
  if marchKind v = 0 then marchDtmin v
  else spMin (spMax (fldxF f32 0 t (-(marchShift v : Int))).1 (marchDtmin v)) (marchDtmax v)

/-- Where a ray leaves the level-m cell that it is in. -/
def leaveAt (v : List W64) (r : Ray) (c : Nat → Nat) (m : Nat) : Nat :=
  let g := fun i => (r.vals.getD i 0).toNat
  let at_ := fun k =>
    let up := spLt 0 (g (3 + k))
    let bound := FVal.num false (c k / 2 ^ m + (if up then 1 else 0)) ((m : Int) - (marchG v : Int))
    spQuot (sumV 0 [bound, (sp (g k)).flip]).1 (sp (g (3 + k)))
  ([0, 1, 2].filter (fun k => !(sp (g (3 + k))).isZero)).foldl (fun acc k => spMin acc (at_ k)) spInf

/-- One turn of the loop of R288 for a ray: the ray afterwards, none where it has ended; or a wait for a free record. -/
def State.marchTurn (s : State) (core ray : Nat) (r : Ray) : Got (Option (Option Ray)) :=
  let v := r.words
  let who := s.rayWho core ray r.wg
  let g := fun i => (r.vals.getD i 0).toNat
  let t := r.t.toNat
  let p := fun k => spFma t (g (3 + k)) (g k)
  let out := [0, 1, 2].any (fun k => (sp (p k)).isNan || spLt (p k) 0 || spLe spOne (p k))
  let o := marchQueue v
  if !spLt t (g 7) || decide (marchMax v ≤ r.n) || out then .ok s (some none)
  else
    let c := fun k => (floorV (match sp (p k) with
      | .num n m e => .num n m (e + marchG v)
      | x => x)).toNat
    (s.skipLevel who v c).bind (fun s m => match m with
      | some m => .ok s (some (some { r with t := BitVec.ofNat 32 (spMax (leaveAt v r c m) (spAdd t (marchDtmin v))) }))
      | none =>
        let wg := s.wgAt r.wg
        let cap := wg.header o 0
        let tail := wg.header o 2
        let free := decide ((tail + 2 ^ 32 - wg.header o 1) % 2 ^ 32 < cap)
        let at_ := o + 128 + 128 * (tail % cap)
        if !free || !wg.present o 128 || !wg.present at_ 128 then .ok s none
        else
          let dt := marchStep v t
          (s.features who v p (List.range (marchLevels v))).bind (fun s fs =>
            let wg1 := if s.spadSize wg < at_ + 128 then wg
              else { wg with spad := Memory.writeBytes wg.spad at_ (recordBytes p t dt r.tag.toNat fs) }
            .ok (s.setWg r.wg (wg1.setHeader o 2 (tail + 1))) (some (some { r with n := r.n + 1, t := BitVec.ofNat 32 (spAdd t dt) }))))

/-- RAY_MARCH_SAMPLE (R288): one turn of a ray's loop. -/
def execRayMarchSample (core ray : Nat) (s : State) : Host.Outcome State Fault Refusal :=
  match Table.find (s.coreAt core).rays ray with
  | none => .next s
  | some r =>
    if decide ((s.wgAt r.wg).phase ≠ .resident) || r.held.isSome then .next s
    else match (s.marchTurn core ray r).atomic s (.ray core ray) with
      | .ok s1 none => .next s1
      | .ok s1 (some (some r1)) => .next (s1.setCoreAt core { s1.coreAt core with rays := Table.set (s1.coreAt core).rays ray r1 })
      | .ok s1 (some none) =>
        let c := s1.coreAt core
        let g := s1.wgAt r.wg
        let o := marchQueue r.words
        .next ((s1.setCoreAt core { c with rays := Table.erase c.rays ray }).setWg r.wg
          (g.setHeader o 3 (g.header o 3 + 2 ^ 32 - 1)))
      | .fault s1 d i => .next (s1.setCoreAt core { s1.coreAt core with rays := Table.set (s1.coreAt core).rays ray { r with held := some (d, i) } })
      | .full s1 => .next s1
      | .denied s1 => .next (s1.endDomain (s1.wgAt r.wg).asid (s1.launchAt (s1.wgAt r.wg).launch).domain)
      | .wait s1 => .next s1

end Sys2Proof.Machine
end

