-- ==== Sys2Proof/Machine/Radiance.lean ====
section
/-! DEFINITION. The radiance cache: RCQ, RCQT, RCVER, the net store, the trainer and its publications, and the binding
of a net descriptor (R295 to R300). -/
namespace Sys2Proof.Machine

/-! ### Net descriptors (R295) -/

def netIn (v : List W64) : Nat := (v.getD 0 0).toNat % 64
def netHidden (v : List W64) : Nat := (v.getD 0 0).toNat / 64 % 8
def netOut (v : List W64) : Nat := (v.getD 0 0).toNat / 2 ^ 9 % 8
def netRelu (v : List W64) : Bool := (v.getD 0 0).getLsbD 12
def netOrdered (v : List W64) : Bool := (v.getD 0 0).getLsbD 13
def netTraining (v : List W64) : Bool := (v.getD 0 0).getLsbD 14
def netOwner (v : List W64) : Nat := (v.getD 0 0).toNat / 2 ^ 32 % 2 ^ 16
def netCapacity (v : List W64) : Nat := (v.getD 4 0).toNat % 2 ^ 32

/-- A descriptor that breaks the table of R295. -/
def netBad (v : List W64) : Bool :=
  let w := fun i => (v.getD i 0).toNat
  decide (netIn v = 0) || decide (32 < netIn v) || decide (4 < netHidden v) || decide (netOut v = 0) || decide (4 < netOut v) ||
  decide (w 0 / 2 ^ 15 % 2 ^ 17 ≠ 0) || decide (2 ^ 48 ≤ w 0) || decide (w 3 % 128 ≠ 0) || decide (w 4 % 1024 ≠ 0) ||
  decide (2 ^ 32 ≤ w 4) || [10, 11, 12, 13, 14, 15].any (fun i => decide (w i ≠ 0))

/-- A layer: inputs, units, and whether its outputs pass a ReLU. -/
structure Layer where
  ins  : Nat
  outs : Nat
  relu : Bool

/-- The layers of a network in order. -/
def netLayers (v : List W64) : List Layer :=
  let widths := netIn v :: List.replicate (netHidden v) 64
  let last := ({ ins := widths.getLastD 0, outs := netOut v, relu := netRelu v } : Layer)
  (widths.zip (widths.drop 1)).map (fun p => { ins := p.1, outs := p.2, relu := true }) ++ [last]

/-- The number of master values: weights and biases of every layer. -/
def netSize (v : List W64) : Nat := ((netLayers v).map (fun l => l.ins * l.outs + l.outs)).sum

/-! ### Evaluation (R296) -/

/-- rne(x, bf16). -/
def toBf16 (x : Nat) : Nat := (cvtFF 8 10 0 false x).1

/-- One unit: the exact sum of products and bias, rounded once. -/
def unitSum (xs ws : List Nat) (bias : Nat) : Nat :=
  let ps := (xs.zip ws).map (fun p => mulV (decodeF bf16 p.1) (decodeF bf16 p.2))
  (roundV f32 0 (sumV 0 (ps ++ [decodeF bf16 bias])).1 0).1

/-- s > 0 ? s : +0, where NaN passes. -/
def reluOf (x : Nat) : Nat := if (sp x).isNan then x else if spLt 0 x then x else 0

/-- What a layer took and gave: its inputs as BF16, and the sums of its units as FP32. -/
structure LayerRun where
  layer : Layer
  ws    : List (List Nat)
  xs    : List Nat
  sums  : List Nat

def LayerRun.ys (r : LayerRun) : List Nat := if r.layer.relu then r.sums.map reluOf else r.sums

/-- Evaluate layers on inputs in FP32, with weights in the order of the master values; first layer first. -/
def runNet : List Layer → List Nat → List Nat → List LayerRun
  | [], _, _ => []
  | l :: ls, ws, xs =>
    let rows := pieces l.ins l.outs ws
    let biases := (ws.drop (l.ins * l.outs)).take l.outs
    let x16 := xs.map toBf16
    let r : LayerRun := { layer := l, ws := rows, xs := x16, sums := (rows.zip biases).map (fun p => unitSum x16 p.1 p.2) }
    r :: runNet ls (ws.drop (l.ins * l.outs + l.outs)) r.ys

/-- The outputs of a network. -/
def netOutputs (v : List W64) (ws xs : List Nat) : List Nat :=
  match (runNet (netLayers v) ws xs).getLast? with
  | some r => r.ys
  | none => []

/-- The half of the double buffer that is published, and the other (R300). -/
def NetSlot.live (n : NetSlot) : List Nat := (if n.active then n.half1 else n.half0).map BitVec.toNat
def NetSlot.setIdle (n : NetSlot) (ws : List Nat) : NetSlot :=
  let h := ws.map (BitVec.ofNat 16)
  if n.active then { n with half0 := h } else { n with half1 := h }

/-! ### RCQ, RCQT, RCVER (R296, R297) -/

/-- The slot of a query: bound, and owned by the context. -/
def State.netOf (s : State) (k : Nat) : Option NetSlot :=
  (Table.find s.nets (8 * dieOf s.g.core + k)).bind (fun n => if netOwner n.words = s.g.asid then some n else none)

/-- The slot number of RCQ and RCQT: the field, or imm32 with [31:3] zero. -/
def State.slotNumber (s : State) (k : BitVec 3) : Option Nat :=
  match s.u.frame.imm with
  | none => some k.toNat
  | some p => if p = 0 then some k.toNat else none

/-- Address of ring place p. -/
def ringAt (v : List W64) (p : Nat) : Nat := (v.getD 3 0).toNat + 160 * p

/-- A ring place for a post: the next in order, or in ordered mode the lowest that no sample holds (log entry 40). -/
def NetSlot.place (n : NetSlot) : Option Nat :=
  let cap := netCapacity n.words
  if netOrdered n.words then
    let used := n.held.map (fun h => h.2.2.2) ++ n.carry
    (List.range cap).find? (fun p => !used.contains p)
  else if n.tail - n.head < cap then some (n.tail % cap) else none

/-- A post has taken its place. -/
def NetSlot.posted (n : NetSlot) (launch index seq p : Nat) : NetSlot :=
  if netOrdered n.words then { n with held := n.held ++ [(launch, index, seq, p)] } else { n with tail := n.tail + 1 }

/-- The bytes of a sample: 32 features, 4 targets, and where it comes from. -/
def sampleBytes (xs ts : List Nat) (launch index seq : Nat) : List Byte :=
  ((xs ++ List.replicate 32 0).take 32 ++ (ts ++ List.replicate 4 0).take 4 ++ [launch, index, seq, 0]).flatMap (valBytes 4)

/-- Launch-linear index of lane L (R258). -/
def State.linear (s : State) (L : Nat) : Nat := s.g.wgx.toNat * 32 * s.g.nwarps + 32 * s.w.index + L

/-- Add 1 to the dropped samples, word 9 of the descriptor. -/
def State.dropSample (s : State) (n : NetSlot) : State :=
  let a := n.desc.toNat + 72
  s.physStore a (valBytes 8 (Memory.readN s.mem a 8 + 1))

/-- The posts of lanes (R296). -/
def State.postSamples (s : State) (k : Nat) (xs ts : Nat → List Nat) : List Nat → Got Unit
  | [] => .ok s ()
  | L :: Ls =>
    let die := dieOf s.g.core
    let n := s.netAt die k
    let seq := Table.get 0 s.w.rcqtSeq L
    let w := s.w
    let s0 := s.setW { w with rcqtSeq := Table.set w.rcqtSeq L (seq + 1) }
    match n.place with
    | none => State.postSamples (s0.dropSample n) k xs ts Ls
    | some p =>
      (s0.put (s0.renderWho 5) (ringAt n.words p) (sampleBytes (xs L) (ts L) s.launch.seq (s.linear L) seq)).bind (fun s1 _ =>
        State.postSamples (s1.setNet die k (n.posted s.launch.seq (s.linear L) seq p)) k xs ts Ls)

/-- RCQ, and RCQT with its targets and posts. -/
def State.query (s : State) (l : BitVec 4) (k : BitVec 3) (b a : BitVec 7) (train : Bool) : Host.Outcome State Fault Refusal :=
  match (s.slotNumber k).bind s.netOf with
  | none => s.issue acceptAll [] true Eff.done
  | some n =>
    let ni := netIn n.words
    let no := netOut n.words
    let ops := [vblock .a a no 1, vblock .b b (if train then ni + no else ni) 1]
    s.issue acceptAll ops false (fun s =>
      if s.full then .wait s
      else
        let e := s.regAt ops .b
        let xs := s.blockWords e ni
        let ys := fun L => netOutputs n.words n.live (xs L)
        let vec := (List.range no).map (fun i => (s.regAt ops .a + i, allLanes (fun L => BitVec.ofNat 32 ((ys L).getD i 0))))
        let post := if train then s.postSamples k.toNat xs (s.blockWords (e + ni) no) (Lanes.list s.act) else .ok s ()
        (post.atomic s s.who.waiter).eff (fun s _ => s.pushResult l { Pending.of s.act vec [] with ver := some n.version }))

def execRcq (l : BitVec 4) (s_ : BitVec 3) (b a : BitVec 7) (s : State) := s.query l s_ b a false
def execRcqt (l : BitVec 4) (s_ : BitVec 3) (b a : BitVec 7) (s : State) := s.query l s_ b a true

/-- RCVER (R297). -/
def execRcver (a : BitVec 7) (s : State) :=
  s.vmap acceptGX [vd .a a 1] false intConsts 1 none
    (fun s L _ _ _ => ((Table.get 0xFFFFFFFF#32 s.w.rcver L).setWidth 64, 0))

/-! ### The trainer (R298, R299) -/

/-- The trainer of a die as an agent. -/
def trainerWho (asid die slot : Nat) : Who := engineWho asid die 10 0 0 (.trainer die slot)

/-- The trainer of a die is parked at a fault. -/
def State.trainerParked (s : State) (die : Nat) : Bool :=
  s.faults.any (fun x => x.2.waiters.any (fun w => match w with
    | .trainer d _ => decide (d = die)
    | _ => false))

/-- The sum of products of a unit's gradient: a sum of rounded terms in ascending order. -/
def sumTerms : List Nat → Nat
  | [] => 0
  | x :: xs => xs.foldl spAdd x

/-- The gradient that passes a unit: all of it, or +0 where a ReLU holds it. -/
def maskGrad (relu : Bool) (s d : Nat) : Nat := if relu && spLe s 0 then 0 else d

/-- The gradients of the layers, last layer first, from the gradients of the last layer's outputs; each layer's in the
order of its master values. -/
def backNet : List LayerRun → List Nat → List (List Nat)
  | [], _ => []
  | r :: rs, dy =>
    let d := (r.sums.zip dy).map (fun p => maskGrad r.layer.relu p.1 p.2)
    let wide := fun x => (cvtFF 10 8 0 false x).1
    let dw := d.flatMap (fun x => r.xs.map (fun y => spMul x (wide y)))
    let dx := (List.range r.layer.ins).map (fun i => sumTerms ((d.zip r.ws).map (fun p => spMul p.1 (wide (p.2.getD i 0)))))
    (dw ++ d) :: backNet rs dx

/-- The gradient of one sample, one value for each master value. -/
def sampleGrad (v : List W64) (ws : List Nat) (xs ts : List Nat) : List Nat :=
  let runs := (runNet (netLayers v) ws xs).reverse
  let ys := match runs with
    | r :: _ => r.ys
    | [] => []
  (backNet runs ((ys.zip ts).map (fun p => spSub p.1 p.2))).reverse.flatten

/-- The batch gradient: samples added in order, then times 2^-10. -/
def batchGrad (v : List W64) (ws : List Nat) (samples : List (List Nat × List Nat)) : List Nat :=
  let grads := samples.map (fun p => sampleGrad v ws p.1 p.2)
  let sum := match grads with
    | [] => []
    | g :: gs => gs.foldl (fun acc g => List.zipWith spAdd acc g) g
  sum.map (fun g => spMul g 0x3A800000)

/-- b to the power n by repeated FMUL. -/
def powS (b : Nat) : Nat → Nat
  | 0 => spOne
  | 1 => b
  | n + 1 => spMul (powS b n) b

/-- The Adam update of one master value: w, m and v afterwards (R298), `k` steps done before. -/
structure Adam where
  lr  : Nat
  b1  : Nat
  b2  : Nat
  eps : Nat
  c1  : Nat
  c2  : Nat

def adamOf (v : List W64) (k : Nat) : Adam :=
  let lo := fun i => (v.getD i 0).toNat % 2 ^ 32
  let hi := fun i => (v.getD i 0).toNat / 2 ^ 32
  { lr := lo 5, b1 := hi 5, b2 := lo 6, eps := hi 6, c1 := spSub spOne (powS (hi 5) (k + 1)),
    c2 := spSub spOne (powS (lo 6) (k + 1)) }

def Adam.update (p : Adam) (w m v g : Nat) : Nat × Nat × Nat :=
  let m1 := spAdd (spMul p.b1 m) (spMul (spSub spOne p.b1) g)
  let v1 := spAdd (spMul p.b2 v) (spMul (spMul (spSub spOne p.b2) g) g)
  let den := spAdd (fsqrtF f32 (spDiv v1 p.c2)).1 p.eps
  (spSub w (spDiv (spMul p.lr (spDiv m1 p.c1)) den), m1, v1)

/-- The ring places of the next batch, if there is a full one. -/
def NetSlot.batch (n : NetSlot) : Option (List Nat) :=
  if netOrdered n.words then (if 1024 ≤ n.carry.length then some (n.carry.take 1024) else none)
  else if 1024 ≤ n.tail - n.head then some ((List.range 1024).map (fun i => (n.head + i) % netCapacity n.words)) else none

/-- The batch has left the ring. -/
def NetSlot.taken (n : NetSlot) : NetSlot :=
  if netOrdered n.words then { n with carry := n.carry.drop 1024 } else { n with head := n.head + 1024 }

/-- Read the samples at ring places: inputs and targets. -/
def State.readSamples (s : State) (who : Who) (v : List W64) : List Nat → Got (List (List Nat × List Nat))
  | [] => .ok s []
  | p :: ps => (s.partBytes who (ringAt v p) 144).bind (fun s bs =>
    let ws := words32N bs 36
    (State.readSamples s who v ps).bind (fun s r => .ok s ((ws.take (netIn v), (ws.drop 32).take (netOut v)) :: r)))

/-- The bytes of 32-bit words. -/
def bytes32 (xs : List Nat) : List Byte := xs.flatMap (valBytes 4)

/-- Values of a list in pairs. -/
def pairsOf : List Nat → List (Nat × Nat)
  | x :: y :: r => (x, y) :: pairsOf r
  | _ => []

/-- One training step of a slot: the forward pass, gradients and Adam update; the new weights. -/
def State.trainSlot (s : State) (who : Who) (n : NetSlot) (places : List Nat) : Got (List Nat) :=
  let v := n.words
  let size := netSize v
  let wAddr := (v.getD 1 0).toNat
  let aAddr := (v.getD 2 0).toNat
  (s.readSamples who v places).bind (fun s samples =>
    (s.partBytes who wAddr (4 * size)).bind (fun s wb =>
      (s.partBytes who aAddr (8 * size)).bind (fun s ab =>
        let g := batchGrad v n.live samples
        let p := adamOf v n.step
        let new := List.zipWith (fun (x : Nat × Nat × Nat) g => p.update x.1 x.2.1 x.2.2 g)
          ((words32N wb size).zip (pairsOf (words32N ab (2 * size)))) g
        (s.put who wAddr (bytes32 (new.map (·.1)))).bind (fun s _ =>
          (s.put who aAddr (bytes32 (new.flatMap (fun x => [x.2.1, x.2.2])))).bind (fun s _ =>
            .ok s (new.map (·.1)))))))

/-- The words of a net descriptor at its physical address (log entry 41). -/
def State.netWords (s : State) (desc : W64) : List W64 := (List.range 16).map (fun i => s.phys64 (desc.toNat + 8 * i))

/-- The trainer gives up a slot, or the bind of one (R299): its training-on bit is cleared, and the fault domain of its owner's
root RCB ends. A slot that has been unbound meanwhile has no access left. -/
def State.stopTraining (s : State) (die slot : Nat) : State :=
  let k := 8 * die + slot
  let stop := fun (s : State) (desc : W64) (words : List W64) =>
    let w0 := words.getD 0 0 &&& ~~~ 0x4000#64
    (s.physStore desc.toNat (valBytes 8 w0.toNat)).endDomain (netOwner words) (s.rootDomain (netOwner words))
  match Table.find s.binds k, Table.find s.nets k with
  | some d, _ => stop { s with binds := Table.erase s.binds k } d (s.netWords d)
  | none, some n =>
    let w0 := n.words.getD 0 0 &&& ~~~ 0x4000#64
    stop (s.setNet die slot { n with words := w0 :: n.words.drop 1 }) n.desc n.words
  | none, none => s

/-- What an access of the trainer leaves. -/
def State.trainerEnd {α : Type} (s : State) (die slot : Nat) (g : Got α) (f : State → α → State) : State :=
  match g.atomic s (.trainer die slot) with
  | .ok s1 a => f s1 a
  | .denied s1 => s1.stopTraining die slot
  | g => g.state

/-! ### Binding (R295, R310) -/

/-- Bind a slot whose descriptor has been written, once the trainer can read the master weights. -/
def State.bindSlot (s : State) (die slot : Nat) : State :=
  match Table.find s.binds (8 * die + slot) with
  | none => s
  | some v =>
    if s.trainerParked die then s
    else
      let words := s.netWords v
      let size := netSize words
      s.trainerEnd die slot (s.partBytes (trainerWho (netOwner words) die slot) (words.getD 1 0).toNat (4 * size)) (fun s bs =>
        let half := (words32N bs size).map (fun x => BitVec.ofNat 16 (toBf16 x))
        let n : NetSlot := { NetSlot.blank with desc := v, words := words, half0 := half, step := (words.getD 7 0).toNat }
        ({ s with binds := Table.erase s.binds (8 * die + slot) }.setNet die slot n).physStore (v.toNat + 64) (valBytes 8 0))

/-- The binds of a die, in ascending slot order. -/
def State.bindAll (s : State) (die : Nat) : State := (List.range 8).foldl (fun s k => s.bindSlot die k) s

/-- What a slot was bound to goes, with the accesses that were under way for it (DESIGN CHOICE: no rule says what becomes of
them). -/
def State.unbind (s : State) (die slot : Nat) : State :=
  let k := 8 * die + slot
  State.dropAccess { s with nets := Table.erase s.nets k, binds := Table.erase s.binds k } (.trainer die slot)

/-- NETBIND_WRITE: the descriptor is read at its physical address (log entry 41), the master weights through the owner's tables.
The slot is bound once they have been read. -/
def execNetbindWrite (die slot : Nat) (v : W64) (s : State) : Host.Outcome State Fault Refusal :=
  let a := v.toNat
  if a % 128 ≠ 0 ∨ 4 ≤ die ∨ 8 ≤ slot ∨ 2 ^ 40 < a + 128 then .next s
  else if a = 0 then .next (s.unbind die slot)
  else if netBad (s.netWords v) then .next s
  else
    let s1 := s.unbind die slot
    .next (State.bindSlot { s1 with binds := Table.set s1.binds (8 * die + slot) v } die slot)

/-! ### Steps and publication (R298, R300) -/

/-- A slot that has training on and a full batch, and whose last step has been published. -/
def State.batchOf (s : State) (die slot : Nat) : Option (NetSlot × List Nat) :=
  (Table.find s.nets (8 * die + slot)).bind (fun n =>
    if !netTraining n.words || n.ready then none else n.batch.map (fun p => (n, p)))

/-- TRAINER_STEP (R298): one batch, one Adam step; the new weights go into the idle half (R300). Slots are served in ascending
order, after the binds that wait. -/
def execTrainerStep (die slot : Nat) (s0 : State) : Host.Outcome State Fault Refusal :=
  let s := s0.settleNets.bindAll die
  if s.trainerParked die || (List.range slot).any (fun k => (s.batchOf die k).isSome) then .next s
  else match s.batchOf die slot with
    | none => .next s
    | some (n, places) =>
      .next (s.trainerEnd die slot (s.trainSlot (trainerWho (netOwner n.words) die slot) n places) (fun s ws =>
        (s.setNet die slot { n.taken.setIdle (ws.map toBf16) with ready := true, step := n.step + 1 }).physStore
          (n.desc.toNat + 56) (valBytes 8 (n.step + 1))))

/-- WEIGHT_PUBLISH (R300): every query has been evaluated as it issued, so none is on either half between steps. The version is
stored with release: what the trainer has written is performed first. -/
def execWeightPublish (die slot : Nat) (s : State) : Host.Outcome State Fault Refusal :=
  match Table.find s.nets (8 * die + slot) with
  | none => .next s
  | some n =>
    if !n.ready || s.trainerParked die || s.unperformedBy (.trainer die slot) then .next s
    else
      let ver := BitVec.ofNat 32 n.step
      .next ((s.setNet die slot { n with active := !n.active, version := ver, ready := false }).physStore
        (n.desc.toNat + 64) (valBytes 8 ver.toNat))

end Sys2Proof.Machine
end

