-- ==== Sys2Proof/Machine/Recursion.lean ====
section
/-! DEFINITION. The recursion object: major 0x6F and the unfolding engine (R269 to R283), and what EXIT does in the
depth phase (R275). -/
namespace Sys2Proof.Machine

/-! ### RLAUNCH (R277): its release is that of State.mayWord -/

/-- Objects of a die's engine that have not ended. -/
def State.objsOn (s : State) (die : Nat) : Nat := (s.objs.filter (fun x => decide (x.2.die = die) && decide (x.2.phase ≠ .ended))).length

/-- The current warp runs a routine of a recursion object. -/
def State.inRoutine (s : State) : Bool :=
  match s.launch.kind with
  | .routine _ => true
  | _ => false

def execRlaunch (b a : BitVec 7) (s : State) :=
  let ops := [sd .a a, ss .b b]
  s.issue acceptNone ops s.inRoutine (fun s =>
    let addr := s.valueAt intConsts ops .b 0
    let die := dieOf s.g.core
    if addr.toNat % 256 ≠ 0 then .trap .misalign (Lanes.lowest s.act)
    else if 4 ≤ s.objsOn die then .wait s
    else
      let q := s.takeSeq s.g.asid
      let o : RecObj :=
        { die := die, asid := s.g.asid, seq := q.2, desc := addr, words := [], phase := .start, arena := 0, made := 0, levels := [],
          base := none, dead := false, ends := [], launch := none, frames := [], queue := s.launch.queue }
      .done ((q.1.fresh.setObj q.1.nextId o).setSreg (s.regAt ops .a) (BitVec.ofNat 64 q.2)))

/-! ### Routine instructions (R278 to R283) -/

/-- The frame context of lane L. -/
def LaneFrame.blank : LaneFrame :=
  { obj := 0, routine := 0, frame := 0, bytes := [], level := 0, child := 0, leaf := false, made := [], pos := 0, results := [], result := 0,
    depth := false, stack := [], count := 0 }
def Warp.frameAt (w : Warp) (L : Nat) : LaneFrame := Table.get LaneFrame.blank w.frames L

/-- A lane of ACT runs no routine, or one that is not listed. -/
def State.notRoutine (s : State) (rs : List Nat) : Bool :=
  (Lanes.list s.act).any (fun L => match Table.find s.w.frames L with
    | some f => !rs.contains f.routine
    | none => true)

/-- Change the frame contexts of lanes. -/
def mapFrames (t : Table LaneFrame) (f : Nat → LaneFrame → LaneFrame) : List Nat → Table LaneFrame
  | [] => t
  | L :: Ls => mapFrames (Table.set t L (f L (Table.get LaneFrame.blank t L))) f Ls

def State.onFrames (s : State) (f : Nat → LaneFrame → LaneFrame) : State :=
  s.setW { s.w with frames := mapFrames s.w.frames f (Lanes.list s.act) }

/-- Bytes of a stack entry (R275). -/
def entryBytes (v : List W64) : Nat := (16 + recFan v * (recF v + 8) + 15) / 16 * 16

/-- The first check of R279 that fails in some lane: its trap and the lowest such lane. -/
def State.splitTrap (s : State) (o : RecObj) (off : Nat → Nat) : Option (Trap × Nat) :=
  let v := o.words
  let ls := Lanes.list s.act
  let first := fun (p : Nat → LaneFrame → Bool) => ls.find? (fun L => p L (s.w.frameAt L))
  let full := fun (f : LaneFrame) => f.depth && f.made.isEmpty && decide (s.launch.scratch < recStack v + (f.stack.length + 2) * entryBytes v)
  let breadth := ls.filter (fun L => !(s.w.frameAt L).depth)
  match first (fun _ f => f.leaf) with
  | some _ => some (.illegalOp, s.ir.toNat)
  | none => match first (fun L _ => decide (off L % 4 ≠ 0) || decide (recStack v < off L + recF v)) with
    | some L => some (.misalign, L)
    | none => match first (fun _ f => decide (f.level + 1 = recD v)) with
      | some L => some (.depthOvf, L)
      | none => match first (fun _ f => decide (recFan v ≤ f.made.length)) with
        | some L => some (.fanout, L)
        | none => match first (fun _ f => full f) with
          | some L => some (.arenaFull, L)
          | none =>
            let fit := (v.getD 7 0).toNat / (32 + recF v) - o.arena
            match breadth[fit]? with
            | some L => some (.arenaFull, L)
            | none => none

/-- A child for a lane's frame. -/
def LaneFrame.addChild (f : LaneFrame) (bs : List Byte) : LaneFrame :=
  { f with made := f.made ++ [bs], count := if f.depth then f.count + 1 else f.count }

/-- RSPLIT (R279). -/
def execRsplit (c b a : BitVec 7) (s : State) :=
  let ops := [vd .a a 1, voff .b b]
  s.issue acceptI ops (s.notRoutine [0] || (decide (112 ≤ b.toNat) && decide (b ≠ 120))) (fun s =>
    let f0 := s.w.frameAt (Lanes.lowest s.act)
    let o := s.objAt f0.obj
    let n := recF o.words
    let off := fun L => (s.valueAt intConsts ops .b L).toNat % 2 ^ 32 + (s.imm32 c).toNat
    match s.splitTrap o off with
    | some (t, i) => .trap t i
    | none =>
      (s.reachLanes s.who accRead (s.scratchRuns off n)).eff (fun s ps =>
        match s.laneBytes ps with
        | none => .held (s.askLanes ps)
        | some t =>
          let s1 := s.forget s.who.waiter
          let index := fun L => (s.w.frameAt L).made.length
          let made := if f0.depth then 0 else Lanes.count s.act
          let s2 := s1.setObj f0.obj { o with arena := o.arena + made }
          let s3 := s2.onFrames (fun L f => f.addChild (laneEntry [] t L))
          .done (s3.setW (s3.w.setVreg s3.act (s3.regAt ops .a) (fun L => BitVec.ofNat 32 (index L))))))

/-- RLEAF (R280). -/
def execRleaf (s : State) :=
  s.issue acceptNone [] (s.notRoutine [0]) (fun s =>
    if (Lanes.list s.act).any (fun L => !(s.w.frameAt L).made.isEmpty) then .trap .illegalOp s.ir.toNat
    else .done (s.onFrames (fun _ f => { f with leaf := true })))

/-- RKIDS (R281). -/
def execRkids (p : BitVec 3) (a : BitVec 7) (s : State) :=
  let ops := [vd .a a 2]
  s.issue acceptNone ops (s.notRoutine [2]) (fun s =>
    let has := Lanes.of (fun L => decide ((s.w.frameAt L).pos < (s.w.frameAt L).results.length))
    let w1 := s.w.setPair (s.act &&& has) (s.regAt ops .a) (fun L => (s.w.frameAt L).results.getD (s.w.frameAt L).pos 0)
    let s1 := s.setW (w1.setPred s.act p.toNat has)
    .done (s1.onFrames (fun L f => if has.getLsbD L then { f with pos := f.pos + 1 } else f)))

/-- RPUT (R282): its source takes fixed values 112 to 125. -/
def execRput (b : BitVec 7) (s : State) :=
  let ops := [vdata .b b 2]
  s.issue acceptNone ops (s.notRoutine [1, 2]) (fun s =>
    .done (s.onFrames (fun L f => { f with result := s.valueAt intConsts ops .b L })))

/-- The word of RINFO (R283). -/
def LaneFrame.info (f : LaneFrame) : Nat :=
  f.level % 64 + 2 ^ 6 * f.routine + 2 ^ 8 * f.child + 2 ^ 12 * (if f.routine = 2 then f.results.length else 0) +
  2 ^ 16 * f.depth.toNat

def execRinfo (a : BitVec 7) (s : State) :=
  let ops := [vd .a a 1]
  s.issue acceptNone ops (s.notRoutine [0, 1, 2]) (fun s =>
    .done (s.setW (s.w.setVreg s.act (s.regAt ops .a) (fun L => BitVec.ofNat 32 (s.w.frameAt L).info))))

/-! ### The walk of a lane in the depth phase (R275) -/

/-- The walk goes to a routine on a frame. -/
def LaneFrame.goTo (f : LaneFrame) (routine : Nat) (bs : List Byte) (level child : Nat) (results : List W64) (stack : List DepthEntry) : LaneFrame :=
  { f with routine := routine, bytes := bs, level := level, child := child, leaf := false, made := [], pos := 0, results := results,
           result := 0, stack := stack }

/-- A frame of the walk has its result r: what follows, or none at the subtree's root. -/
def LaneFrame.up (f : LaneFrame) (r : W64) : Option LaneFrame :=
  match f.stack with
  | [] => none
  | e :: es =>
    let rs := e.results ++ [r]
    if rs.length < e.kids.length then
      some (f.goTo 0 (e.kids.getD rs.length []) (e.level + 1) rs.length [] ({ e with results := rs } :: es))
    else some (f.goTo 2 e.bytes e.level e.child rs es)

/-- The routine on the lane's frame is over; none where the walk is complete. -/
def LaneFrame.walk (f : LaneFrame) : Option LaneFrame :=
  if f.routine = 0 then
    match f.made with
    | [] => some (f.goTo 1 f.bytes f.level f.child [] f.stack)
    | kid :: _ =>
      let e : DepthEntry := { bytes := f.bytes, level := f.level, child := f.child, kids := f.made, results := [] }
      some (f.goTo 0 kid (f.level + 1) 0 [] (e :: f.stack))
  else f.up f.result

/-- The engine writes the frames of lanes that go on, before any walk moves (R270, R272). -/
def State.putFrames (s : State) (who : Who) (base n : Nat) : List (Nat × LaneFrame) → Got Unit
  | [] => .ok s ()
  | (L, f) :: r => (s.putFrame who base L n f.bytes 0).bind (fun s _ => State.putFrames s who base n r)

/-- List the frame contexts of lanes. -/
def setFrames (t : Table LaneFrame) : List (Nat × LaneFrame) → Table LaneFrame
  | [] => t
  | (L, f) :: r => setFrames (Table.set t L f) r

/-- EXIT of lanes in the depth phase (R275): lanes whose walk is complete end, the others go to their next routine. -/
def State.exitWalk (s : State) : Eff := s.closing (fun s =>
  let o := s.objAt (s.w.frameAt (Lanes.lowest s.act)).obj
  let key := (s.w.frameAt (Lanes.lowest s.act)).obj
  let next := (Lanes.list s.act).filterMap (fun L => ((s.w.frameAt L).walk).map (fun f => (L, f)))
  let on := Lanes.of (fun L => next.any (fun x => decide (x.1 = L)))
  let gone := s.act &&& ~~~ on
  match (s.putFrames (recWho o key) (s.scrbase s.g s.w.index) (recF o.words / 4) next).atomic s (.recursion key) with
  | .denied s1 => .moved (s1.endDomain s1.g.asid s1.launch.domain)
  | .ok s1 _ =>
    let entry := fun L => recEntry o.words (laneEntry LaneFrame.blank next L).routine
    let w := { s1.w with live := s1.w.live &&& ~~~ gone, frames := setFrames s1.w.frames next }
    match w.divide s1.unit (s1.u.lanes &&& ~~~ gone) (fun L => if s1.act.getLsbD L then ⟨entry L, 0⟩ else s1.fallDest L) with
    | .error n => .trap .splitOvf n
    | .ok w1 => .moved (((s1.setW ((w1.leaveLoops (leavers on entry)).settle settleFuel)).closeWindows).settleBarrier s1.w.wg)
  | g => .held g.state)

/-! ### The unfolding engine (R272 to R275) -/

/-- The engine's accesses for an object wait on a fault. -/
def State.recParked (s : State) (k : Nat) : Bool := s.faults.any (fun x => x.2.waiters.contains (.recursion k))

/-- Frames of level l (R273). -/
def RecObj.level (o : RecObj) (l : Nat) : List Nat := List.range' (o.levels.getD l 0) (o.levels.getD (l + 1) 0 - o.levels.getD l 0)

/-- The frame contexts that a routine launch leaves, in the order of its frames. -/
def State.framesOf (s : State) (id : Nat) (frames : List Nat) : List LaneFrame :=
  let all := (s.wgs.filter (fun x => x.2.launch = id)).flatMap (fun x => x.2.warps.flatMap (fun k => (s.warpAt k).frames.map (·.2)))
  frames.filterMap (fun i => all.find? (fun f => f.frame = i))

/-- Frames made by the walks of the depth launch in hand. -/
def State.walked (s : State) (o : RecObj) : Nat :=
  match o.phase, o.launch with
  | .depth _, some id => ((s.framesOf id o.frames).map (·.count)).sum
  | _, _ => 0

/-- The object ends: what it stores and whom it tells is still to come. -/
def State.recStop (s : State) (k code sub : Nat) : State :=
  let o := s.objAt k
  s.setObj k { o with made := o.made + s.walked o, phase := .ending code sub, launch := none, frames := [] }

/-- The status word (R269): frames made so far are those of the arena and of the walks. -/
def RecObj.status (o : RecObj) (code sub : Nat) : Nat := code + 2 ^ 8 * sub + 2 ^ 32 * ((o.arena + o.made) % 2 ^ 32)

/-- The reference an object arrives on. -/
def RecObj.reference (o : RecObj) : W64 := if globalRef (o.words.getD 11 0) then o.words.getD 11 0 else 0

/-- The next access of an object's end: the status store, then the arrival, which releases it. -/
def State.recFinal (s : State) (k : Nat) : Got Unit :=
  let o := s.objAt k
  match o.phase with
  | .ending code sub => (s.writeVal (recWho o k) (o.desc.toNat + 96) 8 (o.status code sub)).bind (fun s _ =>
      .ok (s.setObj k { s.objAt k with phase := .arriving code sub }) ())
  | .arriving _ _ => (s.arriveOnce (recWho o k) o.reference 0).bind (fun s _ => .ok (s.setObj k { s.objAt k with phase := .ended }) ())
  | _ => .full s

/-- The kernel descriptor and RCB path as far as they name a fault domain, whatever the budgets. -/
def State.recDomainBase (s : State) (who : Who) (kd : W64) : Got (Option Launch) :=
  (s.partBytes who kd.toNat 64).bind (fun s ks =>
    let v := words64 8 ks
    (s.resolveRcb who (v.getD 3 0)).bind (fun s r => .ok s (r.map (fun r => (Launch.blank.takeKernel kd v).takeRcb r))))

/-- What can be read of an object's descriptor, kernel descriptor and RCB path, where the engine has not recorded them. -/
def State.recKnown (s : State) (k : Nat) (o : RecObj) : State :=
  if o.base.isSome then s
  else match s.partBytes (recWho o k) o.desc.toNat 256 with
    | .ok s1 bs =>
      let v := words64 32 bs
      s.setObj k { o with words := v, base := match s1.recDomainBase (recWho o k) (v.getD 3 0) with
        | .ok _ b => b
        | _ => none }
    | _ => s

/-- Fault domain of an object's work: that of its kernel descriptor's RCB, or of the context's root RCB before that is
known (R358). -/
def State.recDomain (s : State) (o : RecObj) : BitVec 16 :=
  match o.base with
  | some l => l.domain
  | none => s.rootDomain o.asid

/-- An access of an object's end is cancelled or denied (R358): the fault domain ends, and the object ends with status 3. Where that
status cannot be stored or told either, nothing is left to do (DESIGN CHOICE). -/
def State.endRefused (s : State) (k : Nat) : State :=
  let o := s.objAt k
  match o.phase with
  | .ending 3 _ => s.setObj k { o with phase := .arriving 3 0 }
  | .arriving 3 _ => s.setObj k { o with phase := .ended }
  | _ =>
    let s1 := s.recKnown k o
    (s1.endDomain o.asid (s1.recDomain (s1.objAt k))).recStop k 3 0

/-- Perform the end of an object that is ending, as far as it goes. -/
def State.recEnds (s : State) (k : Nat) : Nat → State
  | 0 => s
  | n + 1 => match (s.recFinal k).atomic s (.recursion k) with
    | .ok s1 _ => State.recEnds s1 k n
    | .denied s1 => State.recEnds (s1.endRefused k) k n
    | g => g.state

/-- At most two stores and two arrivals are tried. -/
def State.recEnd (s : State) (k : Nat) : State := s.recEnds k 5

/-- A descriptor breaks R269. -/
def recBad (v : List W64) : Bool :=
  let f := fun i => (v.getD i 0).toNat
  let w := f 4
  decide (f 0 % 4 ≠ 0) || decide (f 1 % 4 ≠ 0) || decide (f 2 % 4 ≠ 0) || decide (f 3 % 64 ≠ 0) || decide (recF v < 8) ||
  decide (256 < recF v) || decide (recF v % 8 ≠ 0) || decide (w / 2 ^ 9 % 8 ≠ 0) || decide (recFan v < 2) || decide (8 < recFan v) ||
  decide (recD v = 0) || decide (64 < recD v) || decide (w / 2 ^ 23 % 2 ^ 9 ≠ 0) || decide (2 ^ 32 ≤ f 5) || decide (f 5 % 16 ≠ 0) ||
  decide (f 5 < recF v) || decide (f 6 % 128 ≠ 0) || decide (f 8 % 8 ≠ 0) || decide (f 9 % 8 ≠ 0) || !globalRef (v.getD 11 0) ||
  (v.drop 13).any (fun x => decide (x ≠ 0))

/-- The first and second word of an arena frame header (R271). -/
def frameWord0 (state level child parent : Nat) : Nat := parent % 2 ^ 32 + 2 ^ 32 * child + 2 ^ 36 * level + 2 ^ 42 * state
def frameWord1 (kids first : Nat) : Nat := first % 2 ^ 32 + 2 ^ 32 * kids

/-- Write a new frame into the arena. -/
def State.makeFrame (s : State) (who : Who) (v : List W64) (i level child parent : Nat) (bs : List Byte) : Got Unit :=
  s.put who (arenaAddr v i) (valBytes 8 (frameWord0 0 level child parent) ++ List.replicate 24 0 ++ bs)

/-- Write the children of frame p from index i on. -/
def State.makeKids (s : State) (who : Who) (v : List W64) (level p : Nat) : Nat → Nat → List (List Byte) → Got Unit
  | _, _, [] => .ok s ()
  | i, c, bs :: r => (s.makeFrame who v i level c p bs).bind (fun s _ => State.makeKids s who v level p (i + 1) (c + 1) r)

/-- The parent index of the frame a lane holds, as its record has it. -/
def State.parentOf (s : State) (who : Who) (v : List W64) (i : Nat) : Got Nat :=
  (s.arenaFrame who v i).bind (fun s f => .ok s f.parent)

/-- Number the children of a level's frames (R273), from index i on; the next index. -/
def State.numberKids (s : State) (who : Who) (v : List W64) : Nat → List LaneFrame → Got Nat
  | i, [] => .ok s i
  | i, f :: fs => (s.parentOf who v f.frame).bind (fun s p =>
    let k := f.made.length
    (s.writeVal who (arenaAddr v f.frame) 16
      (frameWord0 (if k = 0 then 1 else 2) f.level f.child p + 2 ^ 64 * frameWord1 k (if k = 0 then 0 else i))).bind (fun s _ =>
      (s.makeKids who v (f.level + 1) f.frame i 0 f.made).bind (fun s _ => State.numberKids s who v (i + k) fs)))

/-- Write the results of frames into the arena: their state becomes done. -/
def State.putResults (s : State) (who : Who) (v : List W64) : List LaneFrame → Got Unit
  | [] => .ok s ()
  | f :: fs => (s.arenaFrame who v f.frame).bind (fun s a =>
    (s.writeVal who (arenaAddr v f.frame) 8 (frameWord0 3 a.level a.child a.parent)).bind (fun s _ =>
      (s.writeVal who (arenaAddr v f.frame + 16) 8 f.result.toNat).bind (fun s _ => State.putResults s who v fs)))

/-- Frames of a list that have children, or have none. -/
def State.framesWith (s : State) (who : Who) (v : List W64) (split : Bool) : List Nat → Got (List Nat)
  | [] => .ok s []
  | i :: is => (s.arenaFrame who v i).bind (fun s f =>
    (State.framesWith s who v split is).bind (fun s r => .ok s (if decide (f.kids ≠ 0) = split then i :: r else r)))

/-- Lanes that a launch of an object's kernel puts in one workgroup. -/
def RecObj.lanesPer (o : RecObj) : Nat := 32 * (o.base.getD Launch.blank).nwarps

/-- Start a routine launch over frames (R272): its workgroups are Pending. -/
def State.recLaunch (s : State) (k : Nat) (phase : RecPhase) (frames : List Nat) : State :=
  let o := s.objAt k
  let base := o.base.getD Launch.blank
  let groups := ceilDiv frames.length o.lanesPer
  let id := s.nextId
  let r := routineOf phase
  let l : Launch := { base with
    asid := o.asid, seq := o.seq, kind := .routine k, phase := .running, entry := recEntry o.words r.1, prologue := 0, cohort := false,
    ordered := false, queue := o.queue, depth := r.2,
    params := Table.putAll 0#64 [] 8 [BitVec.ofNat 64 groups, 1, 1, o.words.getD 10 0, 0] }
  let gs := (l.gridGroups id).map (fun g => { g with routine := some (k, o.lanesPer * g.wgx.toNat) })
  ((s.fresh.setLaunch id l).startRun id gs).setObj k { o with phase := phase, launch := some id, frames := frames }

/-- The object goes to a phase over frames. -/
inductive Next where
  | run (phase : RecPhase) (frames : List Nat)
  | finish

/-- What follows base l (R274), where level l + 1 has n frames. -/
def State.afterBase (s : State) (who : Who) (o : RecObj) (l : Nat) : Got Next :=
  let n := (o.level (l + 1)).length
  let target := if recTarget o.words = 0 then
      s.capacity (o.base.getD Launch.blank).nwarps (o.base.getD Launch.blank).lines (o.base.getD Launch.blank).matrix * o.lanesPer
    else recTarget o.words
  if n = 0 then
    (if l = 0 then .ok s .finish
     else (s.framesWith who o.words true (o.level (l - 1))).bind (fun s fs => .ok s (.run (.combine (l - 1)) fs)))
  else if target ≤ n ∨ l + 1 = 16 then .ok s (.run (.depth (l + 1)) (o.level (l + 1)))
  else .ok s (.run (.divide (l + 1)) (o.level (l + 1)))

/-- The end of a routine launch (R272): the object with its new frames, and what follows. -/
def State.recNext (s : State) (k : Nat) (o : RecObj) (lanes : List LaneFrame) : Got (RecObj × Next) :=
  let who := recWho o k
  let v := o.words
  match o.phase with
  | .divide l => (s.numberKids who v (o.levels.getLastD 0) lanes).bind (fun s next =>
    let o1 := { o with levels := o.levels ++ [next] }
    (s.framesWith who v false (o1.level l)).bind (fun s leaves =>
      if leaves = [] then (s.afterBase who o1 l).bind (fun s x => .ok s (o1, x))
      else .ok s (o1, .run (.base l) leaves)))
  | .base l => (s.putResults who v lanes).bind (fun s _ => (s.afterBase who o l).bind (fun s x => .ok s (o, x)))
  | .depth l => (s.putResults who v lanes).bind (fun s _ =>
    (s.framesWith who v true (o.level (l - 1))).bind (fun s fs =>
      .ok s ({ o with made := o.made + (lanes.map (·.count)).sum }, .run (.combine (l - 1)) fs)))
  | .combine l => (s.putResults who v lanes).bind (fun s _ =>
    if l = 0 then .ok s (o, .finish)
    else (s.framesWith who v true (o.level (l - 1))).bind (fun s fs => .ok s (o, .run (.combine (l - 1)) fs)))
  | _ => .ok s (o, .finish)

/-- The root's result goes to word 9's address. -/
def State.rootResult (s : State) (k : Nat) (o : RecObj) : Got Unit :=
  (s.readVal (recWho o k) (arenaAddr o.words 0 + 16) 8).bind (fun s v => s.writeVal (recWho o k) (o.words.getD 9 0).toNat 8 v)

/-- What a routine launch takes of the kernel descriptor and its RCB path, or the status code with which it would end before it
starts (R219 to R221, R272). -/
def State.recBase (s : State) (who : Who) (kd : W64) : Got (Except Byte Launch) :=
  (s.partBytes who kd.toNat 64).bind (fun s ks =>
    let v := words64 8 ks
    if kernelBad (s.ctxAt who.asid).perLane ((v.set 0 0#64).set 4 0#64) then .ok s (.error 2)
    else (s.resolveRcb who (v.getD 3 0)).bind (fun s r => .ok s (match r with
      | none => .error 6
      | some r => if r.noMem then .error 5 else .ok ((Launch.blank.takeKernel kd v).takeRcb r))))

/-- Start a routine launch, or end the object with status 4 where the launch fails. -/
def State.recTry (s : State) (k : Nat) (o : RecObj) (phase : RecPhase) (frames : List Nat) : Got Unit :=
  (s.recBase (recWho o k) (o.words.getD 3 0)).bind (fun s r => match r with
    | .error c => .ok ((s.setObj k o).recStop k 4 c.toNat) ()
    | .ok b => .ok ((s.setObj k { o with base := some b }).recLaunch k phase frames) ())

/-- An object goes on after a routine launch. -/
def State.recGo (s : State) (k : Nat) (o : RecObj) (x : Next) : Got Unit :=
  match x with
  | .finish => (s.rootResult k o).bind (fun s _ => .ok ((s.setObj k { o with launch := none }).recStop k 1 0) ())
  | .run p fs => s.recTry k { o with launch := none } p fs

/-- Read and check a descriptor (R269). -/
def State.recRead (s : State) (k : Nat) (o : RecObj) : Got (Except (List W64) (List W64)) :=
  (s.partBytes (recWho o k) o.desc.toNat 256).bind (fun s bs =>
    let v := words64 32 bs
    .ok s (if recBad v then .error v else .ok v))

/-- A cancelled or denied access of an object (R272, R358): its fault domain ends, and it ends with status 3. -/
def State.recFail (s : State) (k : Nat) : State :=
  let o := s.objAt k
  match o.phase with
  | .ending _ _ => (s.endRefused k).recEnd k
  | .arriving _ _ => (s.endRefused k).recEnd k
  | .ended => s
  | _ =>
    let s1 := s.recKnown k o
    ((s1.endDomain o.asid (s1.recDomain (s1.objAt k))).recStop k 3 0).recEnd k

/-- The root frame is copied into frame 0, and the status reads running. -/
def State.recRoot (s : State) (k : Nat) (o : RecObj) : Got Unit :=
  let who := recWho o k
  (s.partBytes who (o.words.getD 8 0).toNat (recF o.words)).bind (fun s bs =>
    (s.makeFrame who o.words 0 0 0 0xFFFFFFFF bs).bind (fun s _ => s.writeVal who (o.desc.toNat + 96) 8 0))

/-- The fault domain of the kernel's RCB has ended: the object ends with status 3, whatever it waits for (R272). -/
def State.recDead (s : State) (k : Nat) : State := ((s.dropAccess (.recursion k)).recStop k 3 0).recEnd k

/-- The fault domain of the kernel's RCB has ended, recorded or as far as what can be read tells. -/
def State.recLost (s : State) (k : Nat) (o : RecObj) : Bool :=
  o.dead || (o.base.isNone && !o.ends.isEmpty && ((s.recKnown k o).objAt k).base.any (fun l => o.ends.contains l.domain))

/-- The status that an object ends with is not 3. -/
def RecPhase.not3 : RecPhase → Bool
  | .ending c _ => decide (c ≠ 3)
  | .arriving c _ => decide (c ≠ 3)
  | _ => false

/-- RECURSION_START (R272): the object starts with Divide 0, or ends with status 2; a routine launch that its memory
budget refuses ends it with status 4 (R220). -/
def execRecursionStart (obj : Nat) (s : State) : Host.Outcome State Fault Refusal :=
  let o := s.objAt obj
  if o.phase ≠ .start then .next s
  else if s.recLost obj o then .next (s.recDead obj)
  else if s.recParked obj = true ∨ s.ctxRuns o.asid = false then .next s
  else
    let act := (s.recRead obj o).bind (fun s r => match r with
      | .error v => .ok ((s.setObj obj { o with words := v }).recStop obj 2 0) ()
      | .ok v => (s.recDomainBase (recWho o obj) (v.getD 3 0)).bind (fun s kb => (s.recBase (recWho o obj) (v.getD 3 0)).bind (fun s b =>
        let o1 := { o with words := v, base := b.toOption, arena := 1, levels := [0, 1] }
        let go := (s.recRoot obj o1).bind (fun s _ => s.recTry obj o1 (.divide 0) [0])
        if kb.any (fun l => o.ends.contains l.domain) then .ok ((s.setObj obj { o with words := v, base := kb }).recStop obj 3 0) ()
        else match b with
          | .error 5 => go
          | .error _ => .ok ((s.setObj obj { o with words := v }).recStop obj 2 0) ()
          | .ok _ => go)))
    match act.atomic s (.recursion obj) with
    | .denied s1 => .next (s1.recFail obj)
    | .fault s1 _ _ => .next (s1.recKnown obj o)
    | g => .next (g.state.recEnd obj)

/-- RECURSION_LAUNCH_END (R272): the launch in hand has ended, or the accesses of the object's end were held. -/
def execRecursionLaunchEnd (obj : Nat) (s : State) : Host.Outcome State Fault Refusal :=
  let o := s.objAt obj
  if s.recLost obj o && o.phase.not3 then .next (s.recDead obj)
  else match o.phase with
    | .ending _ _ => if s.recParked obj then .next s else .next (s.recEnd obj)
    | .arriving _ _ => if s.recParked obj then .next s else .next (s.recEnd obj)
    | .start => .next s
    | .ended => .next s
    | _ =>
      let id := o.launch.getD 0
      let l := s.launchAt id
      if l.phase ≠ .ended ∨ (s.recParked obj = true ∧ o.dead = false) then .next s
      else if o.dead || decide (l.code = 7) then .next (s.recDead obj)
      else if l.code ≠ 0 then .next ((s.recStop obj 4 l.code.toNat).recEnd obj)
      else match ((s.recNext obj o (s.framesOf id o.frames)).bind (fun s x => s.recGo obj x.1 x.2)).atomic s (.recursion obj) with
        | .denied s1 => .next (s1.recFail obj)
        | g => .next (g.state.recEnd obj)

end Sys2Proof.Machine
end

