-- ==== Sys2Proof/Machine/Context.lean ====
section
/-! DEFINITION. Contexts and pre-emption (R302, R303, R312 to R315), and the commands of the control complex that act
on them and on the fault buffers (R176, R316, R358). -/
namespace Sys2Proof.Machine

/-! ### Leaving (R123, R212 to R314) -/

/-- Effective class of a launch's warps (R249): 0 Express. -/
def State.launchClass (s : State) (l : Launch) : Nat :=
  match l.queue with
  | some q => if (s.queueAt q).critical && (s.deadlineAt (s.queueAt q).stream).raised then 0 else l.cls.toNat
  | none => l.cls.toNat

/-- Work of a higher effective class waits for a core (R313). -/
def State.outranked (s : State) (g : Workgroup) : Bool :=
  s.wgs.any (fun x => (decide (x.2.phase = .pending) || decide (x.2.phase = .switchedOut)) && s.admitted x.2 &&
    decide (s.launchClass (s.launchAt x.2.launch) < s.launchClass (s.launchAt g.launch)))

/-- Ask for the pre-emption of a workgroup; those of a cohort go together (R230). -/
def State.askLeave (s : State) (p : Nat → Workgroup → Bool) : State :=
  let hit := fun (k : Nat) (g : Workgroup) => decide (g.phase = .resident) && p k g
  let runs := (s.wgs.filter (fun x => hit x.1 x.2 && (s.launchAt x.2.launch).cohort)).map (fun x => x.2.launch)
  { s with wgs := s.wgs.map (fun x =>
      if hit x.1 x.2 || (decide (x.2.phase = .resident) && runs.contains x.2.launch) then (x.1, { x.2 with preempt := true }) else x) }

/-- A unit of a workgroup may be inside a fused group, which pre-emption does not split (R104): its last word may be fused with the
next, and it has not waited there. -/
def State.midGroup (s : State) (g : Workgroup) : Bool :=
  g.warps.any (fun k => (s.warpAt k).units.any (fun x => x.2.mid && decide (x.2.park = .ready) && x.2.issued.isNone))

/-- Issue stops at instruction boundaries: prefix words that a unit has taken are taken again; what has issued and waits for its
access stays so (R314, R315). -/
def IUnit.stopped (u : IUnit) : IUnit := if u.issued.isSome then u else u.rewound

/-- Issue of a workgroup stops. -/
def State.stopIssue (s : State) (wg : Nat) : State :=
  let s1 := s.setWg wg { s.wgAt wg with phase := .leaving }
  (s.wgAt wg).warps.foldl (fun s k =>
    s.setWarp k { s.warpAt k with units := (s.warpAt k).units.map (fun x => (x.1, x.2.stopped)) }) s1

/-- WORKGROUP_LEAVE (R123, R314): a workgroup chosen for pre-emption stops issue. -/
def execWorkgroupLeave (wg : Nat) (s : State) : Host.Outcome State Fault Refusal :=
  let g := s.wgAt wg
  let ended := g.warps.all (fun k => decide ((s.warpAt k).live = 0))
  if g.phase ≠ .resident ∨ ended = true ∨ s.midGroup g = true then .next s
  else if g.preempt then .next (s.stopIssue wg)
  else if s.outranked g then .next ((s.askLeave (fun k _ => decide (k = wg))).stopIssue wg)
  else .next s

/-- A write of the workgroup's streams has not been performed. -/
def State.streamsOut (s : State) (wg : Nat) : Bool :=
  s.pending.any (fun a => a.posted && a.answer.isNone && (match a.owner with
    | .stream c n => decide (c = (s.wgAt wg).core) && decide ((s.streamAt c n).wg = wg)
    | _ => false))

/-- The workgroup's transfers have drained and its stores are performed, those of its streams too (R212). -/
def State.drained (s : State) (wg : Nat) : Bool :=
  let g := s.wgAt wg
  !s.storesOut g && !s.streamsOut wg && !(s.coreAt g.core).streams.any (fun x => decide (x.2.wg = wg) && x.2.drains)

/-- Rays of a workgroup on its core. -/
def Core.raysOf (c : Core) (wg : Nat) : Table Ray := c.rays.filter (fun x => x.2.wg = wg)

/-- The streams, rays and sample queues of a workgroup move from its core into it. What they have asked for goes unused: they ask again
after the move; those parked on a fault stay parked (R176). -/
def State.unload (s : State) (wg : Nat) : State :=
  let g := s.wgAt wg
  let c := s.coreAt g.core
  let mine := c.streams.filter (fun x => decide (x.2.wg = wg) && decide (x.2.state ≠ .free))
  let c1 := { c with streams := c.streams.map (fun x => if x.2.wg = wg then (x.1, x.2.freed) else x), rays := c.rays.filter (fun x => x.2.wg ≠ wg),
                     queues := c.queues.filter (fun q => q.wg ≠ wg) }
  let s1 := (s.setCoreAt g.core c1).setWg wg
    { g.clock s.tick with phase := .switchedOut, preempt := false, streams := mine, rays := (c.raysOf wg).map (·.2), queues := c.queues.filter (fun q => q.wg = wg) }
  let s2 := ((c.raysOf wg).map (·.1)).foldl (fun s k => s.dropAsked (.ray g.core k)) s1
  (mine.map (·.1)).foldl (fun s n => s.dropAsked (.stream g.core n)) s2

/-- SAVE_COMPLETE (R123, R305, R314): the group image is written, and in a Frozen context the register areas; slots and
scratchpad are free. -/
def execSaveComplete (wg : Nat) (s : State) : Host.Outcome State Fault Refusal :=
  let g := s.wgAt wg
  if g.phase ≠ .leaving ∨ s.drained wg = false then .next s
  else
    let s1 := s.writeImage wg
    let s2 := if (s1.wgAt wg).phase = .leaving ∧ (s1.ctxAt g.asid).state = .frozen then s1.writeAreas wg else s1
    .next (if (s2.wgAt wg).phase = .leaving then s2.unload wg else s2)

/-! ### Resuming (R229, R230, R315) -/

/-- A core takes a workgroup back: it has room, and places for its streams and rays. -/
def State.takesBack (s : State) (g : Workgroup) (core : Nat) : Bool :=
  s.roomOn core (s.launchAt g.launch) && decide ((s.coreAt core).rays.length + g.rays.length ≤ 1024) &&
  g.streams.all (fun x => decide ((s.streamAt core x.1).state = .free))

/-- The core on which a workgroup resumes. -/
def State.resumeCore (s : State) (g : Workgroup) : Option Nat :=
  let start := g.tileAddr.toNat / 2 ^ 21 % 48
  ((List.range 48).map (fun i => 48 * s.homeDie g + (start + i) % 48)).find? (s.takesBack g)

/-- Rays take free places of a sampling unit. -/
def seatRays (t : Table Ray) : List Ray → Table Ray
  | [] => t
  | r :: rs => match Table.freeFrom t 0 1024 with
    | some k => seatRays (Table.set t k r) rs
    | none => t

def seatStreams (t : Table Stream) : Table Stream → Table Stream
  | [] => t
  | (n, x) :: r => seatStreams (Table.set t n x) r

/-- New residency slots for the warps of a workgroup. -/
def reslot (t : Table Warp) : List Nat → List Nat → Table Warp
  | k :: ks, n :: ns => reslot (Table.set t k { Table.get Warp.blank t k with slot := n }) ks ns
  | _, _ => t

/-- The units of warps, for their WAITs. -/
def State.unitsOf (s : State) (ws : List Nat) : List (Nat × Nat) := s.allUnits.filter (fun x => ws.contains x.1)

/-- A workgroup is restored on a core: its image is read back, lines that another core still holds are written out
first, and its WAITs are evaluated again. -/
def State.reload (s : State) (wg core : Nat) : State :=
  let g := s.wgAt wg
  let moved := if g.core = core then Got.ok s () else if g.image.isNone then Got.ok s () else s.putCached true g.warps
  match moved.bind (fun s _ => s.imageReads wg) with
  | .ok s1 _ =>
    let g1 := s1.wgAt wg
    let c := s1.coreAt core
    let c1 := { c with streams := seatStreams c.streams g1.streams, rays := seatRays c.rays g1.rays, queues := c.queues ++ g1.queues }
    let slots := freeNumbers 64 g1.nwarps (s1.warpSlots core)
    let g2 := { g1 with phase := .resident, core := core, since := s1.tick, slot := (freeNumbers 32 1 (s1.wgSlots core)).headD 0, streams := [], rays := [], queues := [] }
    let s2 := { (s1.setCoreAt core c1).setWg wg g2 with warps := reslot s1.warps g1.warps slots }
    (s2.seatTurns g1.warps).evaluateAll (s2.unitsOf g1.warps)
  | _ => s.poolError g

/-- A switched-out workgroup may come back. -/
def State.mayResume (s : State) (g : Workgroup) : Bool :=
  let l := s.launchAt g.launch
  decide (g.phase = .switchedOut) && s.ctxRuns g.asid && decide (l.code = 0) && !s.coreTimeOut l

/-- Workgroups come back, all of them or none. One whose image cannot be read ends the fault domain, and the others with it (R304). -/
def State.reloadAll (s : State) : List Nat → Option State
  | [] => some s
  | k :: ks => match s.resumeCore (s.wgAt k) with
    | some c =>
      if s.mayResume (s.wgAt k) then
        let s1 := s.reload k c
        if (s1.wgAt k).phase = .resident then State.reloadAll s1 ks else some s1
      else none
    | none => none

/-- WORKGROUP_RESUME (R315): a cohort comes back as a whole, once its core-time words have been read (R220). -/
def execWorkgroupResume (wg : Nat) (s0 : State) : Host.Outcome State Fault Refusal :=
  let s := s0.lookBudgets (s0.launchAt (s0.wgAt wg).launch)
  let g := s.wgAt wg
  if !s.mayResume g then .next s
  else if (s.launchAt g.launch).cohort then
    let mates := s.wgs.filter (fun x => decide (x.2.launch = g.launch) && decide (x.2.phase ≠ .done))
    (if mates.all (fun x => decide (x.2.phase = .switchedOut)) then .next ((s.reloadAll (mates.map (·.1))).getD s) else .next s)
  else .next ((s.reloadAll [wg]).getD s)

/-! ### Commands (R303, R316) -/

/-- What an attempt at a command answers: it is in hand, or complete with status 0 success or 1 refused. -/
inductive Command where
  | inHand (s : State)
  | ended (s : State) (status : Nat)

def Command.done (s : State) : Command := .ended s 0
def Command.refused (s : State) : Command := .ended s 1

/-- A command's record once it is complete: code, three operands, and the completion word at offset 56 (R316). -/
def recordOf (code : Nat) (ops : List W64) (status : Nat) : List W64 :=
  BitVec.ofNat 64 code :: (ops ++ List.replicate 6 0#64).take 6 ++ [BitVec.ofNat 64 (1 + 2 ^ 8 * status)]

/-- A command that has not completed: code, operands, and its status once it has acted. -/
abbrev CommandEntry := Nat × List W64 × Option Nat

/-- Commands that complete do so in the order issued (R316). -/
def State.flush (s : State) : List CommandEntry → State
  | [] => { s with commands := [] }
  | (c, ops, some st) :: r => State.flush { s with completions := s.completions ++ [recordOf c ops st] } r
  | (c, ops, none) :: r => { s with commands := (c, ops, none) :: r }

/-- The command may act: those before it have, save a CHECKPOINT or a MIGRATE at work (R330, R328); REPLAY, CANCEL and READ do not
wait, since a drain may need them (R314). -/
def mayAct (code : Nat) (before : List CommandEntry) : Bool :=
  [6, 7, 9].contains code || before.all (fun e => e.2.2.isSome || [13, 14].contains e.1)

/-- The status of a command in hand. -/
def giveStatus (code : Nat) (ops : List W64) (status : Nat) : List CommandEntry → List CommandEntry
  | [] => []
  | e :: es => if e = (code, ops, none) then (code, ops, some status) :: es else e :: giveStatus code ops status es

/-- A command is issued, or is tried again while it is in hand. -/
def State.tryCommand (s : State) (code : Nat) (ops : List W64) (act : State → Command) : State :=
  let cs := if s.commands.contains (code, ops, none) then s.commands else s.commands ++ [(code, ops, none)]
  if !mayAct code (cs.takeWhile (fun e => e ≠ (code, ops, none))) then { s with commands := cs }
  else match act s with
    | .inHand s1 => { s1 with commands := cs }
    | .ended s1 status => s1.flush (giveStatus code ops status cs)

def State.command (s : State) (code : Nat) (ops : List W64) (act : State → Command) : Host.Outcome State Fault Refusal :=
  .next (s.tryCommand code ops act)

/-- A command that has not acted has its status. -/
def State.finishThis (s : State) (code : Nat) (ops : List W64) (status : Nat) : State := s.flush (giveStatus code ops status s.commands)

/-- The first command of a code that has not acted has its status. -/
def State.finishCommand (s : State) (code status : Nat) : State :=
  match s.commands.find? (fun e => decide (e.1 = code) && e.2.2.isNone) with
  | some (c, ops, _) => s.flush (giveStatus c ops status s.commands)
  | none => s

/-- An operand of a command. -/
abbrev word (n : Nat) : W64 := BitVec.ofNat 64 n

/-- DEFINE (R302, R303): the entry is read, and translations of the ASID are invalidated. -/
def State.define (s : State) (asid : Nat) : Command :=
  let v := Table.get [] s.ctxTable (asid % 4096)
  let f := fun i => (v.getD i 0).toNat
  if 4096 ≤ asid ∨ (s.ctxAt asid).state ≠ .free ∨ f 0 ≠ asid + 2 ^ 16 then .refused s
  else
    let c : Context :=
      { Context.blank with state := .defined, root := v.getD 1 0, worlds := v.getD 2 0, pool := v.getD 3 0, slots := f 4 % 2 ^ 16,
                           rcb := v.getD 5 0, scratch := v.getD 6 0, perLane := (v.getD 7 0).setWidth 32 }
    .done { s.setCtx asid c with tlb := s.tlb.filter (fun t => t.asid ≠ asid) }

def execDefine (asid : Nat) (s : State) : Host.Outcome State Fault Refusal := s.command 1 [word asid] (fun s => s.define asid)

/-- Workgroups of a context that still occupy a core. -/
def State.occupied (s : State) (asid : Nat) : Bool :=
  s.wgs.any (fun x => decide (x.2.asid = asid) && (decide (x.2.phase = .resident) || decide (x.2.phase = .leaving)))

/-- The context is frozen: its resident workgroups are to leave, and the areas of those that are out are written. -/
def State.freezeNow (s : State) (asid : Nat) : State :=
  let s1 := (s.setCtx asid { s.ctxAt asid with state := .frozen }).askLeave (fun _ g => decide (g.asid = asid))
  let out := (s1.wgs.filter (fun x => decide (x.2.asid = asid) && decide (x.2.phase = .switchedOut))).map (·.1)
  out.foldl State.writeAreas s1

/-- FREEZE (R303, R316): it completes once no workgroup of the context is left on a core; until then it stays the
command in hand. -/
def State.freeze (s : State) (asid : Nat) : Command :=
  match (s.ctxAt asid).state with
  | .free => .refused s
  | .frozen => if s.occupied asid then .inHand s else .done s
  | _ =>
    let s1 := s.freezeNow asid
    if s1.occupied asid then .inHand s1 else .done s1

def execFreeze (asid : Nat) (s : State) : Host.Outcome State Fault Refusal := s.command 2 [word asid] (fun s => s.freeze asid)

/-- THAW (R303). -/
def State.thaw (s : State) (asid : Nat) : Command :=
  let c := s.ctxAt asid
  if c.state ≠ .frozen then .refused s
  else if s.occupied asid then .inHand s
  else .done (s.setCtx asid { c with state := .running })

def execThaw (asid : Nat) (s : State) : Host.Outcome State Fault Refusal := s.command 3 [word asid] (fun s => s.thaw asid)

/-- A launch of a context being torn down ends (R303): its status is stored and its completion made, where they can be. -/
def State.endTorn (s : State) (id : Nat) : State :=
  let l := s.launchAt id
  if l.phase = .ended then s
  else
    let l1 := if l.phase = .storing ∨ l.phase = .arriving then l else s.toEnd id { l with code := if l.code = 0 then 7 else l.code }
    let s1 := (s.setLaunch id l1).endLaunch id 2
    if s1.launchParked id then s1.setLaunch id { s1.launchAt id with phase := .ended } else s1

/-- What a context has besides workgroups and launches goes with it. -/
def State.clearContext (s : State) (asid : Nat) : State :=
  { s with
    faults := s.faults.filter (fun x => x.2.asid.toNat ≠ asid), objs := s.objs.filter (fun x => x.2.asid ≠ asid),
    pipes := s.pipes.filter (fun x => x.2.asid ≠ asid), takes := s.takes.filter (fun r => r.asid ≠ asid),
    moves := s.moves.filter (fun m => m.asid ≠ asid), worlds := s.worlds.filter (fun x => x.1 / 256 ≠ asid),
    budgets := s.budgets.filter (fun x => x.1 / 2 ^ 64 ≠ asid) }

/-- TEARDOWN (R303): launches end with status 7, images are abandoned, fault-buffer entries go without an error. It is complete once the
launches' last stores to remote pages have been performed, so that each has its arrival. -/
def State.teardownNow (s : State) (asid : Nat) : Command :=
  let hit : Nat → Launch → Bool := fun _ l => decide (l.asid = asid)
  let s1 := ((s.dropParcels hit).removeWgs (s.wgsOf hit)).clearContext asid
  let s2 := (s1.launches.filter (fun x => x.2.asid = asid)).foldl (fun s x => s.endTorn x.1) s1
  if s2.launches.all (fun x => decide (x.2.asid ≠ asid) || decide (x.2.phase = .ended)) then .done ((s2.clearContext asid).setCtx asid Context.blank)
  else .inHand (s2.clearContext asid)

def State.teardown (s : State) (asid : Nat) : Command :=
  match (s.ctxAt asid).state with
  | .free => .refused s
  | .running =>
    let s1 := s.freezeNow asid
    if s1.occupied asid then .inHand s1 else s1.teardownNow asid
  | _ => if s.occupied asid then .inHand s else s.teardownNow asid

def execTeardown (asid : Nat) (s : State) : Host.Outcome State Fault Refusal := s.command 4 [word asid] (fun s => s.teardown asid)

/-- The context of what waits on an access. -/
def State.waiterAsid (s : State) : Waiter → Option Nat
  | .unit w _ => some (s.wgAt (s.warpAt w).wg).asid
  | .fetch w _ => some (s.wgAt (s.warpAt w).wg).asid
  | .waitWord w _ => some (s.wgAt (s.warpAt w).wg).asid
  | .stream c n => some (s.wgAt (s.streamAt c n).wg).asid
  | .tileOp g => some (s.wgAt g).asid
  | .parcel g => some (s.wgAt g).asid
  | .ray c r => (Table.find (s.coreAt c).rays r).map (fun x => (s.wgAt x.wg).asid)
  | .office a _ => some a
  | .recursion o => some (s.objAt o).asid
  | .launch id => some (s.launchAt id).asid
  | .queue q => some (s.queueAt q).asid
  | .pipeline p => (Table.find s.pipes p).map (fun x => x.asid)
  | .trainer d k => some (netOwner (match Table.find s.binds (8 * d + k) with
    | some v => s.netWords v
    | none => (s.netAt d k).words))
  | .charge k => some (k / 2 ^ 64)
  | .checkpoint => s.ckpt.map (fun c => c.asid)
  | .other a => some a
  | .host => s.aperture.map (·.1)
  | .ether _ _ => none
  | .peer _ _ _ => none

/-- Accesses of a context that used a translation and have not been performed. -/
def State.unperformedOf (s : State) (asid : Nat) : Bool :=
  s.pending.any (fun a => a.answer.isNone && decide (s.waiterAsid a.owner = some asid))

/-- INVALIDATE (R170, R316): it completes when the accesses that used a translation have been performed. -/
def State.invalidate (s : State) (asid va bytes : Nat) : Command :=
  let hit := fun (t : Tlb) => decide (t.asid = asid) && (decide (bytes = 0) || (decide (va < t.base + t.size) && decide (t.base < va + bytes)))
  let s1 := { s with tlb := s.tlb.filter (fun t => !hit t) }
  if s1.unperformedOf asid then .inHand s1 else .done s1

def execInvalidate (asid va bytes : Nat) (s : State) : Host.Outcome State Fault Refusal :=
  s.command 5 [word asid, word va, word bytes] (fun s => s.invalidate asid va bytes)

/-- PREEMPT (R314, R316): the workgroup in an image slot; it completes when the workgroup is out. -/
def State.preemptSlot (s : State) (asid slot : Nat) : Command :=
  let hit := fun (_ : Nat) (g : Workgroup) => decide (g.asid = asid) && decide (g.image = some slot)
  let x := s.wgs.find? (fun x => hit x.1 x.2 && decide (x.2.phase ≠ .done))
  match x with
  | none => .refused s
  | some (_, g) => if g.phase = .switchedOut then .done s else .inHand (s.askLeave hit)

def execPreempt (asid slot : Nat) (s : State) : Host.Outcome State Fault Refusal :=
  s.command 8 [word asid, word slot] (fun s => s.preemptSlot asid slot)

/-! ### Replay and cancel (R176, R358) -/

/-- The entry of a fault buffer is gone. -/
def State.dropFault (s : State) (die index : Nat) : State := { s with faults := Table.erase s.faults (1024 * die + index) }

/-- A stream parked at an entry runs again. -/
def Stream.unpark (st : Stream) (die index : Nat) : Stream := if st.state = .parked die index then { st with state := .running } else st

/-- A ray parked at an entry marches on. -/
def Ray.unpark (r : Ray) (die index : Nat) : Ray := if r.held = some (die, index) then { r with held := none } else r

/-- Units, streams and rays parked at an entry go on, those of switched-out workgroups too. -/
def State.unparkAll (s : State) (die index : Nat) : State :=
  let s1 := s.mapUnits (fun _ _ u => if u.park = .fault die index then { u with park := .ready } else u)
  { s1 with
    cores := s1.cores.map (fun x => (x.1, { x.2 with streams := x.2.streams.map (fun y => (y.1, y.2.unpark die index)),
                                                     rays := x.2.rays.map (fun y => (y.1, y.2.unpark die index)) })),
    wgs := s1.wgs.map (fun x => (x.1, { x.2 with streams := x.2.streams.map (fun y => (y.1, y.2.unpark die index)),
                                                 rays := x.2.rays.map (fun y => y.unpark die index) })) }

/-- What a replay does at once for one waiter: a queue makes the report write it was held at, the trainer a bind. The others
translate again when they next act. -/
def State.replayOne (s : State) : Waiter → State
  | .queue q => (s.report q).settleQueue q
  | .trainer d k => s.bindSlot d k
  | _ => s

/-- REPLAY (R176). -/
def State.replay (s : State) (die index : Nat) : Command :=
  if 1024 ≤ index then .refused s
  else match Table.find s.faults (1024 * die + index) with
    | none => .refused s
    | some e => .done (e.waiters.foldl State.replayOne ((s.dropFault die index).unparkAll die index))

def execReplay (die index : Nat) (s : State) : Host.Outcome State Fault Refusal :=
  s.command 6 [word die, word index] (fun s => s.replay die index)

/-- The fault domain of a workgroup's launch ends. -/
def State.failGroup (s : State) (wg : Nat) : State := s.poolError (s.wgAt wg)

/-- A cancelled access of a launch (R224, R225, R358). -/
def State.cancelLaunch (s : State) (id : Nat) : State :=
  let l := s.launchAt id
  match l.phase with
  | .submitted => s.stopHeld id l.held
  | .prologue => s.stopLaunch id 7
  | .accepted => s.dropQuery id
  | .storing => (s.setLaunch id l.endNext).endLaunch id 2
  | .arriving => (s.setLaunch id l.endNext).endLaunch id 2
  | _ => s

/-- A cancelled access of a queue (R233, R237, R358), at an address where that is known. -/
def State.cancelQueue (s : State) (q : Nat) (va : Option Nat) : State :=
  let x := s.queueAt q
  match x.hold with
  | .report => (s.setQueue q (if x.owePtr then { x with owePtr := false, hold := .free } else { x with oweStatus := false, hold := .free })).report q |>.settleQueue q
  | .own => (s.setQueue q { x with hold := .free }).ownFailed q 0 none
  | .parcel => (s.setQueue q { x with hold := .free }).parcelFailed q va
  | .pipe => (s.setQueue q { x with hold := .free }).ownFailed q 9 none
  | .reread => s.stopQueue q (match x.ahead with
    | f :: _ => f.ring
    | [] => x.readRing) 5
  | _ => if x.state = .active then s.stopQueue q x.readRing 5 else s

/-- What a cancel does for one waiter (R358); streams and rays show in their own state where they are parked. -/
def State.cancelOne (s : State) : Waiter → State
  | .unit w _ => s.failGroup (s.warpAt w).wg
  | .fetch w _ => s.failGroup (s.warpAt w).wg
  | .waitWord w _ => s.failGroup (s.warpAt w).wg
  | .ray _ _ => s
  | .stream _ _ => s
  | .tileOp g => s.failGroup g
  | .office a w => (s.workInHand a w none).failWorld a w
  | .recursion o => s.recFail o
  | .checkpoint => { s with ckpt := s.ckpt.map (fun c => { c with failed := true }) }
  | .launch id => s.cancelLaunch id
  | .queue q => s.cancelQueue q none
  | .pipeline p => s.failPipe p
  | .trainer d k => s.stopTraining d k
  | .charge k => (s.setBudget k { s.budgetAt k with owed := 0, sent := 0 }).endRoot (k / 2 ^ 64)
  | .parcel g => (s.endRoot (s.wgAt g).asid).parcelOver g
  | .other a => s.endRoot a
  | .host => s
  | .ether _ _ => s
  | .peer _ _ _ => s

/-- What a cancel of an entry does for one waiter: of an office, the work up to the entry's access stays (R359); of a queue, the address
says which of its accesses it was. -/
def State.cancelFor (e : FaultEntry) (s : State) : Waiter → State
  | .office a w => (s.workInHand a w (some e)).failWorld a w
  | .queue q => s.cancelQueue q (some e.va.toNat)
  | w => s.cancelOne w

/-- Workgroups that have a ray parked at an entry, or are switched out with a stream parked there. -/
def State.parkedGroups (s : State) (die index : Nat) : List Nat :=
  s.cores.flatMap (fun x => (x.2.rays.filter (fun y => y.2.held = some (die, index))).map (fun y => y.2.wg)) ++
  (s.wgs.filter (fun x => x.2.streams.any (fun y => y.2.state = .parked die index) || x.2.rays.any (fun y => y.held = some (die, index)))).map (·.1)

/-- Streams parked at an entry, on the cores where they are now. -/
def State.parkedStreams (s : State) (die index : Nat) : List (Nat × Nat) :=
  s.cores.flatMap (fun x => (x.2.streams.filter (fun y => y.2.state = .parked die index)).map (fun y => (x.1, y.1)))

/-- A cancel for the streams and rays parked at an entry (R203, R358). -/
def State.cancelParked (s : State) (die index : Nat) : State :=
  let s1 := (s.parkedStreams die index).foldl (fun s x => if (s.streamAt x.1 x.2).state = .parked die index then s.streamError x.1 x.2 else s) s
  (s.parkedGroups die index).foldl State.failGroup s1

/-- CANCEL (R176, R358): the entry's accesses are never performed. -/
def State.cancel (s : State) (die index : Nat) : Command :=
  if 1024 ≤ index then .refused s
  else match Table.find s.faults (1024 * die + index) with
    | none => .refused s
    | some e => .done (e.waiters.foldl (State.cancelFor e) ((s.dropFault die index).cancelParked die index))

def execCancel (die index : Nat) (s : State) : Host.Outcome State Fault Refusal :=
  s.command 7 [word die, word index] (fun s => s.cancel die index)

end Sys2Proof.Machine
end

