-- ==== Sys2Proof/Machine/Link.lean ====
section
/-! DEFINITION. The link (R319 to R333): the host's aperture, remote pages, peer link ports and their flits, Ethernet,
gang slices, migration and checkpoints; and the accesses that a remote page has left to perform. -/
namespace Sys2Proof.Machine

/-! ### Masters from outside (R178; log entry 12) -/

def hostMaster : Nat := 0x10020
def etherMaster (port : Nat) : Nat := 0x10030 + port
def peerMaster (dev : BitVec 18) : Nat := 0x40000 + dev.toNat

/-- Target number of a link port, and of an Ethernet port. -/
def portTarget (port : Nat) : Nat := 4 + port
def etherTarget (port : Nat) : Nat := 24 + port

/-- The key id that a port's entry names for a requester (R177). -/
def State.portKey (s : State) (target master : Nat) : Nat := Table.get 0 s.portKeys (2 ^ 20 * target + master)

/-- A physical access from outside is denied: an address outside local HBM, an access table, or an empty key slot. -/
def State.outsideDenied (s : State) (target master : Nat) (kind : BitVec 2) (a n : Nat) : Bool :=
  decide (2 ^ 40 < a + n) || s.tableDenies target master kind || s.tableDenies (a / 2 ^ 38) master kind ||
  (Table.find s.keys (s.portKey target master)).isNone

/-! ### Flits and ports (R321) -/

/-- Route numbers that are not a port's: Ethernet (R323), and the host's endpoint (MODEL). -/
def etherRoute : Nat := 12
def hostRoute : Nat := 16

/-- The flit header as its 64 bits. -/
def flitWord (f : Flit) : W64 := f.dest ++ f.src ++ f.kind ++ f.seq ++ f.credits ++ f.crc

/-- The port carries traffic. -/
def Port.usable (p : Port) : Bool := decide (p.state = .up) || decide (p.state = .degraded)

/-- The CRC of a flit with its data, which follows the header in its own field (R321). -/
def crcOf (h : Flit) (data : List Byte) : Byte := Config.flitCrc (flitWord { h with crc := 0 }) data

/-- Flits that n bytes of data take. -/
def flitsFor (n : Nat) : Nat := max 1 ((n + 63) / 64)

/-- A flit as it goes out: its sequence number and its CRC. -/
def Outgoing.stamped (o : Outgoing) (seq : Byte) : Outgoing :=
  let h := { o.head with seq := seq }
  { o with head := { h with crc := crcOf h o.data } }

/-- Flits go out in order, one credit each (R321). -/
def Port.pump (p : Port) : Nat → Port
  | 0 => p
  | n + 1 => match p.queue with
    | [] => p
    | o :: r =>
      if p.credits = 0 then p
      else
        let x := o.stamped p.sent
        Port.pump { p with credits := p.credits - 1, sent := p.sent + 1, queue := r, out := p.out ++ [x], flight := p.flight ++ [x] } n

/-- Hand flits to a port: those of a port that carries no traffic wait. -/
def Port.push (p : Port) (os : List Outgoing) : Port :=
  let q := p.queue ++ os
  if p.usable then Port.pump { p with queue := q } q.length else { p with queue := q }

/-- The flits of a transfer: 64 bytes of data each, at rising addresses. -/
def flitsOf (o : Outgoing) : List Outgoing :=
  if o.data.length ≤ 64 then [o]
  else (List.range (flitsFor o.data.length)).map (fun i =>
    let d := (o.data.drop (64 * i)).take 64
    { o with addr := o.addr + 64 * i, bytes := d.length, data := d })

/-- A transfer for a device. -/
def flitTo (dev src : BitVec 18) (kind : BitVec 4) (addr bytes req : Nat) (atomic : Option (BitVec 4 × W64 × W64)) (data : List Byte) : Outgoing :=
  { head := { dest := dev, src := src, kind := kind, seq := 0, credits := 0, crc := 0 }, addr := addr, bytes := bytes, atomic := atomic,
    req := req, data := data }

/-- The flit carries an access of this device's own. -/
def Outgoing.ours (o : Outgoing) : Bool := decide (o.req ≠ 0) && (decide (o.head.kind = 1) || decide (o.head.kind = 2) || decide (o.head.kind = 3))

/-- A posted access of which every flit's credit has come back has been performed: the partner has it, in order and exactly
once. A refusal may still name it. -/
def State.credited (s : State) (port : Nat) (back : List Outgoing) : State :=
  let p := s.portAt port
  let done := fun (a : Access) => a.posted && decide (a.via = some port) && back.any (fun o => o.ours && decide (o.req = a.id)) &&
      !(p.queue ++ p.flight).any (fun o => o.ours && decide (o.req = a.id))
  { s with pending := s.pending.filter (fun a => !done a),
           posts := (((s.pending.filter done).map (fun a => (port, a.id, a.owner))).reverse ++ s.posts).take 256 }

/-- The partner returns credits. -/
def State.returnCredits (s : State) (port c : Nat) : State :=
  let p := s.portAt port
  let p1 := { p with credits := p.credits + c, flight := p.flight.drop c }
  (s.setPort port (p1.push [])).credited port (p.flight.take c)

/-- An idle flit that returns k credits: it takes no credit and no sequence number of its own. -/
def idleFor (dev src : BitVec 18) (k : Nat) (seq : Byte) : Outgoing :=
  let o := flitTo dev src 0 0 0 0 none []
  { o with head := { o.head with credits := BitVec.ofNat 8 k } }.stamped seq

/-- A flit of a kind arrives at a port with the data after it. A port that carries no traffic discards it (R322). One whose CRC fails is
discarded and asked for again from its sequence number; one that is out of sequence is discarded, and the port asks for a replay from the
one it expects (R321). The credits of one that is taken go back with an idle flit. The CRC is that of the first of the flits that carry
the data. -/
def State.takeFlit (s : State) (port : Nat) (f : Flit) (kind : BitVec 4) (data : List Byte) : State × Bool :=
  let p := s.portAt port
  if 12 ≤ port ∨ p.usable = false ∨ f.kind ≠ kind then (s, false)
  else if f.crc ≠ crcOf f (data.take 64) then (s.setPort port { p with replay := some f.seq }, false)
  else if f.seq ≠ p.expect then (s.setPort port { p with replay := some p.expect }, false)
  else
    let k := flitsFor data.length
    let s1 := s.setPort port { p with expect := p.expect + BitVec.ofNat 8 k, replay := none, out := p.out ++ [idleFor f.src s.devid k p.sent] }
    (s1.returnCredits port f.credits.toNat, true)

/-- The flit is for this device. -/
def State.forMe (s : State) (f : Flit) : Bool := decide (f.dest = s.devid)

/-- What a transfer is over Ethernet: an RDMA READ, WRITE or atomic, or a SEND. -/
def Outgoing.wire (o : Outgoing) : Wire :=
  if o.head.kind = 1 then .read o.req o.addr o.bytes
  else match o.atomic with
    | some (op, a, b) => .atomic o.req o.addr op o.bytes a b
    | none => if o.head.kind = 2 ∨ o.head.kind = 6 then .write o.req o.addr o.data else .send o.data

/-- Hand a transfer to the route of its device: a port, or the connection that is bound to the device (R323, R325). One that is
unreachable goes nowhere. -/
def State.emit (s : State) (o : Outgoing) : State :=
  let r := (s.routeOf o.head.dest).toNat
  if r < 12 then s.setPort r ((s.portAt r).push (flitsOf o))
  else if r = etherRoute then (match Table.find s.conns o.head.dest.toNat with
    | some (port, qp) => { s with etherOut := s.etherOut ++ [(port, qp, o.wire)] }
    | none => s)
  else s

/-! ### Accesses left to perform (R172, R320, R323 to R325) -/

/-- An access of an owner fails: what a denial does (R178, R358). -/
def State.failOwner (s : State) : Waiter → State
  | .stream c n => s.streamError c n
  | .ray c r => match Table.find (s.coreAt c).rays r with
    | some x => s.failGroup x.wg
    | none => s
  | w => s.cancelOne w

/-- The control flit that tells a device of a refusal. -/
def refusal (dev src : BitVec 18) (req : Nat) : Outgoing := flitTo dev src 7 0 0 req none []

/-- An answer from outside goes on to the device, the host or the Ethernet requester that asked. -/
def State.passOn (s : State) (o : Waiter) (data : List Byte) : State :=
  match o with
  | .host => { s with hostOut := s.hostOut ++ [.reply data] }
  | .ether port qp => { s with etherOut := s.etherOut ++ [(port, qp, .reply data)] }
  | .peer port dev seq => s.setPort port ((s.portAt port).push (flitsOf (flitTo dev s.devid 4 0 data.length seq.toNat none data)))
  | _ => s

/-- An access that has been queued cannot be performed: its owner hears of it as of a refusal. -/
def State.failAccess (s : State) (a : Access) : State :=
  match a.owner with
  | .host => if a.posted then s else s.passOn .host (List.replicate a.bytes 0xFF#8)
  | .peer port dev seq => s.setPort port ((s.portAt port).push [refusal dev s.devid seq.toNat])
  | o => s.failOwner o

/-- Take an access off the list of those left. -/
def State.dropPending (s : State) (i : Nat) : State := { s with pending := s.pending.eraseIdx i }

/-- An access has been sent on a route. -/
def State.sentOn (s : State) (i route : Nat) : State := { s with pending := s.pending.modify i (fun a => { a with via := some route }) }

/-- An earlier access of the same agent has not been sent. -/
def State.sentBefore (s : State) (i : Nat) (o : Waiter) : Bool := (s.pending.take i).any (fun a => o.same a.owner && a.via.isNone)

/-- The transfer that an access becomes. -/
def Access.transfer (a : Access) (src : BitVec 18) : Outgoing :=
  flitTo a.dev src (if a.atomic.isSome then 3 else if a.write.isSome then 2 else 1) a.addr a.bytes a.id a.atomic (a.write.getD [])

/-- A transfer to a device can be carried: by a port that is Up or Degraded, or by the connection that is bound to the device, which carries
no atomic but 64-bit add and compare-and-swap (R322, R323, R325). -/
def State.carries (s : State) (dev : BitVec 18) (atomic : Option (BitVec 4 × W64 × W64)) (n : Nat) : Bool :=
  let r := (s.routeOf dev).toNat
  if r < 12 then (s.portAt r).usable
  else decide (r = etherRoute) && (Table.find s.conns dev.toNat).isSome && (match atomic with
    | some (op, _, _) => decide (n = 8) && (decide (op = 0) || decide (op = 9))
    | none => true)

/-- Ethernet carries loads, stores, and 64-bit ATOM add and cas (R325). -/
def Access.overEther (a : Access) : Bool :=
  match a.atomic with
  | some (op, _, _) => decide (a.bytes = 8) && (decide (op = 0) || decide (op = 9)) && !a.posted
  | none => true

/-- Send a remote access of a device page (R323 to R325). -/
def State.sendPeer (s : State) (i : Nat) (a : Access) : State :=
  let r := (s.routeOf a.dev).toNat
  let usable := if r < 12 then (s.portAt r).usable else decide (r = etherRoute) && a.overEther && (Table.find s.conns a.dev.toNat).isSome
  if usable then (s.sentOn i r).emit (a.transfer s.devid) else (s.dropPending i).failAccess a

/-- The host takes add, exchange and compare-and-swap at 32 and 64 bits (R320). -/
def hostAtomicOk (op : BitVec 4) (n : Nat) : Bool :=
  (decide (op = 0) || decide (op = 8) || decide (op = 9)) && (decide (n = 4) || decide (n = 8))

/-- Send a remote access of a host page: a memory write is performed once it has gone out, in order. -/
def State.sendHost (s : State) (i : Nat) (a : Access) : State :=
  let out := fun (s : State) (w : Wire) => { s with hostOut := s.hostOut ++ [w] }
  match a.write, a.atomic with
  | some bs, _ => out (s.dropPending i) (.write a.id a.addr bs)
  | none, some (op, x, y) =>
    if hostAtomicOk op a.bytes then out (s.sentOn i hostRoute) (.atomic a.id a.addr op a.bytes x y) else (s.dropPending i).failAccess a
  | none, none => out (s.sentOn i hostRoute) (.read a.id a.addr a.bytes)

/-- The access writes a remote page that a checkpoint has marked and not copied: it is held (R330). -/
def State.heldByCut (s : State) (a : Access) : Bool :=
  match s.ckpt with
  | none => false
  | some c => !c.failed && (a.write.isSome || a.atomic.isSome) && c.pages.any (fun p => decide (p.away = some (a.host, a.dev, a.addr / 4096)))

/-- The access writes bytes of a barrier object on a remote page that another access is updating: from the time its read goes out until
its write does, no other write of this device goes between (R149). -/
def State.heldByObject (s : State) (a : Access) : Bool :=
  (a.write.isSome || a.atomic.isSome) && decide (a.tag ≠ objectTag) && s.pending.any (fun b =>
    decide (b.tag = objectTag) && b.atomic.isNone && decide (b.host = a.host) && decide (b.dev = a.dev) &&
    decide (a.addr < b.addr + b.bytes) && decide (b.addr < a.addr + a.bytes) && decide (b.write.isSome = b.via.isNone))

/-- MEMORY_ACCESS_PERFORM (R172): one of the remote accesses left is sent, after those of its agent before it. An access to
local memory was performed in the step that made it (log entry 10), with the copy of a checkpoint's page before it (R330). -/
def execMemoryAccessPerform (index : Nat) (s : State) : Host.Outcome State Fault Refusal :=
  match s.pending[index]? with
  | none => .next s
  | some a =>
    if a.via.isSome || s.sentBefore index a.owner || s.heldByCut a || s.heldByObject a then .next s
    else if a.host then .next (s.sendHost index a) else .next (s.sendPeer index a)

/-- An answer to a request that was sent on a route: what was posted has been performed, what an agent of the device asked for has its
answer, what came from outside goes on. -/
def State.answerTo (s : State) (req : Nat) (on : Nat → Bool) (data : List Byte) : State :=
  let hit := fun (a : Access) => decide (a.id = req) && (match a.via with
    | some r => on r
    | none => false)
  match s.pending.find? hit with
  | none => s
  | some a =>
    if a.posted || decide (a.owner = .host) || (match a.owner with
        | .ether _ _ => true
        | .peer _ _ _ => true
        | _ => false) then
      let s1 := { s with pending := s.pending.filter (fun x => !hit x) }
      if a.posted then s1 else s1.passOn a.owner data
    else { s with pending := s.pending.map (fun x => if hit x then { x with answer := some data } else x) }

/-- PCIE_COMPLETION (R320). -/
def execPcieCompletion (req : Nat) (data : List Byte) (s : State) : Host.Outcome State Fault Refusal :=
  .next (s.answerTo req (fun r => decide (r = hostRoute)) data)

/-- PAGE_WALK (R170): a walker translates an address and caches it, with A and D set as the access will; a walk that
faults leaves the fault to the access itself, which takes its entry when it is made (R175). -/
def execPageWalk (asid va access : Nat) (_die : Nat) (s : State) : Host.Outcome State Fault Refusal :=
  let kind := BitVec.ofNat 2 access
  match s.walk asid va with
  | .fault _ _ => .next s
  | .leaf a e l => if (denies e kind).isSome then .next s else .next (s.useLeaf asid va kind a e l)

/-! ### Port states (R322) -/

/-- FLIT_BAD (R321): discarded, and asked for again from its sequence number. -/
def execFlitBad (port : Nat) (seq : Byte) (s : State) : Host.Outcome State Fault Refusal :=
  let p := s.portAt port
  if 12 ≤ port ∨ p.usable = false then .next s else .next (s.setPort port { p with replay := some seq })

/-- The partner asks for a replay: the flits in flight from a sequence number on go out again (R321). -/
def State.replayFlits (s : State) (port : Nat) (seq : Byte) : State :=
  let p := s.portAt port
  if p.usable then s.setPort port { p with out := p.out ++ p.flight.dropWhile (fun o => o.head.seq ≠ seq) } else s

/-- IDLE_FLIT (R321). -/
def execIdleFlit (port : Nat) (credits : Byte) (s : State) : Host.Outcome State Fault Refusal :=
  if 12 ≤ port ∨ (s.portAt port).usable = false then .next s else .next (s.returnCredits port credits.toNat)

def setState (s : State) (port : Nat) (st : PortState) : State := s.setPort port { s.portAt port with state := st }

/-- PORT_PARTNER_DETECT (R322). -/
def execPortPartnerDetect (port : Nat) (s : State) : Host.Outcome State Fault Refusal :=
  if 12 ≤ port ∨ (s.portAt port).state ≠ .down then .next s else .next (setState s port .training)

/-- The port comes up with the credits that it has been given and no flit sent or received; what waits goes out. -/
def Port.begun (p : Port) (st : PortState) (credits : Nat) : Port :=
  Port.push { p with state := st, credits := credits, expect := 0, sent := 0, replay := none, flight := [] } []

/-- PORT_TRAINING_DONE (R322): all lanes good, or at least half of them; credits are exchanged. -/
def execPortTrainingDone (port : Nat) (partner : PortTraining) (s : State) : Host.Outcome State Fault Refusal :=
  let p := s.portAt port
  if 12 ≤ port ∨ p.state ≠ .training then .next s
  else if Config.portLanes ≤ partner.lanes then .next (s.setPort port (p.begun .up partner.credits))
  else if Config.portLanes ≤ 2 * partner.lanes then .next (s.setPort port (p.begun .degraded partner.credits))
  else .next s

/-- PORT_LANES_LOST (R322): `lanes` remain; flits in flight are replayed. -/
def execPortLanesLost (port lanes : Nat) (s : State) : Host.Outcome State Fault Refusal :=
  let p := s.portAt port
  if 12 ≤ port ∨ p.state ≠ .up ∨ 2 * lanes < Config.portLanes then .next s
  else .next (s.setPort port { p with state := .degraded, out := p.out ++ p.flight })

/-- An access is in flight through a port. -/
def Access.inFlight (port : Nat) (a : Access) : Bool := decide (a.via = some port) && a.answer.isNone

/-- The devices, and the numbers of their requests, whose accesses a list of flits forwards for them (R328). -/
def forwardedFor (me : BitVec 18) (os : List Outgoing) : List (BitVec 18 × Nat) :=
  ((os.filter (fun o => decide (o.head.kind = 6) && decide (o.head.src ≠ me))).map (fun o => (o.head.src, o.req))).eraseDups

/-- A port stops: accesses in flight through it become uncontained errors of their senders' domains: those of this device, and those
that it forwards, of which their senders hear by control flits. Flits that carry no access wait. -/
def State.stopPort (s : State) (port : Nat) (st : PortState) : State :=
  let p := s.portAt port
  let lost := s.pending.filter (Access.inFlight port)
  let keep := p.queue.filter (fun o => !o.ours && decide (o.head.kind ≠ 6))
  let s1 := { s.setPort port { p with state := st, flight := [], queue := keep } with pending := s.pending.filter (fun a => !a.inFlight port) }
  let s2 := lost.foldl State.failAccess s1
  (forwardedFor s.devid (p.flight ++ p.queue)).foldl (fun s x => s.emit (refusal x.1 s.devid x.2)) s2

/-- PORT_REPLAY_EXHAUSTED (R322). -/
def execPortReplayExhausted (port : Nat) (s : State) : Host.Outcome State Fault Refusal :=
  if 12 ≤ port ∨ (s.portAt port).usable = false then .next s else .next (s.stopPort port .down)

/-- FENCE PORT (R322): outgoing accesses are refused. Those in flight, whose answers the port now discards, fail with them
(DESIGN CHOICE: no rule says what becomes of them). -/
def execFencePort (port : Nat) (s : State) : Host.Outcome State Fault Refusal :=
  s.command 15 [word port] (fun s => if 12 ≤ port then .refused s else .done (s.stopPort port .fenced))

/-- UNFENCE PORT (R322). -/
def execUnfencePort (port : Nat) (s : State) : Host.Outcome State Fault Refusal :=
  s.command 16 [word port] (fun s =>
    if 12 ≤ port ∨ (s.portAt port).state ≠ .fenced then .refused s else .done (setState s port .down))

/-! ### Accesses from outside (R177, R215, R319, R324, R328) -/

/-- Who outside makes an access: a device, with the sequence number of the flit that an answer names; the host; a queue pair. -/
inductive Sender where
  | peer (port : Nat) (dev : BitVec 18) (seq : Byte)
  | host
  | ether (port qp : Nat)

/-- Answer a sender. -/
def State.reply (s : State) (who : Sender) (data : List Byte) : State :=
  match who with
  | .peer port dev seq => s.passOn (.peer port dev seq) data
  | .host => s.passOn .host data
  | .ether port qp => s.passOn (.ether port qp) data

/-- An access is refused: a device hears of it by a control flit; a host read, or an AtomicOp, answers all ones (R319). -/
def State.refuse (s : State) (who : Sender) (answer : Nat) : State :=
  match who with
  | .peer port dev seq => s.setPort port ((s.portAt port).push [refusal dev s.devid seq.toNat])
  | .host => if answer = 0 then s else s.passOn .host (List.replicate answer 0xFF#8)
  | .ether _ _ => s

/-- The migration whose context has a physical frame, from the cutover on. -/
def State.movedFrame (s : State) (a : Nat) : Option Migration :=
  (s.migrations.find? (fun x => decide (x.2.phase ≠ .copying) && x.2.frames.any (fun f => decide (f.1 ≤ a) && decide (a < f.1 + f.2)))).map (·.2)

/-- A write from outside to a page of a context that is being copied: the page is to be copied again. -/
def State.recopy (s : State) (a n : Nat) : State :=
  { s with migrations := s.migrations.map (fun x =>
      if x.2.phase = .copying then
        (x.1, { x.2 with copied := x.2.copied.filter (fun p => !(decide (a / 4096 ≤ p) && decide (p ≤ (a + n - 1) / 4096))) })
      else x) }

/-- Forward a write or an atomic to the destination of a migration, as kind 6 under its sender's id (R328). The old value of a
device's atomic goes from there to the device; one of the host or of a queue pair, or over Ethernet, comes back here and goes on. What
the destination's route does not carry is refused (R322, R323, R325). -/
def State.forward (s : State) (g : Migration) (who : Sender) (addr n : Nat) (atomic : Option (BitVec 4 × W64 × W64)) (data : List Byte) : State :=
  let own := fun (o : Waiter) => match atomic with
    | none => s.emit (flitTo g.dev s.devid 6 addr n 0 none data)
    | some _ =>
      let s1 := s.request o 0 false g.dev addr n none atomic
      ((s1.sentOn s.pending.length (s.routeOf g.dev).toNat).emit (flitTo g.dev s.devid 6 addr n s.nextId atomic data))
  if !s.carries g.dev atomic n then s.refuse who (if atomic.isSome then n else 0)
  else match who with
    | .peer port dev seq =>
      if s.routeOf g.dev = BitVec.ofNat 4 etherRoute then own (.peer port dev seq) else s.emit (flitTo g.dev dev 6 addr n seq.toNat atomic data)
    | .host => own .host
    | .ether port qp => own (.ether port qp)

/-- A write from outside to local HBM is performed at .dev; to a frame of a context that moves it is forwarded, and refused after the
move (R215, R328). -/
def State.writeFrom (s : State) (who : Sender) (key addr : Nat) (data : List Byte) : State :=
  match s.movedFrame addr with
  | some g => if g.phase = .done then s.refuse who 0 else s.forward g who addr data.length none data
  | none => (s.storeBytes addr key data).recopy addr data.length

/-- An atomic from outside (R319, R324, R325, R328). -/
def State.atomicFrom (s : State) (who : Sender) (key addr : Nat) (op : BitVec 4) (wide : Bool) (operand swap : W64) : State :=
  let n := if wide then 8 else 4
  match s.movedFrame addr with
  | some g => if g.phase = .done then s.refuse who n else s.forward g who addr n (some (op, operand, swap)) []
  | none =>
    let old := s.loadBytes addr key n
    let new := atomNew64 wide op.toNat (bytes64 old) operand swap
    ((s.storeBytes addr key (valBytes n new.toNat)).recopy addr n).reply who old

/-- READ_REQUEST_FLIT (R215). -/
def execReadRequestFlit (port : Nat) (flit : Flit) (addr bytes : Nat) (s : State) : Host.Outcome State Fault Refusal :=
  match s.takeFlit port flit 1 [] with
  | (s1, false) => .next s1
  | (s1, true) =>
    let m := peerMaster flit.src
    let who : Sender := .peer port flit.src flit.seq
    if !s.forMe flit then .next s1
    else if s1.outsideDenied (portTarget port) m accRead addr bytes then .next (s1.refuse who bytes)
    else .next (s1.reply who (s1.loadBytes addr (s1.portKey (portTarget port) m) bytes))

/-- A write from a peer. -/
def State.peerWrite (s : State) (port : Nat) (flit : Flit) (addr : Nat) (data : List Byte) : State :=
  let m := peerMaster flit.src
  let who : Sender := .peer port flit.src flit.seq
  if !s.forMe flit then s
  else if s.outsideDenied (portTarget port) m accWrite addr data.length then s.refuse who 0
  else s.writeFrom who (s.portKey (portTarget port) m) addr data

/-- WRITE_FLIT (R215, R328). -/
def execWriteFlit (port : Nat) (flit : Flit) (addr : Nat) (data : List Byte) (s : State) : Host.Outcome State Fault Refusal :=
  match s.takeFlit port flit 2 data with
  | (s1, false) => .next s1
  | (s1, true) => .next (s1.peerWrite port flit addr data)

/-- FORWARDED_WRITE_FLIT (R328). -/
def execForwardedWriteFlit (port : Nat) (flit : Flit) (addr : Nat) (data : List Byte) (s : State) : Host.Outcome State Fault Refusal :=
  match s.takeFlit port flit 6 data with
  | (s1, false) => .next s1
  | (s1, true) => .next (s1.peerWrite port flit addr data)

/-- The code names an atomic of the width (R185, R324): 12 to 14 are of 32 bits. -/
def atomicKnown (op : BitVec 4) (wide : Bool) : Bool := decide (op.toNat ≤ 14) && !(decide (12 ≤ op.toNat) && wide)

/-- ATOMIC_FLIT (R324, R328): performed at the home L2 with a response; one of kind 6 has been forwarded. -/
def execAtomicFlit (port : Nat) (flit : Flit) (addr : Nat) (op : BitVec 4) (wide : Bool) (operand swap : W64) (s : State) :
    Host.Outcome State Fault Refusal :=
  let n := if wide then 8 else 4
  match s.takeFlit port flit (if flit.kind = 6 then 6 else 3) [] with
  | (s1, false) => .next s1
  | (s1, true) =>
    let m := peerMaster flit.src
    let who : Sender := .peer port flit.src flit.seq
    if !s.forMe flit then .next s1
    else if s1.outsideDenied (portTarget port) m accAtomic addr n || !atomicKnown op wide || decide (addr % n ≠ 0) then .next (s1.refuse who n)
    else .next (s1.atomicFrom who (s1.portKey (portTarget port) m) addr op wide operand swap)

/-- RESPONSE_FLIT (R324): it names the request, whichever port it comes by (R323, R328). -/
def execResponseFlit (port : Nat) (flit : Flit) (req : Nat) (data : List Byte) (s : State) : Host.Outcome State Fault Refusal :=
  match s.takeFlit port flit 4 data with
  | (s1, false) => .next s1
  | (s1, true) => .next (if s.forMe flit then s1.answerTo req (fun r => decide (r < 12)) data else s1)

/-! ### The host (R319, R320) -/

/-- The host as an agent in the aperture's address space. -/
def hostWho (asid : Nat) : Who :=
  { asid := asid, master := hostMaster, die := 0, unit := 0, slot := 0, core := 0, waiter := .host, own := false }

/-- The places of an access through the aperture that may be made. -/
def State.aperturePlaces (s : State) (kind : BitVec 2) (offset n : Nat) : Option (State × Segs) :=
  match s.aperture with
  | none => none
  | some (asid, base) =>
    if 2 ^ 36 < offset + n then none
    else match s.xlateRuns (hostWho asid) kind [((base + BitVec.ofNat 64 offset).toNat, n)] with
      | (s1, .ok p) => some (s1, p)
      | _ => none

/-- A host write goes to its places: to local HBM, or on to a remote page. -/
def State.hostStore (s : State) : Segs → List Byte → State
  | [], _ => s
  | (.here pa key, n) :: r, bs => State.hostStore (s.writeFrom .host key pa (bs.take n)) r (bs.drop n)
  | (.away h d pa, n) :: r, bs => State.hostStore (s.request .host 0 h d pa n (some (bs.take n)) none) r (bs.drop n)

/-- A host read answers the bytes of local HBM; those of a remote page are asked for, and answer when they come. -/
def State.hostLoad (s : State) : Segs → State
  | [] => s
  | (.here pa key, n) :: r => State.hostLoad (s.reply .host (s.loadBytes pa key n)) r
  | (.away h d pa, n) :: r => State.hostLoad (s.request .host 0 h d pa n none none) r

/-- The endpoint takes no access of the host while an earlier write of the host to a remote page is not yet performed: it performs them
in their order (R215; DESIGN CHOICE, log entry 51: every later access waits). Until then the event changes nothing. -/
def State.hostWaits (s : State) : Bool := s.unperformedBy .host

/-- HOST_APERTURE_ACCESS (R319): an unmapped or denied read answers all ones, an unmapped or denied write is discarded. -/
def execHostApertureAccess (offset bytes : Nat) (write : Option (List Byte)) (s : State) : Host.Outcome State Fault Refusal :=
  if s.hostWaits then .next s
  else match write with
  | some bs => (match s.aperturePlaces accWrite offset bs.length with
    | some (s1, p) => .next (s1.hostStore p bs)
    | none => .next s)
  | none => (match s.aperturePlaces accRead offset bytes with
    | some (s1, p) => .next (s1.hostLoad p)
    | none => .next (s.refuse .host bytes))

/-- The AtomicOp completer (R319): FetchAdd, Swap and CAS at 32 and 64 bits, through the aperture. -/
def State.hostAtomic (s : State) (offset : Nat) (op : BitVec 4) (wide : Bool) (operand swap : W64) : State :=
  let n := if wide then 8 else 4
  if s.hostWaits then s
  else if !hostAtomicOk op n || decide (offset % n ≠ 0) then s.refuse .host n
  else match s.aperturePlaces accAtomic offset n with
    | some (s1, (.here pa key, _) :: _) => s1.atomicFrom .host key pa op wide operand swap
    | some (s1, (.away h d pa, _) :: _) => s1.request .host 0 h d pa n none (some (op, operand, swap))
    | _ => s.refuse .host n

/-- HOST_REGISTER_WRITE (R319): discarded. -/
def execHostRegisterWrite (_offset : Nat) (_v : W64) (s : State) : Host.Outcome State Fault Refusal := .next s

/-- HOST_APERTURE_ASSIGN (R319). -/
def execHostApertureAssign (asid : Option Nat) (base : W64) (s : State) : Host.Outcome State Fault Refusal :=
  .next { s with aperture := asid.map (fun a => (a, base)) }

/-! ### Gang slices (R326, R327) -/

/-- Word i of a record in control complex memory. -/
def State.ctlWord (s : State) (a i : Nat) : Nat := Memory.readN s.ctlMem (a + 8 * i) 8

/-- Record the outcome of a slice in its record, word 6. -/
def State.sliceOutcome (s : State) (k : Nat) (x : Slice) (v : Nat) : State :=
  { s with slices := Table.set s.slices k { x with outcome := BitVec.ofNat 64 v, running := none },
           ctlMem := Memory.writeN s.ctlMem (x.record + 48) 8 v }

/-- A gang token as payload: slice id, kind and index. -/
def tokenBytes (k : Nat) : GangToken → List Byte
  | .ready i => valBytes 8 k ++ valBytes 4 0 ++ valBytes 4 i
  | .go => valBytes 8 k ++ valBytes 4 1 ++ valBytes 4 0
  | .forfeit i => valBytes 8 k ++ valBytes 4 2 ++ valBytes 4 i

/-- The token of a payload. -/
def tokenOf (bs : List Byte) : Option (Nat × GangToken) :=
  let k := bytesVal (bs.take 8)
  let i := bytesVal (bs.drop 12)
  if bs.length ≠ 16 then none
  else match bytesVal ((bs.drop 8).take 4) with
    | 0 => some (k, .ready i)
    | 1 => some (k, .go)
    | 2 => some (k, .forfeit i)
    | _ => none

/-- Send a token to members. -/
def State.sendTokens (s : State) (k : Nat) (t : GangToken) (devs : List (BitVec 18)) : State :=
  devs.foldl (fun s d => s.emit (flitTo d s.devid 5 0 16 0 none (tokenBytes k t))) s

/-- A member takes a decision: a forfeit is its outcome. -/
def State.takeDecision (s : State) (k : Nat) (x : Slice) (t : GangToken) : State :=
  let x1 := { x with decision := some t }
  match t with
  | .forfeit i => s.sliceOutcome k x1 (2 + 2 ^ 32 * i)
  | _ => { s with slices := Table.set s.slices k x1 }

/-- The collector decides, and tells every other member. -/
def State.announce (s : State) (k : Nat) (x : Slice) (t : GangToken) : State := (s.sendTokens k t (x.members.drop 1)).takeDecision k x t

/-- Members whose tokens the collector has. -/
def Slice.complete (x : Slice) : Bool := (List.range x.members.length).all (fun i => x.tokens.contains i)

/-- The last tick at which the collector takes ready tokens, and a member a decision (R327). -/
def Slice.readyBy (x : Slice) : Nat := x.start + 125000
def Slice.decidedBy (x : Slice) : Nat := x.start + 250000

/-- The collector records a ready token, and decides go where it was the last, in time. One that comes before its own GANGSLICE is
kept for it. -/
def State.gotReady (s : State) (k i : Nat) : State :=
  match Table.find s.slices k with
  | none => { s with early := Table.set s.early k (i :: Table.get [] s.early k) }
  | some x =>
    if x.decision.isSome || decide (x.outcome ≠ 0) || decide (x.me ≠ 0) || decide (x.members.length ≤ i) || decide (x.readyBy < s.tick) then s
    else
      let x1 := { x with tokens := if x.tokens.contains i then x.tokens else x.tokens ++ [i] }
      if x1.complete then s.announce k x1 .go else { s with slices := Table.set s.slices k x1 }

/-- The tokens kept for a slice are recorded. -/
def State.gotEarly (s : State) (k : Nat) : State :=
  ((Table.get [] s.early k).reverse).foldl (fun s i => s.gotReady k i) { s with early := Table.erase s.early k }

/-- A decision that came before the member's own GANGSLICE, in time, is taken (R327). -/
def State.gotTold (s : State) (k : Nat) : State :=
  match Table.find s.slices k, Table.find s.told k with
  | some x, some (t, at_) => let s1 := { s with told := Table.erase s.told k }
    if x.decidedBy < at_ then s1 else s1.takeDecision k x t
  | _, _ => s

/-- GANGSLICE (R326, R327): the record's outcome is pending. -/
def State.gangslice (s : State) (record : Nat) : Command :=
  let w := s.ctlWord record
  let n := w 4
  let members := (List.range n).map (fun i => BitVec.ofNat 18 (Memory.readN s.ctlMem (w 3 + 4 * i) 4))
  let me := members.findIdx (fun d => d = s.devid)
  let asid := w 5
  if n < 2 ∨ 262144 < n ∨ 4096 ≤ asid ∨ w 7 ≠ 0 ∨ members.length ≤ me ∨ (s.ctxAt asid).state = .free then .refused s
  else
    let x : Slice :=
      { asid := asid, start := w 1, quantum := w 2, members := members, me := me, tokens := [], decision := none, running := none,
        outcome := 0, record := record }
    let c := s.ctxAt asid
    let s1 := { s.setCtx asid { c with state := if c.state = .frozen then .running else c.state } with
      slices := Table.set s.slices (w 0) x, ctlMem := Memory.writeN s.ctlMem (record + 48) 8 0 }
    .done (if me = 0 then (s1.gotEarly (w 0)).gotReady (w 0) 0 else (s1.sendTokens (w 0) (.ready me) (members.take 1)).gotTold (w 0))

def execGangslice (record : Nat) (s : State) : Host.Outcome State Fault Refusal := s.command 12 [word record] (fun s => s.gangslice record)

/-- A gang token arrives (R327): a ready token for the collector, or the decision for a member that has none, in time; one that comes
before the member's GANGSLICE is kept for it. -/
def State.gotToken (s : State) (slice : Nat) (token : GangToken) : State :=
  match token with
  | .ready i => s.gotReady slice i
  | t => (match Table.find s.slices slice with
    | none => if (Table.find s.told slice).isSome then s else { s with told := Table.set s.told slice (t, s.tick) }
    | some x =>
      if x.decision.isSome || decide (x.outcome ≠ 0) || decide (x.me = 0) || decide (x.decidedBy < s.tick) then s else s.takeDecision slice x t)

/-- GANG_TOKEN_FLIT (R327). -/
def execGangTokenFlit (port : Nat) (flit : Flit) (slice : Nat) (token : GangToken) (s : State) : Host.Outcome State Fault Refusal :=
  match s.takeFlit port flit 5 (tokenBytes slice token) with
  | (s1, false) => .next s1
  | (s1, true) => .next (if s.forMe flit then s1.gotToken slice token else s1)

/-- GANG_DECISION_DEADLINE (R327): the collector forfeits, naming the lowest member that is not ready. -/
def execGangDecisionDeadline (slice : Nat) (s : State) : Host.Outcome State Fault Refusal :=
  match Table.find s.slices slice with
  | none => .next s
  | some x =>
    if x.me ≠ 0 ∨ x.decision.isSome = true ∨ x.outcome ≠ 0 ∨ s.tick < x.readyBy then .next s
    else
      let late := ((List.range x.members.length).find? (fun i => !x.tokens.contains i)).getD 0
      .next (s.announce slice x (.forfeit late))

/-- GANG_START (R327): at the later of T and the arrival of go. -/
def execGangStart (slice : Nat) (s : State) : Host.Outcome State Fault Refusal :=
  match Table.find s.slices slice with
  | none => .next s
  | some x =>
    if x.decision ≠ some .go ∨ x.outcome ≠ 0 ∨ x.running.isSome = true ∨ s.tick < x.start then .next s
    else .next { s with slices := Table.set s.slices slice { x with running := some s.tick } }

/-- GANG_QUANTUM_END (R327): the member ran, and stops issue. -/
def execGangQuantumEnd (slice : Nat) (s : State) : Host.Outcome State Fault Refusal :=
  match Table.find s.slices slice with
  | none => .next s
  | some x => (match x.running with
    | none => .next s
    | some t => if s.tick < t + x.quantum then .next s else .next (s.sliceOutcome slice x 1))

/-- GANG_COLLECTOR_LOST (R327): a member without a decision starts nothing. -/
def execGangCollectorLost (slice : Nat) (s : State) : Host.Outcome State Fault Refusal :=
  match Table.find s.slices slice with
  | none => .next s
  | some x =>
    if x.me = 0 ∨ x.decision.isSome = true ∨ x.outcome ≠ 0 ∨ s.tick < x.decidedBy then .next s
    else .next (s.sliceOutcome slice x 3)

/-! ### Ethernet (R325) -/

/-- ROCE_REQUEST (R325): performed as an access of the port. A SEND's data goes to the control complex: a gang token, or nothing
that the manual describes. -/
def execRoceRequest (conn : RoceConn) (verb : RoceVerb) (s : State) : Host.Outcome State Fault Refusal :=
  let m := etherMaster conn.port
  let t := etherTarget conn.port
  let who : Sender := .ether conn.port conn.qp
  let key := s.portKey t m
  let atomic := fun (op : BitVec 4) (addr : Nat) (a b : W64) =>
    if s.outsideDenied t m accAtomic addr 8 || decide (addr % 8 ≠ 0) then s.refuse who 8 else s.atomicFrom who key addr op true a b
  if 4 ≤ conn.port then .next s
  else match verb with
    | .send data => .next (match tokenOf data with
      | some (k, x) => s.gotToken k x
      | none => s)
    | .rdmaWrite addr data =>
      if s.outsideDenied t m accWrite addr data.length then .next (s.refuse who 0)
      else .next ((s.writeFrom who key addr data).reply who [])
    | .rdmaRead addr bytes =>
      if s.outsideDenied t m accRead addr bytes then .next (s.refuse who bytes) else .next (s.reply who (s.loadBytes addr key bytes))
    | .fetchAdd addr v => .next (atomic 0 addr v 0)
    | .compareSwap addr cmp swap => .next (atomic 9 addr cmp swap)

/-! ### Migration (R328) -/

/-- Local frames that the tables of a context map, base and size: the leaves under a table, level by level. -/
def State.framesUnder (s : State) : List Nat → Nat → List (Nat × Nat)
  | [], _ => []
  | l :: ls, table => (List.range 512).flatMap (fun i =>
    let e := s.phys64 (table + 8 * i)
    if !e.getLsbD 0 then []
    else if e.getLsbD 4 then (if leafBad e l || leafRemote e then [] else [(bitsOf e 51 24 * 4096, pageSize l)])
    else if pointerBad e l then [] else State.framesUnder s ls (bitsOf e 51 24 * 4096))

/-- A migration has the 4 KiB page among its frames. -/
def Migration.has (m : Migration) (page : Nat) : Bool := m.frames.any (fun f => decide (f.1 ≤ 4096 * page) && decide (4096 * page < f.1 + f.2))

/-- Every page of the frames has been copied. -/
def Migration.copiedAll (m : Migration) : Bool :=
  m.frames.all (fun f => (List.range (f.2 / 4096)).all (fun i => m.copied.contains (f.1 / 4096 + i)))

/-- MIGRATE (R328): a Running context is frozen, and its pages are to be copied; the completion word comes with the
destination's THAW. -/
def State.migrate (s : State) (asid : Nat) (dev : BitVec 18) : Command :=
  let start := fun (_ : Unit) =>
    if (s.ctxAt asid).state ≠ .running then Command.refused s
    else
      let m : Migration := { dev := dev, phase := .copying, frames := s.framesUnder [5, 4, 3, 2, 1] (s.ctxAt asid).root.toNat, copied := [], since := 0 }
      .inHand { s.freezeNow asid with migrations := Table.set s.migrations asid m }
  match Table.find s.migrations asid with
  | some m => (match m.phase with
    | .copying => .inHand s
    | .cutover => .inHand s
    | _ => start ())
  | none => start ()

def execMigrate (asid : Nat) (dev : BitVec 18) (s : State) : Host.Outcome State Fault Refusal :=
  s.command 13 [word asid, word dev.toNat] (fun s => s.migrate asid dev)

/-- MIGRATE_PAGE_COPY (R328): a frame keeps its physical address at the destination (log entry 46). -/
def execMigratePageCopy (asid page : Nat) (s : State) : Host.Outcome State Fault Refusal :=
  match Table.find s.migrations asid with
  | none => .next s
  | some m =>
    if m.phase ≠ .copying ∨ s.occupied asid = true ∨ m.has page = false ∨ m.copied.contains page = true ∨ s.carries m.dev none 4096 = false then .next s
    else
      let s1 := s.emit (flitTo m.dev s.devid 2 (4096 * page) 4096 0 none (Memory.readBytes s.mem (4096 * page) 4096))
      .next { s1 with migrations := Table.set s1.migrations asid { m with copied := page :: m.copied } }

/-- MIGRATE_CUTOVER (R328). -/
def execMigrateCutover (asid : Nat) (s : State) : Host.Outcome State Fault Refusal :=
  match Table.find s.migrations asid with
  | none => .next s
  | some m =>
    if m.phase ≠ .copying ∨ s.occupied asid = true ∨ m.copiedAll = false then .next s
    else .next { s with migrations := Table.set s.migrations asid { m with phase := .cutover, since := s.tick } }

/-- A control flit tells that a request of this device has been refused (R178, R328): an uncontained error of its sender's domain. -/
def State.refusedFlit (s : State) (port : Nat) (flit : Flit) (req : Nat) : State :=
  match s.takeFlit port flit 7 [] with
  | (s1, false) => s1
  | (s1, true) =>
    if !s.forMe flit then s1
    else match s1.pending.find? (fun a => decide (a.id = req) && a.via.isSome) with
      | some a => State.failAccess { s1 with pending := s1.pending.filter (fun x => x.id ≠ req) } a
      | none => match s1.posts.find? (fun x => x.2.1 = req) with
        | some x => State.failOwner { s1 with posts := s1.posts.filter (fun y => y.2.1 ≠ req) } x.2.2
        | none => s1

/-- CONTROL_FLIT (R321): its content is the control complexes' own; refusals come apart from it (State.refusedFlit). One from the
destination of a migration after the cutover tells of the destination's THAW (R328; log entry 46): the migration is Forwarding, and its
MIGRATE completes. -/
def execControlFlit (port : Nat) (flit : Flit) (s : State) : Host.Outcome State Fault Refusal :=
  match s.takeFlit port flit 7 [] with
  | (s1, false) => .next s1
  | (s1, true) =>
    match s1.migrations.find? (fun x => decide (x.2.phase = .cutover) && decide (x.2.dev = flit.src)) with
    | some (asid, m) =>
      if s.forMe flit then
        .next (State.finishThis { s1 with migrations := Table.set s1.migrations asid { m with phase := .forwarding } } 13 [word asid, word m.dev.toNat] 0)
      else .next s1
    | none => .next s1

/-- MIGRATE_FORWARD_END (R328): 100 ms after the cutover. -/
def execMigrateForwardEnd (asid : Nat) (s : State) : Host.Outcome State Fault Refusal :=
  match Table.find s.migrations asid with
  | none => .next s
  | some m =>
    if m.phase ≠ .forwarding ∨ s.tick < m.since + 25000000 then .next s
    else .next { s with migrations := Table.set s.migrations asid { m with phase := .done } }

/-! ### Checkpoints (R329 to R333) -/

/-- The checkpoint engine as an agent. -/
def ckptWho (asid : Nat) : Who := engineWho asid 0 8 0 0 .checkpoint

/-- A descriptor that breaks R329. -/
def ckptBad (w : Nat → Nat) : Bool :=
  decide (2 ^ 17 ≤ w 0) || decide (w 1 % 2 ^ 22 ≠ 0) || decide (w 2 % 2 ^ 22 ≠ 0) || decide (2 ^ 40 < w 2) ||
  decide (w 3 / 4 % 2 ^ 22 ≠ 0) || decide (2 ^ 48 ≤ w 3) || (decide (w 0 / 2 ^ 16 = 1) && decide (2 ^ 40 < w 1 + w 2))

/-- A page of the range as it lies at the cut. -/
def State.cutPage (s : State) (asid : Nat) (phys : Bool) (base i : Nat) : CutPage :=
  let va := base + 4096 * i
  if phys then { number := i, page := some (va / 4096), key := none, away := none }
  else match s.walk asid va with
    | .leaf _ e l => (match placeIn e l va with
      | .here pa key => { number := i, page := some (pa / 4096), key := some key, away := none }
      | .away h d pa => { number := i, page := none, key := none, away := some (h, d, pa / 4096) })
    | .fault _ _ => { number := i, page := none, key := none, away := none }

/-- Bytes of a 384-bit digest, most significant first. -/
def digestBytes (d : BitVec 384) : List Byte := (valBytes 48 d.toNat).reverse

/-- The manifest's entries: offset and length of each chunk's frame. -/
def Checkpoint.entries (c : Checkpoint) : List Byte :=
  c.chunks.flatMap (fun k => match c.frames.find? (fun f => f.1 = k) with
    | some f => valBytes 8 f.2.1 ++ valBytes 8 f.2.2
    | none => valBytes 16 0)

/-- The manifest's header (R332). -/
def Checkpoint.header (c : Checkpoint) : List Byte :=
  let width := match c.width with
    | 1 => 0
    | 2 => 1
    | 4 => 2
    | _ => 3
  let h := valBytes 8 0x7C2A9E41D3B85F06 ++ valBytes 8 c.number.toNat ++ valBytes 8 c.base ++ valBytes 8 c.bytes ++
    valBytes 8 (width + 2 ^ 32 * (c.bytes / 2 ^ 22)) ++ valBytes 8 ((c.frames.map (fun f => f.2.2)).sum)
  h ++ digestBytes (sha384 (h ++ c.entries)) ++ List.replicate 32 0

/-- How far a slot is (R332): frames once the zeroed magic is acknowledged, the entries after the frames, the header once everything
before it is acknowledged. -/
def State.ckptAdvance (s : State) : State :=
  let frames := fun (s : State) => match s.ckpt with
    | some c => if c.stage = 0 && c.unacked.isEmpty then State.emitFrames { s with ckpt := some { c with stage := 1 } } c.chunks else s
    | none => s
  let entries := fun (s : State) => match s.ckpt with
    | some c =>
      if c.stage = 1 && c.pages.isEmpty && decide (c.frames.length = c.chunks.length) then
        s.toStore { c with stage := 2 } (c.slotBase + 0x80) c.entries
      else s
    | none => s
  let header := fun (s : State) => match s.ckpt with
    | some c => if c.stage = 2 && c.unacked.isEmpty then s.toStore { c with stage := 3 } c.slotBase c.header else s
    | none => s
  header (entries (frames s))

/-- CHECKPOINT (R329, R330): the cut, and the zeroed magic of the slot. -/
def State.checkpoint (s : State) (desc : Nat) (ref : W64) : Command :=
  let w := s.ctlWord desc
  if s.ckpt.isSome then .inHand s
  else if ckptBad w then .refused s
  else
    let n := w 7 + 1
    let phys := decide (w 0 / 2 ^ 16 = 1)
    let base := BitVec.ofNat 64 (if n % 2 = 0 then w 4 else w 5)
    let c : Checkpoint :=
      { asid := w 0 % 2 ^ 16, phys := phys, base := w 1, bytes := w 2, width := 2 ^ (w 3 % 4), qp := w 3 / 2 ^ 24, slotBase := base,
        key := BitVec.ofNat 32 (if n % 2 = 0 then w 6 % 2 ^ 32 else w 6 / 2 ^ 32), number := BitVec.ofNat 64 n,
        pages := (List.range (w 2 / 4096)).map (s.cutPage (w 0 % 2 ^ 16) phys (w 1)), copied := [], frames := [], next := 2 ^ 23, ref := ref,
        stage := 0, unacked := [], owed := 0, failed := false }
    .inHand (State.toStore { s with ctlMem := Memory.writeN s.ctlMem (desc + 56) 8 n } c base (valBytes 8 0))

def execCheckpoint (desc : Nat) (ref : W64) (s : State) : Host.Outcome State Fault Refusal :=
  s.command 14 [word desc, ref] (fun s => s.checkpoint desc ref)

/-- An access of the checkpoint engine waits on a fault. -/
def State.ckptParked (s : State) : Bool := s.faults.any (fun x => x.2.waiters.contains .checkpoint)

/-- The page that is copied next (R330): a remote one on which a write is held, else the first in ascending order. A write to a local page
has it copied at once (State.copyFirst). -/
def State.nextCut (s : State) (c : Checkpoint) : Option CutPage :=
  (c.pages.find? (fun p => p.away.isSome && s.pending.any (fun a => a.via.isNone && (a.write.isSome || a.atomic.isSome) &&
    decide (p.away = some (a.host, a.dev, a.addr / 4096))))).orElse (fun _ => c.pages.head?)

/-- The bytes of a page that was remote at the cut: read where it was. -/
def State.cutAway (s : State) (c : Checkpoint) (p : CutPage) (h : Bool) (d : BitVec 18) (page : Nat) : Got (List Byte) :=
  let w := ckptWho c.asid
  let segs : Segs := [(.away h d (4096 * page), 4096)]
  let tag := 64 * (c.base + 4096 * p.number)
  if s.placeDenied w accRead (.away h d (4096 * page)) then .denied s
  else match s.segBytes w.waiter tag segs with
    | some bs => .ok (s.forget w.waiter) bs
    | none => .wait (s.ask w.waiter tag segs)

/-- The bytes of acknowledged writes are subtracted on the barrier object (R150). -/
def State.ckptCount (s : State) (c : Checkpoint) : State :=
  match (s.countBytes (ckptWho c.asid) 0 c.ref c.owed).atomic s .checkpoint with
  | .ok s1 _ => { s1 with ckpt := s1.ckpt.map (fun c => { c with owed := 0 }) }
  | .denied s1 => { s1 with ckpt := s1.ckpt.map (fun c => { c with owed := 0, failed := true }) }
  | g => g.state

/-- There are bytes to count. -/
def Checkpoint.owes (c : Checkpoint) : Bool := decide (c.ref ≠ 0) && decide (c.owed ≠ 0)

/-- CHECKPOINT_PAGE_COPY (R330, R331): the next page; one that was not mapped at the cut is translated now. -/
def execCheckpointPageCopy (s : State) : Host.Outcome State Fault Refusal :=
  match s.ckpt with
  | none => .next s
  | some c => match s.nextCut c with
    | none => .next s
    | some p =>
      if c.failed || s.ckptParked then .next s
      else if c.owes then .next (s.ckptCount c)
      else match p.page with
        | some _ => .next (s.copyCut p).ckptAdvance
        | none =>
          let got := match p.away with
            | some (h, d, page) => s.cutAway c p h d page
            | none => (s.partBytes (ckptWho c.asid) (c.base + 4096 * p.number) 4096).atomic s .checkpoint
          match got with
          | .ok s1 bs => .next (s1.tookCut c p bs).ckptAdvance
          | .denied s1 => .next { s1 with ckpt := some { c with failed := true } }
          | g => .next g.state

/-- A write to the store is acknowledged. -/
def State.storeAcked (s : State) (id : Nat) : State :=
  match s.ckpt with
  | some c =>
    let n := ((s.store.find? (fun x => x.id = id)).map (·.data.length)).getD 0
    if c.unacked.contains id then State.ckptAdvance { s with ckpt := some { c with unacked := c.unacked.erase id, owed := c.owed + n } } else s
  | none => s

/-- A write to the store fails, and the checkpoint with it (R333). -/
def State.storeFailed (s : State) (id : Nat) : State :=
  match s.ckpt with
  | some c => if c.unacked.contains id then { s with ckpt := some { c with failed := true } } else s
  | none => s

/-- ROCE_RESPONSE (R325, R332): an answer, or the acknowledgement of a write. -/
def execRoceResponse (_port req : Nat) (data : List Byte) (s : State) : Host.Outcome State Fault Refusal :=
  .next ((s.answerTo req (fun r => decide (r = etherRoute)) data).storeAcked req)

/-- CHECKPOINT_COMPLETE (R333): the header is acknowledged: the bytes still to be counted (R150), one arrival, and the completion word;
a checkpoint that has failed completes with status 1 and makes none. -/
def execCheckpointComplete (s : State) : Host.Outcome State Fault Refusal :=
  match s.ckpt with
  | none => .next s
  | some c =>
    let close := fun (s : State) (status : Nat) => State.finishCommand { s with ckpt := none } 14 status
    if c.failed && (s.ckptParked || !c.owes) then .next (close s 1)
    else if s.ckptParked then .next s
    else if c.owes then .next (s.ckptCount c)
    else if c.stage ≠ 3 || !c.unacked.isEmpty then .next s
    else match (s.arriveOnce (ckptWho c.asid) c.ref 0).atomic s .checkpoint with
      | .ok s1 _ => .next (close s1 0)
      | .denied s1 => .next (close s1 1)
      | g => .next g.state

end Sys2Proof.Machine
end

