-- ==== Sys2Proof/Machine/Bringup.lean ====
section
/-! DEFINITION. Bring-up (R334 to R341): secure boot and measurement, the control complex's tables and commands over the
device registers, power, soft errors. -/
namespace Sys2Proof.Machine

/-! ### Secure boot (R334, R335) -/

/-- The stages that the flash holds, in order: monitor, scheduler, plug-in loader, OS image. -/
def flashStages : List Nat := [2, 3, 4, 5]

/-- The measurement register that a stage extends: the plug-in loader's with the plug-ins (R335). -/
def measureOf (stage : Nat) : Nat := if stage ≤ 3 then 0 else if stage = 4 then 1 else 2

/-- A measurement register extended by a digest. -/
def extended (m d : BitVec 384) : BitVec 384 := sha384 (digestBytes m ++ digestBytes d)

def State.extendMeas (s : State) (m : Nat) (d : BitVec 384) : State :=
  { s with meas := Table.put 0#384 s.meas m (extended (Table.get 0#384 s.meas m) d) }

/-- The body length of the stage at an offset of the flash. -/
def stageLength (f : Memory) (a : Nat) : Nat := Memory.readN f (a + 0x18) 8

/-- The digest that the header of the stage at an offset holds. -/
def stageDigest (f : Memory) (a : Nat) : BitVec 384 := BitVec.ofNat 384 (bytesVal (Memory.readBytes f (a + 0x20) 48).reverse)

/-- A stage is accepted: its header is that of the stage, its signature verifies, its body hashes to the header's digest,
and its version is at least the fused minimum. It lies inside its copy. -/
def stageGood (f : Memory) (a limit stage : Nat) : Bool :=
  decide (Memory.readN f a 4 = 0x4B4C5541) && decide (Memory.readN f (a + 4) 2 = stage) && decide (Memory.readN f (a + 6) 2 = 1) &&
  decide (a + 256 + stageLength f a ≤ limit) &&
  ecdsaValid Config.publicKey (Memory.readBytes f a 0x50) (Memory.readBytes f (a + 0x50) 96) &&
  decide (sha384 (Memory.readBytes f (a + 256) (stageLength f a)) = stageDigest f a) &&
  decide (Config.fusedVersion ≤ Memory.readN f (a + 8) 4)

/-- The body of a stage is copied to its load address: of the OS image in local HBM, of the others in control complex memory (DESIGN
CHOICE: no rule says which memory the address names). -/
def State.loadStage (s : State) (a stage : Nat) : State :=
  let load := Memory.readN s.flash (a + 0x10) 8
  let body := Memory.readBytes s.flash (a + 256) (stageLength s.flash a)
  if stage = 5 then (if load + body.length ≤ 2 ^ 40 then s.physStore load body else s)
  else { s with ctlMem := Memory.writeBytes s.ctlMem load body }

/-- Run a chain of stages from an offset: the state, and the number of the failing stage if one is rejected. -/
def State.runChain (s : State) (limit : Nat) : List Nat → Nat → State × Option Nat
  | [], _ => (s, none)
  | n :: ns, a =>
    if stageGood s.flash a limit n then
      State.runChain ((s.extendMeas (measureOf n) (stageDigest s.flash a)).loadStage a n) limit ns (a + 256 + stageLength s.flash a)
    else (s, some n)

/-- The size of one image copy. -/
def imageBytes : Nat := 0x10000000

/-- What is left when the power goes: the flash. The agenda and the counter of free values are the model's. -/
def State.unpowered (s : State) : State :=
  { State.reset with flash := s.flash, agenda := s.agenda, freeCount := s.freeCount, power := .off }

/-- The boot chain: copy A, else copy B, else recovery, with %bootstat the failing stage. -/
def State.bootModule (s : State) : State :=
  let s1 := { s.unpowered with power := .boot }.extendMeas 0 Config.romDigest
  let a := s1.runChain imageBytes flashStages 0
  match a.2 with
  | none => { a.1 with power := .run }
  | some _ =>
    let b := a.1.runChain (2 * imageBytes) flashStages imageBytes
    match b.2 with
    | none => { b.1 with power := .run }
    | some n => { b.1 with power := .recovery, bootstat := BitVec.ofNat 8 n }

/-- POWER_ON (R334). -/
def execPowerOn (s : State) : Host.Outcome State Fault Refusal :=
  if s.power = .off then .next s.bootModule else .next s

/-! ### Power (R340) -/

/-- POWER_REMOVAL. -/
def execPowerRemoval (s : State) : Host.Outcome State Fault Refusal := .next s.unpowered

/-- The averaged power has passed 2,150 W and has not fallen below 2,100 W since. -/
def stillOver (was : Bool) (watts : Nat) : Bool := decide (2150 < watts) || (was && decide (2100 ≤ watts))

/-- POWER_CHECK. -/
def execPowerCheck (watts : BitVec 16) (celsius : Byte) (s : State) : Host.Outcome State Fault Refusal :=
  if s.power = .off then .next s
  else if 115 ≤ celsius.toNat then .next s.unpowered
  else
    let high := stillOver s.overPower watts.toNat
    let t := high || decide (105 ≤ celsius.toNat)
    let p := if s.power = .run ∨ s.power = .throttled then (if t then .throttled else .run) else s.power
    .next { s with watts := watts, temp := celsius, throttled := t, overPower := high, power := p }

/-! ### Device registers (R309, R339) -/

/-- The descriptor address that %netbind of a die's slot was last written with. -/
def State.netbind (s : State) (k : Nat) : W64 :=
  match Table.find s.binds k with
  | some v => v
  | none => (match Table.find s.nets k with
    | some x => x.desc
    | none => 0)

/-- A device register by number, of a die where there is one per die (R309). -/
def State.deviceReg (s : State) (die n : Nat) : Option W64 :=
  if 0xC00 ≤ n ∧ n < 0xC08 then (if die < 4 then some (s.netbind (8 * die + (n - 0xC00))) else none)
  else if 0xC1A ≤ n ∧ n < 0xC1D then some (Table.get 0#64 s.withheld (n - 0xC1A))
  else if 0xC40 ≤ n ∧ n < 0xC58 then
    some ((Table.get 0#384 s.meas ((n - 0xC40) / 6) >>> (64 * ((n - 0xC40) % 6))).setWidth 64)
  else match n with
    | 0xC10 => some (s.devid.setWidth 64)
    | 0xC11 => some (s.bootstat.setWidth 64)
    | 0xC18 => some s.eccfix
    | 0xC19 => some s.eccbad
    | 0xC1D => some ((if s.throttled then 0x10000 else 0) ||| s.watts.setWidth 64)
    | 0xC1E => some (s.temp.setWidth 64)
    | _ => none

/-- DEVID_WRITE (R323). -/
def execDevidWrite (v : BitVec 18) (s : State) : Host.Outcome State Fault Refusal := .next { s with devid := v }

/-! ### The system die's physical map (R338) -/

/-- The control complex as a master of the access tables (log entry 12). -/
def mapMaster : Nat := 0x10021

def letterboxBase : Nat := 0x10000000000
def registerBase : Nat := 0x10000800000
def flashBase : Nat := 0x10010000000

/-- The address lies in the map. -/
def inMap (a n : Nat) : Bool :=
  decide (a + n ≤ 2 ^ 40) || (decide (letterboxBase ≤ a) && decide (a + n ≤ letterboxBase + 0x800000)) ||
  (decide (registerBase ≤ a) && decide (a + n ≤ registerBase + 0x1000000)) ||
  (decide (flashBase ≤ a) && decide (a + n ≤ flashBase + 0x20000000))

/-- The application cores as a master of the access tables (log entry 12). -/
def appMaster : Nat := 0x10022

/-- The master that an actor is. -/
def Actor.master : Actor → Nat
  | .app => appMaster
  | _ => mapMaster

/-- A range of local HBM is denied to a master: the tables of the dies its bytes lie in. -/
def State.hbmDenied (s : State) (master : Nat) (kind : BitVec 2) (a n : Nat) : Bool :=
  s.tableDenies (a / 2 ^ 38) master kind || s.tableDenies ((a + n - 1) / 2 ^ 38) master kind

/-- Eight bytes of the letterbox window (R234): a latch, a stamp, a guard, else zero. -/
def State.windowWord (s : State) (o : Nat) : W64 :=
  if o < 0x400000 then (if o % 4096 = 0 then (s.queueAt (o / 4096)).latch else 0)
  else
    let n := (o - 0x400000) / 4096
    if 32 ≤ n then 0
    else if o % 4096 = 0 then (s.deadlineAt n).stamp
    else if o % 4096 = 8 then (s.deadlineAt n).guard.setWidth 64
    else 0

/-- A read of the letterbox window (R234): at offset 0 of a letterbox page it returns the latch, at 0 or 8 of a stream page the stamp or
guard, and the bytes beyond are zero; every other read returns zero. -/
def State.windowBytes (s : State) (o n : Nat) : List Byte :=
  let known := decide (o % 4096 = 0) || (decide (o % 4096 = 8) && decide (0x400000 ≤ o))
  ((if known then valBytes 8 (s.windowWord o).toNat else []) ++ List.replicate n 0#8).take n

/-- Bytes of a region of words: those of each word that the range touches. -/
def wordBytes (f : Nat → W64) (o n : Nat) : List Byte :=
  (List.range n).map (fun i => ((f ((o + i) / 8 * 8)) >>> (8 * ((o + i) % 8))).setWidth 8)

/-- Eight bytes of the device registers as BAR 0 lays them out; one that no rule lists reads 0 (DESIGN CHOICE). Those of which each die
has one are die 0's. -/
def State.registerWord (s : State) (o : Nat) : W64 := (s.deviceReg 0 (0xC00 + o / 8)).getD 0

/-- Bytes read through the map: none outside it, or where an access table denies. -/
def State.mapLoad (s : State) (master a n : Nat) : Option (List Byte) :=
  if a + n ≤ 2 ^ 40 then (if s.hbmDenied master accRead a n then none else some (Memory.readBytes s.mem a n))
  else if inMap a n = false then none
  else if a < registerBase then (if s.tableDenies 20 master accRead then none else some (s.windowBytes (a - letterboxBase) n))
  else if a < flashBase then some (wordBytes s.registerWord (a - registerBase) n)
  else some (Memory.readBytes s.flash (a - flashBase) n)

/-- A write to the letterbox window by an actor (R234): the application cores set no stream. -/
def State.windowStore (s : State) (app : Bool) (o : Nat) (bs : List Byte) : State :=
  let v := bytes64 bs
  let n := (o - 0x400000) / 4096
  if bs.length ≠ 8 ∨ o % 8 ≠ 0 then s
  else if o < 0x400000 then (if o % 4096 = 0 then s.letterbox (o / 4096) v else s)
  else if app = true ∨ 32 ≤ n then s
  else if o % 4096 = 0 then s.putStamp n v
  else if o % 4096 = 8 ∧ v ≠ 0 ∧ v.toNat < 2 ^ 32 then s.putGuard n (v.setWidth 32)
  else s

def State.setWithheld (s : State) (k : Nat) (v : W64) : State := { s with withheld := Table.put 0#64 s.withheld k v }

/-- A write of a device register by the control complex (R339): %devid and %withheld; %netbind is the management port's (R309), and
others are read only. -/
def State.registerStore (s : State) (n : Nat) (v : W64) : State :=
  if n = 0xC10 then { s with devid := v.setWidth 18 }
  else if 0xC1A ≤ n ∧ n < 0xC1D then s.setWithheld (n - 0xC1A) v
  else s

/-- Bytes written through the map by an actor: none where it may not write (R338). -/
def State.mapStore (s : State) (who : Actor) (a : Nat) (bs : List Byte) : Option State :=
  let n := bs.length
  if a + n ≤ 2 ^ 40 then (if s.hbmDenied who.master accWrite a n then none else some (s.physStore a bs))
  else if inMap a n = false then none
  else if a < registerBase then
    (if s.tableDenies 20 who.master accWrite then none else some (s.windowStore (decide (who = .app)) (a - letterboxBase) bs))
  else if a < flashBase then
    (if who = .app ∨ n ≠ 8 ∨ a % 8 ≠ 0 then none else some (s.registerStore (0xC00 + (a - registerBase) / 8) (bytes64 bs)))
  else if who = .monitor then some { s with flash := Memory.writeBytes s.flash (a - flashBase) bs }
  else none

/-- The die and number of the device register that a READ names: the number itself with the die above its 12 bits (DESIGN CHOICE), or its
address in the map. -/
def regNamed (reg : Nat) : Nat × Nat :=
  if registerBase ≤ reg ∧ reg % 8 = 0 then (0, 0xC00 + (reg - registerBase) / 8) else (reg / 0x1000, reg % 0x1000)

/-- WITHHELD_WRITE (R339). -/
def execWithheldWrite (k : Nat) (v : W64) (s : State) : Host.Outcome State Fault Refusal :=
  if k < 3 then .next (s.setWithheld k v) else .next s

/-- READ (R316): 8 bytes of a device register go to the destination. A register that no rule lists, and a destination that the
command may not write or that the map does not have, are refused. -/
def State.readCommand (s : State) (reg dst : Nat) : Command :=
  match s.deviceReg (regNamed reg).1 (regNamed reg).2 with
  | none => .refused s
  | some v => (match s.mapStore .scheduler dst (valBytes 8 v.toNat) with
    | none => .refused s
    | some s1 => .done s1)

def execRead (reg dst : Nat) (s : State) : Host.Outcome State Fault Refusal :=
  s.command 9 [word reg, word dst] (fun s => s.readCommand reg dst)

/-- The quote of ATTEST before its signature: M_0 to M_3, the nonce, and the device id in 4 bytes. -/
def State.quote (s : State) (nonce : List Byte) : List Byte :=
  (List.range 4).flatMap (fun i => digestBytes (Table.get 0#384 s.meas i)) ++ nonce ++ valBytes 4 s.devid.toNat

/-- The signature over a quote by the attestation key (R335). -/
def quoteSignature (q : List Byte) : List Byte :=
  ecdsaSign (1 + Config.attestKey % (p384Order - 1)) (1 + Config.attestNonce q % (p384Order - 1)) q

/-- ATTEST (R335): the monitor, which holds the key, writes the quote and its signature. A nonce or destination outside the map is
refused. -/
def State.attest (s : State) (nonce dst : Nat) : Command :=
  match s.mapLoad mapMaster nonce 48 with
  | none => .refused s
  | some bs =>
    let q := s.quote bs
    if flashBase ≤ dst then .refused s
    else match s.mapStore .monitor dst (q ++ quoteSignature q) with
      | none => .refused s
      | some s1 => .done s1

def execAttest (nonce dst : Nat) (s : State) : Host.Outcome State Fault Refusal :=
  s.command 17 [word nonce, word dst] (fun s => s.attest nonce dst)

/-! ### The control complex's tables (R7, R178, R323, R336) -/

/-- KEY_TABLE_WRITE: by the monitor. -/
def execKeyTableWrite (slot : Nat) (key : BitVec 512) (s : State) : Host.Outcome State Fault Refusal :=
  if slot < 512 then .next { s with keys := Table.set s.keys slot key } else .next s

/-- ACCESS_TABLE_WRITE: the entry's bit 0 denies reads and bit 1 denies writes (log entry 12); a port's entry names the key id of the
requester's accesses (R177). -/
def execAccessTableWrite (target master : Nat) (entry : AccessEntry) (s : State) : Host.Outcome State Fault Refusal :=
  let k := 2 ^ 20 * target + master
  if target < 2 ^ 20 ∧ master < 2 ^ 20 then .next { s with access := Table.put 0#2 s.access k entry.rights, portKeys := Table.put 0 s.portKeys k (entry.key % 512) }
  else .next s

/-- ROUTE_TABLE_WRITE. -/
def execRouteTableWrite (dev : BitVec 18) (route : BitVec 4) (s : State) : Host.Outcome State Fault Refusal :=
  .next { s with routes := Table.put 15#4 s.routes dev.toNat route }

/-- PLUGIN_FAULT: the plug-in stops; its tenant's contexts keep their last policy. -/
def execPluginFault (plugin : Nat) (s : State) : Host.Outcome State Fault Refusal :=
  .next { s with stopped := if s.stopped.contains plugin then s.stopped else s.stopped ++ [plugin] }

/-! ### Soft errors (R341) -/

/-- A permanently faulty core is withheld, and its workgroups are pre-empted. -/
def State.withholdCore (s : State) (core : Nat) : State :=
  (s.setWithheld (core / 64) (Table.get 0#64 s.withheld (core / 64) ||| (1#64 <<< (core % 64)))).askLeave
    (fun _ g => decide (g.core = core))

/-- Reference ticks in a second (R9). -/
def secondTicks : Nat := 250000000

/-- ECC_CORRECTED, at an array location of a core; 192 and above are no core's. The sixteenth correction of one location within
a second shows a permanent fault. -/
def execEccCorrected (core : Nat) (location : Nat) (s : State) : Host.Outcome State Fault Refusal :=
  let place := 192 * location + core % 192
  let hits := (s.eccHits.filter (fun x => decide (s.tick < x.2 + secondTicks))) ++ [(place, s.tick)]
  let s1 := { s with eccfix := s.eccfix + 1 }
  if 192 ≤ core then .next s1
  else
    let s2 := { s1 with eccHits := hits }
    if 16 ≤ (hits.filter (fun x => x.1 = place)).length then .next (s2.withholdCore core) else .next s2

/-- ECC_UNCORRECTABLE: an uncontained error of the launch whose access met it, or a reset of the module. One met by an access of an engine
comes from outside with its owner (Outside.eccMet), and has the effects of R358. -/
def execEccUncorrectable (control : Bool) (launch : Option Nat) (s : State) : Host.Outcome State Fault Refusal :=
  let s1 := { s with eccbad := s.eccbad + 1 }
  if control then .next s.bootModule
  else match launch with
    | none => .next s1
    | some id => if (Table.find s1.launches id).isSome then .next (s1.endDomain (s1.launchAt id).asid (s1.launchAt id).domain) else .next s1

end Sys2Proof.Machine
end

