-- ==== Sys2Proof/Machine/Curve.lean ====
section
/-! DEFINITION. The curve-coordinate class: majors 0x40 to 0x42 (07_curve.md). Keys are natural numbers below 2^n. -/
namespace Sys2Proof.Machine

/-! ### Shapes and keys (R106, R107) -/

/-- A grid: axis count D and bits per axis B. -/
structure Grid where
  d : Nat
  b : Nat

def Grid.n (g : Grid) : Nat := g.d * g.b

/-- The grid a %cshape value gives, if it is valid (R106). -/
def gridOf (v : BitVec 16) : Option Grid :=
  let d := v.toNat % 16
  let b := v.toNat / 16 % 128
  if 1 ≤ d ∧ d ≤ 8 ∧ 1 ≤ b ∧ b ≤ 64 ∧ d * b ≤ 64 ∧ v.toNat / 2048 = 0 then some ⟨d, b⟩ else none

/-- The current grid; what an invalid shape reads as does not matter. -/
def State.grid (s : State) : Grid := (gridOf s.w.cshape).getD ⟨1, 1⟩
def State.gridBad (s : State) : Bool := (gridOf s.w.cshape).isNone

/-- A key operand masked to n bits. -/
def maskKey (g : Grid) (x : W64) : Nat := x.toNat % 2 ^ g.n

/-- The value whose bit j, for j below a bound, is given. -/
def fromBits (f : Nat → Bool) : Nat → Nat
  | 0 => 0
  | j + 1 => fromBits f j + (if f j then 2 ^ j else 0)

/-- Axis k of a key (R107). -/
def axisOf (g : Grid) (x k : Nat) : Nat := fromBits (fun i => x.testBit (i * g.d + k)) g.b

/-- The key of axis values (R107). -/
def interleave (g : Grid) (t : Nat → Nat) : Nat := fromBits (fun j => (t (j % g.d)).testBit (j / g.d)) g.n

/-- A point lies in the box of two corners. -/
def inBox (g : Grid) (lo hi x : Nat) : Bool :=
  (List.range g.d).all (fun k => decide (axisOf g lo k ≤ axisOf g x k) && decide (axisOf g x k ≤ axisOf g hi k))
def emptyBox (g : Grid) (lo hi : Nat) : Bool := (List.range g.d).any (fun k => decide (axisOf g hi k < axisOf g lo k))

/-! ### Next and previous key (R119) -/

/-- The bits of bit i's axis below bit i. -/
def axisBelow (d i : Nat) : Nat := fromBits (fun j => decide (j % d = i % d)) i

/-- load1 and load0. -/
def load1 (d v i : Nat) : Nat := (v ||| 2 ^ i ||| axisBelow d i) - axisBelow d i
def load0 (d v i : Nat) : Nat := ((v ||| 2 ^ i) - 2 ^ i) ||| axisBelow d i

/-- The least key no less than y in a box that is not empty: the construction of R119 from bit i - 1 down. -/
def bigmin (d : Nat) : Nat → Nat → Nat → Nat → Option Nat → Option Nat
  | 0, y, _, _, _ => some y
  | i + 1, y, lo, hi, best =>
    match y.testBit i, lo.testBit i, hi.testBit i with
    | false, false, true => bigmin d i y lo (load0 d hi i) (some (load1 d lo i))
    | false, true, true => some lo
    | true, false, false => best
    | true, false, true => bigmin d i y (load1 d lo i) hi best
    | _, _, _ => bigmin d i y lo hi best

/-- The greatest key no greater than y in a box that is not empty. -/
def litmax (d : Nat) : Nat → Nat → Nat → Nat → Option Nat → Option Nat
  | 0, y, _, _, _ => some y
  | i + 1, y, lo, hi, best =>
    match y.testBit i, lo.testBit i, hi.testBit i with
    | false, false, true => litmax d i y lo (load0 d hi i) best
    | false, true, true => best
    | true, false, false => some hi
    | true, false, true => litmax d i y (load1 d lo i) hi (some (load0 d hi i))
    | _, _, _ => litmax d i y lo hi best

/-- The least key from y on in the box. -/
def leastFrom (g : Grid) (lo hi y : Nat) : Option Nat :=
  if emptyBox g lo hi || decide (2 ^ g.n ≤ y) then none else bigmin g.d g.n y lo hi none

/-- The greatest key up to y in the box. -/
def greatestTo (g : Grid) (lo hi y : Nat) : Option Nat :=
  if emptyBox g lo hi then none else litmax g.d g.n y lo hi none

def cnextOf (g : Grid) (lo hi x : Nat) : Nat := (leastFrom g lo hi (x + 1)).getD x
def cprevOf (g : Grid) (lo hi x : Nat) : Nat := if x = 0 then x else (greatestTo g lo hi (x - 1)).getD x

/-! ### Runs of a box (R120) -/

/-- The corner whose axis k has a value and whose other axes are all zeros or all ones. -/
def cornerAt (g : Grid) (k v : Nat) (ones : Bool) : Nat :=
  interleave g (fun j => if j = k then v else if ones then 2 ^ g.b - 1 else 0)

/-- The least of the values that are present. -/
def leastOf : List (Option Nat) → Option Nat
  | [] => none
  | none :: r => leastOf r
  | some x :: r => match leastOf r with
    | none => some x
    | some y => some (min x y)

/-- The least key from y on that lies outside the box: below its low or above its high value on some axis. -/
def leastOutside (g : Grid) (lo hi y : Nat) : Option Nat :=
  leastOf ((List.range g.d).map (fun k =>
      if axisOf g lo k = 0 then none
      else leastFrom g (cornerAt g k 0 false) (cornerAt g k (axisOf g lo k - 1) true) y) ++
    (List.range g.d).map (fun k =>
      if axisOf g hi k = 2 ^ g.b - 1 then none
      else leastFrom g (cornerAt g k (axisOf g hi k + 1) false) (cornerAt g k (2 ^ g.b - 1) true) y))

/-- Up to `count` runs from key r on, and the start of the first run not listed. -/
def runsFrom (g : Grid) (lo hi : Nat) : Nat → Nat → List (Nat × Nat) × Option Nat
  | 0, r => ([], leastFrom g lo hi r)
  | count + 1, r =>
    match leastFrom g lo hi r with
    | none => ([], none)
    | some a =>
      let e := match leastOutside g lo hi a with
        | some x => x - 1
        | none => 2 ^ g.n - 1
      let q := runsFrom g lo hi count (e + 1)
      ((a, e) :: q.1, q.2)

/-! ### The instructions (R111 to R121) -/

/-- A key field of the vector class (R108). -/
def vkey (p : Pos) (f : BitVec 7) : Opnd := ⟨p, f.toNat, false, 2, 2, 121⟩

/-- Masked corners of the box in s(c), s(c + 2). -/
def State.corners (s : State) (ops : List Opnd) : Nat × Nat :=
  (maskKey s.grid (s.w.sreg (s.regAt ops .c)), maskKey s.grid (s.w.sreg (s.regAt ops .c + 2)))

/-- CSHAPE (R112); its check is made with ACT empty too (DESIGN CHOICE: R110 says when it takes effect, not when it traps). -/
def execCshape (c b : BitVec 7) (s : State) :=
  let v := s.imm32 c
  let bad := (gridOf (BitVec.ofNat 16 (16 * v.toNat + b.toNat))).isNone || decide (64 < v.toNat) || decide (8 < b.toNat)
  s.sdo acceptAll [] bad (fun s => .done (s.setW { s.w with cshape := BitVec.ofNat 16 (16 * v.toNat + b.toNat) }))

def execCzip (k : BitVec 1) (b a : BitVec 7) (s : State) :=
  let g := s.grid
  if k = 1 then
    let ops := [sd .a a, sblock .b b g.d]
    s.sdo acceptGX ops s.gridBad (fun s =>
      let r := s.regAt ops .b
      .done (s.setSreg (s.regAt ops .a) (BitVec.ofNat 64 (interleave g (fun j => (s.w.sreg (r + j)).toNat)))))
  else
    let ops := [vd .a a 2, if 32 < g.b then vblock .b b 2 2 else vblock .b b g.d 1]
    s.issue acceptGX ops s.gridBad (fun s =>
      let r := s.regAt ops .b
      .done (s.writeA ops 2 (fun L => BitVec.ofNat 64 (interleave g (fun j =>
        if 32 < g.b then (s.w.pair r L).toNat else (s.w.vreg (r + j) L).toNat)))))

def execCunz (k : BitVec 1) (x : BitVec 3) (b a : BitVec 7) (s : State) :=
  let g := s.grid
  let bad := s.gridBad || decide (g.d ≤ x.toNat)
  if k = 1 then
    s.smap acceptGX [sd .a a, ss .b b] bad intConsts (fun _ _ b _ => (BitVec.ofNat 64 (axisOf g b.toNat x.toNat), 0))
  else
    let n := if 32 < g.b then 2 else 1
    s.vmap acceptGX [vd .a a n, vkey .b b] bad intConsts n none
      (fun _ _ _ b _ => (BitVec.ofNat 64 (axisOf g b.toNat x.toNat), 0))

/-- One axis of CADD or CSUB: the wrapped value and whether it overflowed (R114). -/
def offsetAxis (g : Grid) (sub : Bool) (x y : Nat) : Nat × Bool :=
  let d : Int := (BitVec.ofNat g.b y).toInt
  let r : Int := if sub then x - d else x + d
  ((r % 2 ^ g.b).toNat, decide (r < 0) || decide ((2 ^ g.b : Int) ≤ r))

/-- OR bits into %cflags of lanes. -/
def orFlags (t : Table Byte) (f : Nat → Byte) : List Nat → Table Byte
  | [] => t
  | L :: Ls => orFlags (Table.put 0#8 t L (Table.get 0#8 t L ||| f L)) f Ls

def State.coffset (s : State) (sub : Bool) (c b : BitVec 7) (a : BitVec 6) (p : BitVec 1) :
    Host.Outcome State Fault Refusal :=
  let g := s.grid
  let ops := [vd .a (a ++ 0#1) 2, vkey .b b, vkey .c c]
  s.issue acceptAll ops s.gridBad (fun s =>
    let r := fun L k => offsetAxis g sub (axisOf g (s.valueAt intConsts ops .b L).toNat k)
      (axisOf g (s.valueAt intConsts ops .c L).toNat k)
    let ov : Nat → Byte := fun L => BitVec.ofNat 8 (fromBits (fun k => (r L k).2) g.d)
    let s1 := s.writeA ops 2 (fun L => BitVec.ofNat 64 (interleave g (fun k => (r L k).1)))
    let w := { s1.w with cflags := orFlags s1.w.cflags ov (Lanes.list s.act) }
    .done (s1.setW (if p = 1 then w.setPred s.act 6 (Lanes.of (fun L => decide (ov L ≠ 0))) else w)))

def execCadd (c b : BitVec 7) (a : BitVec 6) (p : BitVec 1) (s : State) := s.coffset false c b a p
def execCsub (c b : BitVec 7) (a : BitVec 6) (p : BitVec 1) (s : State) := s.coffset true c b a p

/-- CCMP's tests (R115). -/
def keyTest (t : Nat) (x y : Nat) : Bool :=
  match t with
  | 0 => decide (x = y)
  | 1 => decide (x ≠ y)
  | 2 => decide (x < y)
  | 3 => decide (x ≤ y)
  | 4 => decide (y < x)
  | _ => decide (y ≤ x)

def execCcmp (c b : BitVec 7) (t p : BitVec 3) (s : State) :=
  let g := s.grid
  s.vpred acceptAll [vkey .b b, vkey .c c] (s.gridBad || !(Instr.ccmp c b t p).wf) intConsts p
    (fun _ _ b c => (keyTest t.toNat (maskKey g b) (maskKey g c), 0))

def execCinbox (c b : BitVec 7) (p : BitVec 3) (s : State) :=
  let g := s.grid
  let ops := [vkey .b b, sblock .c c 3]
  s.vpred acceptGX ops s.gridBad intConsts p
    (fun s _ b _ => (inBox g (s.corners ops).1 (s.corners ops).2 (maskKey g b), 0))

/-- Leading bits in which two keys agree, from bit i - 1 down. -/
def agreeFrom (x y : Nat) : Nat → Nat
  | 0 => 0
  | i + 1 => if x.testBit i = y.testBit i then 1 + agreeFrom x y i else 0

def execClcp (c b a : BitVec 7) (s : State) :=
  let g := s.grid
  s.vmap acceptAll [vd .a a 1, vkey .b b, vkey .c c] s.gridBad intConsts 1 none
    (fun _ _ _ b c =>
      let l := agreeFrom (maskKey g b) (maskKey g c) g.n
      (BitVec.ofNat 64 (l / g.d * 256 + l), 0))

def execCcell (c b a : BitVec 7) (s : State) :=
  let g := s.grid
  let j := (s.imm32 c).toNat
  s.vmap acceptAll [vd .a a 2, vkey .b b] (s.gridBad || decide (g.b < j)) intConsts 2 none
    (fun _ _ _ b _ => (BitVec.ofNat 64 (maskKey g b / 2 ^ (j * g.d) * 2 ^ (j * g.d)), 0))

def State.cstep (s : State) (c b a : BitVec 7) (f : Grid → Nat → Nat → Nat → Nat) : Host.Outcome State Fault Refusal :=
  let g := s.grid
  let ops := [vd .a a 2, vkey .b b, sblock .c c 3]
  s.vmap acceptGX ops s.gridBad intConsts 2 none
    (fun s _ _ b _ => (BitVec.ofNat 64 (f g (s.corners ops).1 (s.corners ops).2 (maskKey g b)), 0))

def execCnext (c b a : BitVec 7) (s : State) := s.cstep c b a cnextOf
def execCprev (c b a : BitVec 7) (s : State) := s.cstep c b a cprevOf

/-- The bytes of the runs CSPLIT lists. -/
def runBytes (rs : List (Nat × Nat)) : List Byte := rs.flatMap (fun r => valBytes 8 r.1 ++ valBytes 8 r.2)

/-- CSPLIT (R120, R121). The control word is checked wherever s(b + 1) can be read, since ILLEGAL_OP comes before REG_BOUND
(R110); it and the offset are checked with ACT empty too, and MISALIGN reports the lowest lane of ACT (DESIGN CHOICE: R306 names a
lane, and a scalar-class instruction has none). a is a destination, so that 112 to 127 is ILLEGAL_OP (R28) before it is REG_BOUND.
The scratchpad is written at issue, so an LDS inside the window reads the new contents (R121 allows either). Where a run lies in a
scratchpad line that is absent, the instruction waits before issue as a whole, makes none of its stores and reads its sources when
it issues (DESIGN CHOICE, log entry 23). -/
def execCsplit (l : BitVec 4) (c b a : BitVec 7) (s : State) :=
  let g := s.grid
  let ops := [sblock .a a 2, sfar .b b 2, sblock .c c 3]
  let ctl := s.w.sreg (s.regAt ops .b + 1)
  let bad := decide (ctl >>> 35 ≠ 0) || decide (ctl.toNat / 2 ^ 19 % 32 ≠ 0) || decide (ctl.toNat / 2 ^ 24 % 256 = 0)
  s.issue acceptGX ops (s.gridBad || ((s.boundOp (sfar .b b 2)).isNone && bad)) (fun s =>
    let off := ctl.toNat % 2 ^ 19
    if off % 8 ≠ 0 then .trap .misalign (Lanes.lowest s.act)
    else if s.act = 0 then .done s
    else
      let r := runsFrom g (s.corners ops).1 (s.corners ops).2 (ctl.toNat / 2 ^ 24 % 256)
        (maskKey g (s.w.sreg (s.regAt ops .b)))
      let bytes := runBytes r.1
      if !bytes.isEmpty && decide (s.spadSize s.g < off + bytes.length) then .trap .misalign (Lanes.lowest s.act)
      else if !bytes.isEmpty && !s.g.present off bytes.length then .wait s
      else if s.w.sixteen then .wait s
      else
        let s1 := s.setG { s.g with spad := Memory.writeBytes s.g.spad off bytes }
        s1.pushResult l
          { Pending.of s.act [] [] with
              scl := [(s.regAt ops .a, BitVec.ofNat 64 r.1.length), (s.regAt ops .a + 1, BitVec.ofNat 64 (r.2.getD 0))],
              pred := some (BitVec.ofNat 3 (ctl.toNat / 2 ^ 32 % 8), if r.2.isSome then BitVec.allOnes 32 else 0) })

end Sys2Proof.Machine
end

