-- ==== Sys2Proof/Machine/System.lean ====
section
/-! DEFINITION. EXIT (R135, R197, R275, R308), traps and handler mode, TIME and PREOK: major 0x78 (R307, R308, R312,
R317), and the special registers: majors 0x79 and 0x7A (R39, R40, R309, R310, R318). -/
namespace Sys2Proof.Machine

/-! ### EXIT -/

/-- EXIT (R135): in handler mode an uncontained error (R308); in the depth phase of a recursion object it ends the
routine's work on the frame (R275). -/
def execExit (s : State) :=
  s.issue acceptG [] false (fun s =>
    if s.w.handler && decide (s.act ≠ 0) then .moved s.uncontained
    else match (if (Lanes.list s.act).any (fun L => (s.w.frameAt L).depth) then s.exitWalk else s.endLanes s.act) with
      | .moved s1 => .moved (s1.warpEnded s.cur)
      | e => e)

/-! ### Major 0x78 (R317) -/

/-- TRAP (R317). -/
def execTrap (c : BitVec 7) (s : State) := s.issue acceptNone [] false (fun _ => .trap .trap c.toNat)

/-- The accesses that units asked for which a return to a region has dropped, or begun again, go unused (R217). -/
def State.dropRegion (s : State) (before : Table IUnit) (unit : Nat) : State :=
  (before.filter (fun x => decide (x.1 = unit) || (Table.find s.w.units x.1).isNone)).foldl (fun s x => s.dropAsked (.unit s.cur x.1)) s

/-- TRET (R312, R317). Mode 0 discards every result of the warp, the handler's own included (R38). In modes 1 and 2 the results
that the handler itself issued and that are still open commit at once (DESIGN CHOICE: R35 does not list TRET, and R312 speaks of
the frame's results only). -/
def execTret (c : BitVec 7) (s : State) :=
  s.issue acceptNone [] (!s.w.handler || decide (2 < c.toNat) || decide (8 ≤ s.unit) || decide (s.u.lanes ≠ s.w.live)) (fun s =>
    match s.w.tframe with
    | none => .trap .illegalOp s.ir.toNat
    | some f =>
      if decide (c = 0) && f.region.isNone then .moved s.uncontained
      else
        let s1 := if c = 0 then s else s.closeWindows
        let s2 := { s1.setW (s1.w.resume f c.toNat) with unit := f.unit }
        .moved (match f.region with
          | some r => if c = 0 then s2.dropRegion f.units r.unit else s2
          | none => s2))

/-- Warp W ends as though every lane had executed EXIT, with its trap frame discarded (R317). -/
def State.haltWarp (s : State) : State := ((s.setW s.w.removed).settleBarrier s.w.wg).warpEnded s.cur

/-- HALT (R317). -/
def execHalt (c : BitVec 7) (s : State) :=
  s.issue acceptNone [] (!s.w.handler || decide (1 < c.toNat)) (fun s => .moved (if c = 0 then s.haltWarp else s.uncontained))

/-- TIME (R317). -/
def execTime (c a : BitVec 7) (s : State) :=
  let ops := [sd .a a]
  s.issue acceptNone ops (decide (1 < c.toNat)) (fun s =>
    .done (s.setSreg (s.regAt ops .a) (BitVec.ofNat 64 (if c = 0 then s.tick else s.hbeat))))

/-- PREOK (R317). -/
def execPreok (p : BitVec 3) (s : State) :=
  s.issue acceptNone [] false (fun s =>
    .done (s.setW (s.w.setPred s.act p.toNat (if s.g.preempt then BitVec.allOnes 32 else 0))))

/-! ### Special registers (R39, R309) -/

/-- %gang (R130): a gang's slice mask, or the bit of a split's own slice. -/
def State.gangReg (s : State) : BitVec 8 := if s.unit < 8 then sliceMask s.u.lanes else 1#8 <<< lowestSlice s.u.lanes

/-- A register that may be read at any time, by number. -/
def State.plainCsr (s : State) (n : Nat) : Option W64 :=
  match n with
  | 0x000 => some (s.w.wb.setWidth 64)
  | 0x001 => some (s.w.part.setWidth 64)
  | 0x002 => some (s.gangReg.setWidth 64)
  | 0x003 => some (s.w.cshape.setWidth 64)
  | 0x005 => some (s.core.fflags.setWidth 64)
  | 0x008 => some ((s.w.xreg 0).setWidth 64)
  | 0x009 => some ((s.w.xreg 1).setWidth 64)
  | 0x00A => some ((s.w.xreg 2).setWidth 64)
  | 0x00B => some ((s.w.xreg 3).setWidth 64)
  | 0x00C => some ((Table.get 0#32 s.w.lcs 0).setWidth 64)
  | 0x00D => some ((Table.get 0#32 s.w.lcs 1).setWidth 64)
  | 0x00E => some ((Table.get 0#32 s.w.lcs 2).setWidth 64)
  | 0x010 => some s.w.rgent
  | 0x011 => some (s.w.rgcnt.setWidth 64)
  | 0x100 => some 2
  | 0x101 => some (BitVec.ofNat 64 (s.g.core % 48))
  | 0x102 => some (BitVec.ofNat 64 (dieOf s.g.core))
  | 0x103 => some (BitVec.ofNat 64 s.g.slot)
  | 0x104 => some (BitVec.ofNat 64 s.w.slot)
  | 0x105 => some (BitVec.ofNat 64 s.g.asid)
  | 0x106 => some (BitVec.ofNat 64 s.allot)
  | 0x107 => some (BitVec.ofNat 64 s.hbeat)
  | _ => none

/-- A handler register (R309), by number. -/
def Warp.handlerCsr (w : Warp) (n : Nat) : Option W64 :=
  match n with
  | 0x800 => some (w.tcause.setWidth 64)
  | 0x801 => some w.tpc
  | 0x802 => some w.tnext
  | 0x803 => some w.trgent
  | 0x804 => some (w.trgcnt.setWidth 64)
  | 0x805 => some (w.tmask.setWidth 64)
  | 0x806 => some (w.tunit.setWidth 64)
  | 0x807 => some w.tinfo
  | 0x808 => some (if w.tregion then 1 else 0)
  | 0x810 => some (w.splext.setWidth 64)
  | _ => none

/-- The value a CSRR of a scalar register reads, unless it is illegal (R40, R309). -/
def State.readCsr (s : State) (n : Nat) : Option W64 :=
  if n < 0x800 then s.plainCsr n else if s.w.handler then s.w.handlerCsr n else none

/-- %cflags, the one register of the vector class (R318). -/
def csrCflags : Nat := 4

/-- CSRR (R318). -/
def execCsrr (c a : BitVec 7) (s : State) :=
  let n := (s.imm32 c).toNat
  if n = csrCflags then
    let ops := [vd .a a 1]
    s.issue acceptI ops false (fun s =>
      .done (s.setW (s.w.setVreg s.act (s.regAt ops .a) (fun L => (Table.get 0#8 s.w.cflags L).setWidth 32))))
  else
    let ops := [sd .a a]
    s.issue acceptI ops (s.readCsr n).isNone (fun s =>
      .done (s.setSreg (s.regAt ops .a) ((s.readCsr n).getD 0)))

/-! ### Writes with a behaviour of their own -/

/-- A write to a special register: the state after it, or the trap it raises. -/
abbrev Written := Except Trap State

/-- WB_WRITE (R40). -/
def State.writeWb (s : State) (v : W64) : Written :=
  if v.toNat % 16 ≠ 0 ∨ 1008 < v.toNat then .error .illegalOp else .ok (s.setW { s.w with wb := v.setWidth 16 })

/-- CSHAPE_WRITE (R106). -/
def State.writeCshape (s : State) (v : W64) : Written :=
  if v = 0 ∨ (v.toNat < 2 ^ 16 ∧ (gridOf (v.setWidth 16)).isSome = true) then .ok (s.setW { s.w with cshape := v.setWidth 16 })
  else .error .illegalOp

/-- FFLAGS_WRITE (R59): all five bits. -/
def State.writeFflags (s : State) (v : W64) : Written := .ok (s.setCore { s.core with fflags := v.setWidth 5 })

/-- LOOP_COUNTER_WRITE (R137): the next back-edge finds the value. -/
def State.writeLoopCounter (s : State) (n : Nat) (v : W64) : Written :=
  if 2 < n then .error .illegalOp else .ok (s.setW { s.w with lcs := Table.put 0#32 s.w.lcs n (v.setWidth 32) })

/-- The warp's split entries in use, those its trap frame holds included. -/
def Warp.entriesUsed (w : Warp) : List Nat :=
  let all := w.units ++ (match w.tframe with
    | some f => f.units
    | none => [])
  (all.filter (fun x => 8 ≤ x.1)).map (fun x => x.1 - 8)

/-- SPLEXT_WRITE (R310). -/
def State.writeSplext (s : State) (v : W64) : Written :=
  if !s.w.handler || decide (48 < v.toNat) || s.w.entriesUsed.any (fun e => decide (16 + v.toNat ≤ e)) then .error .illegalOp
  else .ok (s.setW { s.w with splext := v.setWidth 8 })

/-- TPC_WRITE (R309, R318). -/
def State.writeTpc (s : State) (v : W64) : Written :=
  if !s.w.handler then .error .illegalOp
  else if v.toNat % 4 ≠ 0 then .error .misalign
  else .ok (s.setW { s.w with tpc := v })

/-- %part (R39, R141). -/
def State.writePart (s : State) (v : W64) : Written :=
  if isPartition v.toNat then .ok (s.setW { s.w with part := v.setWidth 8 }) else .error .illegalOp

/-- x0 to x3, as XSET does. -/
def State.writeX (s : State) (n : Nat) (v : W64) : Written := .ok (s.setW { s.w with xregs := Table.put 0#16 s.w.xregs n (v.setWidth 16) })

/-- A write to the scalar register of a number (R40, R309, R318). -/
def State.writeCsr (s : State) (n : Nat) (v : W64) : Written :=
  match n with
  | 0x000 => s.writeWb v
  | 0x001 => s.writePart v
  | 0x003 => s.writeCshape v
  | 0x005 => s.writeFflags v
  | 0x008 => s.writeX 0 v
  | 0x009 => s.writeX 1 v
  | 0x00A => s.writeX 2 v
  | 0x00B => s.writeX 3 v
  | 0x00C => s.writeLoopCounter 0 v
  | 0x00D => s.writeLoopCounter 1 v
  | 0x00E => s.writeLoopCounter 2 v
  | 0x801 => s.writeTpc v
  | 0x810 => s.writeSplext v
  | _ => .error .illegalOp

/-- What a trap of a write reports. -/
def State.csrInfo (s : State) : Trap → Nat
  | .misalign => Lanes.lowest s.act
  | _ => s.ir.toNat

/-- Write the low bytes of a register in lanes. -/
def writeFlags (t : Table Byte) (f : Nat → Byte) : List Nat → Table Byte
  | [] => t
  | L :: Ls => writeFlags (Table.put 0#8 t L (f L)) f Ls

/-- CSRW (R318). -/
def execCsrw (c b : BitVec 7) (s : State) :=
  let n := (s.imm32 c).toNat
  if n = csrCflags then
    let ops := [vblock .b b 1 1]
    s.issue acceptI ops false (fun s =>
      .done (s.setW { s.w with cflags := writeFlags s.w.cflags (fun L => (s.valueAt intConsts ops .b L).setWidth 8) (Lanes.list s.act) }))
  else
    let ops := [ss .b b]
    s.issue acceptI ops false (fun s =>
      match s.writeCsr n (s.valueAt intConsts ops .b 0) with
      | .ok s1 => .done s1
      | .error t => .trap t (s.csrInfo t))

/-- A write of the current warp as a step of its own: its effect, or its trap. -/
def State.csrStep (s : State) (r : Written) : Host.Outcome State Fault Refusal :=
  if s.w.live = 0 then .next s
  else match r with
    | .ok s1 => .next s1
    | .error t => .next (s.takeTrap t (s.csrInfo t))

def execWbWrite (v : W64) (s : State) : Host.Outcome State Fault Refusal := s.csrStep (s.writeWb v)
def execCshapeWrite (v : W64) (s : State) : Host.Outcome State Fault Refusal := s.csrStep (s.writeCshape v)
def execFflagsWrite (v : W64) (s : State) : Host.Outcome State Fault Refusal := s.csrStep (s.writeFflags v)
def execLoopCounterWrite (n : BitVec 2) (v : W64) (s : State) : Host.Outcome State Fault Refusal := s.csrStep (s.writeLoopCounter n.toNat v)
def execSplextWrite (v : W64) (s : State) : Host.Outcome State Fault Refusal := s.csrStep (s.writeSplext v)
def execTpcWrite (v : W64) (s : State) : Host.Outcome State Fault Refusal := s.csrStep (s.writeTpc v)

end Sys2Proof.Machine
end

