-- ==== Sys2Proof/Machine/VInt.lean ====
section
/-! DEFINITION. Vector integer, logic, address, predicate, move and conversion instructions: majors 0x10 to 0x27
(05_values.md). -/
namespace Sys2Proof.Machine

/-! ### Shapes of the family -/

/-- Two sources and a destination of width w, the destination's old value as the first argument (R70, R75). -/
def State.vbin (s : State) (w : BitVec 1) (c b a : BitVec 7) (uns : Bool)
    (f : (n : Nat) → BitVec n → BitVec n → BitVec n → BitVec n) : Host.Outcome State Fault Refusal :=
  s.vmap acceptAll [vd .a a (regsW w), vs .b b (regsW w), vs .c c (regsW w)] false (unsConsts uns) (regsW w) none
    (lift3 (bitsW w) (f (bitsW w)))

/-- The same with flags. -/
def State.vbinF (s : State) (w : BitVec 1) (c b a : BitVec 7) (uns : Bool)
    (f : (n : Nat) → BitVec n → BitVec n → BitVec n × BitVec 5) : Host.Outcome State Fault Refusal :=
  s.vmap acceptAll [vd .a a (regsW w), vs .b b (regsW w), vs .c c (regsW w)] false (unsConsts uns) (regsW w) none
    (liftF (bitsW w) (f (bitsW w)))

/-- A unary instruction: c is unused (R22). -/
def State.vun (s : State) (w : BitVec 1) (b a : BitVec 7) (f : (n : Nat) → BitVec n → BitVec n) :
    Host.Outcome State Fault Refusal :=
  s.vmap acceptGX [vd .a a (regsW w), vs .b b (regsW w)] false intConsts (regsW w) none (lift1 (bitsW w) (f (bitsW w)))

/-- A shift, rotate or bit-field extraction: c is one 32-bit register at both widths (R70). -/
def State.vshift (s : State) (w : BitVec 1) (c b a : BitVec 7) (f : (n : Nat) → BitVec n → Nat → BitVec n) :
    Host.Outcome State Fault Refusal :=
  s.vmap acceptAll [vd .a a (regsW w), vs .b b (regsW w), vs .c c 1] false intConsts (regsW w) none
    (fun _ _ _ b c => ((f (bitsW w) (b.setWidth (bitsW w)) (c.toNat % 2 ^ 32)).setWidth 64, 0))

/-- BFI: c is an even pair of insert value and control (R79). -/
def State.vbfi (s : State) (w : BitVec 1) (c b a : BitVec 7) : Host.Outcome State Fault Refusal :=
  s.vmap acceptGX [vd .a a (regsW w), vs .b b (regsW w), vblock .c c 2 2] false intConsts (regsW w) none
    (fun _ _ _ b c =>
      ((bfiOf (bitsW w) (b.setWidth (bitsW w)) ((c.setWidth 32).setWidth (bitsW w)) ((c >>> 32).toNat)).setWidth 64, 0))

/-- ADDC and SUBB: the carry is p7 of each lane (R75). -/
def State.vcarry (s : State) (w : BitVec 1) (c b a : BitVec 7)
    (f : (n : Nat) → BitVec n → BitVec n → Bool → BitVec n × Bool) : Host.Outcome State Fault Refusal :=
  let ops := [vd .a a (regsW w), vs .b b (regsW w), vs .c c (regsW w)]
  let n := bitsW w
  s.issue acceptAll ops false (fun s =>
    let r := fun L => f n ((s.valueAt intConsts ops .b L).setWidth n) ((s.valueAt intConsts ops .c L).setWidth n)
      (Lanes.has (s.w.pred 7) L)
    let s1 := s.writeA ops (regsW w) (fun L => ((r L).1).setWidth 64)
    .done (s1.setW (s1.w.setPred s.act 7 (Lanes.of (fun L => (r L).2)))))

/-- An immediate form (R80). -/
def State.vimm (s : State) (w : BitVec 1) (b a : BitVec 7) (illegal : Bool)
    (f : (n : Nat) → BitVec n → BitVec n) : Host.Outcome State Fault Refusal :=
  s.vmap acceptGX [vd .a a (regsW w), vs .b b (regsW w)] illegal intConsts (regsW w) none
    (lift1 (bitsW w) (f (bitsW w)))

/-! ### Arithmetic: majors 0x10 and 0x11 (R75) -/

def execAdd (c b a : BitVec 7) (w : BitVec 1) (s : State) := s.vbin w c b a false (fun _ _ b c => b + c)
def execSub (c b a : BitVec 7) (w : BitVec 1) (s : State) := s.vbin w c b a false (fun _ _ b c => b - c)
def execAddc (c b a : BitVec 7) (w : BitVec 1) (s : State) := s.vcarry w c b a addCarry
def execSubb (c b a : BitVec 7) (w : BitVec 1) (s : State) := s.vcarry w c b a subBorrow
def execSadd (z : BitVec 1) (c b a : BitVec 7) (w : BitVec 1) (s : State) :=
  s.vbinF w c b a (decide (z = 1)) (if z = 1 then saddZ else saddS)
def execSsub (z : BitVec 1) (c b a : BitVec 7) (w : BitVec 1) (s : State) :=
  s.vbinF w c b a (decide (z = 1)) (if z = 1 then ssubZ else ssubS)
def execMul (c b a : BitVec 7) (w : BitVec 1) (s : State) := s.vbin w c b a false (fun _ _ b c => b * c)
def execMulhS (c b a : BitVec 7) (w : BitVec 1) (s : State) := s.vbin w c b a false (fun n _ b c => mulHighS n b c)
def execMulhZ (c b a : BitVec 7) (w : BitVec 1) (s : State) := s.vbin w c b a true (fun n _ b c => mulHighZ n b c)
def execMad (c b a : BitVec 7) (w : BitVec 1) (s : State) := s.vbin w c b a false (fun _ a b c => a + b * c)
def execMadh (z : BitVec 1) (c b a : BitVec 7) (w : BitVec 1) (s : State) :=
  s.vbin w c b a (decide (z = 1)) (if z = 1 then madHighZ else madHighS)
def execNeg (b a : BitVec 7) (w : BitVec 1) (s : State) := s.vun w b a (fun _ b => -b)
def execAbs (b a : BitVec 7) (w : BitVec 1) (s : State) := s.vun w b a absInt

/-! ### Division, minimum, maximum: major 0x12 (R77) -/

def execDiv (w z : BitVec 1) (c b a : BitVec 7) (s : State) :=
  s.vbin w c b a (decide (z = 1)) (fun n _ b c => if z = 1 then (divZ n b c).1 else (divS n b c).1)
def execRem (w z : BitVec 1) (c b a : BitVec 7) (s : State) :=
  s.vbin w c b a (decide (z = 1)) (fun n _ b c => if z = 1 then (divZ n b c).2 else (divS n b c).2)
def execMin (w z : BitVec 1) (c b a : BitVec 7) (s : State) :=
  s.vbin w c b a (decide (z = 1)) (fun n _ b c => minOf n (decide (z = 0)) b c)
def execMax (w z : BitVec 1) (c b a : BitVec 7) (s : State) :=
  s.vbin w c b a (decide (z = 1)) (fun n _ b c => maxOf n (decide (z = 0)) b c)

/-! ### Logic, shifts, counts, bit fields: majors 0x13 and 0x14 (R78, R79) -/

def execAnd (c b a : BitVec 7) (s : State) := s.vbin 0 c b a false (fun _ _ b c => b &&& c)
def execOr (c b a : BitVec 7) (s : State) := s.vbin 0 c b a false (fun _ _ b c => b ||| c)
def execXor (c b a : BitVec 7) (s : State) := s.vbin 0 c b a false (fun _ _ b c => b ^^^ c)
def execAndn (c b a : BitVec 7) (s : State) := s.vbin 0 c b a false (fun _ _ b c => b &&& ~~~ c)
def execNot (b a : BitVec 7) (s : State) := s.vun 0 b a (fun _ b => ~~~ b)
def execShl (c b a : BitVec 7) (s : State) := s.vshift 0 c b a shlBy
def execShr (c b a : BitVec 7) (s : State) := s.vshift 0 c b a shrBy
def execSar (c b a : BitVec 7) (s : State) := s.vshift 0 c b a sarBy
def execRol (c b a : BitVec 7) (s : State) := s.vshift 0 c b a rolBy
def execClz (b a : BitVec 7) (s : State) := s.vun 0 b a clzOf
def execCtz (b a : BitVec 7) (s : State) := s.vun 0 b a ctzOf
def execPopc (b a : BitVec 7) (s : State) := s.vun 0 b a popOf
def execBrev (b a : BitVec 7) (s : State) := s.vun 0 b a revOf
def execBfxS (c b a : BitVec 7) (s : State) := s.vshift 0 c b a bfxSOf
def execBfxZ (c b a : BitVec 7) (s : State) := s.vshift 0 c b a bfxZOf
def execBfi (c b a : BitVec 7) (s : State) := s.vbfi 0 c b a
def execAnd64 (c b a : BitVec 7) (s : State) := s.vbin 1 c b a false (fun _ _ b c => b &&& c)
def execOr64 (c b a : BitVec 7) (s : State) := s.vbin 1 c b a false (fun _ _ b c => b ||| c)
def execXor64 (c b a : BitVec 7) (s : State) := s.vbin 1 c b a false (fun _ _ b c => b ^^^ c)
def execAndn64 (c b a : BitVec 7) (s : State) := s.vbin 1 c b a false (fun _ _ b c => b &&& ~~~ c)
def execNot64 (b a : BitVec 7) (s : State) := s.vun 1 b a (fun _ b => ~~~ b)
def execShl64 (c b a : BitVec 7) (s : State) := s.vshift 1 c b a shlBy
def execShr64 (c b a : BitVec 7) (s : State) := s.vshift 1 c b a shrBy
def execSar64 (c b a : BitVec 7) (s : State) := s.vshift 1 c b a sarBy
def execRol64 (c b a : BitVec 7) (s : State) := s.vshift 1 c b a rolBy
def execClz64 (b a : BitVec 7) (s : State) := s.vun 1 b a clzOf
def execCtz64 (b a : BitVec 7) (s : State) := s.vun 1 b a ctzOf
def execPopc64 (b a : BitVec 7) (s : State) := s.vun 1 b a popOf
def execBrev64 (b a : BitVec 7) (s : State) := s.vun 1 b a revOf
def execBfxS64 (c b a : BitVec 7) (s : State) := s.vshift 1 c b a bfxSOf
def execBfxZ64 (c b a : BitVec 7) (s : State) := s.vshift 1 c b a bfxZOf
def execBfi64 (c b a : BitVec 7) (s : State) := s.vbfi 1 c b a

/-! ### Immediate forms: majors 0x21 to 0x27 (R80) -/

def execAddImm32 (i : BitVec 11) (b a : BitVec 7) (s : State) :=
  s.vimm 0 b a false (fun n b => b + i.signExtend n)
def execAddImm64 (i : BitVec 11) (b a : BitVec 7) (s : State) :=
  s.vimm 1 b a false (fun n b => b + i.signExtend n)
def execAndImm (i : BitVec 11) (b a : BitVec 7) (s : State) :=
  s.vimm 0 b a false (fun n b => b &&& i.signExtend n)
def execOrImm (i : BitVec 11) (b a : BitVec 7) (s : State) :=
  s.vimm 0 b a false (fun n b => b ||| i.signExtend n)
def execXorImm (i : BitVec 11) (b a : BitVec 7) (s : State) :=
  s.vimm 0 b a false (fun n b => b ^^^ i.signExtend n)
def execShlImm (w : BitVec 1) (c : BitVec 6) (b a : BitVec 7) (s : State) :=
  s.vimm w b a (!(Instr.shlImm w c b a).wf) (fun n b => shlBy n b c.toNat)
def execShrImm (w : BitVec 1) (c : BitVec 6) (b a : BitVec 7) (s : State) :=
  s.vimm w b a (!(Instr.shrImm w c b a).wf) (fun n b => shrBy n b c.toNat)
def execSarImm (w : BitVec 1) (c : BitVec 6) (b a : BitVec 7) (s : State) :=
  s.vimm w b a (!(Instr.sarImm w c b a).wf) (fun n b => sarBy n b c.toNat)

/-! ### Addresses, selection, predicates: majors 0x15 to 0x1B (R81 to R84) -/

/-- LEA (R81): the base is a pair or a scalar, the index one 32-bit register extended as `ext` says. -/
def State.lea (s : State) (x : BitVec 1) (h : BitVec 3) (c b a : BitVec 7) (ext : W32 → W64) :
    Host.Outcome State Fault Refusal :=
  s.vmap acceptAll [vd .a a 2, if x = 1 then ss .b b else vs .b b 2, vs .c c 1] false intConsts 2 none
    (fun _ _ _ b c => (b + (ext (c.setWidth 32)) <<< h.toNat, 0))

def execLeaZ64 (x : BitVec 1) (h : BitVec 3) (c b a : BitVec 7) (s : State) := s.lea x h c b a (·.setWidth 64)
def execLeaS64 (x : BitVec 1) (h : BitVec 3) (c b a : BitVec 7) (s : State) := s.lea x h c b a (·.signExtend 64)

/-- SEL (R82). -/
def State.sel (s : State) (n : Nat) (inv : BitVec 1) (p : BitVec 3) (c b a : BitVec 7) :
    Host.Outcome State Fault Refusal :=
  s.vmap acceptAll [vd .a a n, vs .b b n, vs .c c n] false intConsts n none
    (fun s L _ b c => (if Lanes.has (s.w.pred p.toNat) L != decide (inv = 1) then b else c, 0))

def execSelB32 (n : BitVec 1) (p : BitVec 3) (c b a : BitVec 7) (s : State) := s.sel 1 n p c b a
def execSelB64 (n : BitVec 1) (p : BitVec 3) (c b a : BitVec 7) (s : State) := s.sel 2 n p c b a

def execSetp (k : BitVec 4) (c b : BitVec 7) (w : BitVec 1) (p : BitVec 3) (s : State) :=
  s.vpred acceptAll [vs .b b (regsW w), vs .c c (regsW w)] (!(Instr.setp k c b w p).wf)
    (unsConsts (decide (6 ≤ k.toNat))) p
    (fun _ _ b c => (cmpInt (bitsW w) k.toNat (b.setWidth _) (c.setWidth _), 0))

/-- PLOP (R84). An IMM word before it is an error of framing (DEDUCED: its c names a predicate, which is no operand that a
constant replaces, R31 and R33). -/
def execPlop (t : BitVec 4) (c b a : BitVec 3) (s : State) :=
  s.vpred acceptGX [] false intConsts a
    (fun s L _ _ =>
      (t.getLsbD (2 * (Lanes.has (s.w.pred b.toNat) L).toNat + (Lanes.has (s.w.pred c.toNat) L).toNat), 0))

/-! ### Moves: major 0x1C (R85, R86) -/

def execMovB32 (b a : BitVec 7) (s : State) :=
  s.vmap acceptGX [vd .a a 1, vs .b b 1] false intConsts 1 none (lift1 32 (fun b => b))
def execMovB64 (b a : BitVec 7) (s : State) :=
  s.vmap acceptGX [vd .a a 2, vs .b b 2] false intConsts 2 none (lift1 64 (fun b => b))
def execMoviB32 (c a : BitVec 7) (s : State) :=
  s.vmap acceptAll [vd .a a 1] false intConsts 1 none (fun s _ _ _ _ => ((s.simm32 c).setWidth 64, 0))
def execMoviS64 (c a : BitVec 7) (s : State) :=
  s.vmap acceptAll [vd .a a 2] false intConsts 2 none (fun s _ _ _ _ => ((s.simm32 c).signExtend 64, 0))
def execMoviZ64 (c a : BitVec 7) (s : State) :=
  s.vmap acceptAll [vd .a a 2] false intConsts 2 none (fun s _ _ _ _ => ((s.simm32 c).setWidth 64, 0))
def execMoviHi (c a : BitVec 7) (s : State) :=
  s.vmap acceptAll [vd .a a 2] false intConsts 2 none (fun s _ a _ _ => (s.simm32 c ++ a.setWidth 32, 0))
def execPrmb (c b a : BitVec 7) (s : State) :=
  s.vmap acceptAll [vd .a a 1, vs .b b 1, vs .c c 1] false intConsts 1 none (lift2 32 prmbOf)

/-! ### Conversion: majors 0x1D to 0x20 (R87 to R89) -/

/-- `one` and `mone` of a type code (R26). A CVT reads them in its source type, and an e4m3 or e5m2 source reads the integers 1 and
-1 (DESIGN CHOICE: R26 gives FP8 values for DOT4 only). -/
def constsOf (t : Nat) : Consts :=
  if t = 8 then ⟨0x3F800000, 0xBF800000, false⟩
  else if t = 9 then ⟨0x3C00, 0xBC00, false⟩
  else if t = 10 then ⟨0x3F80, 0xBF80, false⟩
  else intConsts

/-- Registers a value of a type code takes. -/
def regsOfType (t : Nat) : Nat := if t = 6 || t = 7 then 2 else 1

def execCvt (d : BitVec 4) (x : BitVec 1) (r : BitVec 2) (y : BitVec 4) (b a : BitVec 7) (s : State) :=
  s.vmap acceptGX [vd .a a (regsOfType d.toNat), vs .b b (regsOfType y.toNat)] (!(Instr.cvt d x r y b a).wf)
    (constsOf y.toNat) (regsOfType d.toNat) none
    (fun _ _ _ b _ =>
      let r := cvtBits y.toNat d.toNat r.toNat (decide (x = 1)) (b.toNat % 2 ^ typeBits y.toNat)
      (fillReg d.toNat r.1, r.2))

/-- The type an element of an integer type converts from or to (R88). -/
def wideType (t : Nat) : Nat := if 8 ≤ t then 8 else if t % 2 = 0 then 4 else 5

/-- PACK (R88): a float PACK reads `one` and `mone` as FP32 values (DESIGN CHOICE: R26 names no packed element). -/
def execPack (t : BitVec 4) (c b a : BitVec 7) (s : State) :=
  s.vmap acceptGX [vd .a a 1, vs .b b 1] (!(Instr.pack t c b a).wf) (constsOf (wideType t.toNat)) 1 none
    (fun _ _ old b _ =>
      let n := typeBits t.toNat
      let r := cvtBits (wideType t.toNat) t.toNat 0 (decide (t ≠ 9 ∧ t ≠ 10)) b.toNat
      let m : W64 := BitVec.ofNat 64 (2 ^ n - 1) <<< (n * c.toNat)
      ((old &&& ~~~ m) ||| (BitVec.ofNat 64 r.1 <<< (n * c.toNat) &&& m), r.2))

/-- UNPK (R88): `one` and `mone` read as the element's value in the low half for f16 and bf16, and as the integers 1 and -1 for
the FP8 types (DESIGN CHOICE: R26 names no packed element). -/
def execUnpk (t : BitVec 4) (c b a : BitVec 7) (s : State) :=
  s.vmap acceptGX [vd .a a 1, vs .b b 1] (!(Instr.unpk t c b a).wf) (constsOf t.toNat) 1 none
    (fun _ _ _ b _ =>
      let n := typeBits t.toNat
      let r := cvtBits t.toNat (wideType t.toNat) 0 false ((b >>> (n * c.toNat)).toNat % 2 ^ n)
      (fillReg (wideType t.toNat) r.1, r.2))

/-- The source format of QBX (R89). -/
def qbxType (f : BitVec 4) : Nat := if f = 0 then 8 else if f = 1 then 10 else 9

def execQbx (f : BitVec 4) (b a : BitVec 7) (s : State) :=
  let ops := [vd .a a 2, vs .b b 1]
  s.issue acceptGX ops (!(Instr.qbx f b a).wf) (fun s =>
    if s.act = 0 then .done s
    else
      let q := quantize (lanes32.map (fun L =>
        if Lanes.has s.act L then
          decodeF (typeFmt (qbxType f)) ((s.valueAt (constsOf (qbxType f)) ops .b L).toNat % 2 ^ typeBits (qbxType f))
        else .num false 0 0))
      let head : W32 := BitVec.ofNat 32 (256 * q.sats) ||| q.code.setWidth 32
      let fl := if q.bad then NV else flagIf (!q.exact) NX ||| flagIf (decide (0 < q.sats)) OF
      .done ((s.writeA ops 2 (fun L => head ++ BitVec.ofInt 32 (q.mants.getD L 0))).raise fl))

end Sys2Proof.Machine
end

