-- ==== Sys2Proof/Machine/Dispatch.lean ====
section
/-! DEFINITION. One arm per constructor of Instr. -/
namespace Sys2Proof.Machine

def exec (i : Instr) (s : State) : Host.Outcome State Fault Refusal :=
  match i with
  | .guard n z p => Sys2Proof.Machine.execGuard n z p s
  | .imm p => Sys2Proof.Machine.execImm p s
  | .xidx x y u v q w => Sys2Proof.Machine.execXidx x y u v q w s
  | .bra o => Sys2Proof.Machine.execBra o s
  | .call o k => Sys2Proof.Machine.execCall o k s
  | .loop c b n => Sys2Proof.Machine.execLoop c b n s
  | .br b => Sys2Proof.Machine.execBr b s
  | .calli b a => Sys2Proof.Machine.execCalli b a s
  | .ret b => Sys2Proof.Machine.execRet b s
  | .exit => Sys2Proof.Machine.execExit s
  | .join => Sys2Proof.Machine.execJoin s
  | .lbrk => Sys2Proof.Machine.execLbrk s
  | .nop => Sys2Proof.Machine.execNop s
  | .region => Sys2Proof.Machine.execRegion s
  | .wbase c => Sys2Proof.Machine.execWbase c s
  | .xset c b x => Sys2Proof.Machine.execXset c b x s
  | .setpart c => Sys2Proof.Machine.execSetpart c s
  | .getmask c a => Sys2Proof.Machine.execGetmask c a s
  | .regang k => Sys2Proof.Machine.execRegang k s
  | .pollAnd b a => Sys2Proof.Machine.execPollAnd b a s
  | .pollOr b a => Sys2Proof.Machine.execPollOr b a s
  | .pollSame b a => Sys2Proof.Machine.execPollSame b a s
  | .pollMask b a => Sys2Proof.Machine.execPollMask b a s
  | .shflIdx w c b a => Sys2Proof.Machine.execShflIdx w c b a s
  | .shflUp w c b a => Sys2Proof.Machine.execShflUp w c b a s
  | .shflDown w c b a => Sys2Proof.Machine.execShflDown w c b a s
  | .shflXor w c b a => Sys2Proof.Machine.execShflXor w c b a s
  | .redux k b a => Sys2Proof.Machine.execRedux k b a s
  | .scanIncl k b a => Sys2Proof.Machine.execScanIncl k b a s
  | .scanExcl k b a => Sys2Proof.Machine.execScanExcl k b a s
  | .lreord k c b a => Sys2Proof.Machine.execLreord k c b a s
  | .add c b a w => Sys2Proof.Machine.execAdd c b a w s
  | .sub c b a w => Sys2Proof.Machine.execSub c b a w s
  | .addc c b a w => Sys2Proof.Machine.execAddc c b a w s
  | .subb c b a w => Sys2Proof.Machine.execSubb c b a w s
  | .sadd z c b a w => Sys2Proof.Machine.execSadd z c b a w s
  | .ssub z c b a w => Sys2Proof.Machine.execSsub z c b a w s
  | .mul c b a w => Sys2Proof.Machine.execMul c b a w s
  | .mulhS c b a w => Sys2Proof.Machine.execMulhS c b a w s
  | .mulhZ c b a w => Sys2Proof.Machine.execMulhZ c b a w s
  | .mad c b a w => Sys2Proof.Machine.execMad c b a w s
  | .madh z c b a w => Sys2Proof.Machine.execMadh z c b a w s
  | .neg b a w => Sys2Proof.Machine.execNeg b a w s
  | .abs b a w => Sys2Proof.Machine.execAbs b a w s
  | .div w z c b a => Sys2Proof.Machine.execDiv w z c b a s
  | .rem w z c b a => Sys2Proof.Machine.execRem w z c b a s
  | .min w z c b a => Sys2Proof.Machine.execMin w z c b a s
  | .max w z c b a => Sys2Proof.Machine.execMax w z c b a s
  | .and c b a => Sys2Proof.Machine.execAnd c b a s
  | .or c b a => Sys2Proof.Machine.execOr c b a s
  | .xor c b a => Sys2Proof.Machine.execXor c b a s
  | .andn c b a => Sys2Proof.Machine.execAndn c b a s
  | .not b a => Sys2Proof.Machine.execNot b a s
  | .shl c b a => Sys2Proof.Machine.execShl c b a s
  | .shr c b a => Sys2Proof.Machine.execShr c b a s
  | .sar c b a => Sys2Proof.Machine.execSar c b a s
  | .rol c b a => Sys2Proof.Machine.execRol c b a s
  | .clz b a => Sys2Proof.Machine.execClz b a s
  | .ctz b a => Sys2Proof.Machine.execCtz b a s
  | .popc b a => Sys2Proof.Machine.execPopc b a s
  | .brev b a => Sys2Proof.Machine.execBrev b a s
  | .bfxS c b a => Sys2Proof.Machine.execBfxS c b a s
  | .bfxZ c b a => Sys2Proof.Machine.execBfxZ c b a s
  | .bfi c b a => Sys2Proof.Machine.execBfi c b a s
  | .and64 c b a => Sys2Proof.Machine.execAnd64 c b a s
  | .or64 c b a => Sys2Proof.Machine.execOr64 c b a s
  | .xor64 c b a => Sys2Proof.Machine.execXor64 c b a s
  | .andn64 c b a => Sys2Proof.Machine.execAndn64 c b a s
  | .not64 b a => Sys2Proof.Machine.execNot64 b a s
  | .shl64 c b a => Sys2Proof.Machine.execShl64 c b a s
  | .shr64 c b a => Sys2Proof.Machine.execShr64 c b a s
  | .sar64 c b a => Sys2Proof.Machine.execSar64 c b a s
  | .rol64 c b a => Sys2Proof.Machine.execRol64 c b a s
  | .clz64 b a => Sys2Proof.Machine.execClz64 b a s
  | .ctz64 b a => Sys2Proof.Machine.execCtz64 b a s
  | .popc64 b a => Sys2Proof.Machine.execPopc64 b a s
  | .brev64 b a => Sys2Proof.Machine.execBrev64 b a s
  | .bfxS64 c b a => Sys2Proof.Machine.execBfxS64 c b a s
  | .bfxZ64 c b a => Sys2Proof.Machine.execBfxZ64 c b a s
  | .bfi64 c b a => Sys2Proof.Machine.execBfi64 c b a s
  | .leaZ64 x h c b a => Sys2Proof.Machine.execLeaZ64 x h c b a s
  | .leaS64 x h c b a => Sys2Proof.Machine.execLeaS64 x h c b a s
  | .selB32 n p c b a => Sys2Proof.Machine.execSelB32 n p c b a s
  | .selB64 n p c b a => Sys2Proof.Machine.execSelB64 n p c b a s
  | .setp k c b w p => Sys2Proof.Machine.execSetp k c b w p s
  | .plop t c b a => Sys2Proof.Machine.execPlop t c b a s
  | .movB32 b a => Sys2Proof.Machine.execMovB32 b a s
  | .movB64 b a => Sys2Proof.Machine.execMovB64 b a s
  | .moviB32 c a => Sys2Proof.Machine.execMoviB32 c a s
  | .moviS64 c a => Sys2Proof.Machine.execMoviS64 c a s
  | .moviZ64 c a => Sys2Proof.Machine.execMoviZ64 c a s
  | .moviHi c a => Sys2Proof.Machine.execMoviHi c a s
  | .prmb c b a => Sys2Proof.Machine.execPrmb c b a s
  | .cvt d x r z b a => Sys2Proof.Machine.execCvt d x r z b a s
  | .pack t c b a => Sys2Proof.Machine.execPack t c b a s
  | .unpk t c b a => Sys2Proof.Machine.execUnpk t c b a s
  | .qbx f b a => Sys2Proof.Machine.execQbx f b a s
  | .addImm32 z b a => Sys2Proof.Machine.execAddImm32 z b a s
  | .addImm64 z b a => Sys2Proof.Machine.execAddImm64 z b a s
  | .andImm z b a => Sys2Proof.Machine.execAndImm z b a s
  | .orImm z b a => Sys2Proof.Machine.execOrImm z b a s
  | .xorImm z b a => Sys2Proof.Machine.execXorImm z b a s
  | .shlImm w c b a => Sys2Proof.Machine.execShlImm w c b a s
  | .shrImm w c b a => Sys2Proof.Machine.execShrImm w c b a s
  | .sarImm w c b a => Sys2Proof.Machine.execSarImm w c b a s
  | .sAdd c b a w => Sys2Proof.Machine.execSAdd c b a w s
  | .sSub c b a w => Sys2Proof.Machine.execSSub c b a w s
  | .sAddc c b a w => Sys2Proof.Machine.execSAddc c b a w s
  | .sSubb c b a w => Sys2Proof.Machine.execSSubb c b a w s
  | .sSadd z c b a w => Sys2Proof.Machine.execSSadd z c b a w s
  | .sSsub z c b a w => Sys2Proof.Machine.execSSsub z c b a w s
  | .sMul c b a w => Sys2Proof.Machine.execSMul c b a w s
  | .sMulhS c b a w => Sys2Proof.Machine.execSMulhS c b a w s
  | .sMulhZ c b a w => Sys2Proof.Machine.execSMulhZ c b a w s
  | .sMad c b a w => Sys2Proof.Machine.execSMad c b a w s
  | .sMadh z c b a w => Sys2Proof.Machine.execSMadh z c b a w s
  | .sNeg b a w => Sys2Proof.Machine.execSNeg b a w s
  | .sAbs b a w => Sys2Proof.Machine.execSAbs b a w s
  | .sAnd c b a w => Sys2Proof.Machine.execSAnd c b a w s
  | .sOr c b a w => Sys2Proof.Machine.execSOr c b a w s
  | .sXor c b a w => Sys2Proof.Machine.execSXor c b a w s
  | .sAndn c b a w => Sys2Proof.Machine.execSAndn c b a w s
  | .sNot b a w => Sys2Proof.Machine.execSNot b a w s
  | .sShl c b a w => Sys2Proof.Machine.execSShl c b a w s
  | .sShr c b a w => Sys2Proof.Machine.execSShr c b a w s
  | .sSar c b a w => Sys2Proof.Machine.execSSar c b a w s
  | .sRol c b a w => Sys2Proof.Machine.execSRol c b a w s
  | .sClz b a w => Sys2Proof.Machine.execSClz b a w s
  | .sCtz b a w => Sys2Proof.Machine.execSCtz b a w s
  | .sPopc b a w => Sys2Proof.Machine.execSPopc b a w s
  | .sBrev b a w => Sys2Proof.Machine.execSBrev b a w s
  | .sBfxS c b a w => Sys2Proof.Machine.execSBfxS c b a w s
  | .sBfxZ c b a w => Sys2Proof.Machine.execSBfxZ c b a w s
  | .sBfi c b a w => Sys2Proof.Machine.execSBfi c b a w s
  | .sDiv w z c b a => Sys2Proof.Machine.execSDiv w z c b a s
  | .sRem w z c b a => Sys2Proof.Machine.execSRem w z c b a s
  | .sMin w z c b a => Sys2Proof.Machine.execSMin w z c b a s
  | .sMax w z c b a => Sys2Proof.Machine.execSMax w z c b a s
  | .sSetp k c b w p => Sys2Proof.Machine.execSSetp k c b w p s
  | .sMov b a => Sys2Proof.Machine.execSMov b a s
  | .sMoviS64 c a => Sys2Proof.Machine.execSMoviS64 c a s
  | .sMoviZ64 c a => Sys2Proof.Machine.execSMoviZ64 c a s
  | .sMoviHi c a => Sys2Proof.Machine.execSMoviHi c a s
  | .sCvtS64S32 b a => Sys2Proof.Machine.execSCvtS64S32 b a s
  | .sCvtZ64Z32 b a => Sys2Proof.Machine.execSCvtZ64Z32 b a s
  | .sAddImm z b a => Sys2Proof.Machine.execSAddImm z b a s
  | .fadd r c b a t => Sys2Proof.Machine.execFadd r c b a t s
  | .fsub r c b a t => Sys2Proof.Machine.execFsub r c b a t s
  | .fmul r c b a t => Sys2Proof.Machine.execFmul r c b a t s
  | .fma r c b a t => Sys2Proof.Machine.execFma r c b a t s
  | .fms r c b a t => Sys2Proof.Machine.execFms r c b a t s
  | .fnma r c b a t => Sys2Proof.Machine.execFnma r c b a t s
  | .fmin c b a t => Sys2Proof.Machine.execFmin c b a t s
  | .fmax c b a t => Sys2Proof.Machine.execFmax c b a t s
  | .fsign c b a t => Sys2Proof.Machine.execFsign c b a t s
  | .fclass b a t => Sys2Proof.Machine.execFclass b a t s
  | .frnd r b a t => Sys2Proof.Machine.execFrnd r b a t s
  | .fsetp k c b t p => Sys2Proof.Machine.execFsetp k c b t p s
  | .pfadd f r c b a => Sys2Proof.Machine.execPfadd f r c b a s
  | .pfmul f r c b a => Sys2Proof.Machine.execPfmul f r c b a s
  | .pfma f r c b a => Sys2Proof.Machine.execPfma f r c b a s
  | .dot4 f c b a => Sys2Proof.Machine.execDot4 f c b a s
  | .fldx t r c b a => Sys2Proof.Machine.execFldx t r c b a s
  | .frcp l t b a => Sys2Proof.Machine.execFrcp l t b a s
  | .frsq l t b a => Sys2Proof.Machine.execFrsq l t b a s
  | .fsqrt l t b a => Sys2Proof.Machine.execFsqrt l t b a s
  | .fexp2 l t b a => Sys2Proof.Machine.execFexp2 l t b a s
  | .flog2 l t b a => Sys2Proof.Machine.execFlog2 l t b a s
  | .fsin l t b a => Sys2Proof.Machine.execFsin l t b a s
  | .fcos l t b a => Sys2Proof.Machine.execFcos l t b a s
  | .fdivF32 l c b a => Sys2Proof.Machine.execFdivF32 l c b a s
  | .fdivF16 l c b a => Sys2Proof.Machine.execFdivF16 l c b a s
  | .fdivBf16 l c b a => Sys2Proof.Machine.execFdivBf16 l c b a s
  | .cshape c b => Sys2Proof.Machine.execCshape c b s
  | .czip k b a => Sys2Proof.Machine.execCzip k b a s
  | .cunz k x b a => Sys2Proof.Machine.execCunz k x b a s
  | .cadd c b a p => Sys2Proof.Machine.execCadd c b a p s
  | .csub c b a p => Sys2Proof.Machine.execCsub c b a p s
  | .ccmp c b t p => Sys2Proof.Machine.execCcmp c b t p s
  | .cinbox c b p => Sys2Proof.Machine.execCinbox c b p s
  | .clcp c b a => Sys2Proof.Machine.execClcp c b a s
  | .ccell c b a => Sys2Proof.Machine.execCcell c b a s
  | .cnext c b a => Sys2Proof.Machine.execCnext c b a s
  | .cprev c b a => Sys2Proof.Machine.execCprev c b a s
  | .csplit l c b a => Sys2Proof.Machine.execCsplit l c b a s
  | .ld l c b a => Sys2Proof.Machine.execLd l c b a s
  | .st c b a => Sys2Proof.Machine.execSt c b a s
  | .lds l c b a => Sys2Proof.Machine.execLds l c b a s
  | .sts c b a => Sys2Proof.Machine.execSts c b a s
  | .ldk l c b a => Sys2Proof.Machine.execLdk l c b a s
  | .sld l c b a => Sys2Proof.Machine.execSld l c b a s
  | .sst c b a => Sys2Proof.Machine.execSst c b a s
  | .atom l c b a => Sys2Proof.Machine.execAtom l c b a s
  | .atoms l c b a => Sys2Proof.Machine.execAtoms l c b a s
  | .red c b a => Sys2Proof.Machine.execRed c b a s
  | .fence c => Sys2Proof.Machine.execFence c s
  | .fenceSc => Sys2Proof.Machine.execFenceSc s
  | .pref c b => Sys2Proof.Machine.execPref c b s
  | .clineClean c b => Sys2Proof.Machine.execClineClean c b s
  | .clineInv c b => Sys2Proof.Machine.execClineInv c b s
  | .clineFlush c b => Sys2Proof.Machine.execClineFlush c b s
  | .binit c b => Sys2Proof.Machine.execBinit c b s
  | .arrive b a => Sys2Proof.Machine.execArrive b a s
  | .arrivex c b a => Sys2Proof.Machine.execArrivex c b a s
  | .bsync => Sys2Proof.Machine.execBsync s
  | .btest c b p => Sys2Proof.Machine.execBtest c b p s
  | .wait c b a => Sys2Proof.Machine.execWait c b a s
  | .mma c b t => Sys2Proof.Machine.execMma c b t s
  | .gangset b => Sys2Proof.Machine.execGangset b s
  | .accz t => Sys2Proof.Machine.execAccz t s
  | .accwr c b t => Sys2Proof.Machine.execAccwr c b t s
  | .accepi b t => Sys2Proof.Machine.execAccepi b t s
  | .accrd l c t a => Sys2Proof.Machine.execAccrd l c t a s
  | .accrdi l c t a => Sys2Proof.Machine.execAccrdi l c t a s
  | .crstart c b a => Sys2Proof.Machine.execCrstart c b a s
  | .crcopy c b a => Sys2Proof.Machine.execCrcopy c b a s
  | .crhalo b => Sys2Proof.Machine.execCrhalo b s
  | .crfeed c b x k p => Sys2Proof.Machine.execCrfeed c b x k p s
  | .crstat b a => Sys2Proof.Machine.execCrstat b a s
  | .qput z b => Sys2Proof.Machine.execQput z b s
  | .qpop w a => Sys2Proof.Machine.execQpop w a s
  | .qcnt a => Sys2Proof.Machine.execQcnt a s
  | .launch b a => Sys2Proof.Machine.execLaunch b a s
  | .launchq b a => Sys2Proof.Machine.execLaunchq b a s
  | .dist b a => Sys2Proof.Machine.execDist b a s
  | .fixup b => Sys2Proof.Machine.execFixup b s
  | .psetp c b => Sys2Proof.Machine.execPsetp c b s
  | .pcancel => Sys2Proof.Machine.execPcancel s
  | .prepeat => Sys2Proof.Machine.execPrepeat s
  | .psend b => Sys2Proof.Machine.execPsend b s
  | .qpush c b a => Sys2Proof.Machine.execQpush c b a s
  | .qtake c b a => Sys2Proof.Machine.execQtake c b a s
  | .lbox c b => Sys2Proof.Machine.execLbox c b s
  | .dline c b => Sys2Proof.Machine.execDline c b s
  | .wlook l p b a => Sys2Proof.Machine.execWlook l p b a s
  | .wopen l c b a => Sys2Proof.Machine.execWopen l c b a s
  | .wnext l b a => Sys2Proof.Machine.execWnext l b a s
  | .wcol l c b a => Sys2Proof.Machine.execWcol l c b a s
  | .wdead l b a => Sys2Proof.Machine.execWdead l b a s
  | .wnew c b => Sys2Proof.Machine.execWnew c b s
  | .wdel b => Sys2Proof.Machine.execWdel b s
  | .wadd c b a => Sys2Proof.Machine.execWadd c b a s
  | .wrem b a => Sys2Proof.Machine.execWrem b a s
  | .wcoll c b a => Sys2Proof.Machine.execWcoll c b a s
  | .wclose b => Sys2Proof.Machine.execWclose b s
  | .rlaunch b a => Sys2Proof.Machine.execRlaunch b a s
  | .rsplit c b a => Sys2Proof.Machine.execRsplit c b a s
  | .rleaf => Sys2Proof.Machine.execRleaf s
  | .rkids p a => Sys2Proof.Machine.execRkids p a s
  | .rput b => Sys2Proof.Machine.execRput b s
  | .rinfo a => Sys2Proof.Machine.execRinfo a s
  | .smarch c b a => Sys2Proof.Machine.execSmarch c b a s
  | .smnext l c b a => Sys2Proof.Machine.execSmnext l c b a s
  | .boxt l c b a => Sys2Proof.Machine.execBoxt l c b a s
  | .trit l c b a => Sys2Proof.Machine.execTrit l c b a s
  | .rcq l z b a => Sys2Proof.Machine.execRcq l z b a s
  | .rcqt l z b a => Sys2Proof.Machine.execRcqt l z b a s
  | .rcver a => Sys2Proof.Machine.execRcver a s
  | .tfilt l c b a => Sys2Proof.Machine.execTfilt l c b a s
  | .trap c => Sys2Proof.Machine.execTrap c s
  | .tret c => Sys2Proof.Machine.execTret c s
  | .halt c => Sys2Proof.Machine.execHalt c s
  | .time c a => Sys2Proof.Machine.execTime c a s
  | .preok p => Sys2Proof.Machine.execPreok p s
  | .csrr c a => Sys2Proof.Machine.execCsrr c a s
  | .csrw c b => Sys2Proof.Machine.execCsrw c b s
  | .wbWrite v => Sys2Proof.Machine.execWbWrite v s
  | .cshapeWrite v => Sys2Proof.Machine.execCshapeWrite v s
  | .fflagsWrite v => Sys2Proof.Machine.execFflagsWrite v s
  | .loopCounterWrite n v => Sys2Proof.Machine.execLoopCounterWrite n v s
  | .splextWrite v => Sys2Proof.Machine.execSplextWrite v s
  | .tpcWrite v => Sys2Proof.Machine.execTpcWrite v s
  | .netbindWrite die slot v => Sys2Proof.Machine.execNetbindWrite die slot v s
  | .devidWrite v => Sys2Proof.Machine.execDevidWrite v s
  | .withheldWrite k v => Sys2Proof.Machine.execWithheldWrite k v s
  | .longLatencyCommit warp index => Sys2Proof.Machine.execLongLatencyCommit warp index s
  | .loopBackEdge warp level => Sys2Proof.Machine.execLoopBackEdge warp level s
  | .registerLineFill warp line victim => Sys2Proof.Machine.execRegisterLineFill warp line victim s
  | .engineByteCount core stream bytes => Sys2Proof.Machine.execEngineByteCount core stream bytes s
  | .waitWake warp unit => Sys2Proof.Machine.execWaitWake warp unit s
  | .waitTimeout warp unit => Sys2Proof.Machine.execWaitTimeout warp unit s
  | .heartbeatTick => Sys2Proof.Machine.execHeartbeatTick s
  | .memoryAccessPerform index => Sys2Proof.Machine.execMemoryAccessPerform index s
  | .pageWalk asid va access die => Sys2Proof.Machine.execPageWalk asid va access die s
  | .copyLineLand wg line => Sys2Proof.Machine.execCopyLineLand wg line s
  | .kStep wg => Sys2Proof.Machine.execKStep wg s
  | .acczApply wg => Sys2Proof.Machine.execAcczApply wg s
  | .accwrApply wg => Sys2Proof.Machine.execAccwrApply wg s
  | .accepiApply wg => Sys2Proof.Machine.execAccepiApply wg s
  | .courierJob core stream => Sys2Proof.Machine.execCourierJob core stream s
  | .streamWaitClear core stream => Sys2Proof.Machine.execStreamWaitClear core stream s
  | .launchAccept id => Sys2Proof.Machine.execLaunchAccept id s
  | .prologueRun id => Sys2Proof.Machine.execPrologueRun id s
  | .runStart id => Sys2Proof.Machine.execRunStart id s
  | .workgroupResident wg => Sys2Proof.Machine.execWorkgroupResident wg s
  | .workgroupDone wg => Sys2Proof.Machine.execWorkgroupDone wg s
  | .launchEnd id => Sys2Proof.Machine.execLaunchEnd id s
  | .budgetChargePass => Sys2Proof.Machine.execBudgetChargePass s
  | .letterboxWrite q v => Sys2Proof.Machine.execLetterboxWrite q v s
  | .deadlineStampWrite host stream v => Sys2Proof.Machine.execDeadlineStampWrite host stream v s
  | .deadlineGuardWrite host stream v => Sys2Proof.Machine.execDeadlineGuardWrite host stream v s
  | .letterboxWindowWrite offset bytes => Sys2Proof.Machine.execLetterboxWindowWrite offset bytes s
  | .queueEnable q => Sys2Proof.Machine.execQueueEnable q s
  | .queueDisable q => Sys2Proof.Machine.execQueueDisable q s
  | .queueStatusClear q => Sys2Proof.Machine.execQueueStatusClear q s
  | .queueActivate q => Sys2Proof.Machine.execQueueActivate q s
  | .queueEvict q => Sys2Proof.Machine.execQueueEvict q s
  | .evictionTenureExpiry q => Sys2Proof.Machine.execEvictionTenureExpiry q s
  | .schedulerRestart => Sys2Proof.Machine.execSchedulerRestart s
  | .packetLookahead q => Sys2Proof.Machine.execPacketLookahead q s
  | .nopPacket q => Sys2Proof.Machine.execNopPacket q s
  | .launchPacket q => Sys2Proof.Machine.execLaunchPacket q s
  | .parcelPacket q => Sys2Proof.Machine.execParcelPacket q s
  | .callPacket q => Sys2Proof.Machine.execCallPacket q s
  | .joinPacket q => Sys2Proof.Machine.execJoinPacket q s
  | .waitPacket q => Sys2Proof.Machine.execWaitPacket q s
  | .waitPacketTimeout q => Sys2Proof.Machine.execWaitPacketTimeout q s
  | .writePacket q => Sys2Proof.Machine.execWritePacket q s
  | .arrivePacket q => Sys2Proof.Machine.execArrivePacket q s
  | .wcollPacket q => Sys2Proof.Machine.execWcollPacket q s
  | .pipelinePacket q => Sys2Proof.Machine.execPipelinePacket q s
  | .deadlinePacket q => Sys2Proof.Machine.execDeadlinePacket q s
  | .parcelStart core => Sys2Proof.Machine.execParcelStart core s
  | .parcelComplete wg => Sys2Proof.Machine.execParcelComplete wg s
  | .postmasterPass => Sys2Proof.Machine.execPostmasterPass s
  | .parcelMigration src dst asid count => Sys2Proof.Machine.execParcelMigration src dst asid count s
  | .stageManagerPass => Sys2Proof.Machine.execStageManagerPass s
  | .stageLaunchEnd id => Sys2Proof.Machine.execStageLaunchEnd id s
  | .deadlineStreamRaise stream => Sys2Proof.Machine.execDeadlineStreamRaise stream s
  | .deadlineStreamLower stream => Sys2Proof.Machine.execDeadlineStreamLower stream s
  | .collection asid world => Sys2Proof.Machine.execCollection asid world s
  | .compactionMove asid world bundle => Sys2Proof.Machine.execCompactionMove asid world bundle s
  | .recursionStart obj => Sys2Proof.Machine.execRecursionStart obj s
  | .recursionLaunchEnd obj => Sys2Proof.Machine.execRecursionLaunchEnd obj s
  | .rayMarchSample core ray => Sys2Proof.Machine.execRayMarchSample core ray s
  | .trainerStep die slot => Sys2Proof.Machine.execTrainerStep die slot s
  | .weightPublish die slot => Sys2Proof.Machine.execWeightPublish die slot s
  | .workgroupLeave wg => Sys2Proof.Machine.execWorkgroupLeave wg s
  | .saveComplete wg => Sys2Proof.Machine.execSaveComplete wg s
  | .workgroupResume wg => Sys2Proof.Machine.execWorkgroupResume wg s
  | .define asid => Sys2Proof.Machine.execDefine asid s
  | .freeze asid => Sys2Proof.Machine.execFreeze asid s
  | .thaw asid => Sys2Proof.Machine.execThaw asid s
  | .teardown asid => Sys2Proof.Machine.execTeardown asid s
  | .invalidate asid va bytes => Sys2Proof.Machine.execInvalidate asid va bytes s
  | .replay die index => Sys2Proof.Machine.execReplay die index s
  | .cancel die index => Sys2Proof.Machine.execCancel die index s
  | .preempt asid slot => Sys2Proof.Machine.execPreempt asid slot s
  | .read reg dst => Sys2Proof.Machine.execRead reg dst s
  | .gangslice record => Sys2Proof.Machine.execGangslice record s
  | .migrate asid dev => Sys2Proof.Machine.execMigrate asid dev s
  | .checkpoint desc ref => Sys2Proof.Machine.execCheckpoint desc ref s
  | .fencePort port => Sys2Proof.Machine.execFencePort port s
  | .unfencePort port => Sys2Proof.Machine.execUnfencePort port s
  | .attest nonce dst => Sys2Proof.Machine.execAttest nonce dst s
  | .gangDecisionDeadline slice => Sys2Proof.Machine.execGangDecisionDeadline slice s
  | .gangStart slice => Sys2Proof.Machine.execGangStart slice s
  | .gangQuantumEnd slice => Sys2Proof.Machine.execGangQuantumEnd slice s
  | .gangCollectorLost slice => Sys2Proof.Machine.execGangCollectorLost slice s
  | .migrateCutover asid => Sys2Proof.Machine.execMigrateCutover asid s
  | .migrateForwardEnd asid => Sys2Proof.Machine.execMigrateForwardEnd asid s
  | .checkpointPageCopy => Sys2Proof.Machine.execCheckpointPageCopy s
  | .checkpointComplete => Sys2Proof.Machine.execCheckpointComplete s
  | .portPartnerDetect port => Sys2Proof.Machine.execPortPartnerDetect port s
  | .portTrainingDone port partner => Sys2Proof.Machine.execPortTrainingDone port partner s
  | .portLanesLost port lanes => Sys2Proof.Machine.execPortLanesLost port lanes s
  | .portReplayExhausted port => Sys2Proof.Machine.execPortReplayExhausted port s
  | .flitBad port seq => Sys2Proof.Machine.execFlitBad port seq s
  | .idleFlit port credits => Sys2Proof.Machine.execIdleFlit port credits s
  | .readRequestFlit port flit addr bytes => Sys2Proof.Machine.execReadRequestFlit port flit addr bytes s
  | .writeFlit port flit addr data => Sys2Proof.Machine.execWriteFlit port flit addr data s
  | .atomicFlit port flit addr op wide operand swap => Sys2Proof.Machine.execAtomicFlit port flit addr op wide operand swap s
  | .responseFlit port flit req data => Sys2Proof.Machine.execResponseFlit port flit req data s
  | .gangTokenFlit port flit slice token => Sys2Proof.Machine.execGangTokenFlit port flit slice token s
  | .forwardedWriteFlit port flit addr data => Sys2Proof.Machine.execForwardedWriteFlit port flit addr data s
  | .controlFlit port flit => Sys2Proof.Machine.execControlFlit port flit s
  | .hostApertureAccess offset bytes write => Sys2Proof.Machine.execHostApertureAccess offset bytes write s
  | .hostRegisterWrite offset v => Sys2Proof.Machine.execHostRegisterWrite offset v s
  | .roceRequest conn verb => Sys2Proof.Machine.execRoceRequest conn verb s
  | .powerOn => Sys2Proof.Machine.execPowerOn s
  | .powerCheck watts celsius => Sys2Proof.Machine.execPowerCheck watts celsius s
  | .powerRemoval => Sys2Proof.Machine.execPowerRemoval s
  | .eccCorrected core location => Sys2Proof.Machine.execEccCorrected core location s
  | .eccUncorrectable control launch => Sys2Proof.Machine.execEccUncorrectable control launch s
  | .pluginFault plugin => Sys2Proof.Machine.execPluginFault plugin s
  | .pcieCompletion req data => Sys2Proof.Machine.execPcieCompletion req data s
  | .roceResponse port req data => Sys2Proof.Machine.execRoceResponse port req data s
  | .migratePageCopy asid page => Sys2Proof.Machine.execMigratePageCopy asid page s
  | .keyTableWrite slot key => Sys2Proof.Machine.execKeyTableWrite slot key s
  | .accessTableWrite target master entry => Sys2Proof.Machine.execAccessTableWrite target master entry s
  | .routeTableWrite dev route => Sys2Proof.Machine.execRouteTableWrite dev route s
  | .hostApertureAssign asid base => Sys2Proof.Machine.execHostApertureAssign asid base s
  | .deadlineStreamOwnerWrite stream asid => Sys2Proof.Machine.execDeadlineStreamOwnerWrite stream asid s

end Sys2Proof.Machine
end

