-- ==== Sys2Proof/Machine/Outside.lean ====
section
/-! DEFINITION. What reaches the device from outside and no row of the opcode table stands for (R233, R302, R316, R319, R321,
R325, R333 to R341): the control complex's tables, plug-ins, the physical map, what the management port reads, the host's reads
and AtomicOps. -/
namespace Sys2Proof.Machine

/-- The state an outcome goes on with; `s` where it stops. -/
def State.next (s : State) : Host.Outcome State Fault Refusal → State
  | .next t => t
  | _ => s

/-! ### Tables of the control complex (R233, R302) -/

/-- An entry of the context table is written. -/
def State.contextEntry (s : State) (asid : Nat) (words : List W64) : State :=
  if 4096 ≤ asid then s else { s with ctxTable := Table.set s.ctxTable asid ((words ++ List.replicate 8 0).take 8) }

/-- An entry of the queue descriptor table is written: a change of its enabled bit enables or disables the queue (R236). -/
def State.queueEntry (s : State) (q : Nat) (words : List W64) : State :=
  if 1024 ≤ q then s
  else
    let ws := (words ++ List.replicate 8 0).take 8
    let on := (ws.getD 1 0).getLsbD 32
    let x := s.queueAt q
    let s1 := s.setQueue q (Queue.setEnabled { x with desc := ws } (decide (x.state ≠ .disabled)))
    if on then s1.next (execQueueEnable q s1)
    else if x.state = .disabled then s1 else s1.next (execQueueDisable q s1)

/-! ### Plug-ins (R335, R336) -/

/-- A plug-in of a tenant is loaded into its region: M_1 is extended by its digest, in the order of loading. -/
def State.pluginLoad (s : State) (n base size : Nat) (contexts : List Nat) (image : List Byte) : State :=
  let s1 := s.extendMeas 1 (sha384 image)
  { s1 with plugins := Table.set s1.plugins n { base := base, size := size, contexts := contexts }, stopped := s1.stopped.erase n,
            ctlMem := Memory.writeBytes s1.ctlMem base (image.take size) }

/-- A plug-in, by an ecall, sets the placement and class policy of a context of its tenant; one that is stopped, or names another's
context, sets nothing, and the context keeps its last policy. -/
def State.pluginPolicy (s : State) (n asid : Nat) (policy : List W64) : State :=
  match Table.find s.plugins n with
  | none => s
  | some p => if s.stopped.contains n || !p.contexts.contains asid then s else { s with policies := Table.set s.policies asid policy }

/-- What has been read goes out. -/
def State.readOut (s : State) (bs : List Byte) : State := { s with mapOut := s.mapOut ++ [bs] }

/-- The region holds n bytes from an address on. -/
def Plugin.covers (p : Plugin) (a n : Nat) : Bool := decide (p.base ≤ a) && decide (a + n ≤ p.base + p.size)

/-- A plug-in reads or writes control complex memory: an access that does not lie inside its region stops it, and is not made. -/
def State.pluginAccess (s : State) (n a bytes : Nat) (write : Option (List Byte)) : State :=
  match Table.find s.plugins n with
  | none => s
  | some p =>
    if s.stopped.contains n then s
    else if !p.covers a ((write.map List.length).getD bytes) then s.next (execPluginFault n s)
    else match write with
      | some bs => { s with ctlMem := Memory.writeBytes s.ctlMem a bs }
      | none => s.readOut (Memory.readBytes s.ctlMem a bytes)

/-! ### The physical map and the management port (R316, R338) -/

/-- A read through the map: a plug-in is confined to its own memory, and one that is denied reads nothing. -/
def State.mapRead (s : State) (who : Actor) (a n : Nat) : State :=
  match who with
  | .plugin k => s.pluginAccess k a n none
  | _ => match s.mapLoad who.master a n with
    | some bs => s.readOut bs
    | none => s.readOut []

/-- A write through the map. -/
def State.mapWrite (s : State) (who : Actor) (a : Nat) (bs : List Byte) : State :=
  match who with
  | .plugin k => s.pluginAccess k a bs.length (some bs)
  | _ => (s.mapStore who a bs).getD s

/-! ### The RISC-V cores of the system die (R5, R336, R338) -/

/-- The layer that a core may run: an application core runs the OS image, a control complex core one of the others. -/
def rvMay (k : Nat) (layer : Actor) : Bool := decide (k < 20) && decide (decide (4 ≤ k) = decide (layer = .app))

/-- A core's load ends in a register: the bytes that its layer reads there, zero where it reads none. -/
def RvCore.loaded (c : RvCore) (rd : Nat) (bs : List Byte) : RvCore := if rd = 0 ∨ 32 ≤ rd then c else { c with x := Table.put 0#64 c.x rd (bytes64 bs) }

/-- A step of a core: its new registers, and its one access, which its layer makes. Which registers an instruction leaves is the RISC-V
instruction set's, which this manual does not give (log entry 75): the step takes any. A store acts as a write through the map, a load
as a read of it. -/
def State.rvStep (s : State) (k : Nat) (next : RvCore) (access : RvAccess) : State :=
  if !rvMay k next.layer then s
  else
    let put := fun (s : State) (c : RvCore) => { s with rvs := Table.set s.rvs k c }
    match access with
    | .none => put s next
    | .store a bs => put (s.mapWrite next.layer a (bs.take 8)) next
    | .load a n rd =>
      let s1 := s.mapRead next.layer a (min n 8)
      put { s1 with mapOut := s.mapOut } (next.loaded rd ((s1.mapOut.drop s.mapOut.length).flatten))

/-- A fault-buffer entry as its 128 bits (R176). -/
def FaultEntry.word (e : FaultEntry) : BitVec 128 :=
  1#1 ++ 0#15 ++ e.asid ++ 0#4 ++ e.slot ++ e.core ++ 0#4 ++ e.unit ++ e.level ++ e.access ++ e.cause ++ 0#7 ++ e.va

/-- What the management port reads, whatever state the firmware is in (R316); a key slot reads zero (R336). -/
def State.portRead (s : State) (v : PortView) : State :=
  s.readOut (match v with
    | .context asid => (((Table.get [] s.ctxTable asid) ++ List.replicate 8 0).take 8).flatMap (fun (x : W64) => valBytes 8 x.toNat)
    | .fault die i => (match Table.find s.faults (1024 * die + i) with
      | some e => valBytes 16 e.word.toNat
      | none => valBytes 16 0)
    | .queue q => (((s.queueAt q).desc ++ List.replicate 8 0).take 8).flatMap (fun (x : W64) => valBytes 8 x.toNat)
    | .latch q => valBytes 8 (s.queueAt q).latch.toNat
    | .register die n => valBytes 8 ((s.deviceReg die n).getD 0).toNat
    | .key _ => valBytes 64 0)

/-- A command record is taken from the management port's queue (R316): it is one of the table's, or is refused, word 0 not being a
code alone. -/
def State.record (s : State) (words : List W64) : State :=
  let w := fun i => (words.getD i 0).toNat
  s.next (match w 0 with
    | 1 => execDefine (w 1) s
    | 2 => execFreeze (w 1) s
    | 3 => execThaw (w 1) s
    | 4 => execTeardown (w 1) s
    | 5 => execInvalidate (w 1) (w 2) (w 3) s
    | 6 => execReplay (w 1) (w 2) s
    | 7 => execCancel (w 1) (w 2) s
    | 8 => execPreempt (w 1) (w 2) s
    | 9 => execRead (w 1) (w 2) s
    | 12 => execGangslice (w 1) s
    | 13 => execMigrate (w 1) (BitVec.ofNat 18 (w 2)) s
    | 14 => execCheckpoint (w 1) (words.getD 2 0) s
    | 15 => execFencePort (w 1) s
    | 16 => execUnfencePort (w 1) s
    | 17 => execAttest (w 1) (w 2) s
    | c => s.command c ((words.drop 1).take 3) Command.refused)

/-! ### The host's reads (R234, R319) -/

/-- A host read of BAR 0, the device registers, or of BAR 2, the letterbox window. -/
def State.barRead (s : State) (bar offset n : Nat) : State :=
  if bar = 0 ∧ offset + n ≤ 0x1000000 then s.passOn .host (wordBytes s.registerWord offset n)
  else if bar = 2 ∧ offset + n ≤ 0x800000 then
    (if s.tableDenies 20 hostMaster accRead then s.refuse .host n else s.passOn .host (s.windowBytes offset n))
  else s

/-! ### All of it -/

/-- An event from outside. -/
def State.outside (s : State) : Outside → State
  | .contextEntry asid words => s.contextEntry asid words
  | .queueEntry q words => s.queueEntry q words
  | .pluginLoad n base size contexts image => s.pluginLoad n base size contexts image
  | .pluginPolicy n asid policy => s.pluginPolicy n asid policy
  | .pluginAccess n a bytes write => s.pluginAccess n a bytes write
  | .osExtend d => s.extendMeas 3 d
  | .mapRead who a n => s.mapRead who a n
  | .mapWrite who a bs => s.mapWrite who a bs
  | .portRead v => s.portRead v
  | .record words => s.record words
  | .barRead bar offset n => s.barRead bar offset n
  | .hostAtomic offset op wide operand swap => s.hostAtomic offset op wide operand swap
  | .bind dev port qp => { s with conns := Table.set s.conns dev.toNat (port, qp) }
  | .replayAsked port seq => s.replayFlits port seq
  | .refused port flit req => s.refusedFlit port flit req
  | .eccMet o => State.failOwner { s with eccbad := s.eccbad + 1 } o
  | .storeFailed id => s.storeFailed id
  | .selfTestFailed core => if core < 192 then s.withholdCore core else s
  | .schedulerUp => s.schedulerUp
  | .rvStep core next access => s.rvStep core next access

/-- In recovery only the management port answers (R334); a failed self-test and an uncorrectable error are noticed there too (R341). -/
def Outside.ofPort : Outside → Bool
  | .portRead _ => true
  | .record _ => true
  | .selfTestFailed _ => true
  | .eccMet _ => true
  | _ => false

end Sys2Proof.Machine
end

