-- ==== Sys2Proof/Machine/Schedule.lean ====
section
/-! DEFINITION. Which unit issues next (R132, R249; log entry 14): readiness, the order of the warps of a quadrant, the
turns taken, and the words that wait at issue for what their warp has posted (R172). -/
namespace Sys2Proof.Machine

/-! ### Ready units -/

/-- Turns of the units that wait in a trap frame are numbered from here on. -/
def frameBase : Nat := 1024

/-- Accesses in trap frames: warps and numbers of turns. -/
def State.frameUnits (s : State) : List (Nat × Nat) := s.warps.flatMap (fun x => x.2.framed.map (fun y => (x.1, frameBase + y.1)))

/-- The access of a unit in a trap frame may be tried: nothing is known to hold it (R38, R307). -/
def State.mayFinish (s : State) (w u : Nat) : Bool :=
  decide (frameBase ≤ u) && decide ((s.wgAt (s.warpAt w).wg).phase = .resident) &&
  (match Table.find (s.warpAt w).framed (u - frameBase) with
   | some x => decide (x.park = .ready)
   | none => false)

/-- A unit is ready: it may issue, or its access in the frame may be tried, and it has not waited at its turn since anything last
moved. -/
def State.ready (s : State) (w u : Nat) : Bool := (s.mayIssue w u || s.mayFinish w u) && !s.stalled.contains (w, u)

/-- Units that may have a turn: those of the warps, and the accesses that wait in trap frames (R307). -/
def State.turnUnits (s : State) : List (Nat × Nat) := s.allUnits ++ s.frameUnits

def State.readyUnits (s : State) : List (Nat × Nat) := s.turnUnits.filter (fun x => s.ready x.1 x.2)

/-- How long ago a unit had its turn, in turns; one that has had none comes last. -/
def State.age (s : State) (w u : Nat) : Nat := s.order.findIdx (fun x => decide (x.1 = w) && decide (x.2.1 = u))

/-- How long ago any unit of a warp had its turn. -/
def State.warpAge (s : State) (w : Nat) : Nat := s.order.findIdx (fun x => decide (x.1 = w))

/-- The tick up to which a warp has not been kept waiting. -/
def State.servedAt (s : State) (w : Nat) : Nat := ((s.order.find? (fun x => decide (x.1 = w))).map (fun x => x.2.2)).getD s.tick

/-- A ready warp issues at least once in 4,096 arithmetic cycles, 512 ticks (R9, R132): one is due where the bound could pass within
the ticks of one event. -/
def State.isDue (s : State) (w : Nat) : Bool := decide (s.servedAt w + 448 ≤ s.tick)

/-! ### The order of a quadrant (R249) -/

/-- Quadrant of a warp: its residency slot mod 4 on its core (DESIGN CHOICE: no rule says which warps are a quadrant's). -/
def State.quadrant (s : State) (w : Nat) : Nat := 4 * (s.wgAt (s.warpAt w).wg).core + (s.warpAt w).slot % 4

/-- The stamp of a warp's raised Express queue; 2^64 for any other warp. -/
def State.warpStamp (s : State) (w : Nat) : Nat :=
  match (s.launchAt (s.wgAt (s.warpAt w).wg).launch).queue with
  | some q => if (s.queueAt q).critical && (s.deadlineAt (s.queueAt q).stream).raised then (s.deadlineAt (s.queueAt q).stream).stamp.toNat else 2 ^ 64
  | none => 2 ^ 64

/-- Class and stamp of a warp; one that is due comes before every class. -/
def State.warpRank (s : State) (w : Nat) : Nat × Nat :=
  if s.isDue w then (0, 0) else (1 + s.launchClass (s.launchAt (s.wgAt (s.warpAt w).wg).launch), s.warpStamp w)

/-- Warp a goes before warp b: by class, then stamp, then the one that has waited longer. -/
def State.goesBefore (s : State) (a b : Nat) : Bool :=
  pairBefore (s.warpRank a) (s.warpRank b) || (decide (s.warpRank a = s.warpRank b) && decide (s.warpAge b < s.warpAge a))

/-- The unit may take its turn: no ready unit of its warp has waited longer (R132), and no ready warp of its quadrant goes before its own
(R249). -/
def State.mayGo (s : State) (w u : Nat) : Bool :=
  s.ready w u && s.readyUnits.all (fun x =>
    if x.1 = w then decide (s.age w x.2 ≤ s.age w u) else !(decide (s.quadrant x.1 = s.quadrant w) && s.goesBefore x.1 w))

/-- Of some units, the one that has waited longest. -/
def State.oldest (s : State) : List (Nat × Nat) → Option (Nat × Nat)
  | [] => none
  | x :: xs => match State.oldest s xs with
    | none => some x
    | some y => if s.age x.1 x.2 < s.age y.1 y.2 then some y else some x

/-- The unit whose turn it is where nothing else chooses. -/
def State.nextUnit (s : State) : Option (Nat × Nat) := s.oldest (s.turnUnits.filter (fun x => s.mayGo x.1 x.2))

/-- A unit of a warp that is due: its turn comes before anything that lets time pass. -/
def State.dueUnit (s : State) : Option (Nat × Nat) := s.oldest (s.turnUnits.filter (fun x => s.isDue x.1 && s.mayGo x.1 x.2))

/-! ### Turns -/

/-- Time is about to pass: a warp that is not ready is not kept waiting. -/
def State.waitings (s : State) : State :=
  { s with order := s.order.map (fun x => if s.readyUnits.any (fun y => y.1 = x.1) then x else (x.1, x.2.1, s.tick)), stalled := [] }

/-- A unit that waits at its turn is inside no fused group: the word it waits at is not fused with the last (R104, R314). -/
def Warp.unfuse (w : Warp) (u : Nat) : Warp :=
  { w with units := w.units.map (fun x => (x.1, if x.1 = u then { x.2 with mid := false } else x.2)) }

/-- A unit has had its turn, which left its warp as `before` where it waits. -/
def State.tookTurn (s : State) (w u : Nat) (before : Warp) : State :=
  let waits := decide (s.warpAt w = before)
  { s with order := (w, u, s.tick) :: s.order.filter (fun x => !(decide (x.1 = w) && decide (x.2.1 = u))),
           stalled := if waits then (w, u) :: s.stalled else [],
           warps := if waits && before.units.any (fun x => decide (x.1 = u) && x.2.mid) then Table.set s.warps w (before.unfuse u) else s.warps }

/-! ### What waits at issue for the warp's posted accesses (R172) -/

/-- A word whose instruction makes an access, a release or a request that comes after the warp's earlier stores to remote pages: the
memory and engine majors, launches and queues, and the words that end lanes (EXIT, HALT). -/
def ordersAfter (w : W32) : Bool :=
  let major := w.toNat % 128
  let m := w.toNat / 2 ^ 28
  (decide (0x50 ≤ major) && decide (major ≤ 0x77)) || (decide (major = 0x06) && decide (m = 3)) || (decide (major = 0x78) && decide (m = 2))

/-- An access of a lane of the current unit waits in the trap frame (R216, R307). -/
def State.accessFramed (s : State) : Bool := s.w.handler && s.w.framed.any (fun x => x.2.lanes &&& s.u.lanes ≠ 0)

/-- The word may go to its meaning now: one that comes after what the warp has posted waits until that has been performed, and in a
handler an access waits for those of its lanes that wait in the frame (R216: an acquire among them has not returned; DEDUCED, log entry 79). -/
def State.mayWord (s : State) (w : W32) : Bool :=
  (!ordersAfter w || !s.unperformed) && !(s.accessFramed && decide (0x50 ≤ w.toNat % 128) && decide (w.toNat % 128 ≤ 0x77))

end Sys2Proof.Machine
end

