-- ==== Sys2Proof/Machine/Step.lean ====
section
/-! DEFINITION. One step of the machine: which agent moves (R132, R161; log entry 14), the word its unit fetches, and
the exec of what it decodes to; and a state that is about to run a given instruction. -/
namespace Sys2Proof.Machine

/-- Run a decoded word, or take ILLEGAL_OP where it decodes to nothing (R22); it waits for what the warp has posted where it comes
after that (R172). -/
noncomputable def State.runWord (s : State) (w : W32) : Host.Outcome State Fault Refusal :=
  if !s.mayWord w then .next s
  else match decode w with
    | .ok i => exec i { s with ir := w }
    | .error _ => { s with ir := w }.finish (.trap .illegalOp w.toNat)

/-- The current unit's next word is fetched and run; a fetch that faults parks the unit (R175). -/
noncomputable def State.tryWord (s : State) : Host.Outcome State Fault Refusal :=
  match s.fetchWord with
  | .ok s1 w => s1.runWord w
  | .fault s1 d i => .next (s1.park (.fault d i))
  | .full s1 => .next s1
  | .denied s1 => .next s1.uncontained
  | .wait s1 => .next s1

/-- The current unit's turn: a result whose window has closed commits first (R36), else the next word is run. -/
noncomputable def State.runUnit (s : State) : Host.Outcome State Fault Refusal :=
  match closedIndex s.unit s.w.pend 0 with
  | some i => execLongLatencyCommit s.cur i s
  | none => s.tryWord

/-- The outcome with something done to its next state. -/
def thenNext (r : Host.Outcome State Fault Refusal) (f : State → State) : Host.Outcome State Fault Refusal :=
  match r with
  | .next t => .next (f t)
  | r => r

/-- A turn of an access in the trap frame is over (R307): the frame is a frame again. One that would trap stops before its instruction, which
issues again after resumption; a warp that an uncontained error has removed stays removed. -/
def State.leaveFrame (s t : State) (unit : Nat) : State :=
  if t.w.live = 0 then t
  else if t.w.handler then
    s.setW { s.w with tframe := s.w.tframe.map (fun f =>
      { f with units := f.units.map (fun x => (x.1, if x.1 = unit then { x.2.rewound with issued := none, olds := [] } else x.2)) }) }
  else t.setW t.w.swapFrame

/-- The turn of an access that waits in the trap frame of the current warp (R38, R307): its unit tries it again in the frame's place. -/
noncomputable def State.runFramed (s : State) : Host.Outcome State Fault Refusal :=
  let unit := s.unit - frameBase
  thenNext ({ s.setW s.w.swapFrame with unit := unit }.tryWord) (fun t => s.leaveFrame t unit)

/-- The turn of the current unit, or of an access in its warp's trap frame. -/
noncomputable def State.runTurn (s : State) : Host.Outcome State Fault Refusal := if frameBase ≤ s.unit then s.runFramed else s.runUnit

/-- The turn of a unit that may take it, and its place among the turns. `lane`: one lane alone of an atomic or a store is performed. -/
noncomputable def State.turn (s : State) (lane : Bool) (warp unit : Nat) : Host.Outcome State Fault Refusal :=
  if s.mayGo warp unit then
    thenNext { s with cur := warp, unit := unit, byLane := lane || s.anyWait }.runTurn (fun t => t.tookTurn warp unit (s.warpAt warp))
  else .next s

/-- Events that a module without power takes: its power, and the table's removal of it (R340). -/
def ofPower : Instr → Bool
  | .powerOn => true
  | .powerRemoval => true
  | _ => false

/-- Events that a module in recovery takes: those of its power and its errors, and what comes by the management port, the commands and
%netbind (R309, R316, R334, R341). -/
def ofRecovery : Instr → Bool
  | .powerOn => true
  | .powerRemoval => true
  | .powerCheck _ _ => true
  | .eccCorrected _ _ => true
  | .eccUncorrectable _ _ => true
  | .heartbeatTick => true
  | .netbindWrite _ _ _ => true
  | .define _ => true
  | .freeze _ => true
  | .thaw _ => true
  | .teardown _ => true
  | .invalidate _ _ _ => true
  | .replay _ _ => true
  | .cancel _ _ => true
  | .preempt _ _ => true
  | .read _ _ => true
  | .gangslice _ => true
  | .migrate _ _ => true
  | .checkpoint _ _ => true
  | .fencePort _ => true
  | .unfencePort _ => true
  | .attest _ _ => true
  | _ => false

/-- The module takes the event. -/
def State.hears (s : State) (i : Instr) : Bool :=
  match s.power with
  | .off => ofPower i
  | .recovery => ofRecovery i
  | _ => true

/-- The module takes an event from outside. -/
def State.hearsOutside (s : State) (e : Outside) : Bool :=
  match s.power with
  | .off => false
  | .recovery => e.ofPort
  | _ => true

/-- The first choice of the agenda: an event that is not an instruction word, an event from outside, a turn. -/
noncomputable def State.choose (s : State) : Choice → Host.Outcome State Fault Refusal
  | .event t i => if (encode i).isNone && s.hears i then exec i (if s.power = .off then s else s.waitings.pass t) else .next s
  | .outside t e => if s.hearsOutside e then .next ((s.waitings.pass t).outside e) else .next s
  | .issue w u => s.turn false w u
  | .lane w u => s.turn true w u

/-- What the module does next by itself: the next unit has its turn, else the heartbeat advances. -/
noncomputable def State.goOn (s : State) : Host.Outcome State Fault Refusal :=
  match s.nextUnit with
  | some (w, u) => s.turn false w u
  | none => execHeartbeatTick s.waitings

/-- What is due before anything that may be chosen: a group image (R305), a WAIT that wakes or has run out (R161), a result or a loop at a
back-edge (R36, R137), a WAIT packet that issues or has run out (R241), a warp that has been kept waiting (R132). -/
noncomputable def State.due (s : State) : Option (Host.Outcome State Fault Refusal) :=
  match s.dueGroup with
  | some k => some (.next (s.writeImage k))
  | none => match s.ripeWait with
    | some (w, u) => some (execWaitWake w u s)
    | none => match s.expiredWait with
      | some (w, u) => some (execWaitTimeout w u s)
      | none => match s.ripeCommit with
        | some (w, i) => some (execLongLatencyCommit w i s)
        | none => match s.ripeLoop with
          | some (w, l) => some (execLoopBackEdge w l s)
          | none => match s.ripePacket with
            | some q => some (execWaitPacket q s)
            | none => match s.expiredPacket with
              | some q => some (execWaitPacketTimeout q s)
              | none => s.dueUnit.map (fun x => s.turn false x.1 x.2)

/-- A step (log entry 14): what is due; else the first choice of the agenda; else the module goes on by itself. A module without power, or
in recovery, does nothing but what it is told. -/
noncomputable def step (s : State) : Host.Outcome State Fault Refusal :=
  let off := decide (s.power = .off) || decide (s.power = .recovery)
  match (if off then none else s.due), s.agenda with
  | some r, _ => r
  | none, c :: r => State.choose { s with agenda := r } c
  | none, [] => if off then .next s else s.goOn

/-- The state with one instruction placed where step fetches its next instruction (log entry 7). -/
def State.withFetchWord (s : State) (nbits w : Nat) : State := s.placeCode (max 4 (nbits / 8)) w

end Sys2Proof.Machine
end

