-- ==== Sys2Proof/Safety.lean ====
section
/-! DEFINITION. The terms in which statements about the machine are made: what an instruction needs to execute normally,
what a result leaves unchanged, and the invariants of a state. -/
namespace Sys2Proof.Machine

/-! ### When an instruction executes normally -/

/-- The instruction being issued has only framing words it accepts, legal operands within the allotment, its register lines
present, and the queue entries it reads (R22, R24 to R28, R31 to R33); it is not one whose accesses are under way. -/
abbrev State.Admits (s : State) (acc : Accept) (ops : List Opnd) : Prop :=
  s.framed acc ops = true ∧ ops.any s.illOp = false ∧ ops.findSome? s.boundOp = none ∧ s.missesLine ops = false ∧
  s.opqShort ops = false ∧ s.u.issued = none

/-- Queue entries that the operands remove (R27). -/
def State.popped (s : State) (ops : List Opnd) : Nat := (ops.map s.pops).sum

/-- The answer of an instruction that completes: the state `u` of its effect, and then what completing does to the unit
(the next word, framing words and coverage used up, windows one shorter). -/
def State.Completes (s : State) (i : Instr) (effect : State → Prop) : Prop :=
  ∃ u, exec i s = .next u.retire ∧ effect u

/-! ### Frames -/

/-- The state differs from an earlier one at most in the current warp and in the flags raised on its core. -/
structure State.OnlyWarp (s u : State) (raised : BitVec 5) : Prop where
  others : ∀ k, k ≠ s.cur → u.warpAt k = s.warpAt k
  cores  : ∀ k, k ≠ s.g.core → u.coreAt k = s.coreAt k
  core   : u.coreAt s.g.core = { s.core with fflags := s.core.fflags ||| raised }
  rest   : u = { s with warps := u.warps, cores := u.cores }

/-- A lane's n registers from e on hold a value: one register its low 32 bits, a pair all of it, the low half first. -/
def Warp.Holds (w : Warp) (n e L : Nat) (v : W64) : Prop := if n = 2 then w.pair e L = v else w.vreg e L = v.setWidth 32

/-- A vector result: in the lanes of ACT the destination's n registers hold the values; every other register of every lane,
every other part of the warp, every other warp, memory and all else are as before, flags raised and queue entries removed
excepted. -/
structure State.VecResult (s u : State) (ops : List Opnd) (n e : Nat) (val : Nat → W64) (raised : BitVec 5) : Prop where
  value : ∀ L, L < 32 → s.act.getLsbD L = true → u.w.Holds n e L (val L)
  kept  : ∀ x L, L < 32 → (s.act.getLsbD L = false ∨ x < e ∨ e + n ≤ x) → u.w.vreg x L = s.w.vreg x L
  warp  : u.w = { s.w with vregs := u.w.vregs, opq := s.w.opq.drop (s.popped ops) }
  rest  : s.OnlyWarp u raised

/-- A predicate result: predicate p holds the values in the lanes of ACT, unless p is p0, which discards them (R29). -/
structure State.PredResult (s u : State) (ops : List Opnd) (p : Nat) (val : Nat → Bool) (raised : BitVec 5) : Prop where
  value : ∀ q L, L < 32 → (u.w.pred q).getLsbD L =
    if q = p ∧ p ≠ 0 ∧ s.act.getLsbD L = true then val L else (s.w.pred q).getLsbD L
  warp  : u.w = { s.w with preds := u.w.preds, opq := s.w.opq.drop (s.popped ops) }
  rest  : s.OnlyWarp u raised

/-- A scalar result: the scalar register e holds the value if ACT is not empty (R30, R71). -/
structure State.ScalResult (s u : State) (ops : List Opnd) (e : Nat) (val : W64) (raised : BitVec 5) : Prop where
  value : ∀ m, u.w.sreg m = if m = e ∧ s.act ≠ 0 then val else s.w.sreg m
  warp  : u.w = { s.w with sregs := u.w.sregs, opq := s.w.opq.drop (s.popped ops) }
  rest  : s.OnlyWarp u raised

/-- A long-latency result (R35, R36): one result of the unit is added, its window la instructions beyond this one; nothing is
written yet. With ACT empty there is no result. -/
structure State.LateResult (s u : State) (ops : List Opnd) (la : BitVec 4) (p : Pending) : Prop where
  pend  : u.w = { s.w with
    pend := if s.act = 0 then s.w.pend else s.w.pend ++ [{ p with unit := s.unit, left := la.toNat + 1 }],
    opq := s.w.opq.drop (s.popped ops) }
  rest  : s.OnlyWarp u 0

/-- Nothing but the warp's queue entries changes. -/
def State.NoResult (s u : State) (ops : List Opnd) : Prop :=
  u.w = { s.w with opq := s.w.opq.drop (s.popped ops) } ∧ s.OnlyWarp u 0

/-! ### Invariants -/

/-- The three memories of the device outside its cores have their canonical form: HBM, control complex memory and flash. -/
def State.MemoriesCanonical (s : State) : Prop :=
  Memory.wf s.mem = true ∧ Memory.wf s.ctlMem = true ∧ Memory.wf s.flash = true

end Sys2Proof.Machine
end

