-- ==== Sys2Proof/Certificates/Slice0/Obligations.lean ====
section
/-! DEFINITION. The statements about the machine for the provers. The helper definitions before them write the results the
spec gives instructions in terms of the operands' values; each statement's docstring names the rules it rests on. -/
namespace Sys2Proof.Machine

/-! ### Results as functions of the operands -/

/-- Operand fields of the forms that the families share: destination a, sources b and c of n registers. -/
def vvv (n : Nat) (c b a : BitVec 7) : List Opnd := [vd .a a n, vs .b b n, vs .c c n]
def vv (n : Nat) (b a : BitVec 7) : List Opnd := [vd .a a n, vs .b b n]
/-- The same with a count or control of one register in c (R70). -/
def vvk (n : Nat) (c b a : BitVec 7) : List Opnd := [vd .a a n, vs .b b n, vs .c c 1]
def sss (c b a : BitVec 7) : List Opnd := [sd .a a, ss .b b, ss .c c]
def ss2 (b a : BitVec 7) : List Opnd := [sd .a a, ss .b b]

/-- A function of the operand values a (the destination's old value), b and c, at width n. -/
def atWidth (n : Nat) (g : BitVec n → BitVec n → BitVec n → BitVec n) (a b c : W64) : W64 :=
  (g (a.setWidth n) (b.setWidth n) (c.setWidth n)).setWidth 64
/-- A function of a value of width n and a 32-bit count or control. -/
def atCount (n : Nat) (g : BitVec n → Nat → BitVec n) (_ b c : W64) : W64 :=
  (g (b.setWidth n) (c.setWidth 32).toNat).setWidth 64
/-- The flag that clamping an exact result to a range raises (R75): OF where the value changes. -/
def clampFlag (lo hi x : Int) : BitVec 5 := if lo ≤ x ∧ x ≤ hi then 0 else OF
def clampTo (n : Nat) (lo hi x : Int) : BitVec n := BitVec.ofInt n (max lo (min hi x))

/-- The instruction writes to the vector destination a, in each lane of ACT, the function of the lane's operand values, and
raises no flag. -/
def State.VecCase (s : State) (i : Instr) (acc : Accept) (ops : List Opnd) (k : Consts) (n : Nat)
    (f : W64 → W64 → W64 → W64) : Prop :=
  s.Admits acc ops → s.Completes i (fun u => s.VecResult u ops n (s.regAt ops .a)
    (fun L => f (s.valueAt k ops .a L) (s.valueAt k ops .b L) (s.valueAt k ops .c L)) 0)

/-- The same for a function of the lane as well, with the flags that the lanes of ACT raise. -/
def State.VecCaseF (s : State) (i : Instr) (acc : Accept) (ops : List Opnd) (k : Consts) (n : Nat)
    (f : Nat → W64 → W64 → W64 → W64) (g : Nat → W64 → W64 → W64 → BitVec 5) : Prop :=
  s.Admits acc ops → s.Completes i (fun u => s.VecResult u ops n (s.regAt ops .a)
    (fun L => f L (s.valueAt k ops .a L) (s.valueAt k ops .b L) (s.valueAt k ops .c L))
    (flagsOf s.act (fun L => g L (s.valueAt k ops .a L) (s.valueAt k ops .b L) (s.valueAt k ops .c L))))

/-- The instruction writes to the scalar destination a the function of its operand values. -/
def State.ScalCase (s : State) (i : Instr) (acc : Accept) (ops : List Opnd) (k : Consts)
    (f : W64 → W64 → W64 → W64) (g : W64 → W64 → W64 → BitVec 5) : Prop :=
  s.Admits acc ops → s.Completes i (fun u => s.ScalResult u ops (s.regAt ops .a)
    (f (s.valueAt k ops .a 0) (s.valueAt k ops .b 0) (s.valueAt k ops .c 0))
    (if s.act = 0 then 0 else g (s.valueAt k ops .a 0) (s.valueAt k ops .b 0) (s.valueAt k ops .c 0)))

def noFlag (_ _ _ : W64) : BitVec 5 := 0

/-- The instruction writes to a predicate, in each lane of ACT, a test of the lane's operand values. -/
def State.PredCase (s : State) (i : Instr) (acc : Accept) (ops : List Opnd) (k : Consts) (p : BitVec 3)
    (f : Nat → W64 → W64 → Bool) (g : W64 → W64 → BitVec 5) : Prop :=
  s.Admits acc ops → s.Completes i (fun u => s.PredResult u ops p.toNat
    (fun L => f L (s.valueAt k ops .b L) (s.valueAt k ops .c L))
    (flagsOf s.act (fun L => g (s.valueAt k ops .b L) (s.valueAt k ops .c L))))

/-- Quotient rounded toward zero and remainder, with the corners of R77. -/
def quotS (n : Nat) (b c : BitVec n) : BitVec n :=
  if c = 0 then BitVec.allOnes n else BitVec.ofInt n (b.toInt.tdiv c.toInt)
def remS (n : Nat) (b c : BitVec n) : BitVec n := b - quotS n b c * c
def quotZ (n : Nat) (b c : BitVec n) : BitVec n := if c = 0 then BitVec.allOnes n else BitVec.ofNat n (b.toNat / c.toNat)
def remZ (n : Nat) (b c : BitVec n) : BitVec n := if c = 0 then b else BitVec.ofNat n (b.toNat % c.toNat)

end Sys2Proof.Machine

open Sys2Proof Sys2Proof.Machine
namespace Sys2Proof.Machine
/-- Counts of a value's bits (R78). -/
def leadingZeros (n : Nat) (B : BitVec n) : Nat := if B = 0 then n else n - 1 - Nat.log2 B.toNat
def trailingZeros (n : Nat) (B : BitVec n) : Nat := ((List.range n).find? (fun i => B.getLsbD i)).getD n
def ones (n : Nat) (B : BitVec n) : Nat := ((List.range n).filter (fun i => B.getLsbD i)).length

/-- Position and covered length of a bit field by its control word (R79). -/
def ctlPos (K : Nat) : Nat := K % 2 ^ 7
def ctlLen (n K : Nat) : Nat := if n ≤ ctlPos K then 0 else min (K / 2 ^ 8 % 2 ^ 7) (n - ctlPos K)
/-- The extracted field: bit i is bit p + i of B inside the field; above it zero, or the field's top bit. -/
def fieldOut (n : Nat) (signed : Bool) (B : BitVec n) (K : Nat) : BitVec n :=
  let p := ctlPos K; let l := ctlLen n K
  if l = 0 then 0
  else if signed then BitVec.ofInt n ((B.extractLsb' p l).toInt) else BitVec.ofNat n ((B.extractLsb' p l).toNat)
/-- The base with a field replaced by the low bits of the inserted value. -/
def fieldIn (n : Nat) (B I : BitVec n) (K : Nat) : BitVec n :=
  let m := (BitVec.allOnes n >>> (n - ctlLen n K)) <<< ctlPos K
  (B &&& ~~~ m) ||| ((I <<< ctlPos K) &&& m)
end Sys2Proof.Machine

namespace Sys2Proof.Machine
/-- The lanes of ACT in lane L's partition tile of %part lanes (R141, R143). -/
def State.tileLanes (s : State) (L : Nat) : List Nat :=
  (List.range 32).filter (fun J => s.act.getLsbD J && decide (J / s.w.part.toNat = L / s.w.part.toNat))

/-- A byte of PRMB by its selector nibble (R86). -/
def permuted (B : W32) (sel : Nat) : Byte :=
  let j : Byte := B.extractLsb' (8 * (sel % 4)) 8
  if sel.testBit 3 then 0 else if sel.testBit 2 then (if j.msb then BitVec.allOnes 8 else 0) else j

/-- The tests of SETP (R83). -/
def comparison (n k : Nat) (B C : BitVec n) : Bool :=
  match k with
  | 0 => B == C
  | 1 => B != C
  | 2 => B.slt C
  | 3 => B.sle C
  | 4 => C.slt B
  | 5 => C.sle B
  | 6 => B.ult C
  | 7 => B.ule C
  | 8 => C.ult B
  | _ => C.ule B

/-- ADDC and SUBB of the vector class: the destination and p7 in the lanes of ACT, and nothing else. -/
def State.CarryResult (s : State) (ops : List Opnd) (n : Nat) (val : Nat → W64) (carry : Nat → Bool) (u : State) : Prop :=
  (∀ L, L < 32 → s.act.getLsbD L = true → u.w.Holds n (s.regAt ops .a) L (val L)) ∧
  (∀ x L, L < 32 → (s.act.getLsbD L = false ∨ x < s.regAt ops .a ∨ s.regAt ops .a + n ≤ x) → u.w.vreg x L = s.w.vreg x L) ∧
  (∀ q L, L < 32 → (u.w.pred q).getLsbD L =
    if q = 7 ∧ s.act.getLsbD L = true then carry L else (s.w.pred q).getLsbD L) ∧
  u.w = { s.w with vregs := u.w.vregs, preds := u.w.preds, opq := s.w.opq.drop (s.popped ops) } ∧ s.OnlyWarp u 0

/-- The same of the scalar class. -/
def State.ScalCarryResult (s : State) (ops : List Opnd) (val : W64) (carry : Bool) (u : State) : Prop :=
  (∀ m, u.w.sreg m = if m = s.regAt ops .a then val else s.w.sreg m) ∧
  (∀ q L, L < 32 → (u.w.pred q).getLsbD L =
    if q = 7 ∧ s.act.getLsbD L = true then carry else (s.w.pred q).getLsbD L) ∧
  u.w = { s.w with sregs := u.w.sregs, preds := u.w.preds, opq := s.w.opq.drop (s.popped ops) } ∧ s.OnlyWarp u 0
end Sys2Proof.Machine

namespace Sys2Proof.Machine
/-- An uncommitted result of n registers from e on: the values of all 32 lanes, low half first, and the flags. -/
def lateValue (act : Lanes) (e n : Nat) (val : Nat → W64) (flags : List (BitVec 5)) : Pending :=
  Pending.of act (if n = 2 then [(e, lanes32.map (fun L => (val L).setWidth 32)),
      (e + 1, lanes32.map (fun L => (val L >>> 32).setWidth 32))]
    else [(e, lanes32.map (fun L => (val L).setWidth 32))]) flags

/-- A long-latency instruction adds one result (State.LateResult): the function of the operand values in the lanes of ACT for
the n registers from a on, with the flags of those lanes. -/
def State.LateCase (s : State) (i : Instr) (acc : Accept) (ops : List Opnd) (la : BitVec 4) (k : Consts) (n : Nat)
    (f : Nat → W64 → W64 → W64 → W64) (g : Nat → W64 → W64 → W64 → BitVec 5) : Prop :=
  s.Admits acc ops → s.full = false → s.Completes i (fun u => s.LateResult u ops la
    (lateValue s.act (s.regAt ops .a) n
      (fun L => f L (s.valueAt k ops .a L) (s.valueAt k ops .b L) (s.valueAt k ops .c L))
      (lanes32.map (fun L => g L (s.valueAt k ops .a L) (s.valueAt k ops .b L) (s.valueAt k ops .c L)))))

/-- Operand values of a float type: the low bits, and the value they stand for (R45, R55). -/
def lowT (t : BitVec 2) (x : W64) : Nat := x.toNat % 2 ^ (fmtOf t.toNat).width
def valT (t : BitVec 2) (x : W64) : FVal := decodeF (fmtOf t.toNat) (lowT t x)
def bitsOf64 (r : FRes) : W64 := BitVec.ofNat 64 r.1

/-- A float instruction with sources b and c: bits and flags by a function of the operands' values. -/
def State.FloatCase (s : State) (i : Instr) (t : BitVec 2) (c b a : BitVec 7) (f : W64 → W64 → W64 → FRes) : Prop :=
  t ≠ 3 → s.immWide t.toNat = false →
    s.VecCaseF i acceptAll (vvv 1 c b a) (constsT t.toNat) 1 (fun _ x y z => bitsOf64 (f x y z)) (fun _ x y z => (f x y z).2)

/-- The packed halves of a register (R99). -/
def half (x : W64) (h : Nat) : Nat := (x >>> (16 * h)).toNat % 2 ^ 16
end Sys2Proof.Machine

namespace Sys2Proof.Machine
/-- Translating and setting the A and D bits of leaves (R170) changes no part of the state but memory, its cached copies, the
cached translations, the count of free choices, and what a checkpoint does to copy a page first (R330). -/
def State.OnlyTranslated (s t : State) : Prop :=
  t = { s with mem := t.mem, dirty := t.dirty, tlb := t.tlb, freeCount := t.freeCount, ckpt := t.ckpt, store := t.store, nextId := t.nextId }

/-- The fault-buffer entry of a new fault (R176). -/
def newFault (w : Who) (kind : BitVec 2) (va : Nat) (cause level : BitVec 3) : FaultEntry :=
  { asid := BitVec.ofNat 16 w.asid, slot := w.slot, core := w.core, unit := w.unit, level := level, access := kind, cause := cause,
    va := BitVec.ofNat 57 va, waiters := [w.waiter] }

/-- Every translated byte lies in local HBM under one key id. -/
def AllLocal (ps : List (Nat × Segs)) (key : Nat) : Prop := ∀ x ∈ ps, ∀ y ∈ x.2, ∃ pa, y.1 = .here pa key

/-- Every translated byte that lies in local HBM lies there under one key id. -/
def OneKey (ps : List (Nat × Segs)) (key : Nat) : Prop :=
  ∀ x ∈ ps, ∀ y ∈ x.2, (∃ pa, y.1 = .here pa key) ∨ ∃ h d pa, y.1 = .away h d pa

/-- The writes that stores of the segments post to remote pages: the host or a device, the address there, and the bytes. -/
def segsPost : Segs → List Byte → List (Bool × BitVec 18 × Nat × List Byte)
  | [], _ => []
  | (.here _ _, n) :: r, bs => segsPost r (bs.drop n)
  | (.away h d a, n) :: r, bs => (h, d, a, bs.take n) :: segsPost r (bs.drop n)

/-- The byte that stores of the segments, in order, leave at a physical address, if they store there. -/
def segsLeave : Segs → List Byte → Nat → Option Byte
  | [], _, _ => none
  | (.here a _, n) :: r, bs, pa =>
    (segsLeave r (bs.drop n) pa).orElse (fun _ => if a ≤ pa ∧ pa < a + n then (bs.take n)[pa - a]? else none)
  | (.away _ _ _, n) :: r, bs, pa => segsLeave r (bs.drop n) pa

/-- The byte that the lanes' stores of n bytes leave at a physical address: that of the last lane that stores there (R172). -/
def lanesLeave (n : Nat) (f : Nat → W64) : List (Nat × Segs) → Nat → Option Byte
  | [], _ => none
  | (L, p) :: r, pa => (lanesLeave n f r pa).orElse (fun _ => segsLeave p (valBytes n (f L).toNat) pa)

/-- Some segment of the lanes touches the 64-byte block of a physical address. -/
def touchesBlock (ps : List (Nat × Segs)) (block : Nat) : Prop :=
  ∃ x ∈ ps, ∃ y ∈ x.2, ∃ a key, y.1 = .here a key ∧ a / 64 ≤ block ∧ block ≤ (a + y.2 - 1) / 64

/-- What a store of n bytes a lane leaves of bytes, from the state after translation: the stored bytes read under the key as stored,
every other byte reads under it as before, and blocks that no lane touches are left alone; the bytes for remote pages are posted, lane by
lane in ascending order, as writes of the unit that have not been performed. -/
structure State.StoredBytes (s t u : State) (n key : Nat) (f : Nat → W64) (ps : List (Nat × Segs)) : Prop where
  stored : ∀ pa b, lanesLeave n f ps pa = some b → u.loadByte pa key = b
  kept   : ∀ pa, lanesLeave n f ps pa = none → u.loadByte pa key = t.loadByte pa key
  apart  : ∀ pa, ¬ touchesBlock ps (pa / 64) → Memory.read u.mem pa = Memory.read t.mem pa ∧ u.blockKey (pa / 64) = t.blockKey (pa / 64)
  posted : ∃ new, u.pending = t.pending ++ new ∧
    new.map (fun a => (a.host, a.dev, a.addr, a.write.getD [])) = ps.flatMap (fun x => segsPost x.2 (valBytes n (f x.1).toNat)) ∧
    ∀ a ∈ new, a.owner = s.who.waiter ∧ a.write.isSome = true ∧ a.atomic = none ∧ a.via = none ∧ a.answer = none
  warp   : u.w = { t.w with opq := u.w.opq, units := u.w.units }
  others : ∀ k, k ≠ s.cur → u.warpAt k = t.warpAt k
  rest   : u = { t with mem := u.mem, keyOf := u.keyOf, dirty := u.dirty, warps := u.warps, ckpt := u.ckpt, store := u.store,
                        nextId := u.nextId, pending := u.pending }

/-- The effect of a store of n bytes a lane: those bytes, and the queue entries that it reads; nothing but memory, the record of
keys and dirty blocks, what is posted, the queue entries, and what a checkpoint copies first (R330) changes. -/
structure State.StoreResult (s t u : State) (ops : List Opnd) (n key : Nat) (f : Nat → W64) (ps : List (Nat × Segs)) : Prop where
  bytes : s.StoredBytes t u n key f ps
  queue : u.w = { t.w with opq := s.w.opq.drop (s.popped ops) }

/-- A scratchpad after the lanes' stores of n bytes: the last lane that covers a byte leaves its own. -/
def spadLeaves (addr : Nat → Nat) (n : Nat) (f : Nat → W64) (old : Memory) (ls : List Nat) (a : Nat) : Byte :=
  match ls.reverse.find? (fun L => decide (addr L ≤ a) && decide (a < addr L + n)) with
  | some L => BitVec.ofNat 8 ((f L).toNat / 256 ^ (a - addr L))
  | none => Memory.read old a

/-- Byte o of a lane's private scratch lies in the stack area of the routine that the lane runs (R269, R270). -/
def State.inStack (s : State) (L o : Nat) : Prop :=
  ∃ f x, Table.find s.w.frames L = some f ∧ Table.find s.objs f.obj = some x ∧ (x.words.getD 5 0).toNat ≤ o ∧ o < s.launch.scratch

/-- The value a load writes from the bytes read, by width code (R183). -/
def loaded (code : Nat) (bs : List Byte) : W64 :=
  let v := bytesVal bs
  match code with
  | 0 => BitVec.ofNat 64 (v % 2 ^ 8)
  | 1 => ((BitVec.ofNat 8 v).signExtend 32).setWidth 64
  | 2 => BitVec.ofNat 64 (v % 2 ^ 16)
  | 3 => ((BitVec.ofNat 16 v).signExtend 32).setWidth 64
  | 4 => BitVec.ofNat 64 (v % 2 ^ 32)
  | _ => BitVec.ofNat 64 v
end Sys2Proof.Machine

namespace Sys2Proof.Machine
/-- A result of n registers a lane that a render unit or the radiance cache computed (R285): every lane that has a value
takes it at commit, from the effective register e on. -/
def State.RenderResult (s t u : State) (ops : List Opnd) (l : BitVec 4) (n e : Nat) (vals : List (Nat × Option (List W32))) : Prop :=
  let taken := vals.filterMap (fun x => x.2.map (fun v => (x.1, v)))
  t.LateResult u ops l (Pending.of (Lanes.of (fun L => taken.any (fun x => x.1 = L)))
    ((List.range n).map (fun i => (e + i, allLanes (fun L => match taken.find? (fun x => x.1 = L) with
      | some x => x.2.getD i 0
      | none => s.w.vreg (e + i) L)))) [])

/-- A render instruction whose lanes read at aligned addresses and whose reads succeeded: each lane has the value that the
instruction's rule gives it from the state its reads were made in, and the results are pending. -/
def State.RenderCase (s : State) (i : Instr) (l : BitVec 4) (c : BitVec 7) (ops : List Opnd) (align n : Nat)
    (f : State → Nat → Nat → Got (Ans (Option (List W32)))) : Prop :=
  s.Admits acceptAll ops →
    (∀ L, s.crookedLane (s.renderAddr ops c) align = some L → exec i s = .next (s.takeTrap .misalign L)) ∧
    (∀ t vals, (∀ L, L < 32 → s.act.getLsbD L = true → s.renderAddr ops c L % align = 0) → s.full = false →
      (s.eachLane (fun s L => f s L (s.renderAddr ops c L)) (Lanes.list s.act)).atomic s s.who.waiter = .ok t (.val vals) →
      (∀ L, L < 32 → s.act.getLsbD L = true →
        ∃ s1 s2 v, (L, v) ∈ vals ∧ f s1 L (s1.renderAddr ops c L) = .ok s2 (.val v) ∧ s1.renderAddr ops c L = s.renderAddr ops c L) ∧
      s.Completes i (fun u => s.RenderResult t u ops l n (s.regAt ops .a) vals))

/-- Words of n vector registers of a lane from e on. -/
def State.laneWords (s : State) (e n L : Nat) : List Nat := (List.range n).map (fun i => (s.w.vreg (e + i) L).toNat)
end Sys2Proof.Machine

namespace Sys2Proof.Machine
/-- The unit's GUARD, XIDX and IMM words before the next prefix word (R30 to R33). -/
def State.prefixAt (s : State) (f : Framing) : IUnit := { s.u with pc := s.u.pc + 4, frame := { f with first := some s.u.origin } }

/-- The unit has passed its instruction and waits. -/
def State.passed (s : State) (p : Park) : IUnit :=
  { s.u with pc := s.u.pc + 4, frame := Framing.blank, issued := none, mid := false, cover := none, park := p }

/-- Only the issuing unit of the warp is changed. -/
def State.OnlyUnit (s t : State) (u : IUnit) : Prop := t = s.setU u

/-- A lane of a warp stands at an address in a unit that goes on there. -/
def Warp.StandsAt (w : Warp) (L : Nat) (pc : W64) : Prop :=
  ∃ k u, Table.find w.units k = some u ∧ u.lanes.getLsbD L = true ∧ u.pc = pc ∧ u.park ≠ .parent

/-- The issuing unit has no uncommitted result. -/
def State.NoResults (s : State) : Prop := ∀ p ∈ s.w.pend, p.unit ≠ s.unit

/-- A control transfer of the lanes of ACT to their targets, the unit's other lanes to the next word (R125): the address of
every lane, the link register's lanes, and nothing else but the loops that lanes leave. -/
def State.TransferResult (s t : State) (target : Nat → W64) (link : Option Nat) : Prop :=
  (∀ L, L < 32 → s.u.lanes.getLsbD L = true →
    t.w.StandsAt L (if s.act.getLsbD L then target L else s.u.pc + 4)) ∧
  (∀ e, link = some e → ∀ L, L < 32 → s.act.getLsbD L = true → t.w.pair e L = s.u.pc + 4) ∧
  (∀ x L, L < 32 → (s.act.getLsbD L = false ∨ ∀ e, link = some e → x ≠ e ∧ x ≠ e + 1) → t.w.vreg x L = s.w.vreg x L) ∧
  t.w = { s.w with units := t.w.units, vregs := t.w.vregs, loops := t.w.loops, pend := t.w.pend } ∧
  (∀ p, p ∈ t.w.pend ↔ p ∈ s.w.pend) ∧ (∀ k, k ≠ s.cur → t.warpAt k = s.warpAt k) ∧ t = { s with warps := t.warps }

/-- The division that a transfer needs fits the split table (R126). -/
def State.Divides (s : State) (target : Nat → W64) : Prop :=
  ∀ n, s.w.divide s.unit s.u.lanes (fun L => if s.act.getLsbD L then ⟨target L, 0⟩ else s.fallDest L) ≠ .error n

/-- The warp's register effect alone: the issuing warp changes as said, its queue entries excepted, and nothing else. -/
def State.WarpResult (s u : State) (ops : List Opnd) (w : Warp) : Prop :=
  u.w = { w with opq := w.opq.drop (s.popped ops) } ∧ s.OnlyWarp u 0

/-- CSR numbers that any mode reads, and those that handler mode reads as well (R39, R309). -/
def plainCsrs : List Nat :=
  [0x000, 0x001, 0x002, 0x003, 0x005, 0x008, 0x009, 0x00A, 0x00B, 0x00C, 0x00D, 0x00E, 0x010, 0x011,
   0x100, 0x101, 0x102, 0x103, 0x104, 0x105, 0x106, 0x107]
def handlerCsrs : List Nat := [0x800, 0x801, 0x802, 0x803, 0x804, 0x805, 0x806, 0x807, 0x808, 0x810]

/-- What the registers of those numbers read (R39): %wb, %part, %gang, %cshape, %fflags, %x0 to %x3, %lc0 to %lc2, %rgent, %rgcnt, %isarev,
%core within its die, %die, %wg, %warp, %asid, %alloc and %hbeat. -/
def State.plainRegisters (s : State) : List (Nat × W64) :=
  [(0x000, s.w.wb.setWidth 64), (0x001, s.w.part.setWidth 64),
   (0x002, if s.unit < 8 then (sliceMask s.u.lanes).setWidth 64 else 1#64 <<< (Lanes.lowest s.u.lanes / 4)), (0x003, s.w.cshape.setWidth 64),
   (0x005, s.core.fflags.setWidth 64), (0x008, (Table.get 0#16 s.w.xregs 0).setWidth 64), (0x009, (Table.get 0#16 s.w.xregs 1).setWidth 64),
   (0x00A, (Table.get 0#16 s.w.xregs 2).setWidth 64), (0x00B, (Table.get 0#16 s.w.xregs 3).setWidth 64),
   (0x00C, (Table.get 0#32 s.w.lcs 0).setWidth 64), (0x00D, (Table.get 0#32 s.w.lcs 1).setWidth 64),
   (0x00E, (Table.get 0#32 s.w.lcs 2).setWidth 64), (0x010, s.w.rgent), (0x011, s.w.rgcnt.setWidth 64), (0x100, 2),
   (0x101, BitVec.ofNat 64 (s.g.core % 48)), (0x102, BitVec.ofNat 64 (s.g.core / 48)), (0x103, BitVec.ofNat 64 s.g.slot),
   (0x104, BitVec.ofNat 64 s.w.slot), (0x105, BitVec.ofNat 64 s.g.asid), (0x106, BitVec.ofNat 64 s.launch.alloc),
   (0x107, BitVec.ofNat 64 (s.tick / 64))]
/-- The handler registers (R309): %tcause, %tpc, %tnext, %trgent, %trgcnt, %tmask, %tunit, %tinfo, %tregion and %splext. -/
def State.handlerRegisters (s : State) : List (Nat × W64) :=
  [(0x800, s.w.tcause.setWidth 64), (0x801, s.w.tpc), (0x802, s.w.tnext), (0x803, s.w.trgent), (0x804, s.w.trgcnt.setWidth 64),
   (0x805, s.w.tmask.setWidth 64), (0x806, s.w.tunit.setWidth 64), (0x807, s.w.tinfo), (0x808, (BitVec.ofBool s.w.tregion).setWidth 64),
   (0x810, s.w.splext.setWidth 64)]
end Sys2Proof.Machine

namespace Sys2Proof.Machine
/-- The registers and units of a trap frame have come back (R312). -/
def State.Resumed (s t : State) (f : TrapFrame) : Prop :=
  t.w.handler = false ∧ t.w.tframe = none ∧ t.w.loops = f.loops ∧ t.w.wb = f.wb ∧ t.w.part = f.part ∧ t.w.xregs = f.xregs ∧
  t.w.preds = f.preds ∧ t.w.region = f.region ∧ t.w.vregs = s.w.vregs ∧ t.unit = f.unit ∧
  (∀ i, t.w.sreg i = if 96 ≤ i ∧ i < 112 then f.high.getD (i - 96) 0 else s.w.sreg i) ∧
  (∀ k, k ≠ f.unit → Table.find t.w.units k = Table.find f.units k) ∧ (∀ k, k ≠ s.cur → t.warpAt k = s.warpAt k) ∧
  t = { s with warps := t.warps, unit := t.unit }
end Sys2Proof.Machine

namespace Sys2Proof.Machine
/-- The key order of LREORD (R146): unsigned, signed, or by the mapped float bits. -/
def keyLess (k : Nat) (x y : W64) : Bool :=
  let f := fun (z : W64) => let v : W32 := z.setWidth 32; if v.msb then ~~~ v else v ||| 0x80000000#32
  match k with
  | 0 => (x.setWidth 32).ult (y.setWidth 32)
  | 1 => (x.setWidth 32).slt (y.setWidth 32)
  | 2 => (f x).ult (f y)
  | 3 => x.ult y
  | _ => x.slt y

/-- The integer lane operations (R41). -/
def laneInt (k : Nat) (x y : W64) : W64 :=
  let p : W32 := x.setWidth 32; let q : W32 := y.setWidth 32
  let n := fun (z : W32) => z.setWidth 64
  match k with
  | 0 => n (p + q)
  | 1 => n (if q.slt p then q else p)
  | 2 => n (if q.ult p then q else p)
  | 3 => n (if p.slt q then q else p)
  | 4 => n (if p.ult q then q else p)
  | 5 => n (p &&& q)
  | 6 => n (p ||| q)
  | 7 => n (p ^^^ q)
  | _ => x + y

/-- The value of the operand of a lane operation: its low 32 bits, or all 64 of a pair. -/
def laneVal (k : Nat) (x : W64) : W64 := if k = 11 then x else (x.setWidth 32).setWidth 64

/-- The values of lanes combined from the lowest lane up; none for no lane. -/
def combineInt (k : Nat) (val : Nat → W64) : List Nat → Option W64
  | [] => none
  | L :: ls => some (ls.foldl (fun x J => laneInt k x (laneVal k (val J))) (laneVal k (val L)))
end Sys2Proof.Machine

namespace Sys2Proof.Machine
/-- Axis k of a key of D axes of B bits, and the key of axis values (R107). -/
def axisVal (D B x k : Nat) : Nat := ((List.range B).map (fun i => if x.testBit (i * D + k) then 2 ^ i else 0)).sum
def keyVal (D B : Nat) (f : Nat → Nat) : Nat :=
  ((List.range (D * B)).map (fun j => if (f (j % D)).testBit (j / D) then 2 ^ j else 0)).sum

/-- The warp's shape is valid and gives D axes of B bits (R106). -/
structure State.Shaped (s : State) (D B : Nat) : Prop where
  shape : s.w.cshape = BitVec.ofNat 16 (16 * B + D)
  axes  : 1 ≤ D ∧ D ≤ 8 ∧ 1 ≤ B ∧ D * B ≤ 64

/-- A key lies in the box of two corners (R116). -/
def boxed (D B lo hi x : Nat) : Prop :=
  ∀ k < D, axisVal D B lo k ≤ axisVal D B x k ∧ axisVal D B x k ≤ axisVal D B hi k

/-- An axis plus or minus an offset axis, exact (R114). -/
def offsetSum (sub : Bool) (B x y : Nat) : Int :=
  let d := (BitVec.ofNat B y).toInt
  if sub then (x : Int) - d else x + d
def offsetOverflows (sub : Bool) (B x y : Nat) : Bool :=
  decide (offsetSum sub B x y < 0) || decide ((2 ^ B : Int) ≤ offsetSum sub B x y)

/-- What CSPLIT lists of a box from key r on (R120, R121): the first n of the maximal runs of consecutive keys of the box, the first cut
off at r, as first and last key in ascending order, and the first key of the next run, if there is one. -/
structure ListsRuns (box : Nat → Prop) (r n : Nat) (runs : List (Nat × Nat)) (next : Option Nat) : Prop where
  keys    : ∀ x ∈ runs, r ≤ x.1 ∧ x.1 ≤ x.2 ∧ ∀ z, x.1 ≤ z → z ≤ x.2 → box z
  maximal : ∀ x ∈ runs, (x.1 = r ∨ ¬ box (x.1 - 1)) ∧ ¬ box (x.2 + 1)
  rising  : runs.Pairwise (fun x y => x.2 < y.1)
  count   : runs.length ≤ n ∧ (next.isSome = true → runs.length = n)
  after   : ∀ a, next = some a → r ≤ a ∧ box a ∧ (a = r ∨ ¬ box (a - 1)) ∧ ∀ x ∈ runs, x.2 < a
  all     : ∀ z, r ≤ z → box z → (∃ x ∈ runs, x.1 ≤ z ∧ z ≤ x.2) ∨ ∃ a, next = some a ∧ a ≤ z

/-- Operands of CADD and CSUB, and of the box instructions. -/
def offsetOps (c b : BitVec 7) (a : BitVec 6) : List Opnd := [vd .a (a ++ 0#1) 2, vkey .b b, vkey .c c]
def boxOps (c b a : BitVec 7) : List Opnd := [vd .a a 2, vkey .b b, sblock .c c 3]
def splitOps (c b a : BitVec 7) : List Opnd := [sblock .a a 2, sfar .b b 2, sblock .c c 3]
end Sys2Proof.Machine

namespace Sys2Proof.Machine
/-- Only the workgroup of the issuing warp changes, and the warp's queue entries. -/
def State.GroupResult (s u : State) (ops : List Opnd) (g : Workgroup) : Prop :=
  u.g = g ∧ u.w = { s.w with opq := s.w.opq.drop (s.popped ops) } ∧ (∀ k, k ≠ s.cur → u.warpAt k = s.warpAt k) ∧
  (∀ k, k ≠ s.w.wg → u.wgAt k = s.wgAt k) ∧ u = { s with warps := u.warps, wgs := u.wgs }

/-- A tile operation has been accepted (R191): last of the queue, with the next acceptance number. -/
def accepted (e : Engine) (tile : Nat) (op : TileOp) : Engine :=
  { e with ops := e.ops ++ [op], accepted := e.accepted + 1, lastOp := Table.set e.lastOp tile (e.accepted + 1) }

/-- The operation at the head of the queue has retired. -/
def retired (e : Engine) (seq : Nat) (rest : List TileOp) : Engine := { e with ops := rest, retired := seq }

/-- Only one workgroup changes. -/
def State.OnlyGroup (s t : State) (wg : Nat) (g : Workgroup) : Prop :=
  t.wgAt wg = g ∧ (∀ k, k ≠ wg → t.wgAt k = s.wgAt k) ∧ t = { s with wgs := t.wgs }

/-- What an owner has asked for goes unused: its requests are gone, and what it has posted stays, as everything of others does. -/
def State.AsksDropped (s t : State) (o : Waiter) : Prop := t.pending = s.pending.filter (fun a => a.posted || decide (a.owner ≠ o))

/-- A courier stream of a core has been set, its lines cleared in the workgroup's presence bits (R174, R203). -/
def State.StreamResult (s u : State) (ops : List Opnd) (n : Nat) (st : Stream) (lines : List Nat) : Prop :=
  u.streamAt s.g.core n = st ∧ (∀ m, m ≠ n → u.streamAt s.g.core m = s.streamAt s.g.core m) ∧
  u.coreAt s.g.core = { s.core with streams := (u.coreAt s.g.core).streams } ∧
  (∀ k, k ≠ s.g.core → u.coreAt k = s.coreAt k) ∧
  (∀ l, l ∈ u.g.absent ↔ l ∈ s.g.absent ∨ l ∈ lines) ∧ u.g = { s.g with absent := u.g.absent } ∧
  (∀ k, k ≠ s.w.wg → u.wgAt k = s.wgAt k) ∧
  u.w = { s.w with opq := s.w.opq.drop (s.popped ops) } ∧ (∀ k, k ≠ s.cur → u.warpAt k = s.warpAt k) ∧
  s.AsksDropped u (.stream s.g.core n) ∧ u = { s with warps := u.warps, wgs := u.wgs, cores := u.cores, pending := u.pending }
end Sys2Proof.Machine

namespace Sys2Proof.Machine
/-- A write of a letterbox (R234, R236, R239): the latch takes the value; an idle queue whose latch then exceeds its read pointer
begins to wait, and an active one with nothing left becomes idle, unless the scheduler is restarting. -/
def State.latched (s : State) (k : Nat) (v : W64) : Queue :=
  let q := s.queueAt k
  if s.restarting then { q with latch := v } else match q.state with
  | .idle => if q.readPtr.toNat < v.toNat then { q with latch := v, state := .waiting, stamp := s.tick } else { q with latch := v }
  | .active =>
    if v = q.readPtr ∧ q.waiting = none ∧ q.started = none ∧ q.owePtr = false then
      { q with latch := v, ahead := [], calls := [], nextRing := q.readPtr.toNat, barred := false, tenured := false, state := .idle }
    else { q with latch := v }
  | _ => { q with latch := v }

/-- Only one queue changes. -/
def State.OnlyQueue (s t : State) (q : Nat) : Prop := (∀ k, k ≠ q → t.queueAt k = s.queueAt k) ∧ t = { s with queues := t.queues }

/-- Only one deadline stream changes, to a stamp and a guard, raised as R249 says at the present heartbeat. -/
def State.StreamSet (s t : State) (n : Nat) (stamp : W64) (guard : W32) : Prop :=
  t.deadlineAt n = { stamp := stamp, guard := guard, owner := (s.deadlineAt n).owner,
                     raised := decide (stamp.toNat ≤ s.tick / 64 + guard.toNat) && decide (s.tick / 64 < stamp.toNat) } ∧
  (∀ k, k ≠ n → t.deadlineAt k = s.deadlineAt k) ∧ t = { s with deadlines := t.deadlines }

/-- The packet at the head of an active queue that nothing holds stands at its issue: its ring packet is below the latch, its header
reads as before unless it has started, it is well formed, of a type, and before it starts need not wait for launches to drain (R240,
R241). -/
structure State.AtIssue (s t : State) (q type : Nat) (f : Fetched) (r : List Fetched) : Prop where
  active : (s.queueAt q).state = .active
  free   : s.queueFree q = true
  ahead  : (s.queueAt q).ahead = f :: r
  below  : f.ring < (s.queueAt q).latch.toNat
  more   : (s.queueAt q).latch ≠ (s.queueAt q).readPtr
  same   : (match (s.queueAt q).started with
    | some _ => Got.ok s f
    | none => s.rereadHead q f).atomic s (.queue q) = .ok t f
  calm   : t.unperformedBy (.queue q) = false
  good   : packetBad f.words = false
  type   : packetType f.words = type
  drained : packetFlag f.words 0 = true → (s.queueAt q).started = none → t.draining q = false

/-- A flit in sequence has been taken at a port where nothing waits to go out (R321): its k flits are counted, an idle flit with its own CRC gives their
credits back, and the credits it brings are returned. -/
def State.tookFlit (s : State) (port : Nat) (f : Flit) (k : Nat) : State :=
  let p := s.portAt port
  let idle : Outgoing :=
    { head := { dest := f.src, src := s.devid, kind := 0, seq := 0, credits := BitVec.ofNat 8 k, crc := 0 }, addr := 0, bytes := 0, atomic := none,
      req := 0, data := [] }
  (s.setPort port { p with expect := p.expect + BitVec.ofNat 8 k, replay := none, out := p.out ++ [idle.stamped p.sent],
                           credits := p.credits + f.credits.toNat, flight := p.flight.drop f.credits.toNat }).credited port
    (p.flight.take f.credits.toNat)
end Sys2Proof.Machine

/-- R20 to R22, R41: words that the spec writes out beside its statements decode to those statements (subtract, add of a constant, POLL.or,
CADD with p6, CCMP.lt, CNEXT, CSPLIT, WAIT, BINIT, MMA, ACCWR, CRSTART, WCOLL, CSRR of %fflags, LOOP), and a word of a reserved major, of a
reserved sub-operation, or with an unused field set decodes to none. -/
def Obligations.WordsDecode : Prop :=
  decode 0x1040C210#32 = .ok (.sub 2 3 4 0) ∧ decode 0x08008121#32 = .ok (.addImm32 64 2 2) ∧ decode 0x100043C8#32 = .ok (.pollOr 1 7) ∧
  decode 0x310182C0#32 = .ok (.cadd 8 6 2 1) ∧ decode 0x50C108C0#32 = .ok (.ccmp 6 4 2 1) ∧ decode 0x01418441#32 = .ok (.cnext 10 6 8) ∧
  decode 0x11440A42#32 = .ok (.csplit 1 10 16 20) ∧ decode 0x03C60A5C#32 = .ok (.wait 30 24 20) ∧ decode 0x0162805B#32 = .ok (.binit 11 10) ∧
  decode 0x080500E0#32 = .ok (.mma 64 20 1) ∧ decode 0x20620161#32 = .ok (.accwr 3 8 2) ∧ decode 0x05018A64#32 = .ok (.crstart 40 6 20) ∧
  decode 0x40A10A6E#32 = .ok (.wcoll 5 4 20) ∧ decode 0x00A00A79#32 = .ok (.csrr 5 20) ∧ decode 0x00414005#32 = .ok (.loop 2 5 0) ∧
  decode 0x00000008#32 = .error .reservedMajor ∧ decode 0xC0000006#32 = .error .reservedSub ∧ decode 0x300000DB#32 = .error .unusedField

/-- R20 to R23, R41: decode of the word that encodes a well-formed instruction is that instruction, with every operand; and a word
that decodes to an instruction is the one that encodes it. -/
def Obligations.DecodeAndEncodeAgree : Prop :=
  ∀ (i : Instr) (w : W32), (i.wf = true → encode i = some w → decode w = .ok i) ∧ (decode w = .ok i → encode i = some w)

/-- R9, R39, R309, R339: the state at module reset. The heartbeat and the tick count are 0; the device id, the boot status, the error
counts, the withheld registers, power, temperature and measurements read 0; no fault-buffer entry is taken; the memories have their
canonical form. That memory reads as zero is the model's choice (log entry 1), and so are an empty fault buffer, contexts that are Free and
queues that are Disabled (log entry 4). -/
def Obligations.StateAtReset : Prop :=
  State.reset.hbeat = 0 ∧ State.reset.tick = 0 ∧
  (∀ n, n = 0xC10 ∨ n = 0xC11 ∨ n = 0xC18 ∨ n = 0xC19 ∨ n = 0xC1A ∨ n = 0xC1B ∨ n = 0xC1C ∨ n = 0xC1D ∨ n = 0xC1E ∨ (0xC40 ≤ n ∧ n ≤ 0xC57) →
    ∀ die, State.reset.deviceReg die n = some 0) ∧
  (∀ n, Table.find State.reset.faults n = none) ∧ (∀ a, Memory.read State.reset.mem a = 0) ∧
  (∀ k, (State.reset.ctxAt k).state = .free) ∧ (∀ q, (State.reset.queueAt q).state = .disabled) ∧ State.reset.MemoriesCanonical

/-- The three memories of the device outside its cores, HBM, control complex memory and flash, have their canonical form: addresses
rising and no byte listed that reads as an unlisted one; a step keeps that (the form is the model's). -/
def Obligations.MemoriesStayCanonical : Prop :=
  ∀ s t : State, s.MemoriesCanonical → step s = .next t → t.MemoriesCanonical

/-- R20, R22, R36, R132, R172, R175: a step of a powered module in which nothing is due, where the agenda is empty or its first choice
is the unit, and it is a unit's turn: the unit's first result whose window has closed commits; else the word at its program counter is
fetched, and a word that decodes to an instruction runs as exec of it, with the word kept; a word that comes after remote stores of the
warp that have not been performed waits (the model's choice: log entry 10); a word that decodes to none raises ILLEGAL_OP; a fetch that
faults parks the unit. The turn of an access that waits in a trap frame runs its word in the frame's place, and mayWord holds a
handler's access of those lanes until then (the model's reading: log entry 79). Each turn is noted
(State.tookTurn). Which unit issues, and that turns of the frame's units are numbered from 1024 on, is the model's choice (log entry 14). -/
def Obligations.StepRunsDecodedInstruction : Prop :=
  ∀ (s t : State) (warp unit : Nat) (word : W32) (i : Instr) (r : List Choice),
    s.power ≠ .off → s.power ≠ .recovery → s.due = none →
    (s.agenda = [] ∧ s.nextUnit = some (warp, unit)) ∨
      (s.agenda = .issue warp unit :: r ∧ State.mayGo { s with agenda := r } warp unit = true) →
    let s0 := { s with agenda := s.agenda.tail }
    let s1 := { s0 with cur := warp, unit := unit, byLane := s0.anyWait }
    let took := fun (x : State) => x.tookTurn warp unit (s0.warpAt warp)
    let z := { s1.setW s1.w.swapFrame with unit := unit - 1024 }
    (1024 ≤ unit → z.fetchWord = .ok t word → t.mayWord word = true → decode word = .ok i →
      step s = thenNext (exec i { t with ir := word }) (fun x => took (s1.leaveFrame x (unit - 1024)))) ∧
    (unit < 1024 →
    (∀ n, closedIndex unit s1.w.pend 0 = some n → step s = thenNext (exec (.longLatencyCommit warp n) s1) took) ∧
    (closedIndex unit s1.w.pend 0 = none →
      (s1.fetchWord = .ok t word →
        (t.mayWord word = true → decode word = .ok i → step s = thenNext (exec i { t with ir := word }) took) ∧
        (t.mayWord word = false → step s = .next (took t)) ∧
        (∀ e, t.mayWord word = true → decode word = .error e →
          step s = .next (took (State.takeTrap { t with ir := word } .illegalOp word.toNat)))) ∧
      (∀ d n, s1.fetchWord = .fault t d n → step s = .next (took (t.park (.fault d n)))))) ∧
    (∀ pa key l e a, s1.w.loops = [] → s1.walk s1.g.asid s1.u.pc.toNat = .leaf a e l → placeIn e l s1.u.pc.toNat = .here pa key →
      s1.fetchWord = .ok t word → s1.u.pc.toNat % 4 = 0 → s1.tlb = [] → word = BitVec.ofNat 32 (bytesVal (t.loadBytes pa key 4)))

/-- R30 to R33: a GUARD that is the first of its prefixes and under no coverage, an XIDX after no XIDX or IMM that marks a field,
and an IMM after no IMM are taken: the unit goes on at the next word with that prefix in force; a prefix that breaks this order
raises ILLEGAL_OP. Nothing else changes. -/
def Sys2Proof.Machine.PrefixWords : Prop :=
  ∀ (s : State) (n : BitVec 2) (k : BitVec 1) (p : BitVec 3) (v : BitVec 25) (x u q : BitVec 1) (y z w : BitVec 2),
    let f := s.u.frame
    let on := fun (b : BitVec 1) (i : BitVec 2) => if b = 1 then some i else none
    let ill := Host.Outcome.next (φ := Fault) (ρ := Refusal) (s.takeTrap .illegalOp s.ir.toNat)
    (f.guard = none → f.xidx = none → f.imm = none → s.u.cover = none →
      exec (.guard n k p) s = .next (s.setU (s.prefixAt { f with guard := some ⟨p, decide (k = 1), n.toNat + 1⟩ }))) ∧
    (f.guard ≠ none ∨ f.xidx ≠ none ∨ f.imm ≠ none ∨ s.u.cover ≠ none → exec (.guard n k p) s = ill) ∧
    (f.imm = none → exec (.imm v) s = .next (s.setU (s.prefixAt { f with imm := some v }))) ∧
    (f.imm ≠ none → exec (.imm v) s = ill) ∧
    (f.xidx = none → f.imm = none → x = 1 ∨ u = 1 ∨ q = 1 →
      exec (.xidx x y u z q w) s = .next (s.setU (s.prefixAt { f with xidx := some (on q w, on u z, on x y) }))) ∧
    (f.xidx ≠ none ∨ f.imm ≠ none ∨ (x = 0 ∧ u = 0 ∧ q = 0) → exec (.xidx x y u z q w) s = ill)

/-- R20, R30, R35, R137: completing an instruction moves the unit to the next word with its framing words used up, its coverage
one instruction shorter and its windows one shorter; at the end address of an active loop of its lanes the unit waits at the
back-edge instead. No other unit, no register, no flag and no memory changes, where the unit has no uncommitted result or its
next word ends no loop. -/
def Sys2Proof.Machine.CompletingAdvancesUnit : Prop :=
  ∀ (s : State),
    let t := s.retire
    let edge := endsLoop s.w.loops s.u.lanes (s.u.pc + 4)
    t.u = { s.u with pc := s.u.pc + 4, frame := Framing.blank, issued := none, olds := [], mid := !edge && opensGroup s.ir,
                     cover := if edge then none else coverAfter s.u.inForce,
                     park := if edge then .backEdge else s.u.park } ∧
    (∀ k, k ≠ s.unit → Table.find t.w.units k = Table.find s.w.units k) ∧
    (∀ k, k ≠ s.cur → t.warpAt k = s.warpAt k) ∧
    (edge = false ∨ s.NoResults →
      t.w = { s.w with units := t.w.units, pend := t.w.pend } ∧ t = { s with warps := t.warps }) ∧
    (edge = false → t.w.pend = s.w.pend.map (fun p => if p.unit = s.unit then { p with left := p.left - 1 } else p))

/-- Prefix words and what completing an instruction does to its unit: the two statements before this one. -/
def Obligations.PrefixesAndCompletion : Prop :=
  Sys2Proof.Machine.PrefixWords ∧ Sys2Proof.Machine.CompletingAdvancesUnit

/-- R23 to R32: what an operand field stands for. A register operand reads the effective register, in the vector class that of the
window base; fixed vector values 112 to 125 give s0 to s7, 0, 1, all ones, the lane, the thread and the workgroup; fixed scalar values
give 0, 1, all ones and the launch's numbers; the constant of an IMM word replaces c, zero-extended at 32 bits and sign-extended at 64.
The instruction is one that issues for the first time: one whose accesses are under way keeps what it was given. -/
def Sys2Proof.Machine.OperandValues : Prop :=
  ∀ (s : State) (k : Consts) (ops : List Opnd) (p : Pos) (f : BitVec 7) (w : BitVec 1) (L : Nat),
    let n := regsW w
    let v := s.value k ops (vs p f n) L
    let x := s.value k ops (ss p f) L
    s.u.issued = none →
    (p ≠ .c ∨ s.u.frame.imm = none →
      (f.toNat < 112 → s.u.mark p = none →
        v = (if w = 1 then s.w.pair (s.w.wb.toNat + f.toNat) L else (s.w.vreg (s.w.wb.toNat + f.toNat) L).setWidth 64) ∧ x = s.w.sreg f.toNat) ∧
      (∀ i, f.toNat < 112 → s.u.mark p = some i → x = s.w.sreg (f.toNat + (s.w.xreg i.toNat).toNat) ∧
        s.effective (vs p f n) = s.w.wb.toNat + f.toNat + (s.w.xreg i.toNat).toNat) ∧
      (112 ≤ f.toNat → f.toNat < 120 → v = if w = 1 then s.w.sreg (f.toNat - 112) else ((s.w.sreg (f.toNat - 112)).setWidth 32).setWidth 64) ∧
      (f = 120 → v = 0) ∧ (f = 121 → v = if w = 1 then 1 else k.one.setWidth 64) ∧
      (f = 122 → v = if w = 1 then BitVec.allOnes 64 else k.mone.setWidth 64) ∧ (f = 123 → v = BitVec.ofNat 64 L) ∧
      (f = 124 → v = BitVec.ofNat 64 (32 * s.w.index + L)) ∧ (f = 125 → v = s.g.wgx.setWidth 64) ∧
      (f = 112 → x = 0) ∧ (f = 113 → x = 1) ∧ (f = 114 → x = BitVec.allOnes 64) ∧ (f = 115 → x = s.g.wgx.setWidth 64) ∧
      (f = 116 → x = BitVec.ofNat 64 s.g.grid.1) ∧ (f = 117 → x = BitVec.ofNat 64 s.g.grid.2.1) ∧
      (f = 118 → x = BitVec.ofNat 64 s.g.grid.2.2) ∧ (f = 119 → x = BitVec.ofNat 64 (32 * s.g.nwarps)) ∧
      (f = 122 → x = s.g.coord.1.setWidth 64) ∧ (f = 123 → x = s.g.coord.2.1.setWidth 64) ∧ (f = 124 → x = s.g.coord.2.2.setWidth 64) ∧
      (f = 125 → x = BitVec.ofNat 64 s.w.index) ∧ (f = 126 → x = BitVec.ofNat 64 s.g.nwarps) ∧ (f = 127 → x = s.g.karg)) ∧
    (∀ q, p = .c → s.u.frame.imm = some q → k.uns = false →
      v = (if w = 1 then (q ++ f).signExtend 64 else (q ++ f).setWidth 64) ∧ x = (q ++ f).signExtend 64)

/-- R22, R24, R33, R73: every form that fails to accept its framing words, holds a reserved value or an operand of no legal class takes
ILLEGAL_OP with the instruction word in %tinfo, before REG_BOUND, which a register beyond the allotment takes with the effective
register number; a missing register line or operand-queue entry only makes the unit issue again later. -/
def Sys2Proof.Machine.OperandTraps : Prop :=
  ∀ (s : State) (acc : Accept) (ops : List Opnd) (illegal : Bool) (k : State → Eff),
    (s.framed acc ops = false ∨ illegal = true ∨ ops.any s.illOp = true →
      s.issue acc ops illegal k = .next (s.takeTrap .illegalOp s.ir.toNat)) ∧
    (∀ e, s.framed acc ops = true → ops.any s.illOp = false → ops.findSome? s.boundOp = some e →
      s.issue acc ops false k = .next (s.takeTrap .regBound e)) ∧
    (s.framed acc ops = true → ops.any s.illOp = false → ops.findSome? s.boundOp = none →
      s.missesLine ops = true ∨ s.opqShort ops = true → s.issue acc ops false k = .next s)

/-- What an operand field reads, and the order of the traps of forms and operands: the two statements before this one. -/
def Obligations.OperandFields : Prop :=
  Sys2Proof.Machine.OperandValues ∧ Sys2Proof.Machine.OperandTraps

/-- R70, R73, R74, R75, R77: ADD, SUB, MUL, MULH, MAD, MADH, NEG, ABS, SADD, SSUB, DIV, REM, MIN and MAX of the vector class complete, and
write in the lanes of ACT the N-bit result of those rules; SADD and SSUB raise OF where clamping changes the value, the others
no flag; nothing else changes (State.VecResult). -/
def Obligations.VectorArithmetic : Prop :=
  ∀ (s : State) (w : BitVec 1) (c b a : BitVec 7),
    let n := bitsW w
    let r := regsW w
    s.VecCase (.add c b a w) acceptAll (vvv r c b a) intConsts r (atWidth n (fun _ B C => B + C)) ∧
    s.VecCase (.sub c b a w) acceptAll (vvv r c b a) intConsts r (atWidth n (fun _ B C => B - C)) ∧
    s.VecCase (.mul c b a w) acceptAll (vvv r c b a) intConsts r (atWidth n (fun _ B C => B * C)) ∧
    s.VecCase (.mulhS c b a w) acceptAll (vvv r c b a) intConsts r (atWidth n (fun _ B C => BitVec.ofInt n (B.toInt * C.toInt / 2 ^ n))) ∧
    s.VecCase (.mulhZ c b a w) acceptAll (vvv r c b a) (unsConsts true) r (atWidth n (fun _ B C => BitVec.ofNat n (B.toNat * C.toNat / 2 ^ n))) ∧
    s.VecCase (.mad c b a w) acceptAll (vvv r c b a) intConsts r (atWidth n (fun A B C => A + B * C)) ∧
    s.VecCase (.madh 0 c b a w) acceptAll (vvv r c b a) intConsts r (atWidth n (fun A B C => BitVec.ofInt n ((B.toInt * C.toInt + A.toInt) / 2 ^ n))) ∧
    s.VecCase (.madh 1 c b a w) acceptAll (vvv r c b a) (unsConsts true) r (atWidth n (fun A B C => BitVec.ofNat n ((B.toNat * C.toNat + A.toNat) / 2 ^ n))) ∧
    s.VecCase (.neg b a w) acceptGX (vv r b a) intConsts r (atWidth n (fun _ B _ => 0 - B)) ∧
    s.VecCase (.abs b a w) acceptGX (vv r b a) intConsts r (atWidth n (fun _ B _ => if B.toInt < 0 then 0 - B else B)) ∧
    s.VecCaseF (.sadd 0 c b a w) acceptAll (vvv r c b a) intConsts r (fun _ => atWidth n (fun _ B C => clampTo n (-(2 ^ (n - 1))) (2 ^ (n - 1) - 1) (B.toInt + C.toInt)))
      (fun _ _ b c => let B := b.setWidth n; let C := c.setWidth n; clampFlag (-(2 ^ (n - 1))) (2 ^ (n - 1) - 1) (B.toInt + C.toInt)) ∧
    s.VecCaseF (.sadd 1 c b a w) acceptAll (vvv r c b a) (unsConsts true) r (fun _ => atWidth n (fun _ B C => clampTo n (0) (2 ^ n - 1) ((B.toNat : Int) + C.toNat)))
      (fun _ _ b c => let B := b.setWidth n; let C := c.setWidth n; clampFlag (0) (2 ^ n - 1) ((B.toNat : Int) + C.toNat)) ∧
    s.VecCaseF (.ssub 0 c b a w) acceptAll (vvv r c b a) intConsts r (fun _ => atWidth n (fun _ B C => clampTo n (-(2 ^ (n - 1))) (2 ^ (n - 1) - 1) (B.toInt - C.toInt)))
      (fun _ _ b c => let B := b.setWidth n; let C := c.setWidth n; clampFlag (-(2 ^ (n - 1))) (2 ^ (n - 1) - 1) (B.toInt - C.toInt)) ∧
    s.VecCaseF (.ssub 1 c b a w) acceptAll (vvv r c b a) (unsConsts true) r (fun _ => atWidth n (fun _ B C => clampTo n (0) (2 ^ n - 1) ((B.toNat : Int) - C.toNat)))
      (fun _ _ b c => let B := b.setWidth n; let C := c.setWidth n; clampFlag (0) (2 ^ n - 1) ((B.toNat : Int) - C.toNat)) ∧
    s.VecCase (.div w 0 c b a) acceptAll (vvv r c b a) intConsts r (atWidth n (fun _ B C => quotS n B C)) ∧
    s.VecCase (.div w 1 c b a) acceptAll (vvv r c b a) (unsConsts true) r (atWidth n (fun _ B C => quotZ n B C)) ∧
    s.VecCase (.rem w 0 c b a) acceptAll (vvv r c b a) intConsts r (atWidth n (fun _ B C => remS n B C)) ∧
    s.VecCase (.rem w 1 c b a) acceptAll (vvv r c b a) (unsConsts true) r (atWidth n (fun _ B C => remZ n B C)) ∧
    s.VecCase (.min w 0 c b a) acceptAll (vvv r c b a) intConsts r (atWidth n (fun _ B C => if B.toInt ≤ C.toInt then B else C)) ∧
    s.VecCase (.min w 1 c b a) acceptAll (vvv r c b a) (unsConsts true) r (atWidth n (fun _ B C => if B.toNat ≤ C.toNat then B else C)) ∧
    s.VecCase (.max w 0 c b a) acceptAll (vvv r c b a) intConsts r (atWidth n (fun _ B C => if C.toInt ≤ B.toInt then B else C)) ∧
    s.VecCase (.max w 1 c b a) acceptAll (vvv r c b a) (unsConsts true) r (atWidth n (fun _ B C => if C.toNat ≤ B.toNat then B else C))

/-- R70, R73, R74, R78, R79, R80: the logic instructions, shifts, rotates, counts, reversals and bit-field instructions of the vector
class at 32 and 64 bits, and the immediate forms, complete and write the results of those rules in the lanes of ACT, raise no
flag and change nothing else. -/
def Obligations.VectorLogicShiftsAndFields : Prop :=
  ∀ (s : State) (w : BitVec 1) (c b a : BitVec 7) (j : BitVec 11) (h : BitVec 6),
    s.VecCase (.and c b a) acceptAll (vvv 1 c b a) intConsts 1 (atWidth 32 (fun _ B C => B &&& C)) ∧
    s.VecCase (.or c b a) acceptAll (vvv 1 c b a) intConsts 1 (atWidth 32 (fun _ B C => B ||| C)) ∧
    s.VecCase (.xor c b a) acceptAll (vvv 1 c b a) intConsts 1 (atWidth 32 (fun _ B C => B ^^^ C)) ∧
    s.VecCase (.andn c b a) acceptAll (vvv 1 c b a) intConsts 1 (atWidth 32 (fun _ B C => B &&& ~~~ C)) ∧
    s.VecCase (.not b a) acceptGX (vv 1 b a) intConsts 1 (atWidth 32 (fun _ B _ => ~~~ B)) ∧
    s.VecCase (.shl c b a) acceptAll (vvk 1 c b a) intConsts 1 (atCount 32 (fun B K => if K < 32 then B <<< K else 0)) ∧
    s.VecCase (.shr c b a) acceptAll (vvk 1 c b a) intConsts 1 (atCount 32 (fun B K => if K < 32 then B >>> K else 0)) ∧
    s.VecCase (.sar c b a) acceptAll (vvk 1 c b a) intConsts 1 (atCount 32 (fun B K => B.sshiftRight (min K 31))) ∧
    s.VecCase (.rol c b a) acceptAll (vvk 1 c b a) intConsts 1 (atCount 32 (fun B K => B.rotateLeft (K % 32))) ∧
    s.VecCase (.clz b a) acceptGX (vv 1 b a) intConsts 1 (atWidth 32 (fun _ B _ => BitVec.ofNat 32 (leadingZeros 32 B))) ∧
    s.VecCase (.ctz b a) acceptGX (vv 1 b a) intConsts 1 (atWidth 32 (fun _ B _ => BitVec.ofNat 32 (trailingZeros 32 B))) ∧
    s.VecCase (.popc b a) acceptGX (vv 1 b a) intConsts 1 (atWidth 32 (fun _ B _ => BitVec.ofNat 32 (ones 32 B))) ∧
    s.VecCase (.brev b a) acceptGX (vv 1 b a) intConsts 1 (atWidth 32 (fun _ B _ => BitVec.reverse B)) ∧
    s.VecCase (.bfxS c b a) acceptAll (vvk 1 c b a) intConsts 1 (atCount 32 (fun B K => fieldOut 32 true B K)) ∧
    s.VecCase (.bfxZ c b a) acceptAll (vvk 1 c b a) intConsts 1 (atCount 32 (fun B K => fieldOut 32 false B K)) ∧
    s.VecCase (.bfi c b a) acceptGX [vd .a a 1, vs .b b 1, vblock .c c 2 2] intConsts 1
      (fun _ b c => (fieldIn 32 (b.setWidth 32) ((c.setWidth 32).setWidth 32) (c >>> 32).toNat).setWidth 64) ∧
    s.VecCase (.and64 c b a) acceptAll (vvv 2 c b a) intConsts 2 (atWidth 64 (fun _ B C => B &&& C)) ∧
    s.VecCase (.or64 c b a) acceptAll (vvv 2 c b a) intConsts 2 (atWidth 64 (fun _ B C => B ||| C)) ∧
    s.VecCase (.xor64 c b a) acceptAll (vvv 2 c b a) intConsts 2 (atWidth 64 (fun _ B C => B ^^^ C)) ∧
    s.VecCase (.andn64 c b a) acceptAll (vvv 2 c b a) intConsts 2 (atWidth 64 (fun _ B C => B &&& ~~~ C)) ∧
    s.VecCase (.not64 b a) acceptGX (vv 2 b a) intConsts 2 (atWidth 64 (fun _ B _ => ~~~ B)) ∧
    s.VecCase (.shl64 c b a) acceptAll (vvk 2 c b a) intConsts 2 (atCount 64 (fun B K => if K < 64 then B <<< K else 0)) ∧
    s.VecCase (.shr64 c b a) acceptAll (vvk 2 c b a) intConsts 2 (atCount 64 (fun B K => if K < 64 then B >>> K else 0)) ∧
    s.VecCase (.sar64 c b a) acceptAll (vvk 2 c b a) intConsts 2 (atCount 64 (fun B K => B.sshiftRight (min K 63))) ∧
    s.VecCase (.rol64 c b a) acceptAll (vvk 2 c b a) intConsts 2 (atCount 64 (fun B K => B.rotateLeft (K % 64))) ∧
    s.VecCase (.clz64 b a) acceptGX (vv 2 b a) intConsts 2 (atWidth 64 (fun _ B _ => BitVec.ofNat 64 (leadingZeros 64 B))) ∧
    s.VecCase (.ctz64 b a) acceptGX (vv 2 b a) intConsts 2 (atWidth 64 (fun _ B _ => BitVec.ofNat 64 (trailingZeros 64 B))) ∧
    s.VecCase (.popc64 b a) acceptGX (vv 2 b a) intConsts 2 (atWidth 64 (fun _ B _ => BitVec.ofNat 64 (ones 64 B))) ∧
    s.VecCase (.brev64 b a) acceptGX (vv 2 b a) intConsts 2 (atWidth 64 (fun _ B _ => BitVec.reverse B)) ∧
    s.VecCase (.bfxS64 c b a) acceptAll (vvk 2 c b a) intConsts 2 (atCount 64 (fun B K => fieldOut 64 true B K)) ∧
    s.VecCase (.bfxZ64 c b a) acceptAll (vvk 2 c b a) intConsts 2 (atCount 64 (fun B K => fieldOut 64 false B K)) ∧
    s.VecCase (.bfi64 c b a) acceptGX [vd .a a 2, vs .b b 2, vblock .c c 2 2] intConsts 2
      (fun _ b c => (fieldIn 64 (b.setWidth 64) ((c.setWidth 32).setWidth 64) (c >>> 32).toNat).setWidth 64) ∧
    s.VecCase (.addImm32 j b a) acceptGX (vv 1 b a) intConsts 1 (atWidth 32 (fun _ B _ => B + j.signExtend 32)) ∧
    s.VecCase (.addImm64 j b a) acceptGX (vv 2 b a) intConsts 2 (atWidth 64 (fun _ B _ => B + j.signExtend 64)) ∧
    s.VecCase (.andImm j b a) acceptGX (vv 1 b a) intConsts 1 (atWidth 32 (fun _ B _ => B &&& j.signExtend 32)) ∧
    s.VecCase (.orImm j b a) acceptGX (vv 1 b a) intConsts 1 (atWidth 32 (fun _ B _ => B ||| j.signExtend 32)) ∧
    s.VecCase (.xorImm j b a) acceptGX (vv 1 b a) intConsts 1 (atWidth 32 (fun _ B _ => B ^^^ j.signExtend 32)) ∧
    (w = 1 ∨ h.toNat < 32 → s.VecCase (.shlImm w h b a) acceptGX (vv (regsW w) b a) intConsts (regsW w) (atWidth (bitsW w) (fun _ B _ => B <<< h.toNat))) ∧
    (w = 1 ∨ h.toNat < 32 → s.VecCase (.shrImm w h b a) acceptGX (vv (regsW w) b a) intConsts (regsW w) (atWidth (bitsW w) (fun _ B _ => B >>> h.toNat))) ∧
    (w = 1 ∨ h.toNat < 32 → s.VecCase (.sarImm w h b a) acceptGX (vv (regsW w) b a) intConsts (regsW w) (atWidth (bitsW w) (fun _ B _ => B.sshiftRight h.toNat)))

/-- R70, R81, R82, R85, R86: LEA, SEL, MOV, MOVI and PRMB of the vector class complete and write their results in the lanes
of ACT, and change nothing else. -/
def Obligations.VectorMovesAndAddresses : Prop :=
  ∀ (s : State) (c b a : BitVec 7) (p h : BitVec 3) (x : BitVec 1),
    s.VecCase (.leaZ64 1 h c b a) acceptAll [vd .a a 2, ss .b b, vs .c c 1] intConsts 2
      (fun _ B C => B + (C.setWidth 32).setWidth 64 <<< h.toNat) ∧
    s.VecCase (.leaZ64 0 h c b a) acceptAll [vd .a a 2, vs .b b 2, vs .c c 1] intConsts 2
      (fun _ B C => B + (C.setWidth 32).setWidth 64 <<< h.toNat) ∧
    s.VecCase (.leaS64 1 h c b a) acceptAll [vd .a a 2, ss .b b, vs .c c 1] intConsts 2
      (fun _ B C => B + (C.setWidth 32).signExtend 64 <<< h.toNat) ∧
    s.VecCase (.leaS64 0 h c b a) acceptAll [vd .a a 2, vs .b b 2, vs .c c 1] intConsts 2
      (fun _ B C => B + (C.setWidth 32).signExtend 64 <<< h.toNat) ∧
    s.VecCaseF (.selB32 x p c b a) acceptAll (vvv 1 c b a) intConsts 1
      (fun L _ B C => if (s.w.pred p.toNat).getLsbD L = decide (x = 0) then B else C) (fun _ => noFlag) ∧
    s.VecCaseF (.selB64 x p c b a) acceptAll (vvv 2 c b a) intConsts 2
      (fun L _ B C => if (s.w.pred p.toNat).getLsbD L = decide (x = 0) then B else C) (fun _ => noFlag) ∧
    s.VecCase (.movB32 b a) acceptGX (vv 1 b a) intConsts 1 (fun _ B _ => B) ∧
    s.VecCase (.movB64 b a) acceptGX (vv 2 b a) intConsts 2 (fun _ B _ => B) ∧
    s.VecCase (.moviB32 c a) acceptAll [vd .a a 1] intConsts 1 (fun _ _ _ => (s.simm32 c).setWidth 64) ∧
    s.VecCase (.moviS64 c a) acceptAll [vd .a a 2] intConsts 2 (fun _ _ _ => (s.simm32 c).signExtend 64) ∧
    s.VecCase (.moviZ64 c a) acceptAll [vd .a a 2] intConsts 2 (fun _ _ _ => (s.simm32 c).setWidth 64) ∧
    s.VecCase (.moviHi c a) acceptAll [vd .a a 2] intConsts 2 (fun A _ _ => s.simm32 c ++ A.setWidth 32) ∧
    s.VecCase (.prmb c b a) acceptAll (vvv 1 c b a) intConsts 1 (atWidth 32 (fun _ B C =>
      permuted B (C.toNat >>> 12) ++ permuted B (C.toNat >>> 8) ++ permuted B (C.toNat >>> 4) ++ permuted B C.toNat))

/-- R75, R76: ADDC and SUBB of both classes complete: the sum or difference with the carry in p7, the carry out written to
p7, in the vector class lane by lane and in the scalar class from the lowest lane of ACT to every lane of ACT. -/
def Sys2Proof.Machine.CarryInstructions : Prop :=
  ∀ (s : State) (w : BitVec 1) (c b a : BitVec 7),
    let n := bitsW w
    let cin := fun L => ((s.w.pred 7).getLsbD L).toNat
    let B := fun L => ((s.valueAt intConsts (vvv (regsW w) c b a) .b L).setWidth n).toNat
    let C := fun L => ((s.valueAt intConsts (vvv (regsW w) c b a) .c L).setWidth n).toNat
    let Bs := ((s.valueAt intConsts (sss c b a) .b 0).setWidth n).toNat
    let Cs := ((s.valueAt intConsts (sss c b a) .c 0).setWidth n).toNat
    let low := cin (Lanes.lowest s.act)
    (s.Admits acceptAll (vvv (regsW w) c b a) →
      s.Completes (.addc c b a w) (s.CarryResult (vvv (regsW w) c b a) (regsW w)
        (fun L => BitVec.ofNat 64 ((B L + C L + cin L) % 2 ^ n)) (fun L => decide (2 ^ n ≤ B L + C L + cin L))) ∧
      s.Completes (.subb c b a w) (s.CarryResult (vvv (regsW w) c b a) (regsW w)
        (fun L => (BitVec.ofInt n ((B L : Int) - C L - cin L)).setWidth 64) (fun L => decide (B L < C L + cin L)))) ∧
    (s.Admits acceptAll (sss c b a) → s.act ≠ 0 →
      s.Completes (.sAddc c b a (~~~w)) (s.ScalCarryResult (sss c b a)
        (BitVec.ofNat 64 ((Bs + Cs + low) % 2 ^ n)) (decide (2 ^ n ≤ Bs + Cs + low))) ∧
      s.Completes (.sSubb c b a (~~~w)) (s.ScalCarryResult (sss c b a)
        ((BitVec.ofInt n ((Bs : Int) - Cs - low)).setWidth 64) (decide (Bs < Cs + low)))) ∧
    (s.Admits acceptAll (sss c b a) → s.act = 0 →
      s.Completes (.sAddc c b a w) (fun u => s.NoResult u (sss c b a)) ∧
      s.Completes (.sSubb c b a w) (fun u => s.NoResult u (sss c b a)))

/-- R82 to R84, R143: SETP of both classes, PLOP, POLL.and, POLL.or and POLL.same complete and write their predicate in the
lanes of ACT; p0 discards the write; nothing else changes. -/
def Sys2Proof.Machine.PredicateInstructions : Prop :=
  ∀ (s : State) (k : BitVec 4) (w : BitVec 1) (c b : BitVec 7) (p x y : BitVec 3) (t : BitVec 4),
    let n := bitsW w
    (k.toNat ≤ 9 →
      s.PredCase (.setp k c b w p) acceptAll [vs .b b (regsW w), vs .c c (regsW w)] (unsConsts (decide (6 ≤ k.toNat))) p
        (fun _ B C => comparison n k.toNat (B.setWidth n) (C.setWidth n)) (fun _ _ => 0) ∧
      s.PredCase (.sSetp k c b w p) acceptAll [ss .b b, ss .c c] (unsConsts (decide (6 ≤ k.toNat))) p
        (fun _ B C => comparison n k.toNat (B.setWidth n) (C.setWidth n)) (fun _ _ => 0)) ∧
    s.PredCase (.plop t y x p) acceptGX [] intConsts p
      (fun L _ _ => t.getLsbD (2 * ((s.w.pred x.toNat).getLsbD L).toNat + ((s.w.pred y.toNat).getLsbD L).toNat)) (fun _ _ => 0) ∧
    s.PredCase (.pollAnd x p) acceptGX [] intConsts p
      (fun L _ _ => (s.tileLanes L).all (fun J => (s.w.pred x.toNat).getLsbD J)) (fun _ _ => 0) ∧
    s.PredCase (.pollOr x p) acceptGX [] intConsts p
      (fun L _ _ => (s.tileLanes L).any (fun J => (s.w.pred x.toNat).getLsbD J)) (fun _ _ => 0) ∧
    s.PredCase (.pollSame x p) acceptGX [] intConsts p
      (fun L _ _ => (s.tileLanes L).all (fun J => (s.w.pred x.toNat).getLsbD J) ||
        (s.tileLanes L).all (fun J => !(s.w.pred x.toNat).getLsbD J)) (fun _ _ => 0)

/-- Carry instructions, comparisons, truth tables and predicate polls complete with their results and frame: the two statements before this one. -/
def Obligations.CarriesAndPredicates : Prop :=
  Sys2Proof.Machine.CarryInstructions ∧ Sys2Proof.Machine.PredicateInstructions

/-- R71, R75, R77 to R80, R85: the integer, logic, shift, bit-field, division, move and conversion instructions of the scalar class
complete and write S[a] once for the warp if ACT is not empty, a 32-bit result zero-extended; SADD and SSUB raise OF where
clamping changes the value; nothing else changes. -/
def Obligations.ScalarInstructions : Prop :=
  ∀ (s : State) (w : BitVec 1) (c b a : BitVec 7) (j : BitVec 11),
    let n := bitsW w
    s.ScalCase (.sAdd c b a (~~~w)) acceptAll (sss c b a) intConsts (atWidth n (fun _ B C => B + C)) noFlag ∧
    s.ScalCase (.sSub c b a (~~~w)) acceptAll (sss c b a) intConsts (atWidth n (fun _ B C => B - C)) noFlag ∧
    s.ScalCase (.sMul c b a (~~~w)) acceptAll (sss c b a) intConsts (atWidth n (fun _ B C => B * C)) noFlag ∧
    s.ScalCase (.sMulhS c b a (~~~w)) acceptAll (sss c b a) intConsts (atWidth n (fun _ B C => BitVec.ofInt n (B.toInt * C.toInt / 2 ^ n))) noFlag ∧
    s.ScalCase (.sMulhZ c b a (~~~w)) acceptAll (sss c b a) (unsConsts true) (atWidth n (fun _ B C => BitVec.ofNat n (B.toNat * C.toNat / 2 ^ n))) noFlag ∧
    s.ScalCase (.sMad c b a (~~~w)) acceptAll (sss c b a) intConsts (atWidth n (fun A B C => A + B * C)) noFlag ∧
    s.ScalCase (.sMadh 0 c b a (~~~w)) acceptAll (sss c b a) intConsts (atWidth n (fun A B C => BitVec.ofInt n ((B.toInt * C.toInt + A.toInt) / 2 ^ n))) noFlag ∧
    s.ScalCase (.sMadh 1 c b a (~~~w)) acceptAll (sss c b a) (unsConsts true) (atWidth n (fun A B C => BitVec.ofNat n ((B.toNat * C.toNat + A.toNat) / 2 ^ n))) noFlag ∧
    s.ScalCase (.sNeg b a (~~~w)) acceptGX (ss2 b a) intConsts (atWidth n (fun _ B _ => 0 - B)) noFlag ∧
    s.ScalCase (.sAbs b a (~~~w)) acceptGX (ss2 b a) intConsts (atWidth n (fun _ B _ => if B.toInt < 0 then 0 - B else B)) noFlag ∧
    s.ScalCase (.sSadd 0 c b a (~~~w)) acceptAll (sss c b a) intConsts (atWidth n (fun _ B C => clampTo n (-(2 ^ (n - 1))) (2 ^ (n - 1) - 1) (B.toInt + C.toInt)))
      (fun _ b c => let B := b.setWidth n; let C := c.setWidth n; clampFlag (-(2 ^ (n - 1))) (2 ^ (n - 1) - 1) (B.toInt + C.toInt)) ∧
    s.ScalCase (.sSadd 1 c b a (~~~w)) acceptAll (sss c b a) (unsConsts true) (atWidth n (fun _ B C => clampTo n (0) (2 ^ n - 1) ((B.toNat : Int) + C.toNat)))
      (fun _ b c => let B := b.setWidth n; let C := c.setWidth n; clampFlag (0) (2 ^ n - 1) ((B.toNat : Int) + C.toNat)) ∧
    s.ScalCase (.sSsub 0 c b a (~~~w)) acceptAll (sss c b a) intConsts (atWidth n (fun _ B C => clampTo n (-(2 ^ (n - 1))) (2 ^ (n - 1) - 1) (B.toInt - C.toInt)))
      (fun _ b c => let B := b.setWidth n; let C := c.setWidth n; clampFlag (-(2 ^ (n - 1))) (2 ^ (n - 1) - 1) (B.toInt - C.toInt)) ∧
    s.ScalCase (.sSsub 1 c b a (~~~w)) acceptAll (sss c b a) (unsConsts true) (atWidth n (fun _ B C => clampTo n (0) (2 ^ n - 1) ((B.toNat : Int) - C.toNat)))
      (fun _ b c => let B := b.setWidth n; let C := c.setWidth n; clampFlag (0) (2 ^ n - 1) ((B.toNat : Int) - C.toNat)) ∧
    s.ScalCase (.sDiv w 0 c b a) acceptAll (sss c b a) intConsts (atWidth n (fun _ B C => quotS n B C)) noFlag ∧
    s.ScalCase (.sDiv w 1 c b a) acceptAll (sss c b a) (unsConsts true) (atWidth n (fun _ B C => quotZ n B C)) noFlag ∧
    s.ScalCase (.sRem w 0 c b a) acceptAll (sss c b a) intConsts (atWidth n (fun _ B C => remS n B C)) noFlag ∧
    s.ScalCase (.sRem w 1 c b a) acceptAll (sss c b a) (unsConsts true) (atWidth n (fun _ B C => remZ n B C)) noFlag ∧
    s.ScalCase (.sMin w 0 c b a) acceptAll (sss c b a) intConsts (atWidth n (fun _ B C => if B.toInt ≤ C.toInt then B else C)) noFlag ∧
    s.ScalCase (.sMin w 1 c b a) acceptAll (sss c b a) (unsConsts true) (atWidth n (fun _ B C => if B.toNat ≤ C.toNat then B else C)) noFlag ∧
    s.ScalCase (.sMax w 0 c b a) acceptAll (sss c b a) intConsts (atWidth n (fun _ B C => if C.toInt ≤ B.toInt then B else C)) noFlag ∧
    s.ScalCase (.sMax w 1 c b a) acceptAll (sss c b a) (unsConsts true) (atWidth n (fun _ B C => if C.toNat ≤ B.toNat then B else C)) noFlag ∧
    s.ScalCase (.sAnd c b a (~~~w)) acceptAll (sss c b a) intConsts (atWidth n (fun _ B C => B &&& C)) noFlag ∧
    s.ScalCase (.sOr c b a (~~~w)) acceptAll (sss c b a) intConsts (atWidth n (fun _ B C => B ||| C)) noFlag ∧
    s.ScalCase (.sXor c b a (~~~w)) acceptAll (sss c b a) intConsts (atWidth n (fun _ B C => B ^^^ C)) noFlag ∧
    s.ScalCase (.sAndn c b a (~~~w)) acceptAll (sss c b a) intConsts (atWidth n (fun _ B C => B &&& ~~~ C)) noFlag ∧
    s.ScalCase (.sNot b a (~~~w)) acceptGX (ss2 b a) intConsts (atWidth n (fun _ B _ => ~~~ B)) noFlag ∧
    s.ScalCase (.sShl c b a (~~~w)) acceptAll (sss c b a) intConsts (atCount n (fun B K => if K < n then B <<< K else 0)) noFlag ∧
    s.ScalCase (.sShr c b a (~~~w)) acceptAll (sss c b a) intConsts (atCount n (fun B K => if K < n then B >>> K else 0)) noFlag ∧
    s.ScalCase (.sSar c b a (~~~w)) acceptAll (sss c b a) intConsts (atCount n (fun B K => B.sshiftRight (min K (n - 1)))) noFlag ∧
    s.ScalCase (.sRol c b a (~~~w)) acceptAll (sss c b a) intConsts (atCount n (fun B K => B.rotateLeft (K % n))) noFlag ∧
    s.ScalCase (.sClz b a (~~~w)) acceptGX (ss2 b a) intConsts (atWidth n (fun _ B _ => BitVec.ofNat n (leadingZeros n B))) noFlag ∧
    s.ScalCase (.sCtz b a (~~~w)) acceptGX (ss2 b a) intConsts (atWidth n (fun _ B _ => BitVec.ofNat n (trailingZeros n B))) noFlag ∧
    s.ScalCase (.sPopc b a (~~~w)) acceptGX (ss2 b a) intConsts (atWidth n (fun _ B _ => BitVec.ofNat n (ones n B))) noFlag ∧
    s.ScalCase (.sBrev b a (~~~w)) acceptGX (ss2 b a) intConsts (atWidth n (fun _ B _ => BitVec.reverse B)) noFlag ∧
    s.ScalCase (.sBfxS c b a (~~~w)) acceptAll (sss c b a) intConsts (atCount n (fun B K => fieldOut n true B K)) noFlag ∧
    s.ScalCase (.sBfxZ c b a (~~~w)) acceptAll (sss c b a) intConsts (atCount n (fun B K => fieldOut n false B K)) noFlag ∧
    s.ScalCase (.sBfi c b a (~~~w)) acceptGX [sd .a a, ss .b b, sblock .c c 2] intConsts
      (fun _ B I => (fieldIn n (B.setWidth n) (I.setWidth n)
        ((s.w.sreg (s.regAt [sd .a a, ss .b b, sblock .c c 2] .c + 1)).setWidth 32).toNat).setWidth 64) noFlag ∧
    s.ScalCase (.sMov b a) acceptGX (ss2 b a) intConsts (fun _ B _ => B) noFlag ∧
    s.ScalCase (.sMoviS64 c a) acceptAll [sd .a a] intConsts (fun _ _ _ => (s.simm32 c).signExtend 64) noFlag ∧
    s.ScalCase (.sMoviZ64 c a) acceptAll [sd .a a] intConsts (fun _ _ _ => (s.simm32 c).setWidth 64) noFlag ∧
    s.ScalCase (.sMoviHi c a) acceptAll [sd .a a] intConsts (fun A _ _ => s.simm32 c ++ A.setWidth 32) noFlag ∧
    s.ScalCase (.sCvtS64S32 b a) acceptGX (ss2 b a) intConsts (fun _ B _ => (B.setWidth 32).signExtend 64) noFlag ∧
    s.ScalCase (.sCvtZ64Z32 b a) acceptGX (ss2 b a) intConsts (fun _ B _ => (B.setWidth 32).setWidth 64) noFlag ∧
    s.ScalCase (.sAddImm j b a) acceptGX (ss2 b a) intConsts (fun _ B _ => (B.setWidth 32 + j.signExtend 32).setWidth 64) noFlag

/-- R60, R64, R87 to R89: CVT, PACK, UNPK and QBX complete and write the converted values in the lanes of ACT with the flags
those raise: CVT a value of the destination type extended as it fills its register, PACK one element with the other bits
unchanged, UNPK one element widened, QBX the mantissa and the block's code and saturation count. The values as numbers are those of
RoundingOfValues. Conversions between float types of equal width (log entry 18) and what `one` and `mone` read as (log entry 20) are the model's choice. -/
def Obligations.ConversionInstructions : Prop :=
  ∀ (s : State) (d y t f : BitVec 4) (x : BitVec 1) (r : BitVec 2) (c b a : BitVec 7),
    (d.toNat ≤ 12 → y.toNat ≤ 12 →
      let g := fun (B : W64) => cvtBits y.toNat d.toNat r.toNat (decide (x = 1)) (B.toNat % 2 ^ typeBits y.toNat)
      s.VecCaseF (.cvt d x r y b a) acceptGX [vd .a a (regsOfType d.toNat), vs .b b (regsOfType y.toNat)] (constsOf y.toNat)
        (regsOfType d.toNat) (fun _ _ B _ => fillReg d.toNat (g B).1) (fun _ _ B _ => (g B).2)) ∧
    ((Instr.pack t c b a).wf = true →
      let n := typeBits t.toNat
      let g := fun (B : W64) => cvtBits (wideType t.toNat) t.toNat 0 (decide (t ≠ 9 ∧ t ≠ 10)) B.toNat
      s.VecCaseF (.pack t c b a) acceptGX (vv 1 b a) (constsOf (wideType t.toNat)) 1
        (fun _ A B _ =>
          let m : W64 := BitVec.ofNat 64 (2 ^ n - 1) <<< (n * c.toNat)
          (A &&& ~~~ m) ||| (BitVec.ofNat 64 (g B).1 <<< (n * c.toNat) &&& m)) (fun _ _ B _ => (g B).2)) ∧
    ((Instr.unpk t c b a).wf = true →
      let n := typeBits t.toNat
      let g := fun (B : W64) => cvtBits t.toNat (wideType t.toNat) 0 false (B.toNat / 2 ^ (n * c.toNat) % 2 ^ n)
      s.VecCaseF (.unpk t c b a) acceptGX (vv 1 b a) (constsOf t.toNat) 1
        (fun _ _ B _ => fillReg (wideType t.toNat) (g B).1) (fun _ _ B _ => (g B).2)) ∧
    (f.toNat ≤ 2 → s.act ≠ 0 → s.Admits acceptGX [vd .a a 2, vs .b b 1] → s.Completes (.qbx f b a) (fun u =>
      let ops := [vd .a a 2, vs .b b 1]
      let blk := quantize (lanes32.map (fun L => if s.act.getLsbD L then
          decodeF (typeFmt (qbxType f)) ((s.valueAt (constsOf (qbxType f)) ops .b L).toNat % 2 ^ typeBits (qbxType f))
        else .num false 0 0))
      s.VecResult u ops 2 (s.regAt ops .a)
        (fun L => (BitVec.ofNat 32 (256 * blk.sats + blk.code.toNat)) ++ BitVec.ofInt 32 (blk.mants.getD L 0))
        (if blk.bad then NV else (if blk.exact then 0 else NX) ||| (if 0 < blk.sats then OF else 0))))

/-- R45, R55 to R58, R93 to R98: the floating-point instructions of majors 0x30 to 0x35 complete for the three types and write
the correctly rounded result of the exact operation in the lanes of ACT, raise the flags of those lanes, and change nothing
else; FSETP writes a predicate. RoundingOfValues says what the results are as numbers. -/
def Obligations.FloatArithmetic : Prop :=
  ∀ (s : State) (t r : BitVec 2) (c b a : BitVec 7) (k : BitVec 4) (p : BitVec 3),
    let f := fmtOf t.toNat
    s.FloatCase (.fadd r c b a t) t c b a (fun _ B C => addF f r.toNat (valT t B) (valT t C)) ∧
    s.FloatCase (.fsub r c b a t) t c b a (fun _ B C => addF f r.toNat (valT t B) (valT t C).flip) ∧
    s.FloatCase (.fmul r c b a t) t c b a (fun _ B C => mulF f r.toNat (valT t B) (valT t C)) ∧
    s.FloatCase (.fma r c b a t) t c b a (fun A B C => fmaF f r.toNat (valT t B) (valT t C) (valT t A)) ∧
    s.FloatCase (.fms r c b a t) t c b a (fun A B C => fmaF f r.toNat (valT t B) (valT t C) (valT t A).flip) ∧
    s.FloatCase (.fnma r c b a t) t c b a (fun A B C => fmaF f r.toNat (valT t B).flip (valT t C) (valT t A)) ∧
    s.FloatCase (.fmin c b a t) t c b a (fun _ B C => minmaxF f false (lowT t B) (lowT t C)) ∧
    s.FloatCase (.fmax c b a t) t c b a (fun _ B C => minmaxF f true (lowT t B) (lowT t C)) ∧
    s.FloatCase (.fsign c b a t) t c b a (fun _ B C =>
      (lowT t B % f.signBit + (if (lowT t C).testBit (f.width - 1) then f.signBit else 0), 0)) ∧
    (t ≠ 3 → s.VecCase (.fclass b a t) acceptGX (vv 1 b a) (constsT t.toNat) 1
      (fun _ B _ => BitVec.ofNat 64 (classF f (lowT t B)))) ∧
    (t ≠ 3 → s.VecCaseF (.frnd r b a t) acceptGX (vv 1 b a) (constsT t.toNat) 1
      (fun _ _ B _ => bitsOf64 (frndF f r.toNat (lowT t B))) (fun _ _ B _ => (frndF f r.toNat (lowT t B)).2)) ∧
    (t ≠ 3 → s.Admits acceptAll (vvv 1 c b a) → s.Completes (.fldx t r c b a) (fun u =>
      let x := fun L => fldxF f r.toNat (lowT t (s.valueAt (constsT t.toNat) (vvv 1 c b a) .b L))
        ((s.valueAt intConsts (vvv 1 c b a) .c L).setWidth 32).toInt
      s.VecResult u (vvv 1 c b a) 1 (s.regAt (vvv 1 c b a) .a) (fun L => bitsOf64 (x L)) (flagsOf s.act (fun L => (x L).2)))) ∧
    (t ≠ 3 → k.toNat ≤ 7 → s.immWide t.toNat = false →
      s.PredCase (.fsetp k c b t p) acceptAll [vs .b b 1, vs .c c 1] (constsT t.toNat) p
        (fun _ B C => (cmpF f k.toNat (lowT t B) (lowT t C)).1) (fun B C => (cmpF f k.toNat (lowT t B) (lowT t C)).2))

/-- R99, R100: PFADD, PFMUL, PFMA and DOT4 complete and write the two halves, each rounded by itself, or the four products and
the addend summed exactly and rounded once; the lanes of ACT raise their flags; nothing else changes. -/
def Obligations.PackedFloatAndDot : Prop :=
  ∀ (s : State) (h r : BitVec 1) (f : BitVec 2) (c b a : BitVec 7),
    let m := if h = 1 then bf16 else f16
    let k := constsP (decide (h = 1))
    let v := fun (x : W64) (i : Nat) => decodeF m (half x i)
    let pair := fun (g : Nat → FRes) => BitVec.ofNat 64 ((g 1).1 * 2 ^ 16 + (g 0).1)
    s.VecCaseF (.pfadd h r c b a) acceptAll (vvv 1 c b a) k 1 (fun _ _ B C => pair (fun i => addF m r.toNat (v B i) (v C i)))
      (fun _ _ B C => (addF m r.toNat (v B 0) (v C 0)).2 ||| (addF m r.toNat (v B 1) (v C 1)).2) ∧
    s.VecCaseF (.pfmul h r c b a) acceptAll (vvv 1 c b a) k 1 (fun _ _ B C => pair (fun i => mulF m r.toNat (v B i) (v C i)))
      (fun _ _ B C => (mulF m r.toNat (v B 0) (v C 0)).2 ||| (mulF m r.toNat (v B 1) (v C 1)).2) ∧
    s.VecCaseF (.pfma h r c b a) acceptAll (vvv 1 c b a) k 1
      (fun _ A B C => pair (fun i => fmaF m r.toNat (v B i) (v C i) (v A i)))
      (fun _ A B C => (fmaF m r.toNat (v B 0) (v C 0) (v A 0)).2 ||| (fmaF m r.toNat (v B 1) (v C 1) (v A 1)).2) ∧
    (s.Admits acceptAll (vvv 1 c b a) → s.Completes (.dot4 f c b a) (fun u =>
      let b5 := decide (f = 1 ∨ f = 3)
      let c5 := decide (f = 1 ∨ f = 2)
      let byte := fun (x : W64) (i : Nat) => (x >>> (8 * i)).toNat % 256
      let x := fun L => sumV 0 ((List.range 4).map (fun i => mulV
          (decodeF (if b5 then e5m2 else e4m3) (byte (s.valueAt (constsE b5) (vvv 1 c b a) .b L) i))
          (decodeF (if c5 then e5m2 else e4m3) (byte (s.valueAt (constsE c5) (vvv 1 c b a) .c L) i))) ++
        [decodeF f32 ((s.valueAt intConsts (vvv 1 c b a) .a L).toNat % 2 ^ 32)])
      let y := fun L => roundV f32 0 (x L).1 (x L).2
      s.VecResult u (vvv 1 c b a) 1 (s.regAt (vvv 1 c b a) .a) (fun L => bitsOf64 (y L)) (flagsOf s.act (fun L => (y L).2))))

/-- R36, R101 to R103: the special functions and FDIV complete: each adds one uncommitted result, with the value and flags of
every lane of ACT computed from the operands read at issue, and writes no register yet; with ACT empty there is no result.
RoundingOfValues says what the values are as numbers. -/
def Obligations.SpecialFunctions : Prop :=
  ∀ (s : State) (l : BitVec 4) (t : BitVec 2) (c b a : BitVec 7),
    let f := fmtOf t.toNat
    let one := fun (i : Instr) (g : Fmt → Nat → FRes) => t ≠ 3 →
      s.LateCase i acceptGX (vv 1 b a) l (constsT t.toNat) 1 (fun _ _ B _ => bitsOf64 (g f (lowT t B)))
        (fun _ _ B _ => (g f (lowT t B)).2)
    let div := fun (i : Instr) (t : BitVec 2) => s.immWide t.toNat = false →
      s.LateCase i acceptAll (vvv 1 c b a) l (constsT t.toNat) 1
        (fun _ _ B C => bitsOf64 (fdivF (fmtOf t.toNat) (lowT t B) (lowT t C)))
        (fun _ _ B C => (fdivF (fmtOf t.toNat) (lowT t B) (lowT t C)).2)
    one (.frcp l t b a) frcpF ∧ one (.frsq l t b a) frsqF ∧ one (.fsqrt l t b a) fsqrtF ∧ one (.fexp2 l t b a) fexp2F ∧
    one (.flog2 l t b a) flog2F ∧ one (.fsin l t b a) fsinF ∧ one (.fcos l t b a) fcosF ∧
    div (.fdivF32 l c b a) 0 ∧ div (.fdivF16 l c b a) 1 ∧ div (.fdivBf16 l c b a) 2

/-- R55 to R57: in every format a value that the format holds rounds to its own bits in every mode, with no flag. -/
def Sys2Proof.Machine.HeldValuesRoundToThemselves : Prop :=
  ∀ (f : Fmt) (rnd x : Nat), f ∈ [f32, f16, bf16, e4m3, e5m2] → x < 2 ^ f.width → (decodeF f x).isNan = false →
    roundV f rnd (decodeF f x) 0 = (x, 0)

/-- R57: rounding m * 2^e to a multiple of 2^q, for q above e, takes the nearest multiple in mode .rn, the even one of two
equally near; in .rz the multiple toward zero, in .ru and .rd the next one up or down by the value's sign; and it says whether
the value changed. -/
def Sys2Proof.Machine.RoundingModes : Prop :=
  ∀ (neg : Bool) (m : Nat) (e q : Int), e < q →
    let d := (q - e).toNat
    let at_ := fun (rnd : Nat) => (roundAt rnd neg m e false q).1
    (2 * m ≤ 2 * at_ 0 * 2 ^ d + 2 ^ d ∧ 2 * at_ 0 * 2 ^ d ≤ 2 * m + 2 ^ d) ∧
    (2 * m = 2 * at_ 0 * 2 ^ d + 2 ^ d ∨ 2 * at_ 0 * 2 ^ d = 2 * m + 2 ^ d → at_ 0 % 2 = 0) ∧
    at_ 1 = m / 2 ^ d ∧
    at_ 2 = (if neg then m / 2 ^ d else (m + 2 ^ d - 1) / 2 ^ d) ∧
    at_ 3 = (if neg then (m + 2 ^ d - 1) / 2 ^ d else m / 2 ^ d) ∧
    ∀ rnd, (roundAt rnd neg m e false q).2 = decide (m % 2 ^ d ≠ 0)

/-- A pattern of a format that holds a finite number. -/
def Sys2Proof.Machine.Fmt.Finite (f : Fmt) (y : Nat) : Prop :=
  y < 2 ^ f.width ∧ (decodeF f y).isNan = false ∧ (decodeF f y).isInf = false

/-- The pattern's number in units of 2^q. -/
def Sys2Proof.Machine.Fmt.units (f : Fmt) (q : Int) (y : Nat) : Int := scaled q (decodeF f y)

/-- A number whose exponent is q or more, so that `scaled q` is its exact value in units of 2^q. -/
def Sys2Proof.Machine.FVal.Num (q : Int) : FVal → Prop
  | .num _ _ e => q ≤ e
  | _ => False

/-- A result with its flags is the exact value X * 2^q rounded to a format in a mode, as R56 and R57 say it without saying how:
no finite pattern is nearer (for .rn), or is as near on the side that the mode names; NX says that the value changed, UF
that it changed below the least normal number, OF that X exceeds every finite pattern, where the result is the one of R57. -/
def Sys2Proof.Machine.Rounds (f : Fmt) (rnd : Nat) (sat : Bool) (q X : Int) (r : FRes) : Prop :=
  let R := f.units q r.1
  let least := f.units q (2 ^ f.mw)
  let neg := decide (X < 0)
  if r.2 &&& OF = 0 then
    f.Finite r.1 ∧ (r.2 &&& NX = 0 ↔ R = X) ∧ (r.2 &&& UF ≠ 0 → R ≠ X ∧ X.natAbs < least) ∧
    (R ≠ X → R.natAbs < least → r.2 &&& UF ≠ 0) ∧ r.2 &&& (NV ||| DZ) = 0 ∧
    (rnd = 0 → ∀ y, f.Finite y → (R - X).natAbs ≤ (f.units q y - X).natAbs ∧
      ((R - X).natAbs = (f.units q y - X).natAbs → f.units q y = R ∨ r.1 % 2 = 0)) ∧
    (rnd = 1 → R.natAbs ≤ X.natAbs ∧ 0 ≤ R * X ∧
      ∀ y, f.Finite y → (f.units q y).natAbs ≤ X.natAbs → (f.units q y).natAbs ≤ R.natAbs) ∧
    (rnd = 2 → X ≤ R ∧ ∀ y, f.Finite y → X ≤ f.units q y → R ≤ f.units q y) ∧
    (rnd = 3 → R ≤ X ∧ ∀ y, f.Finite y → f.units q y ≤ X → f.units q y ≤ R)
  else
    f.units q f.maxFin < X.natAbs ∧
    r = (if sat ∨ rnd = 1 ∨ (rnd = 2 ∧ neg) ∨ (rnd = 3 ∧ ¬ neg) then f.max neg else f.inf neg, OF ||| NX)

/-- R56, R57: rounding a number gives a result that is that number rounded, in all five formats, four modes and with .sat. -/
def Sys2Proof.Machine.RoundingIsExact : Prop :=
  ∀ (f : Fmt) (rnd : Nat) (sat n : Bool) (m : Nat) (e q : Int), f ∈ [f32, f16, bf16, e4m3, e5m2] → rnd ≤ 3 → q ≤ e → q ≤ f.qmin →
    Rounds f rnd sat q (scaled q (.num n m e)) (roundF f rnd sat n m e false)

/-- R92, R93, R100: of finite operands FADD, FMUL and FMA give the exact sum, product, or product plus addend, rounded once. -/
def Sys2Proof.Machine.SumsAndProducts : Prop :=
  ∀ (f : Fmt) (rnd : Nat) (x y z : FVal) (p q : Int), f ∈ [f32, f16, bf16] → rnd ≤ 3 → x.Num p → y.Num q → p + q ≤ f.qmin →
    (∀ vs : List FVal, vs ≠ [] → (∀ v ∈ vs, v.Num p) →
      (sumV rnd vs).1.Num p ∧ (sumV rnd vs).2 = 0 ∧ scaled p (sumV rnd vs).1 = (vs.map (scaled p)).sum) ∧
    (mulV x y).Num (p + q) ∧ scaled (p + q) (mulV x y) = scaled p x * scaled q y ∧
    (y.Num p → p ≤ f.qmin → Rounds f rnd false p (scaled p x + scaled p y) (addF f rnd x y)) ∧
    Rounds f rnd false (p + q) (scaled p x * scaled q y) (mulF f rnd x y) ∧
    (z.Num (p + q) → Rounds f rnd false (p + q) (scaled p x * scaled q y + scaled (p + q) z) (fmaF f rnd x y z))

/-- R92: what a sum or a product of values is that are not all numbers: NaN from a NaN, from infinities of both signs, or from an
infinity times zero; else an infinity with its sign; a signalling NaN or an invalid operation raises NV. An exact zero has
the terms' sign where they agree, and else is -0 in mode .rd alone (R56). -/
def Sys2Proof.Machine.SpecialSums : Prop :=
  ∀ (rnd : Nat) (vs : List FVal) (x y : FVal),
    let r := sumV rnd vs
    let infs := fun (n : Bool) => vs.any (fun v => v.isInf && (v.neg == n))
    let nans := vs.any FVal.isNan
    let bad := vs.any FVal.isSig || (!nans && infs true && infs false)
    r.2 = (if bad then NV else 0) ∧ r.1.isNan = (nans || (infs true && infs false)) ∧ r.1.isSig = bad ∧
    (r.1.isNan = false → r.1.isInf = (infs true || infs false) ∧ (r.1.isInf = true → r.1.neg = infs true)) ∧
    (r.1.isZero = true → vs ≠ [] → r.1.neg = (vs.all FVal.neg || (vs.any FVal.neg && decide (rnd = 3)))) ∧
    (mulV x y).isNan = (x.isNan || y.isNan || (x.isInf && y.isZero) || (x.isZero && y.isInf)) ∧
    (mulV x y).isSig = (x.isSig || y.isSig || (x.isInf && y.isZero) || (x.isZero && y.isInf)) ∧
    ((mulV x y).isNan = false → (mulV x y).isInf = (x.isInf || y.isInf) ∧ (mulV x y).neg = (x.neg != y.neg))

/-- The integer k that a mode chooses for X / 2^d (R57). -/
def Sys2Proof.Machine.IntegerOf (rnd d : Nat) (X k : Int) : Prop :=
  let u : Int := 2 ^ d
  let K := k * u
  (rnd = 0 → 2 * ((K - X).natAbs : Int) ≤ u ∧ (2 * ((K - X).natAbs : Int) = u → k % 2 = 0)) ∧
  (rnd = 1 → K.natAbs ≤ X.natAbs ∧ (X.natAbs : Int) < K.natAbs + u ∧ 0 ≤ k * X) ∧
  (rnd = 2 → X ≤ K ∧ K < X + u) ∧ (rnd = 3 → K ≤ X ∧ X < K + u)

/-- R60, R96: what conversions give as numbers: float to float rounds, and is exact to a wider type; float to integer takes the
integer that the mode names and clamps with NV; integer to float rounds; integer to integer keeps the low bits, or clamps
with OF. -/
def Sys2Proof.Machine.ConversionsAsNumbers : Prop :=
  ∀ (src dst rnd : Nat) (sat : Bool) (x : Nat) (q : Int), src ≤ 12 → dst ≤ 12 → rnd ≤ 3 →
    let r := cvtBits src dst rnd sat x
    let v := decodeF (typeFmt src) x
    let i := intOf src x
    let n := intOf dst r.1
    (8 ≤ src → 8 ≤ dst → src ≠ dst → v.Num q → q ≤ (typeFmt dst).qmin →
      Rounds (typeFmt dst) rnd (sat && decide (typeBits dst ≤ typeBits src)) q (scaled q v) r ∧
      (typeBits src < typeBits dst → r.2 = 0 ∧ (typeFmt dst).units q r.1 = scaled q v)) ∧
    (8 ≤ src → dst < 8 → v.Num q → q ≤ 0 →
      ∃ k : Int, IntegerOf rnd (-q).toNat (scaled q v) k ∧ r.1 < 2 ^ typeBits dst ∧
        (if k < typeMin dst then n = typeMin dst ∧ r.2 = NV
        else if typeMax dst < k then n = typeMax dst ∧ r.2 = NV
        else n = k ∧ r.2 = if k * 2 ^ (-q).toNat = scaled q v then 0 else NX)) ∧
    (8 ≤ src → v.Num q → q ≤ 0 → ∃ k : Int, IntegerOf rnd (-q).toNat (scaled q v) k ∧ (frndF (typeFmt src) rnd x).2 = 0 ∧
      (q ≤ (typeFmt src).qmin → k.natAbs ≤ 2 ^ (typeFmt src).mw → (typeFmt src).units q (frndF (typeFmt src) rnd x).1 = k * 2 ^ (-q).toNat)) ∧
    (src < 8 → ((2 : Int) ^ typeBits src ∣ i - x) ∧ typeMin src ≤ i ∧ i ≤ typeMax src) ∧
    (src < 8 → 8 ≤ dst → q ≤ 0 → q ≤ (typeFmt dst).qmin → Rounds (typeFmt dst) rnd sat q (i * 2 ^ (-q).toNat) r) ∧
    (src < 8 → dst < 8 → r.1 < 2 ^ typeBits dst ∧
      (if sat then n = max (typeMin dst) (min (typeMax dst) i) ∧ r.2 = (if n = i then 0 else OF)
      else r.2 = 0 ∧ (2 : Int) ^ typeBits dst ∣ n - i))

/-- R69, R101: FDIV, FRCP, FSQRT and FRSQ of numbers give the quotient, the reciprocal, the root and the reciprocal of the root,
rounded once to nearest-even: no finite pattern is nearer to the exact value, which the comparisons name by its products
and squares in whole units. -/
def Sys2Proof.Machine.QuotientsAndRoots : Prop :=
  ∀ (f : Fmt) (x y : Nat) (p q : Int) (k : Nat), f ∈ [f32, f16, bf16] →
    let u := decodeF f x
    let v := decodeF f y
    let near := fun (r : FRes) (d : Int) (b c : Int) => r.2 &&& OF = 0 →
      f.Finite r.1 ∧ (r.2 &&& NX = 0 ↔ f.units d r.1 * c = b) ∧ ∀ z, f.Finite z →
        (f.units d r.1 * c - b).natAbs ≤ (f.units d z * c - b).natAbs ∧
        ((f.units d r.1 * c - b).natAbs = (f.units d z * c - b).natAbs → f.units d z = f.units d r.1 ∨ r.1 % 2 = 0)
    let root := fun (r : FRes) (d : Int) (b c : Int) => r.2 &&& OF = 0 ∧ f.Finite r.1 ∧ 0 ≤ f.units d r.1 ∧
      (r.2 &&& NX = 0 ↔ f.units d r.1 ^ 2 * c = b) ∧ ∀ z, f.Finite z → 0 ≤ f.units d z → z ≠ r.1 →
        let m := (f.units d z + f.units d r.1) ^ 2 * c
        (f.units d r.1 < f.units d z → 4 * b ≤ m) ∧ (f.units d z < f.units d r.1 → m ≤ 4 * b) ∧ (m = 4 * b → r.1 % 2 = 0)
    (u.Num p → v.Num q → v.isZero = false → p - q ≤ f.qmin →
      near (fdivF f x y) (p - q) (scaled p u) (scaled q v)) ∧
    (v.Num q → v.isZero = false → -q - k ≤ f.qmin → near (frcpF f y) (-q - k) (2 ^ k) (scaled q v)) ∧
    (u.Num (2 * p) → u.isZero = false → u.neg = false → p ≤ f.qmin → root (fsqrtF f x) p (scaled (2 * p) u) 1) ∧
    (u.Num (-2 * p - k) → u.isZero = false → u.neg = false → p ≤ f.qmin → root (frsqF f x) p (2 ^ k) (scaled (-2 * p - k) u))

/-- R66, R67, R296: a group's sum of products is exact; the K step rounds it once to FP32, rounds its scaling by 2^g once, and the sum
with the element once; the element stored and its two counts; a unit of a network is the exact sum of its products and
bias, rounded once, and ReLU passes what is above zero, and NaN. -/
def Sys2Proof.Machine.GroupsAndUnits : Prop :=
  ∀ (sat : Bool) (as : List FVal) (ns : List Int) (code : Byte) (g : Int) (c : W32) (xs ws : List Nat) (bias : Nat) (q : Int),
    let G := groupSum as ns code
    let h := (roundV f32 0 G 0).1
    let X := kStepX c as ns code g
    let v := decodeF f32 X
    let was := decodeF f32 c.toNat
    (code ≠ 0xFF → (∀ a ∈ as, a.Num q) → q ≤ f32.qmin → q ≤ 0 →
      scaled q G = ((as.zip ns).map (fun p => scaled q p.1 * p.2)).sum ∧ G.Num q ∧
      Rounds f32 0 false q (scaled q G) (roundV f32 0 G 0)) ∧
    ((decodeF f32 h).Num q → q + g ≤ f32.qmin →
      let h2 := (roundV f32 0 (scaleV g (decodeF f32 h)) 0)
      Rounds f32 0 false (q + g) (scaled q (decodeF f32 h)) h2 ∧
      (h2.2 &&& OF = 0 → was.Num f32.qmin →
        ∃ fl, Rounds f32 0 false f32.qmin (f32.units f32.qmin c.toNat + f32.units f32.qmin h2.1) (X, fl))) ∧
    (was.isNan → v.isNan) ∧ (code = 0xFF → X = f32.nan) ∧
    stepElem sat as c (ns, code, g) =
      (BitVec.ofNat 32 (if sat = true ∧ v.isInf = true then f32.max v.neg else X), if v.isInf then 1 else 0,
        if v.isNan = true ∧ was.isNan = false then 1 else 0) ∧
    ((∀ x ∈ bias :: xs ++ ws, bf16.Finite x) → q = 2 * bf16.qmin →
      ∃ fl, Rounds f32 0 false q
        (((xs.zip ws).map (fun p => bf16.units bf16.qmin p.1 * bf16.units bf16.qmin p.2)).sum + bf16.units q bias)
        (unitSum xs ws bias, fl)) ∧
    (∀ x, reluOf x = if (decodeF f32 x).isNan = true ∨ ((decodeF f32 x).isZero = false ∧ (decodeF f32 x).neg = false) then x else 0)

/-- R103: what the special functions and FDIV give for the special operands of its table, and for a NaN; FEXP2 of an integer and FLOG2
of a power of two are that power and that integer, rounded. -/
def Sys2Proof.Machine.SpecialOperands : Prop :=
  ∀ f ∈ [f32, f16, bf16],
    let z := f.zero
    let oo := f.inf
    let unit := (roundF f 0 false false 1 0 false).1
    f.units f.qmin unit = 2 ^ (-f.qmin).toNat ∧
    (∀ n, frcpF f (z n) = (oo n, DZ) ∧ frcpF f (oo n) = (z n, 0) ∧ frsqF f (z n) = (oo n, DZ) ∧ fsqrtF f (z n) = (z n, 0) ∧
      fexp2F f (z n) = (unit, 0) ∧ flog2F f (z n) = (oo true, DZ) ∧ fsinF f (z n) = (z n, 0) ∧ fcosF f (z n) = (unit, 0) ∧
      fsinF f (oo n) = (f.nan, NV) ∧ fcosF f (oo n) = (f.nan, NV)) ∧
    frsqF f (oo false) = (z false, 0) ∧ fsqrtF f (oo false) = (oo false, 0) ∧ fexp2F f (oo true) = (z false, 0) ∧
    fexp2F f (oo false) = (oo false, 0) ∧ flog2F f unit = (z false, 0) ∧ flog2F f (oo false) = (oo false, 0) ∧
    ∀ x y, x < 2 ^ f.width →
      let u := decodeF f x
      let v := decodeF f y
      (u.isNan → ∀ g ∈ [frcpF, frsqF, fsqrtF, fexp2F, flog2F, fsinF, fcosF], g f x = (f.nan, if u.isSig then NV else 0)) ∧
      (u.neg → u.isZero = false → ∀ g ∈ [frsqF, fsqrtF, flog2F], g f x = (f.nan, NV)) ∧
      (u.isNan ∨ v.isNan → fdivF f x y = (f.nan, if u.isSig ∨ v.isSig then NV else 0)) ∧
      (u.isNan = false → v.isZero → u.isInf = false → fdivF f x y = if u.isZero then (f.nan, NV) else (oo (u.neg != v.neg), DZ)) ∧
      (u.isInf → v.isNan = false → fdivF f x y = if v.isInf then (f.nan, NV) else (oo (u.neg != v.neg), 0)) ∧
      (u.isInf = false → u.isNan = false → v.isInf → fdivF f x y = (z (u.neg != v.neg), 0)) ∧
      (∀ q k : Int, u.Num q → q ≤ 0 → scaled q u = k * 2 ^ (-q).toNat → fexp2F f x = roundF f 0 false false 1 k false) ∧
      (∀ q k : Int, u.Num q → q ≤ k → scaled q u = 2 ^ (k - q).toNat →
        flog2F f x = roundF f 0 false (decide (k < 0)) k.natAbs 0 false)

/-- What results are as numbers, beside how the model computes them: held values round to themselves; what each rounding mode
chooses; sums, products and fused sums (O14), conversions (O13), quotients, roots and the special operands (O16), the K step
(O40) and the units of a network (O52), each the exact value rounded once: the nine statements before this one. -/
def Obligations.RoundingOfValues : Prop :=
  Sys2Proof.Machine.HeldValuesRoundToThemselves ∧ Sys2Proof.Machine.RoundingModes ∧ Sys2Proof.Machine.RoundingIsExact ∧
  Sys2Proof.Machine.SumsAndProducts ∧ Sys2Proof.Machine.SpecialSums ∧ Sys2Proof.Machine.ConversionsAsNumbers ∧
  Sys2Proof.Machine.QuotientsAndRoots ∧ Sys2Proof.Machine.GroupsAndUnits ∧ Sys2Proof.Machine.SpecialOperands

/-- R106, R107, R112, R113: CSHAPE of a valid shape writes %cshape if ACT is not empty; CZIP writes the key of the axis registers and
CUNZ an axis of a key, lane by lane or once for the warp; nothing else changes. An invalid %cshape makes CZIP and CUNZ
ILLEGAL_OP, as does an axis that the shape lacks. -/
def Obligations.CurveShapesAndKeys : Prop :=
  ∀ (s : State) (c b a : BitVec 7) (x : BitVec 3) (D B : Nat),
    let i := (s.imm32 c).toNat
    let axis := if 32 < B then vblock .b b 2 2 else vblock .b b D 1
    let zip := [vd .a a 2, axis]
    let szip := [sd .a a, sblock .b b D]
    let m := if 32 < B then 2 else 1
    let unz := [vd .a a m, vkey .b b]
    let ill := Host.Outcome.next (φ := Fault) (ρ := Refusal) (s.takeTrap .illegalOp s.ir.toNat)
    (s.Admits acceptAll [] → 1 ≤ b.toNat → b.toNat ≤ 8 → 1 ≤ i → b.toNat * i ≤ 64 →
      s.Completes (.cshape c b) (fun u => s.WarpResult u []
        (if s.act = 0 then s.w else { s.w with cshape := BitVec.ofNat 16 (16 * i + b.toNat) }))) ∧
    (s.Shaped D B →
      (s.Admits acceptGX zip → s.Completes (.czip 0 b a) (fun u => s.VecResult u zip 2 (s.regAt zip .a)
        (fun L => BitVec.ofNat 64 (keyVal D B (fun k =>
          if 32 < B then (s.w.pair (s.regAt zip .b) L).toNat else (s.w.vreg (s.regAt zip .b + k) L).toNat))) 0)) ∧
      (s.Admits acceptGX szip → s.Completes (.czip 1 b a) (fun u => s.ScalResult u szip (s.regAt szip .a)
        (BitVec.ofNat 64 (keyVal D B (fun k => (s.w.sreg (s.regAt szip .b + k)).toNat))) 0)) ∧
      (x.toNat < D →
        s.VecCase (.cunz 0 x b a) acceptGX unz intConsts m (fun _ X _ => BitVec.ofNat 64 (axisVal D B X.toNat x.toNat)) ∧
        s.ScalCase (.cunz 1 x b a) acceptGX (ss2 b a) intConsts
          (fun _ X _ => BitVec.ofNat 64 (axisVal D B X.toNat x.toNat)) noFlag) ∧
      (D ≤ x.toNat → ∀ k, exec (.cunz k x b a) s = ill)) ∧
    ((∀ E G, ¬ s.Shaped E G) → ∀ k, exec (.czip k b a) s = ill ∧ exec (.cunz k x b a) s = ill)

/-- R114 to R118: CADD, CSUB, CCMP, CINBOX, CLCP and CCELL complete under a valid shape: CADD and CSUB wrap axis by axis, set the sticky
%cflags bits of the axes that overflowed, and p6 where asked; the others write the comparison, the containment, the common
prefix and the cell; nothing else changes. -/
def Obligations.CurveArithmetic : Prop :=
  ∀ (s : State) (c b a : BitVec 7) (d : BitVec 6) (q : BitVec 1) (t p : BitVec 3) (D B : Nat),
    let key := fun (X : W64) => X.toNat % 2 ^ (D * B)
    let j := (s.imm32 c).toNat
    let offset := fun (i : Instr) (sub : Bool) =>
      let ops := offsetOps c b d
      let X := fun L => (s.valueAt intConsts ops .b L).toNat
      let Y := fun L => (s.valueAt intConsts ops .c L).toNat
      let flows := fun L k => offsetOverflows sub B (axisVal D B (X L) k) (axisVal D B (Y L) k)
      s.Admits acceptAll ops → s.Completes i (fun u =>
        (∀ L, L < 32 → s.act.getLsbD L = true → u.w.pair (s.regAt ops .a) L = BitVec.ofNat 64 (keyVal D B (fun k =>
          (offsetSum sub B (axisVal D B (X L) k) (axisVal D B (Y L) k) % 2 ^ B).toNat))) ∧
        (∀ r L, L < 32 → (s.act.getLsbD L = false ∨ r < s.regAt ops .a ∨ s.regAt ops .a + 2 ≤ r) → u.w.vreg r L = s.w.vreg r L) ∧
        (∀ L k, L < 32 → k < 8 → (Table.get 0#8 u.w.cflags L).getLsbD k =
          ((Table.get 0#8 s.w.cflags L).getLsbD k || (s.act.getLsbD L && decide (k < D) && flows L k))) ∧
        (∀ r L, L < 32 → (u.w.pred r).getLsbD L = if r = 6 ∧ q = 1 ∧ s.act.getLsbD L = true
          then (List.range D).any (flows L) else (s.w.pred r).getLsbD L) ∧
        u.w = { s.w with vregs := u.w.vregs, cflags := u.w.cflags, preds := u.w.preds, opq := s.w.opq.drop (s.popped ops) } ∧
        s.OnlyWarp u 0)
    s.Shaped D B →
    offset (.cadd c b d q) false ∧ offset (.csub c b d q) true ∧
    (t.toNat < 6 → s.PredCase (.ccmp c b t p) acceptAll [vkey .b b, vkey .c c] intConsts p (fun _ X Y =>
      [decide (key X = key Y), decide (key X ≠ key Y), decide (key X < key Y), decide (key X ≤ key Y), decide (key Y < key X),
        decide (key Y ≤ key X)].getD t.toNat false) (fun _ _ => 0)) ∧
    (6 ≤ t.toNat → exec (.ccmp c b t p) s = .next (s.takeTrap .illegalOp s.ir.toNat)) ∧
    (let ops := [vkey .b b, sblock .c c 3]
     s.Admits acceptGX ops → s.Completes (.cinbox c b p) (fun u => ∃ test : Nat → Bool,
      s.PredResult u ops p.toNat test 0 ∧ ∀ L < 32, (test L = true ↔
        boxed D B (s.w.sreg (s.regAt ops .c)).toNat (s.w.sreg (s.regAt ops .c + 2)).toNat (s.valueAt intConsts ops .b L).toNat))) ∧
    (let ops := [vd .a a 1, vkey .b b, vkey .c c]
     s.Admits acceptAll ops → ∃ l : Nat → Nat,
      (∀ L < 32, l L ≤ D * B ∧ key (s.valueAt intConsts ops .b L) >>> (D * B - l L) = key (s.valueAt intConsts ops .c L) >>> (D * B - l L) ∧
        (l L < D * B → (key (s.valueAt intConsts ops .b L)).testBit (D * B - 1 - l L) ≠
          (key (s.valueAt intConsts ops .c L)).testBit (D * B - 1 - l L))) ∧
      s.Completes (.clcp c b a) (fun u => s.VecResult u ops 1 (s.regAt ops .a) (fun L => BitVec.ofNat 64 (l L / D * 256 + l L)) 0)) ∧
    (j ≤ B → s.VecCase (.ccell c b a) acceptAll [vd .a a 2, vkey .b b] intConsts 2
      (fun _ X _ => BitVec.ofNat 64 (key X - key X % 2 ^ (j * D)))) ∧
    (B < j → exec (.ccell c b a) s = .next (s.takeTrap .illegalOp s.ir.toNat))

/-- R28, R110, R120, R121: CSPLIT with a valid control word whose runs fit the scratchpad and whose lines are present completes: the first N
maximal runs of consecutive keys of the box from the resume code on are stored from the offset on, and one result is added with the
count, the continuation and the predicate, its window the lookahead; with ACT empty it writes nothing. An offset that is no multiple of 8,
or runs beyond the scratchpad, raise MISALIGN; a control word that is not valid raises ILLEGAL_OP wherever it can be read, and so does a
destination of no register. That the runs are stored at issue, and that the instruction waits before issue as a whole where a line of them is
absent (log entry 23), is the model's choice, as is trapping with ACT empty and reporting the lowest lane of ACT (log entry 24). -/
def Obligations.CurveBoxes : Prop :=
  ∀ (s : State) (c b a : BitVec 7) (l : BitVec 4) (D B : Nat),
    let mask := fun (X : W64) => X.toNat % 2 ^ (D * B)
    let ops := splitOps c b a
    let box := fun (z : Nat) => z < 2 ^ (D * B) ∧ boxed D B (mask (s.w.sreg (s.regAt ops .c))) (mask (s.w.sreg (s.regAt ops .c + 2))) z
    let ctl := s.w.sreg (s.regAt ops .b + 1)
    let off := ctl.toNat % 2 ^ 19
    let n := ctl.toNat / 2 ^ 24 % 256
    s.Shaped D B → ∃ runs : List (Nat × Nat) × Option Nat, ListsRuns box (mask (s.w.sreg (s.regAt ops .b))) n runs.1 runs.2 ∧
    let result : Pending :=
      { unit := s.unit, left := l.toNat + 1, act := s.act, vec := [], flags := [], ver := none,
        scl := [(s.regAt ops .a, BitVec.ofNat 64 runs.1.length), (s.regAt ops .a + 1, BitVec.ofNat 64 (runs.2.getD 0))],
        pred := some (BitVec.ofNat 3 (ctl.toNat / 2 ^ 32 % 8), if runs.2.isSome then BitVec.allOnes 32 else 0) }
    let bytes := runs.1.flatMap (fun r => valBytes 8 r.1 ++ valBytes 8 r.2)
    (s.Admits acceptGX ops → ctl.toNat < 2 ^ 35 → ctl.toNat / 2 ^ 19 % 32 = 0 → n ≠ 0 → off % 8 = 0 →
      (s.act = 0 → s.Completes (.csplit l c b a) (fun u => s.NoResult u ops)) ∧
      (s.act ≠ 0 → (runs.1 ≠ [] → off + 16 * runs.1.length ≤ s.spadSize s.g ∧ s.g.present off (16 * runs.1.length) = true) →
        s.w.sixteen = false → s.Completes (.csplit l c b a) (fun u =>
          u.w = { s.w with pend := s.w.pend ++ [result] } ∧
          u.g = { s.g with spad := Memory.writeBytes s.g.spad off bytes } ∧ (∀ k, k ≠ s.cur → u.warpAt k = s.warpAt k) ∧
          (∀ k, k ≠ s.w.wg → u.wgAt k = s.wgAt k) ∧ u = { s with warps := u.warps, wgs := u.wgs })) ∧
      (s.act ≠ 0 → runs.1 ≠ [] → s.spadSize s.g < off + 16 * runs.1.length →
        exec (.csplit l c b a) s = .next (s.takeTrap .misalign (Lanes.lowest s.act))) ∧
      (s.act ≠ 0 → runs.1 ≠ [] → off + 16 * runs.1.length ≤ s.spadSize s.g → s.g.present off (16 * runs.1.length) = false →
        exec (.csplit l c b a) s = .next s)) ∧
    (s.Admits acceptGX ops → ctl.toNat < 2 ^ 35 → ctl.toNat / 2 ^ 19 % 32 = 0 → n ≠ 0 → off % 8 ≠ 0 →
      exec (.csplit l c b a) s = .next (s.takeTrap .misalign (Lanes.lowest s.act))) ∧
    (112 ≤ a.toNat → exec (.csplit l c b a) s = .next (s.takeTrap .illegalOp s.ir.toNat)) ∧
    (s.boundOp (sfar .b b 2) = none → 2 ^ 35 ≤ ctl.toNat ∨ ctl.toNat / 2 ^ 19 % 32 ≠ 0 ∨ n = 0 →
      exec (.csplit l c b a) s = .next (s.takeTrap .illegalOp s.ir.toNat))

/-- R119: CNEXT and CPREV complete and write, in the lanes of ACT, the least key of the box above mask(B), or the greatest below it,
and mask(B) itself where the box has no such key; nothing else changes. -/
def Obligations.NeighbouringKeysAreExact : Prop :=
  ∀ (s : State) (c b a : BitVec 7) (D B : Nat),
    let ops := boxOps c b a
    let key := fun (X : W64) => X.toNat % 2 ^ (D * B)
    let box := fun (z : Nat) => z < 2 ^ (D * B) ∧ boxed D B (key (s.w.sreg (s.regAt ops .c))) (key (s.w.sreg (s.regAt ops .c + 2))) z
    s.Shaped D B → s.Admits acceptGX ops → ∃ up down : Nat → Nat,
      (∀ L < 32, let x := key (s.valueAt intConsts ops .b L)
        ((∃ z, x < z ∧ box z) → x < up x ∧ box (up x) ∧ ∀ z, x < z → box z → up x ≤ z) ∧ ((∀ z, x < z → ¬ box z) → up x = x) ∧
        ((∃ z, z < x ∧ box z) → down x < x ∧ box (down x) ∧ ∀ z, z < x → box z → z ≤ down x) ∧ ((∀ z, z < x → ¬ box z) → down x = x)) ∧
      s.VecCase (.cnext c b a) acceptGX ops intConsts 2 (fun _ X _ => BitVec.ofNat 64 (up (key X))) ∧
      s.VecCase (.cprev c b a) acceptGX ops intConsts 2 (fun _ X _ => BitVec.ofNat 64 (down (key X)))

/-- R24, R133, R134, R138: BRA, CALL, BR, CALLI and RET whose targets are words and whose division the split table can hold
complete: every lane of ACT stands at its target and every other lane of the unit at the next word; CALL and CALLI write the
address of the next word to the link pair in the lanes of ACT alone; the unit having no uncommitted results, nothing else but
the membership of loops changes. A lane that waits at a back-edge counts as one of its own address (the model's choice: log entry 26). -/
def Sys2Proof.Machine.ControlTransfers : Prop :=
  ∀ (s : State) (o : BitVec 21) (k : BitVec 4) (b a : BitVec 7),
    let rel := fun (_ : Nat) => s.u.pc + 4 * o.signExtend 64
    let ind := fun (ops : List Opnd) (L : Nat) => s.valueAt intConsts ops .b L
    let link := vd .a ((k ++ 0#1).setWidth 7) 2
    let straight := fun (target : Nat → W64) => (∀ L ∈ Lanes.list s.act, (target L).toNat % 4 = 0) ∧ s.Divides target
    s.NoResults →
    (s.Admits acceptG [] → straight rel → ∃ t, exec (.bra o) s = .next t ∧ s.TransferResult t rel none) ∧
    (s.Admits acceptG [link] → straight rel →
      ∃ t, exec (.call o k) s = .next t ∧ s.TransferResult t rel (some (s.regAt [link] .a))) ∧
    (s.Admits acceptGX [vbase .b b] → straight (ind [vbase .b b]) →
      ∃ t, exec (.br b) s = .next t ∧ s.TransferResult t (ind [vbase .b b]) none) ∧
    (s.Admits acceptGX [vd .a a 2, vbase .b b] → straight (ind [vd .a a 2, vbase .b b]) →
      ∃ t, exec (.calli b a) s = .next t ∧
        s.TransferResult t (ind [vd .a a 2, vbase .b b]) (some (s.regAt [vd .a a 2, vbase .b b] .a))) ∧
    (s.Admits acceptG [vbase .b b] → straight (ind [vbase .b b]) →
      ∃ t, exec (.ret b) s = .next t ∧ s.TransferResult t (ind [vbase .b b]) none)

/-- R126, R133: BRA, CALL, BR, CALLI or RET with a lane of ACT whose target is no multiple of 4 raises MISALIGN with the lowest such lane, and one
whose division needs more split entries than are free raises SPLIT_OVF with the number needed; either has no other effect. That MISALIGN
comes first (log entry 27), and that a lane at a back-edge counts as a distinct address (log entry 26), is the model's choice. -/
def Sys2Proof.Machine.TransferTraps : Prop :=
  ∀ (s : State) (o : BitVec 21) (k : BitVec 4) (b a : BitVec 7),
    let link := vd .a ((k ++ 0#1).setWidth 7) 2
    let rel := fun (_ : Nat) => s.u.pc + 4 * o.signExtend 64
    let ind := fun (ops : List Opnd) (L : Nat) => s.valueAt intConsts ops .b L
    let traps := fun (i : Instr) (target : Nat → W64) =>
      (∀ L, (Lanes.list s.act).find? (fun L => decide ((target L).toNat % 4 ≠ 0)) = some L → exec i s = .next (s.takeTrap .misalign L)) ∧
      (∀ n, (∀ L ∈ Lanes.list s.act, (target L).toNat % 4 = 0) →
        s.w.divide s.unit s.u.lanes (fun L => if s.act.getLsbD L then ⟨target L, 0⟩ else s.fallDest L) = .error n →
        exec i s = .next (s.takeTrap .splitOvf n))
    (s.Admits acceptG [] → traps (.bra o) rel) ∧ (s.Admits acceptG [link] → traps (.call o k) rel) ∧
    (s.Admits acceptGX [vbase .b b] → traps (.br b) (ind [vbase .b b])) ∧
    (s.Admits acceptGX [vd .a a 2, vbase .b b] → traps (.calli b a) (ind [vd .a a 2, vbase .b b])) ∧
    (s.Admits acceptG [vbase .b b] → traps (.ret b) (ind [vbase .b b]))

/-- R35, R36: the same transfers of a unit that has uncommitted results whose turn to commit has come commit them: every lane stands where it
does without them, and no result of the unit is left; where a result of another unit has to commit first, the instruction has issued and
waits, with the windows closed. -/
def Sys2Proof.Machine.TransfersCommitResults : Prop :=
  ∀ (s : State) (o : BitVec 21) (k : BitVec 4) (b a : BitVec 7),
    let link := vd .a ((k ++ 0#1).setWidth 7) 2
    let rel := fun (_ : Nat) => s.u.pc + 4 * o.signExtend 64
    let ind := fun (ops : List Opnd) (L : Nat) => s.valueAt intConsts ops .b L
    let goes := fun (i : Instr) (acc : Accept) (ops : List Opnd) (target : Nat → W64) => s.Admits acc ops →
      (∀ L ∈ Lanes.list s.act, (target L).toNat % 4 = 0) → s.Divides target →
      (s.w.mayClose s.unit = true → ∃ t, exec i s = .next t ∧ (∀ p ∈ t.w.pend, p.unit ≠ s.unit) ∧
        ∀ L, L < 32 → s.u.lanes.getLsbD L = true → t.w.StandsAt L (if s.act.getLsbD L then target L else s.u.pc + 4)) ∧
      (s.w.mayClose s.unit = false → ∃ t, exec i s = .next t ∧ t.u.pc = s.u.pc ∧ t.u.issued.isSome = true ∧
        (∀ p ∈ t.w.pend, p.unit = s.unit → p.left = 0) ∧ t.w.pend.length = s.w.pend.length)
    goes (.bra o) acceptG [] rel ∧ goes (.call o k) acceptG [link] rel ∧ goes (.br b) acceptGX [vbase .b b] (ind [vbase .b b]) ∧
    goes (.calli b a) acceptGX [vd .a a 2, vbase .b b] (ind [vd .a a 2, vbase .b b]) ∧ goes (.ret b) acceptG [vbase .b b] (ind [vbase .b b])

/-- Branches, calls and returns take every lane to its address, or trap with no other effect: the three statements before this one. -/
def Obligations.TransfersOfControl : Prop :=
  Sys2Proof.Machine.ControlTransfers ∧ Sys2Proof.Machine.TransferTraps ∧ Sys2Proof.Machine.TransfersCommitResults

/-- R128: the root splits of a slice that all wait at a JOIN merge into the gang of that slice alone, with all their lanes, at the
address after the JOIN that the split of the lowest lane reached, and their entries are freed. -/
def Sys2Proof.Machine.RootSplitsMergeIntoGang : Prop :=
  ∀ (w : Warp) (sl : Nat), sl < 8 → allJoined (rootsOf w.units sl) = true →
    ∃ v, w.mergeSlices [sl] = some v ∧
      (∃ u, Table.find v.units sl = some u ∧ u.lanes = unionOf (rootsOf w.units sl) ∧ u.pc = leaderPc (rootsOf w.units sl) ∧
        u.cover = none ∧ u.frame = Framing.blank ∧ u.park = restAt w.loops u.lanes u.pc) ∧
      (∀ k u, 8 ≤ k → (k, u) ∈ v.units → u.root = true → u.lanes &&& sliceLanes sl = 0) ∧
      v = { w with units := v.units, region := v.region }

/-- R128: the splits of one parent split that all wait at a JOIN merge into it: its entry has all their lanes and goes on at the address after
the JOIN that the one with the lowest lane reached, and their entries are freed; nothing else changes. -/
def Sys2Proof.Machine.ChildSplitsMergeIntoParent : Prop :=
  ∀ (w : Warp) (k : Nat) (u : IUnit), Table.find w.units k = some u → u.park = .parent →
    let kids := w.units.filter (fun x => 8 ≤ x.1 && !x.2.root && x.2.parent = k)
    kids ≠ [] → (∀ x ∈ kids, x.2.park = .join) →
    ∃ v g, w.mergeParents [k] = some v ∧ Table.find v.units k = some g ∧
      (∀ L, L < 32 → (g.lanes.getLsbD L = true ↔ ∃ x ∈ kids, x.2.lanes.getLsbD L = true)) ∧
      (g.lanes ≠ 0 → ∃ x ∈ kids, x.2.lanes.getLsbD (Lanes.lowest g.lanes) = true ∧ g.pc = x.2.pc) ∧
      g.root = u.root ∧ g.parent = u.parent ∧ g.cover = none ∧ g.frame = Framing.blank ∧ g.park = restAt w.loops g.lanes g.pc ∧
      (∀ x ∈ kids, x.1 ≠ k → Table.find v.units x.1 = none) ∧
      (∀ j, j ≠ k → (∀ x ∈ kids, x.1 ≠ j) → Table.find v.units j = Table.find w.units j) ∧
      v = { w with units := v.units, region := v.region }

/-- R129: in a warp without splits, a gang that issues REGANG with a mask that holds its slices, as the last of the mask's live slices (those
of the others wait at a REGANG of that mask), completes the rendezvous: all waiting lanes form one gang, which goes on at the address after
the REGANG that its lowest slice reached; their own gangs are gone, and no other gang, register or memory changes. -/
def Sys2Proof.Machine.RegangFormsOneGang : Prop :=
  ∀ (s : State) (m : BitVec 8), s.NoResults → s.Admits acceptNone [] → (s.w.units.map (·.1)).Nodup → s.unit < 8 → m ≠ 0 → sliceMask s.u.lanes &&& ~~~m = 0 →
    (∀ x ∈ s.w.units, x.1 < 8 ∧ x.2.park ≠ .parent ∧ ∀ n, x.2.park = .regang n → n = m) →
    (∀ L, L < 32 → s.w.live.getLsbD L = true → m.getLsbD (L / 4) = true →
      s.u.lanes.getLsbD L = true ∨ ∃ x ∈ s.w.units, x.2.park = .regang m ∧ x.2.lanes.getLsbD L = true) →
    ∃ t g, exec (.regang m) s = .next t ∧ Table.find t.w.units (Lanes.lowest g.lanes / 4) = some g ∧
      (∀ L, L < 32 → (g.lanes.getLsbD L = true ↔
        s.u.lanes.getLsbD L = true ∨ ∃ x ∈ s.w.units, x.2.park = .regang m ∧ x.2.lanes.getLsbD L = true)) ∧
      (g.lanes ≠ 0 → (s.u.lanes.getLsbD (Lanes.lowest g.lanes) = true ∧ g.pc = s.u.pc + 4) ∨
        ∃ x ∈ s.w.units, x.2.park = .regang m ∧ x.2.lanes.getLsbD (Lanes.lowest g.lanes) = true ∧ g.pc = x.2.pc) ∧
      g.park = restAt s.w.loops g.lanes g.pc ∧ g.cover = none ∧
      (∀ j u, j ≠ Lanes.lowest g.lanes / 4 → Table.find t.w.units j = some u →
        j ≠ s.unit ∧ u.park ≠ .regang m ∧ Table.find s.w.units j = some u) ∧
      (∀ j u, j ≠ Lanes.lowest g.lanes / 4 → j ≠ s.unit → Table.find s.w.units j = some u → u.park ≠ .regang m →
        Table.find t.w.units j = some u) ∧
      t.w = { s.w with units := t.w.units, region := t.w.region } ∧ (∀ k, k ≠ s.cur → t.warpAt k = s.warpAt k) ∧
      t = { s with warps := t.warps }

/-- R128, R129, R136, R138: JOIN in a gang only ends windows; JOIN in a split and REGANG of a mask that holds the gang's slices, with
no rendezvous that it contradicts, pass the unit beyond the instruction to wait, and then every merge and rendezvous that has
become possible is made; LOOP with a count, its body and those around it within the loop buffer, starts its loop over the unit's
lanes, and with count 0 goes to the end address;
LBRK sends the lanes of ACT to the end address of the innermost loop that holds them. -/
def Sys2Proof.Machine.RendezvousAndLoops : Prop :=
  ∀ (s : State) (m : BitVec 8) (c b : BitVec 7) (n : BitVec 2),
    s.NoResults →
    (s.Admits acceptNone [] → s.unit < 8 → s.Completes .join (fun u => u.w = s.w ∧ s.OnlyWarp u 0)) ∧
    (s.Admits acceptNone [] → 8 ≤ s.unit → ∃ t, exec .join s = .next t ∧
      t.w = ({ s.w with units := Table.set s.w.units s.unit (s.passed .join) }).settle settleFuel ∧
      (∀ k, k ≠ s.cur → t.warpAt k = s.warpAt k) ∧ t = { s with warps := t.warps }) ∧
    (s.Admits acceptNone [] → s.unit < 8 → m ≠ 0 → sliceMask s.u.lanes &&& ~~~m = 0 →
      (∀ x ∈ s.w.units, clash m (sliceMask s.u.lanes) x.2 = false) → ∃ t, exec (.regang m) s = .next t ∧
      t.w = ({ s.w with units := Table.set s.w.units s.unit (s.passed (.regang m)) }).settle settleFuel ∧
      (∀ k, k ≠ s.cur → t.warpAt k = s.warpAt k) ∧ t = { s with warps := t.warps }) ∧
    (∀ t ws, s.Admits acceptNone [ss .b b] → (Instr.loop c b n).wf = true → s.w.loops.length < 3 →
      (∀ l ∈ s.w.loops, l.ctr ≠ n.toNat) → s.closeWindows.fetchCode s.who (s.u.pc + 4) c.toNat = .ok t ws → isPrefix (ws.getLastD 0) = false →
      let count : W32 := (s.valueAt intConsts [ss .b b] .b 0).setWidth 32
      let stop := s.u.pc + 4 + BitVec.ofNat 64 (4 * c.toNat)
      (count ≠ 0 → s.g.image = none ∨ (s.w.loops.flatMap (·.words) ++ ws).length ≤ 256 → s.Completes (.loop c b n) (fun u =>
        u.w.loops = s.w.loops ++ [{ ctr := n.toNat, start := s.u.pc + 4, stop := stop, lanes := s.u.lanes, words := ws }] ∧
        Table.get 0 u.w.lcs n.toNat = count ∧ u.w = { s.w with loops := u.w.loops, lcs := u.w.lcs, region := u.w.region })) ∧
      (count = 0 → ∃ v, exec (.loop c b n) s = .next v ∧ v.u.pc = stop ∧ v.w.loops = s.w.loops ∧ Table.get 0 v.w.lcs n.toNat = 0)) ∧
    (∀ stops : Nat → W64, s.Admits acceptG [] → s.act ≠ 0 →
      (∀ L ∈ Lanes.list s.act, ∃ l, innermost s.w.loops (1#32 <<< L) = some l ∧ l.stop = stops L ∧ (stops L).toNat % 4 = 0) →
      (∀ k, s.w.divide s.unit s.u.lanes (fun L => if s.act.getLsbD L then leaveDest s.w.loops L else s.fallDest L) ≠ .error k) →
      ∃ t, exec .lbrk s = .next t ∧ s.TransferResult t stops none)

/-- Splits merge and gangs rendezvous, and LOOP and LBRK begin and leave loops: the four statements before this one. -/
def Obligations.MergingRendezvousAndLoops : Prop :=
  Sys2Proof.Machine.RootSplitsMergeIntoGang ∧ Sys2Proof.Machine.ChildSplitsMergeIntoParent ∧ Sys2Proof.Machine.RegangFormsOneGang ∧
    Sys2Proof.Machine.RendezvousAndLoops

/-- R36, R59, R135, R137: LONG_LATENCY_COMMIT of a result whose window has closed, with no earlier result that shares a destination, the
warp being on its core, writes all its vector and scalar registers, its predicate and its network version, in its lanes that live
where a register has lanes, ORs the flags of those lanes into the core's, and removes the result; nothing else changes. A result
that may not commit stays; a scalar register is written though the lanes of the result have ended (log entry 31: inferred from R135).
LOOP_BACK_EDGE, when every live lane of the loop waits there with no result left, takes one from the
counter and sends the waiting units to the body's first word, or ends the loop with the counter 0 and sends them on. -/
def Obligations.CommitsAndBackEdges : Prop :=
  ∀ (s : State) (w i : Nat),
    (∀ p, (s.warpAt w).pend[i]? = some p → p.left = 0 → (∀ q ∈ (s.warpAt w).pend.take i, q.meets p = false) →
      s.onCore (s.warpAt w).wg = true →
      let old := s.warpAt w
      let lane := fun L => p.act.getLsbD L && old.live.getLsbD L
      let c := (s.wgAt old.wg).core
      ∃ t, exec (.longLatencyCommit w i) s = .next t ∧
        (∀ x L, L < 32 → (t.warpAt w).vreg x L =
          match p.vec.reverse.find? (fun y => decide (y.1 = x)) with
          | some y => if lane L then y.2.getD L 0 else old.vreg x L
          | none => old.vreg x L) ∧
        (∀ m, (t.warpAt w).sreg m = ((p.scl.reverse.find? (fun y => decide (y.1 = m))).map (·.2)).getD (old.sreg m)) ∧
        (∀ q L, L < 32 → ((t.warpAt w).pred q).getLsbD L =
          match p.pred with
          | some (n, m) => if q = n.toNat ∧ n ≠ 0 ∧ lane L = true then m.getLsbD L else (old.pred q).getLsbD L
          | none => (old.pred q).getLsbD L) ∧
        (∀ L, L < 32 → Table.get 0xFFFFFFFF#32 (t.warpAt w).rcver L =
          if lane L then p.ver.getD (Table.get 0xFFFFFFFF#32 old.rcver L) else Table.get 0xFFFFFFFF#32 old.rcver L) ∧
        t.warpAt w = { old with pend := old.pend.eraseIdx i, vregs := (t.warpAt w).vregs, sregs := (t.warpAt w).sregs,
                                preds := (t.warpAt w).preds, rcver := (t.warpAt w).rcver } ∧
        t.coreAt c = { s.coreAt c with fflags := (s.coreAt c).fflags ||| flagsOf (p.act &&& old.live) (fun L => p.flags.getD L 0) } ∧
        (∀ k, k ≠ c → t.coreAt k = s.coreAt k) ∧ (∀ k, k ≠ w → t.warpAt k = s.warpAt k) ∧
        t = { s with warps := t.warps, cores := t.cores }) ∧
    (∀ p, (s.warpAt w).pend[i]? = some p → p.left ≠ 0 ∨ (∃ q ∈ (s.warpAt w).pend.take i, q.meets p = true) →
      exec (.longLatencyCommit w i) s = .next s) ∧
    (∀ l, (s.warpAt w).loops[i]? = some l → l.lanes &&& (s.warpAt w).live ≠ 0 →
      (∀ L, L < 32 → (l.lanes &&& (s.warpAt w).live).getLsbD L = true →
        ∃ x ∈ (s.warpAt w).units, x.2.lanes.getLsbD L = true ∧ waitsAt l ((s.warpAt w).loops.drop (i + 1)) x.2 = true) →
      (∀ p ∈ (s.warpAt w).pend, ∀ x ∈ (s.warpAt w).units, waitsAt l ((s.warpAt w).loops.drop (i + 1)) x.2 = true → x.1 ≠ p.unit) →
      let inside := (s.warpAt w).loops.drop (i + 1)
      let lc := (Table.get 0#32 (s.warpAt w).lcs l.ctr).toNat
      ∃ t, exec (.loopBackEdge w i) s = .next t ∧ t = s.setWarp w (t.warpAt w) ∧
        t.warpAt w = { s.warpAt w with lcs := (t.warpAt w).lcs, loops := (t.warpAt w).loops, units := (t.warpAt w).units, region := (t.warpAt w).region } ∧
        (∀ c, c ≠ l.ctr → Table.get 0#32 (t.warpAt w).lcs c = Table.get 0#32 (s.warpAt w).lcs c) ∧
        (∀ x ∈ (s.warpAt w).units, waitsAt l inside x.2 = false → x ∈ (t.warpAt w).units) ∧
        (1 < lc → (Table.get 0#32 (t.warpAt w).lcs l.ctr).toNat = lc - 1 ∧ (t.warpAt w).loops = (s.warpAt w).loops ∧
          ∀ x ∈ (s.warpAt w).units, waitsAt l inside x.2 = true → (x.1, { x.2 with park := .ready, pc := l.start }) ∈ (t.warpAt w).units) ∧
        (lc ≤ 1 → (Table.get 0#32 (t.warpAt w).lcs l.ctr) = 0 ∧ (t.warpAt w).loops = (s.warpAt w).loops.eraseIdx i ∧
          ∀ x ∈ (s.warpAt w).units, waitsAt l inside x.2 = true →
            (x.1, { x.2 with park := restAt ((s.warpAt w).loops.eraseIdx i) x.2.lanes x.2.pc }) ∈ (t.warpAt w).units))

/-- R39, R40, R140, R309, R311, R317, R318: NOP, REGION, WBASE, XSET, SETPART, GETMASK, TIME, PREOK and CSRR complete with their effect on
the warp and no other; CSRR reads every register of the CSR map at its number, spelled out here, a handler register in handler mode. -/
def Obligations.WarpRegisterInstructions : Prop :=
  ∀ (s : State) (c b a : BitVec 7) (x : BitVec 2) (p : BitVec 3),
    let i := s.imm32 c
    (s.Admits acceptG [] → s.Completes .nop (fun u => u = s)) ∧
    (s.Admits acceptNone [] → s.Completes .region (fun u => s.WarpResult u []
      { s.w with rgent := s.u.pc, rgcnt := s.w.rgcnt + 1, region := some ⟨s.unit, s.u.lanes⟩ })) ∧
    (s.Admits acceptI [] → i.toNat ≤ 63 → s.Completes (.wbase c) (fun u => s.WarpResult u []
      { s.w with wb := BitVec.ofNat 16 (16 * i.toNat) })) ∧
    (s.Admits acceptI [ss .b b] → s.Completes (.xset c b x) (fun u =>
      (∀ k, Table.get 0#16 u.w.xregs k = if k = x.toNat then
        (s.valueAt intConsts [ss .b b] .b 0 + (s.simm32 c).signExtend 64).setWidth 16 else Table.get 0#16 s.w.xregs k) ∧
      u.w = { s.w with xregs := u.w.xregs } ∧ s.OnlyWarp u 0)) ∧
    (s.Admits acceptI [] → i.toNat ∈ [2, 4, 8, 16, 32] → s.Completes (.setpart c) (fun u => s.WarpResult u []
      { s.w with part := BitVec.ofNat 8 i.toNat })) ∧
    (s.Admits acceptNone [vd .a a 1] → s.Completes (.getmask 0 a) (fun u =>
      s.VecResult u [vd .a a 1] 1 (s.regAt [vd .a a 1] .a) (fun _ => s.u.lanes.setWidth 64) 0)) ∧
    (s.Admits acceptNone [vd .a a 1] → s.Completes (.getmask 1 a) (fun u =>
      s.VecResult u [vd .a a 1] 1 (s.regAt [vd .a a 1] .a) (fun _ => s.w.live.setWidth 64) 0)) ∧
    (s.Admits acceptNone [vd .a a 1] → s.Completes (.getmask 2 a) (fun u =>
      s.VecResult u [vd .a a 1] 1 (s.regAt [vd .a a 1] .a)
        (fun L => (Lanes.of (fun J => decide (J / s.w.part.toNat = L / s.w.part.toNat))).setWidth 64) 0)) ∧
    (s.Admits acceptNone [sd .a a] → s.Completes (.time 0 a) (fun u =>
        s.ScalResult u [sd .a a] (s.regAt [sd .a a] .a) (BitVec.ofNat 64 s.tick) 0) ∧
      s.Completes (.time 1 a) (fun u => s.ScalResult u [sd .a a] (s.regAt [sd .a a] .a) (BitVec.ofNat 64 (s.tick / 64)) 0)) ∧
    (s.Admits acceptNone [] → s.Completes (.preok p) (fun u => s.PredResult u [] p.toNat (fun _ => s.g.preempt) 0)) ∧
    (∀ x ∈ s.plainRegisters ++ (if s.w.handler then s.handlerRegisters else []), i.toNat = x.1 → s.Admits acceptI [sd .a a] →
      s.Completes (.csrr c a) (fun u => s.ScalResult u [sd .a a] (s.regAt [sd .a a] .a) x.2 0)) ∧
    (i.toNat = 4 → s.Admits acceptI [vd .a a 1] → s.Completes (.csrr c a) (fun u =>
      s.VecResult u [vd .a a 1] 1 (s.regAt [vd .a a 1] .a) (fun L => (Table.get 0#8 s.w.cflags L).setWidth 64) 0))

/-- R39, R40, R59, R106, R309, R310, R318: CSRW of a register that may be written completes and changes that register alone: %wb to a
multiple of 16 up to 1008, %part to a partition width, %cshape, all five bits of %fflags, x0 to x3, the loop counters, and in
handler mode %tpc to a multiple of 4 and %splext up to 48 without dropping an entry in use; the same writes as steps of their
own (WB_WRITE, CSHAPE_WRITE, FFLAGS_WRITE, LOOP_COUNTER_WRITE, SPLEXT_WRITE, TPC_WRITE) do the same to a live warp. That those steps write
the register alone and leave the program counter is the model's choice (log entry 72). -/
def Sys2Proof.Machine.SpecialRegisterWrites : Prop :=
  ∀ (s : State) (c b : BitVec 7) (n : BitVec 2),
    let v := s.valueAt intConsts [ss .b b] .b 0
    let csr := (s.imm32 c).toNat
    let writes := fun (i : Instr) (w : W64 → Warp) =>
      (s.w.live ≠ 0 → exec i s = .next (s.setW (w v)))
    let both := fun (num : Nat) (i : Instr) (w : Warp) =>
      (csr = num → s.Admits acceptI [ss .b b] → s.Completes (.csrw c b) (fun u => u = (s.setW w).pop (s.popped [ss .b b]))) ∧
      writes i (fun _ => w)
    let alone := fun (num : Nat) (w : Warp) =>
      csr = num → s.Admits acceptI [ss .b b] → s.Completes (.csrw c b) (fun u => u = (s.setW w).pop (s.popped [ss .b b]))
    (v.toNat % 16 = 0 → v.toNat ≤ 1008 → both 0x000 (.wbWrite v) { s.w with wb := v.setWidth 16 }) ∧
    (v.toNat ∈ [2, 4, 8, 16, 32] → alone 0x001 { s.w with part := v.setWidth 8 }) ∧
    (v = 0 ∨ (v.toNat < 2 ^ 16 ∧ (gridOf (v.setWidth 16)).isSome = true) →
      both 0x003 (.cshapeWrite v) { s.w with cshape := v.setWidth 16 }) ∧
    ((csr = 0x005 → s.Admits acceptI [ss .b b] → s.Completes (.csrw c b) (fun u =>
        u.core = { s.core with fflags := v.setWidth 5 } ∧ u.w = { s.w with opq := s.w.opq.drop (s.popped [ss .b b]) } ∧
        u = { s with cores := u.cores, warps := u.warps })) ∧
      (s.w.live ≠ 0 → exec (.fflagsWrite v) s = .next (s.setCore { s.core with fflags := v.setWidth 5 }))) ∧
    (∀ k < 4, alone (0x008 + k) { s.w with xregs := Table.put 0#16 s.w.xregs k (v.setWidth 16) }) ∧
    (n ≠ 3 → both (0x00C + n.toNat) (.loopCounterWrite n v) { s.w with lcs := Table.put 0#32 s.w.lcs n.toNat (v.setWidth 32) }) ∧
    (s.w.handler = true → v.toNat % 4 = 0 → both 0x801 (.tpcWrite v) { s.w with tpc := v }) ∧
    (s.w.handler = true → v.toNat ≤ 48 → (∀ e ∈ s.w.entriesUsed, e < 16 + v.toNat) →
      both 0x810 (.splextWrite v) { s.w with splext := v.setWidth 8 }) ∧
    (csr = 4 → s.Admits acceptI [vblock .b b 1 1] → s.Completes (.csrw c b) (fun u =>
      (∀ L, L < 32 → Table.get 0#8 u.w.cflags L = if s.act.getLsbD L then
        (s.valueAt intConsts [vblock .b b 1 1] .b L).setWidth 8 else Table.get 0#8 s.w.cflags L) ∧
      u.w = { s.w with cflags := u.w.cflags } ∧ s.OnlyWarp u 0))

/-- R39, R309, R310, R318: outside handler mode a CSRR or CSRW of a handler register raises ILLEGAL_OP, and in any mode so do a read of a
number that no register has, a write of a register that is read only, and a write of a value that the register refuses. That a misaligned
%tpc reports the lowest lane of ACT is the model's choice (log entry 74). -/
def Sys2Proof.Machine.SpecialRegisterPrivilege : Prop :=
  ∀ (s : State) (c b a : BitVec 7),
    let n := (s.imm32 c).toNat
    let v := s.valueAt intConsts [ss .b b] .b 0
    let ill := Host.Outcome.next (φ := Fault) (ρ := Refusal) (s.takeTrap .illegalOp s.ir.toNat)
    (0x800 ≤ n → s.w.handler = false → exec (.csrr c a) s = ill) ∧
    (n ≠ 4 → n ∉ plainCsrs → n ∉ handlerCsrs → exec (.csrr c a) s = ill) ∧
    (s.Admits acceptI [ss .b b] →
      (0x800 ≤ n → s.w.handler = false → exec (.csrw c b) s = ill) ∧
      (n ∈ [0x002, 0x010, 0x011, 0x100, 0x101, 0x102, 0x103, 0x104, 0x105, 0x106, 0x107, 0x800, 0x802, 0x803, 0x804, 0x805, 0x806,
        0x807, 0x808] → exec (.csrw c b) s = ill) ∧
      (n = 0x000 → v.toNat % 16 ≠ 0 ∨ 1008 < v.toNat → exec (.csrw c b) s = ill) ∧
      (n = 0x001 → v.toNat ∉ [2, 4, 8, 16, 32] → exec (.csrw c b) s = ill) ∧
      (n = 0x810 → 48 < v.toNat → exec (.csrw c b) s = ill) ∧
      (n = 0x801 → s.w.handler = true → v.toNat % 4 ≠ 0 →
        exec (.csrw c b) s = .next (s.takeTrap .misalign (Lanes.lowest s.act))))

/-- What each writable register takes, and which reads and writes are illegal: the two statements before this one. -/
def Obligations.SpecialRegisters : Prop :=
  Sys2Proof.Machine.SpecialRegisterWrites ∧ Sys2Proof.Machine.SpecialRegisterPrivilege

/-- R307, R309: taking a precise trap with a handler, outside handler mode. The warp's live slices become one gang at the handler entry
in handler mode, with %wb 0, %part 32, no loop, no split, no coverage and no uncommitted result; the handler registers say what
trapped; the trap frame holds the units at their own instructions, the loops, %wb, %part, x0 to x3, p1 to p7, s96 to s111, the
uncommitted results, the trapping unit's windows ended, and the region record. Every other register and all of memory are unchanged. -/
def Sys2Proof.Machine.TrapEntry : Prop :=
  ∀ (s : State) (tr : Trap) (info : Nat), s.w.handler = false → s.launch.handler ≠ 0 →
    let t := s.takeTrap tr info
    t.w = { s.w with units := soleGang s.w.live s.launch.handler, loops := [], pend := [], wb := 0, part := 32, handler := true,
                     tframe := t.w.tframe, tcause := trapCode tr, tpc := s.u.frame.first.getD s.u.pc, tnext := s.u.pc + 4,
                     trgent := s.w.rgent, trgcnt := s.w.rgcnt, tmask := s.act, tunit := unitCode s.unit s.u,
                     tinfo := BitVec.ofNat 64 info, tregion := s.w.region.isSome } ∧
    (∃ f, t.w.tframe = some f ∧ f.unit = s.unit ∧ f.loops = s.w.loops ∧ f.wb = s.w.wb ∧ f.part = s.w.part ∧ f.xregs = s.w.xregs ∧
      f.preds = s.w.preds ∧ f.pend = s.w.pend.map (fun p => if p.unit = s.unit then { p with left := 0 } else p) ∧ f.region = s.w.region ∧ (∀ i < 16, f.high.getD i 0 = s.w.sreg (96 + i)) ∧
      f.after = coverAfter s.u.inForce ∧
      f.units = s.w.units.map (fun x => (x.1, { x.2 with
        pc := x.2.frame.first.getD x.2.pc, frame := Framing.blank, issued := if x.1 = s.unit then none else x.2.issued,
        olds := if x.1 = s.unit then [] else x.2.olds, mid := if x.1 = s.unit then false else x.2.mid }))) ∧
    t.unit = lowestSlice s.w.live ∧ (∀ k, k ≠ s.cur → t.warpAt k = s.warpAt k) ∧
    t.g = { s.g with due := s.g.image.isSome } ∧ (∀ k, k ≠ s.w.wg → t.wgAt k = s.wgAt k) ∧
    t = { s with warps := t.warps, wgs := t.wgs, unit := t.unit }

/-- R220, R307, R308: a precise trap with no handler entry, or in handler mode, is an uncontained error: every launch of the context and
fault domain that has not ended is marked with status 7, and every workgroup of those launches is done, with no live lane left. A launch
that has not read its RCB yet is told of the domain, and ends where its RCB turns out to be of it. -/
def Sys2Proof.Machine.TrapWithoutHandlerEndsDomain : Prop :=
  ∀ (s : State) (tr : Trap) (info : Nat), s.w.handler = true ∨ s.launch.handler = 0 →
    let t := s.takeTrap tr info
    (∀ x ∈ s.launches, x.2.asid = s.g.asid → x.2.domain = s.launch.domain → x.2.phase ≠ .ended → x.2.phase ≠ .submitted →
      x.2.code = 0 →
      (x.1, { x.2 with code := 7 }) ∈ t.launches) ∧
    (∀ x ∈ s.launches, x.2.asid ≠ s.g.asid ∨ (x.2.domain ≠ s.launch.domain ∧ x.2.phase ≠ .submitted) → x ∈ t.launches) ∧
    (∀ x ∈ s.launches, x.2.asid = s.g.asid → x.2.phase = .submitted → (x.1, { x.2 with ends := s.launch.domain :: x.2.ends }) ∈ t.launches) ∧
    (∀ k, (s.wgAt k).phase ≠ .done → (∃ x ∈ s.wgs, x.1 = k ∧ x.2 = s.wgAt k) →
      (s.launchAt (s.wgAt k).launch).asid = s.g.asid → (s.launchAt (s.wgAt k).launch).domain = s.launch.domain →
      (s.launchAt (s.wgAt k).launch).phase ≠ .submitted → (t.wgAt k).phase = .done ∧ ∀ w ∈ (s.wgAt k).warps, (t.warpAt w).live = 0) ∧
    t.mem = s.mem

/-- R306, R312, R317: TRAP takes the trap TRAP with its code operand. TRET of the gang of every live slice in handler mode restores the
registers of the trap frame and the other units, leaves handler mode, and resumes the trapping unit at %tpc in mode 1 with the
results as they were, or at %tnext in mode 2; in every other case it raises ILLEGAL_OP. HALT 1 in handler mode is an uncontained
error; HALT outside handler mode raises ILLEGAL_OP. -/
def Sys2Proof.Machine.TrapAndReturn : Prop :=
  ∀ (s : State) (c : BitVec 7) (f : TrapFrame),
    s.Admits acceptNone [] →
    exec (.trap c) s = .next (s.takeTrap .trap c.toNat) ∧
    (s.w.handler = true → s.unit < 8 → s.u.lanes = s.w.live → s.w.tframe = some f → s.NoResults → f.high.length = 16 →
      (∃ t, exec (.tret 1) s = .next t ∧ s.Resumed t f ∧ t.w.pend = f.pend ∧ t.u.pc = s.w.tpc) ∧
      (∃ t, exec (.tret 2) s = .next t ∧ s.Resumed t f ∧ t.u.pc = s.w.tnext ∧ t.w.pend = f.pend) ∧
      (f.region = none → exec (.tret 0) s = .next s.uncontained) ∧
      (∀ r, f.region = some r → ∃ t, exec (.tret 0) s = .next t ∧ t.w.pend = [] ∧ t.w.handler = false ∧ (r.lanes &&& s.w.live ≠ 0 →
        ∃ u, Table.find t.w.units (if r.unit < 8 then Lanes.lowest (r.lanes &&& s.w.live) / 4 else r.unit) = some u ∧ u.pc = s.w.trgent ∧ u.lanes = r.lanes &&& s.w.live ∧ u.park = .ready))) ∧
    (s.w.handler = false ∨ 2 < c.toNat ∨ 8 ≤ s.unit ∨ s.u.lanes ≠ s.w.live → exec (.tret c) s = .next (s.takeTrap .illegalOp s.ir.toNat)) ∧
    (s.w.handler = true → exec (.halt 1) s = .next s.uncontained) ∧
    (s.w.handler = false ∨ 1 < c.toNat → exec (.halt c) s = .next (s.takeTrap .illegalOp s.ir.toNat))

/-- Taking a trap, ending a fault domain where none can be taken, and TRAP, TRET and HALT: the three statements before this one. -/
def Obligations.TrapsAndReturns : Prop :=
  Sys2Proof.Machine.TrapEntry ∧ Sys2Proof.Machine.TrapWithoutHandlerEndsDomain ∧ Sys2Proof.Machine.TrapAndReturn

/-- R135, R157, R308, R317: EXIT outside handler mode, by lanes in no depth phase of a recursion object, ends the lanes of ACT and sends
the unit's other lanes to the next word (stated where no unit waits at a JOIN or REGANG, which the ending could complete); no
register changes; while a lane lives, or no matrix step collects arrivals, nothing else changes but units that wait at the
workgroup barrier, where it completes. HALT 0 ends the warp as though every lane had executed EXIT, with its trap frame
discarded; EXIT in handler mode is an uncontained error. -/
def Obligations.EndingLanes : Prop :=
  ∀ (s : State),
    (s.Admits acceptG [] → s.w.handler = false → (∀ L ∈ Lanes.list s.act, (s.w.frameAt L).depth = false) → s.NoResults →
      (∀ n, s.w.divide s.unit (s.u.lanes &&& ~~~ s.act) s.fallDest ≠ .error n) →
      ∃ t, exec .exit s = .next t ∧
        (s.w.live &&& ~~~ s.act ≠ 0 ∨ s.g.eng.latches = [] →
          t.w = { s.w with live := s.w.live &&& ~~~ s.act, units := t.w.units, loops := t.w.loops, region := t.w.region,
                           pend := t.w.pend, tframe := t.w.tframe } ∧
          ((∀ x ∈ s.w.units, x.2.park ≠ .join ∧ ∀ m, x.2.park ≠ .regang m) →
            ∀ L, L < 32 → s.u.lanes.getLsbD L = true → s.act.getLsbD L = false → t.w.StandsAt L (s.u.pc + 4)) ∧
          (∀ p, p ∈ t.w.pend ↔ p ∈ s.w.pend) ∧
          (∀ k, k ≠ s.cur → t.warpAt k = s.warpAt k ∨ t.warpAt k = (s.warpAt k).releaseBsync) ∧
          (s.g.arrived = 0 → (∀ k, k ≠ s.cur → t.warpAt k = s.warpAt k) ∧ t.wgs = s.wgs) ∧
          (∀ k, k ≠ s.w.wg → t.wgAt k = s.wgAt k) ∧ t.g = { s.g with arrived := t.g.arrived, bphase := t.g.bphase } ∧
          t = { s with warps := t.warps, wgs := t.wgs })) ∧
    (s.Admits acceptNone [] → s.w.handler = true →
      ∃ t, exec (.halt 0) s = .next t ∧ t.w.live = 0 ∧ t.w.units = [] ∧ t.w.tframe = none ∧ t.mem = s.mem) ∧
    (s.Admits acceptG [] → s.w.handler = true → s.act ≠ 0 → exec .exit s = .next s.uncontained)

/-- R141, R143, R144: POLL.mask and SHFL complete: the mask of the tile's lanes of ACT where the predicate holds; the value of the
source lane of the tile by index, up, down or exclusive or, if that lane is in ACT, and else the lane's own; nothing else
changes. -/
def Sys2Proof.Machine.PollMaskAndShuffles : Prop :=
  ∀ (s : State) (w : BitVec 1) (c b a : BitVec 7) (p : BitVec 3),
    let n := s.w.part.toNat
    let start := fun L => L / n * n
    let from' := fun (_ J : Nat) (B : W64) => if s.act.getLsbD J = true then s.valueAt intConsts (vvk (regsW w) c b a) .b J else B
    n ∈ [2, 4, 8, 16, 32] →
    s.VecCaseF (.pollMask p a) acceptGX [vd .a a 1] intConsts 1
      (fun L _ _ _ => (Lanes.of (fun J => decide (J ∈ s.tileLanes L) && (s.w.pred p.toNat).getLsbD J)).setWidth 64) (fun _ => noFlag) ∧
    s.VecCaseF (.shflIdx w c b a) acceptAll (vvk (regsW w) c b a) intConsts (regsW w)
      (fun L _ B C => from' L (start L + (C.setWidth 32).toNat % n) B) (fun _ => noFlag) ∧
    s.VecCaseF (.shflUp w c b a) acceptAll (vvk (regsW w) c b a) intConsts (regsW w)
      (fun L _ B C => let k := (C.setWidth 32).toNat; from' L (if L - start L < k then L else L - k) B) (fun _ => noFlag) ∧
    s.VecCaseF (.shflDown w c b a) acceptAll (vvk (regsW w) c b a) intConsts (regsW w)
      (fun L _ B C => let k := (C.setWidth 32).toNat; from' L (if L - start L + k < n then L + k else L) B) (fun _ => noFlag) ∧
    s.VecCaseF (.shflXor w c b a) acceptAll (vvk (regsW w) c b a) intConsts (regsW w)
      (fun L _ B C => from' L (L ^^^ ((C.setWidth 32).toNat % n)) B) (fun _ => noFlag)

/-- R145: REDUX and SCAN complete. The integer operations give in each lane of ACT the combination of the values of the tile's lanes of
ACT, of those up to the lane, or of those before it, with the identity of the operation where there is none, and raise no flag;
the float operations combine by the fixed pairwise tree over the tile's positions, with its flags. Codes above 11 raise
ILLEGAL_OP. -/
def Sys2Proof.Machine.ReductionsAndScans : Prop :=
  ∀ (s : State) (k : BitVec 4) (b a : BitVec 7),
    let n := s.w.part.toNat
    let r := if k.toNat = 11 then 2 else 1
    let val := fun J => s.valueAt (laneConsts k.toNat) (vv r b a) .b J
    let bySum := fun (i : Instr) (sees : Nat → Nat → Bool) =>
      s.VecCaseF i acceptGX (vv r b a) (laneConsts k.toNat) r
        (fun L _ _ _ => (combineInt k.toNat val ((s.tileLanes L).filter (sees L))).getD (scanIdentity k.toNat)) (fun _ => noFlag)
    let byTree := fun (i : Instr) (sees : Nat → Nat → Bool) =>
      let t := fun L => (tree (laneOp k.toNat)
        (fun j => let J := L / n * n + j; if s.act.getLsbD J && sees L J then some (val J) else none) 0 (Nat.log2 n)).getD
          (scanIdentity k.toNat, 0)
      s.VecCaseF i acceptGX (vv r b a) (laneConsts k.toNat) r (fun L _ _ _ => (t L).1) (fun L _ _ _ => (t L).2)
    n ∈ [2, 4, 8, 16, 32] →
    (k.toNat < 8 ∨ k.toNat = 11 → bySum (.redux k b a) (fun _ _ => true) ∧ bySum (.scanIncl k b a) (fun L J => decide (J ≤ L)) ∧
      bySum (.scanExcl k b a) (fun L J => decide (J < L))) ∧
    (8 ≤ k.toNat → k.toNat < 11 → byTree (.redux k b a) (fun _ _ => true) ∧ byTree (.scanIncl k b a) (fun L J => decide (J ≤ L)) ∧
      byTree (.scanExcl k b a) (fun L J => decide (J < L))) ∧
    (11 < k.toNat → ∀ i ∈ [Instr.redux k b a, .scanIncl k b a, .scanExcl k b a],
      exec i s = .next (s.takeTrap .illegalOp s.ir.toNat))

/-- R146: LREORD of key types 0 to 4 completes: within each tile the lanes of ACT receive the values of lanes of ACT of that tile, one
each, in ascending order of key, lanes of equal keys in lane order; nothing else changes and no flag is raised. -/
def Sys2Proof.Machine.LaneReordering : Prop :=
  ∀ (s : State) (k : BitVec 4) (c b a : BitVec 7),
    let ops := [vd .a a 1, vs .b b 1, vs .c c (if 3 ≤ k.toNat then 2 else 1)]
    let kc := if k.toNat = 2 then constsT 0 else intConsts
    let key := fun J => s.valueAt kc ops .c J
    k.toNat ≤ 4 → s.Admits acceptGX ops →
    ∃ src : Nat → Nat,
      (∀ L < 32, s.act.getLsbD L = true → src L ∈ s.tileLanes L) ∧
      (∀ L J, L < J → J < 32 → s.act.getLsbD L = true → J ∈ s.tileLanes L →
        keyLess k.toNat (key (src L)) (key (src J)) = true ∨
        (keyLess k.toNat (key (src J)) (key (src L)) = false ∧ src L < src J)) ∧
      s.Completes (.lreord k c b a) (fun u =>
        s.VecResult u ops 1 (s.regAt ops .a) (fun L => s.valueAt kc ops .b (src L)) 0)

/-- Shuffles, reductions, scans and reordering complete with their results over the tile: the three statements before this one. -/
def Obligations.LaneExchanges : Prop :=
  Sys2Proof.Machine.PollMaskAndShuffles ∧ Sys2Proof.Machine.ReductionsAndScans ∧ Sys2Proof.Machine.LaneReordering

/-- The state after some pages have been translated, one after another. -/
def Sys2Proof.Machine.State.afterPages (s : State) (w : Who) (kind : BitVec 2) : List (Nat × Nat) → State
  | [] => s
  | x :: r => Sys2Proof.Machine.State.afterPages (s.xlatePage w kind x.1 x.2).1 w kind r

/-- R166 to R170, R175: a translation that succeeds translates pages of the accessed addresses, one after another; it changes bytes of
memory only by setting bits 6 and 7 of a byte, the A and D bits that its kind uses, in the leaf entry that the lookup of one of these pages
finds in the state that the pages before it leave, and changes nothing but memory, the cached copies and translations, the count of free
choices and what a checkpoint copies first. One page's translation sets those bits of the leaf that the walk, or the cached translation,
gives, where they are clear in it, and changes no other byte. -/
def Sys2Proof.Machine.TranslationSetsOnlyUsedBits : Prop :=
  ∀ (s t : State) (w : Who) (kind : BitVec 2) (runs : List (Nat × List (Nat × Nat))) (ps : List (Nat × Segs)),
    (s.reachLanes w kind runs = .ok t ps → ∃ pages : List (Nat × Nat),
      (∀ x ∈ pages, ∃ y ∈ runs, ∃ r ∈ y.2, r.1 ≤ x.1 ∧ x.1 + x.2 ≤ r.1 + r.2) ∧ t = s.afterPages w kind pages ∧ s.OnlyTranslated t ∧
      ∀ a, Memory.read t.mem a = Memory.read s.mem a ∨
        (Memory.read t.mem a = Memory.read s.mem a ||| (usedBits kind).setWidth 8 ∧ ∃ before x after e l, pages = before ++ x :: after ∧
          ((s.afterPages w kind before).lookup w.asid x.1).2 = .leaf a e l ∧ denies e kind = none)) ∧
    (∀ va n p, s.xlatePage w kind va n = (t, .ok p) → s.OnlyTranslated t ∧ ∃ a e l, (s.lookup w.asid va).2 = .leaf a e l ∧
      denies e kind = none ∧ ∀ b, Memory.read t.mem b =
        if b = a ∧ e ||| usedBits kind ≠ e then Memory.read s.mem b ||| (usedBits kind).setWidth 8 else Memory.read s.mem b)

/-- R166 to R168: a walk ends with cause 0 at an entry with V clear, with cause 5 at an entry that is a leaf at level 4 or 5, a
pointer at level 1, a leaf of ordering kind 3 or a 2 MiB leaf whose frame has low bits set, each at that entry's level, and with
cause 4 and level 0 at an address with bits [63:57] not zero; an access whose leaf does not permit it takes the denied cause of
its kind; what the walk or the leaf says is the fault of an access of the device, with no translation cached. -/
def Sys2Proof.Machine.WalkFaultCauses : Prop :=
  ∀ (s : State) (w : Who) (kind : BitVec 2) (va l table : Nat) (ls : List Nat),
    (let e := s.phys64 (table + 8 * (va / pageSize l % 512));
      (e.getLsbD 0 = false → s.walkFrom va (l :: ls) table = .fault 0 (BitVec.ofNat 3 l)) ∧
      (e.getLsbD 0 = true → e.getLsbD 4 = true → (4 ≤ l ∨ bitsOf e 10 9 = 3) → s.walkFrom va (l :: ls) table = .fault 5 (BitVec.ofNat 3 l)) ∧
      (e.getLsbD 0 = true → e.getLsbD 4 = true → e.getLsbD 8 = false → l = 2 → bitsOf e 32 24 ≠ 0 →
        s.walkFrom va (l :: ls) table = .fault 5 (BitVec.ofNat 3 l)) ∧
      (e.getLsbD 0 = true → e.getLsbD 4 = false → l ≤ 1 → s.walkFrom va (l :: ls) table = .fault 5 (BitVec.ofNat 3 l))) ∧
    (s.tlb = [] → w.own = true →
      (2 ^ 57 ≤ va → (s.xlatePage w kind va 1).2 = .fault va 4 0) ∧
      (∀ cause level, s.walk w.asid va = .fault cause level → (s.xlatePage w kind va 1).2 = .fault va cause level) ∧
      (∀ a e l, s.walk w.asid va = .leaf a e l →
        (kind = accRead → e.getLsbD 1 = false → (s.xlatePage w kind va 1).2 = .fault va 1 (BitVec.ofNat 3 l)) ∧
        (kind = accWrite → e.getLsbD 2 = false → (s.xlatePage w kind va 1).2 = .fault va 2 (BitVec.ofNat 3 l)) ∧
        (kind = accFetch → e.getLsbD 3 = false → (s.xlatePage w kind va 1).2 = .fault va 3 (BitVec.ofNat 3 l)) ∧
        (kind = accAtomic → e.getLsbD 1 = false → (s.xlatePage w kind va 1).2 = .fault va 1 (BitVec.ofNat 3 l)) ∧
        (kind = accAtomic → e.getLsbD 1 = true → e.getLsbD 2 = false →
          (s.xlatePage w kind va 1).2 = .fault va 2 (BitVec.ofNat 3 l))))

/-- R175, R176: a translation fault performs no access and takes the free entry of lowest index of its die's buffer, or shares
the entry that holds a fault of the same ASID, 4 KiB page and access kind; the unit of a warp that made the access parks. -/
def Sys2Proof.Machine.FaultBufferEntries : Prop :=
  ∀ (s : State) (w : Who) (kind : BitVec 2) (va : Nat) (cause level : BitVec 3),
    (s.sharedFault w.die w.asid kind va = none → ∀ k, Table.freeFrom s.faults (1024 * w.die) 1024 = some k →
      ∃ t, s.takeFault w kind va cause level = .fault t w.die (k - 1024 * w.die) ∧
        Table.find t.faults k = some (newFault w kind va cause level) ∧
        (∀ j, j ≠ k → Table.find t.faults j = Table.find s.faults j) ∧ t = { s with faults := t.faults } ∧
        (∀ j, 1024 * w.die ≤ j → j < k → Table.find s.faults j ≠ none) ∧ Table.find s.faults k = none) ∧
    (s.sharedFault w.die w.asid kind va = none → Table.freeFrom s.faults (1024 * w.die) 1024 = none →
      s.takeFault w kind va cause level = .full s) ∧
    (∀ i, s.sharedFault w.die w.asid kind va = some i →
      ∃ t, s.takeFault w kind va cause level = .fault t w.die i ∧ t = { s with faults := t.faults } ∧
        t.faults.length = s.faults.length)

/-- What translation changes, what faults it finds, and what a fault leaves: the three statements before this one. -/
def Obligations.TranslationAndItsFaults : Prop :=
  Sys2Proof.Machine.TranslationSetsOnlyUsedBits ∧ Sys2Proof.Machine.WalkFaultCauses ∧ Sys2Proof.Machine.FaultBufferEntries

/-- R36, R180 to R183, R186: LD, LDK and SLD complete where every lane of ACT is aligned and translates and its bytes have come:
they add one result, the loaded value of each lane extended by its width code, and make no other change beyond translating. What SLD reads
in the stack area of a lane that runs a routine is left open, and so is the count of free choices then. That LDK reads the current value is
the model's choice (log entry 13). -/
def Sys2Proof.Machine.LoadsComplete : Prop :=
  ∀ (s t : State) (l : BitVec 4) (c b a : BitVec 7) (ps : List (Nat × Segs)) (bytes : List (Nat × List Byte)),
    let i := s.imm32 c
    let code := attrOf i % 8
    let n := codeBytes code
    let ops := [vd .a a (codeRegs code), vbase .b b]
    let sops := [vd .a a (codeRegs code), voff .b b]
    let late := fun (ops : List Opnd) (v : Nat → List Byte) (u : State) =>
      (t.forget t.who.waiter).LateResult u ops l (lateValue t.act (t.regAt ops .a) (codeRegs code) (fun L => loaded code (v L)) [])
    t.laneBytes ps = some bytes → s.full = false →
    (s.Admits acceptAll ops → s.reachLanes s.who accRead (s.globalRuns (s.globalAddr ops i) n) = .ok t ps →
      (loadLegal i true true = true → (attrOf i / 8 = 1 → ∀ L ∈ Lanes.list s.act, s.globalAddr ops i L % n = 0) →
        s.Completes (.ld l c b a) (late ops (laneEntry [] bytes))) ∧
      (loadLegal i false false = true → s.Completes (.ldk l c b a) (late ops (laneEntry [] bytes)))) ∧
    (s.Admits acceptAll sops → s.reachLanes s.who accRead (s.scratchRuns (s.offsetAddr sops i) n) = .ok t ps →
      loadLegal i true false = true → (attrOf i / 8 = 1 → ∀ L ∈ Lanes.list s.act, s.offsetAddr sops i L % n = 0) →
      (s.w.frames = [] → s.Completes (.sld l c b a) (late sops (laneEntry [] bytes))) ∧
      (∃ v : Nat → List Byte, (∀ L, (v L).length = (laneEntry [] bytes L).length ∧
          ∀ j, ¬ s.inStack L (s.offsetAddr sops i L + j) → (v L)[j]? = (laneEntry [] bytes L)[j]?) ∧
        s.Completes (.sld l c b a) (fun u => { t.forget t.who.waiter with freeCount := u.freeCount }.LateResult u sops l
          (lateValue t.act (t.regAt sops .a) (codeRegs code) (fun L => loaded code (v L)) []))))

/-- R172, R180, R181, R184: ST and SST complete where every lane of ACT is aligned and translates, all lanes in one step: each byte of the
lanes' values for local HBM is stored at the lane's translated address, the highest lane last, and those for remote pages are posted;
every other byte reads as before. That local bytes are stored at issue, in one order, is the model's choice (log entry 10). -/
def Sys2Proof.Machine.StoresComplete : Prop :=
  ∀ (s t : State) (c b a : BitVec 7) (ps : List (Nat × Segs)) (key : Nat),
    let i := s.imm32 c
    let n := codeBytes (attrOf i % 8)
    let ops := [vdata .a a (codeRegs (attrOf i % 8)), vbase .b b]
    let sops := [vdata .a a (codeRegs (attrOf i % 8)), voff .b b]
    OneKey ps key → s.byLane = false → s.u.olds = [] →
    (s.Admits acceptAll ops → storeLegal i true = true →
      (attrOf i / 8 = 2 → ∀ L ∈ Lanes.list s.act, s.globalAddr ops i L % n = 0) →
      s.reachLanes s.who accWrite (s.globalRuns (s.globalAddr ops i) n) = .ok t ps →
      s.Completes (.st c b a) (fun u => s.StoreResult t u ops n key (s.valueAt intConsts ops .a) ps)) ∧
    (s.Admits acceptAll sops → storeLegal i false = true →
      (attrOf i / 8 = 2 → ∀ L ∈ Lanes.list s.act, s.offsetAddr sops i L % n = 0) →
      s.reachLanes s.who accWrite (s.scratchRuns (s.offsetAddr sops i) n) = .ok t ps →
      s.Completes (.sst c b a) (fun u => s.StoreResult t u sops n key (s.valueAt intConsts sops .a) ps))

/-- R161, R172, R184: where lanes are performed one in each step, so that other agents' accesses can come between, a step of ST or SST
performs the lowest lane that is left: its bytes are stored or posted as above, and the instruction completes with the last lane, or waits
with that lane noted. Which of the two ways a store is performed is the model's choice (log entry 10). -/
def Sys2Proof.Machine.StoresLaneByLane : Prop :=
  ∀ (s t : State) (c b a : BitVec 7) (ps rest : List (Nat × Segs)) (x : Nat × Segs) (key : Nat),
    let i := s.imm32 c
    let n := codeBytes (attrOf i % 8)
    let step1 := fun (j : Instr) (ops : List Opnd) (runs : List (Nat × List (Nat × Nat))) =>
      s.framed acceptAll ops = true → ops.any s.illOp = false → ops.findSome? s.boundOp = none → s.missesLine ops = false →
      s.opqShort ops = false → s.reachLanes s.who accWrite runs = .ok t ps →
      ps.filter (fun y => !s.u.olds.any (fun z => z.1 = y.1)) = x :: rest →
      ∃ u, s.StoredBytes t u n key (s.valueAt intConsts ops .a) [x] ∧
        (rest = [] → exec j s = .next u.retire) ∧
        (rest ≠ [] → exec j s = .next u ∧ u.u.pc = s.u.pc ∧ u.u.issued.isSome = true ∧ u.u.olds = s.u.olds ++ [(x.1, 0)])
    let ops := [vdata .a a (codeRegs (attrOf i % 8)), vbase .b b]
    let sops := [vdata .a a (codeRegs (attrOf i % 8)), voff .b b]
    OneKey [x] key → s.byLane = true →
    (storeLegal i true = true → (attrOf i / 8 = 2 → ∀ L ∈ Lanes.list s.act, s.globalAddr ops i L % n = 0) →
      step1 (.st c b a) ops (s.globalRuns (s.globalAddr ops i) n)) ∧
    (storeLegal i false = true → (attrOf i / 8 = 2 → ∀ L ∈ Lanes.list s.act, s.offsetAddr sops i L % n = 0) →
      step1 (.sst c b a) sops (s.scratchRuns (s.offsetAddr sops i) n))

/-- Global and private loads and stores complete with the bytes they read and leave: the three statements before this one. -/
def Obligations.LoadsAndStores : Prop :=
  Sys2Proof.Machine.LoadsComplete ∧ Sys2Proof.Machine.StoresComplete ∧ Sys2Proof.Machine.StoresLaneByLane

/-- R165, R174, R183 to R186: LDS, STS and ATOMS complete where every lane of ACT is aligned, inside the workgroup's scratchpad and
on present lines. LDS adds one result of the bytes there; STS, all lanes in one step, stores every lane's bytes, the highest lane
last, and changes no other byte; ATOMS takes the lanes in ascending order and adds one result of the old values. -/
def Obligations.ScratchpadAccesses : Prop :=
  ∀ (s : State) (l : BitVec 4) (c b a : BitVec 7),
    let i := s.imm32 c
    let code := attrOf i % 8
    let n := codeBytes code
    let lops := [vd .a a (codeRegs code), voff .b b]
    let sops := [vdata .a a (codeRegs code), voff .b b]
    let aops := [atomOpnd i a, voff .b b]
    let ready := fun (ops : List Opnd) (n : Nat) => ∀ L ∈ Lanes.list s.act, s.offsetAddr ops i L % n = 0 ∧
      s.offsetAddr ops i L + n ≤ s.spadSize s.g ∧ s.g.present (s.offsetAddr ops i L) n = true
    (s.Admits acceptAll lops → loadLegal i true false = true → s.full = false → ready lops n →
      s.Completes (.lds l c b a) (fun u => s.LateResult u lops l (lateValue s.act (s.regAt lops .a) (codeRegs code)
        (fun L => loaded code (Memory.readBytes s.g.spad (s.offsetAddr lops i L) n)) []))) ∧
    (s.byLane = false → s.u.olds = [] → s.Admits acceptAll sops → storeLegal i false = true → ready sops n →
      s.Completes (.sts c b a) (fun u =>
        (∀ x, Memory.read (u.wgAt s.w.wg).spad x =
          spadLeaves (s.offsetAddr sops i) n (s.valueAt intConsts sops .a) s.g.spad (Lanes.list s.act) x) ∧
        u.wgAt s.w.wg = { s.g with spad := (u.wgAt s.w.wg).spad } ∧ (∀ k, k ≠ s.w.wg → u.wgAt k = s.wgAt k) ∧
        u.w = { s.w with opq := s.w.opq.drop (s.popped sops) } ∧ (∀ k, k ≠ s.cur → u.warpAt k = s.warpAt k) ∧
        u = { s with wgs := u.wgs, warps := u.warps })) ∧
    (s.byLane = false → s.u.olds = [] → s.Admits acceptAll aops → atomLegal i false = true → s.full = false → ready aops (atomBytes i) →
      s.Completes (.atoms l c b a) (fun u =>
        let q := atomicSpad (atomWide i) (atomOp i) (s.offsetAddr aops i) (s.atomVal (atomWide i) (s.regAt aops .a))
          (s.atomVal (atomWide i) (s.regAt aops .a + atomRegs i)) s.g.spad (Lanes.list s.act)
        (s.setG { s.g with spad := q.1 }).LateResult u aops l
          (lateValue s.act (s.regAt aops .a) (atomRegs i) (laneEntry 0 q.2) [])))

/-- R185, R186: what each atomic operation stores, at either width: wrapping addition, bitwise operations, lesser and greater,
exchange, compare and swap, increment and decrement with their bounds, and the three float operations without flags. -/
def Sys2Proof.Machine.AtomicOperations : Prop :=
  ∀ (n : Nat) (old v swap : BitVec n),
    atomNew n 0 old v swap = old + v ∧ atomNew n 1 old v swap = old &&& v ∧ atomNew n 2 old v swap = old ||| v ∧
    atomNew n 3 old v swap = old ^^^ v ∧
    (atomNew n 4 old v swap).toInt = min old.toInt v.toInt ∧ (atomNew n 5 old v swap).toNat = min old.toNat v.toNat ∧
    (atomNew n 6 old v swap).toInt = max old.toInt v.toInt ∧ (atomNew n 7 old v swap).toNat = max old.toNat v.toNat ∧
    atomNew n 8 old v swap = v ∧ (old = v → atomNew n 9 old v swap = swap) ∧ (old ≠ v → atomNew n 9 old v swap = old) ∧
    (v.toNat ≤ old.toNat → atomNew n 10 old v swap = 0) ∧ (old.toNat < v.toNat → (atomNew n 10 old v swap).toNat = old.toNat + 1) ∧
    (old = 0 ∨ v.toNat < old.toNat → atomNew n 11 old v swap = v) ∧
    (old ≠ 0 → old.toNat ≤ v.toNat → (atomNew n 11 old v swap).toNat = old.toNat - 1) ∧
    (n = 32 → (atomNew n 12 old v swap).toNat = (addF f32 0 (decodeF f32 old.toNat) (decodeF f32 v.toNat)).1 % 2 ^ 32 ∧
      (atomNew n 13 old v swap).toNat = (minmaxF f32 false old.toNat v.toNat).1 % 2 ^ 32 ∧
      (atomNew n 14 old v swap).toNat = (minmaxF f32 true old.toNat v.toNat).1 % 2 ^ 32)

/-- R181, R185, R186: ATOM and RED complete where every lane of ACT is aligned and translates to local HBM, all lanes in one step: the
lanes' operations are performed in ascending order, ATOM adds one result of the old values and RED returns nothing; nothing
changes but memory with its record of keys, translation, and what a checkpoint copies first. -/
def Sys2Proof.Machine.GlobalAtomics : Prop :=
  ∀ (s t : State) (l : BitVec 4) (c b a : BitVec 7) (ps : List (Nat × Segs)) (key : Nat),
    let i := s.imm32 c
    let n := atomBytes i
    let aops := [atomOpnd i a, vbase .b b]
    let rops := [vdata .a a (atomRegs i), vbase .b b]
    let e := s.regAt aops .a
    AllLocal ps key → s.byLane = false → s.u.olds = [] →
    (s.Admits acceptAll aops → atomLegal i true = true → s.full = false →
      (∀ L ∈ Lanes.list s.act, s.globalAddr aops i L % n = 0) →
      s.reachLanes s.who accAtomic (s.globalRuns (s.globalAddr aops i) n) = .ok t ps →
      s.Completes (.atom l c b a) (fun u =>
        let q := t.performAtomics (atomWide i) (atomOp i) (s.atomVal (atomWide i) e) (s.atomVal (atomWide i) (e + atomRegs i)) ps
        let v := q.1.forget t.who.waiter
        q.1 = { t with mem := q.1.mem, keyOf := q.1.keyOf, dirty := q.1.dirty, ckpt := q.1.ckpt, store := q.1.store, nextId := q.1.nextId } ∧
        v.LateResult u aops l (lateValue s.act e (atomRegs i) (laneEntry 0 q.2) []))) ∧
    (s.Admits acceptAll rops → redLegal i = true →
      (∀ L ∈ Lanes.list s.act, s.globalAddr rops i L % n = 0) →
      s.reachLanes s.who accAtomic (s.globalRuns (s.globalAddr rops i) n) = .ok t ps →
      s.Completes (.red c b a) (fun u =>
        let k := if 12 ≤ atomOp i then constsT 0 else intConsts
        let q := t.performAtomics (atomWide i) (atomOp i) (fun L => t.valueAt k rops .a L) (fun _ => 0) ps
        q.1.NoResult u rops))

/-- What each atomic operation stores, and ATOM and RED on local memory: the two statements before this one. -/
def Obligations.AtomicReadModifyWrites : Prop :=
  Sys2Proof.Machine.AtomicOperations ∧ Sys2Proof.Machine.GlobalAtomics

/-- R187, R188: FENCE completes with no other effect in the one order of this model (log entry 10); FENCE.SC completes once no
access of the warp is outstanding and then holds its unit until the next heartbeat; PREF and CLINE complete where the lanes'
lines translate, PREF also where they do not; CLINE leaves no block of the lines newer in L2 than in HBM. -/
def Obligations.FencesAndCacheLines : Prop :=
  ∀ (s t : State) (c b : BitVec 7) (ps : List (Nat × Segs)),
    let i := s.imm32 c
    let ops := [vbase .b b]
    (s.Admits acceptI [] → (attrOf i = 1 ∨ attrOf i = 2 ∨ attrOf i = 3) → scopeOf i ≤ 4 → offOf i = 0 →
      s.Completes (.fence c) (fun u => u = s)) ∧
    (s.Admits acceptI [] → s.u.frame.imm.getD 0 = 0 → s.unperformed = false →
      exec .fenceSc s = .next (s.retire.park (.fenceSc (s.hbeat + 1)))) ∧
    (∀ v, s.Admits acceptI ops → attrOf i ≤ 1 → scopeOf i = 0 → s.prefetch (s.lineRuns ops i) = .done v →
      s.Completes (.pref c b) (fun u => s.OnlyTranslated v ∧ v.NoResult u ops)) ∧
    (s.Admits acceptI ops → attrOf i = 0 → scopeOf i = 0 →
      let lines := fun (u : State) => (∀ k ∈ blocksOf ps, Table.find u.dirty k = none) ∧
        (∀ k, k ∉ blocksOf ps → Table.find u.dirty k = Table.find t.dirty k) ∧
        u = { t with mem := u.mem, keyOf := u.keyOf, dirty := u.dirty, freeCount := u.freeCount, warps := u.warps, ckpt := u.ckpt,
                     store := u.store, nextId := u.nextId } ∧
        u.w = { t.w with opq := s.w.opq.drop (s.popped ops) }
      (s.reachLanes s.who accRead (s.lineRuns ops i) = .ok t ps →
        s.Completes (.clineClean c b) (fun u => lines u ∧ u.mem = t.mem ∧ u.keyOf = t.keyOf)) ∧
      (s.reachLanes s.who accWrite (s.lineRuns ops i) = .ok t ps →
        s.Completes (.clineFlush c b) (fun u => lines u ∧ u.mem = t.mem ∧ u.keyOf = t.keyOf) ∧
        s.Completes (.clineInv c b) (fun u => lines u ∧
          ∀ a, a / 64 ∉ blocksOf ps → Memory.read u.mem a = Memory.read t.mem a)))

/-- R147 to R150, R155: an update of a barrier object in a scratchpad whose line is present, or on a local page that translates, is applied to
the object's fields as they stand: the object then reads as the update says, its bits [127:96] as zero, and every other byte as
before; with no update it is only read; on an absent line it waits. On a remote page the object's answered read is turned into its write, in
the place of that read. Arrivals and landed bytes change the pending counts, and where both are then zero the phase flips: it advances by one
and the pending arrivals become the expected ones. That bits [127:96] are written as zero, and that a test which makes no update only reads
the object, is inferred (log entry 30). -/
def Sys2Proof.Machine.BarrierObjects : Prop :=
  ∀ (s : State) (w : Who) (wg : Nat) (r : W64) (f : BarObj → BarObj),
    let a := r.toNat % 2 ^ 57
    let g := s.wgAt wg
    (r.getLsbD 60 = true → g.present a 16 = true →
      let old := BarObj.ofNat (Memory.readN g.spad a 16)
      s.barrier w wg r none = .ok (s.forget w.waiter) old ∧
      ∃ t, s.barrier w wg r (some f) = .ok t old ∧ BarObj.ofNat (Memory.readN (t.wgAt wg).spad a 16) = f old ∧
        Memory.readN (t.wgAt wg).spad (a + 12) 4 = 0 ∧
        (∀ x, x < a ∨ a + 16 ≤ x → Memory.read (t.wgAt wg).spad x = Memory.read g.spad x) ∧
        t.wgAt wg = { g with spad := (t.wgAt wg).spad } ∧ (∀ k, k ≠ wg → t.wgAt k = s.wgAt k) ∧ t = { s with wgs := t.wgs }) ∧
    (r.getLsbD 60 = true → g.present a 16 = false → ∀ x, s.barrier w wg r x = .wait s) ∧
    (∀ t pa key, r.getLsbD 60 = false → s.reach w accAtomic [(a, 16)] = .ok t [(.here pa key, 16)] →
      let old := BarObj.ofNat (bytesVal (t.loadBytes pa key 16))
      ∃ u, s.barrier w wg r (some f) = .ok u old ∧ BarObj.ofNat (bytesVal (u.loadBytes pa key 16)) = f old ∧
        (∀ x, x < pa ∨ pa + 16 ≤ x → u.loadByte x key = t.loadByte x key) ∧
        u = { t with mem := u.mem, keyOf := u.keyOf, dirty := u.dirty, pending := u.pending, ckpt := u.ckpt, store := u.store,
                     nextId := u.nextId }) ∧
    (∀ t h d pa bs, r.getLsbD 60 = false → s.reach w accAtomic [(a, 16)] = .ok t [(.away h d pa, 16)] →
      t.objectBusy w.waiter [(.away h d pa, 16)] = false → t.answer w.waiter objectTag = some bs →
      let old := BarObj.ofNat (bytesVal bs)
      let written := valBytes 16 (f old).toNat
      ∃ u, s.barrier w wg r (some f) = .ok u old ∧ u.pending.length = t.pending.length ∧
        (∀ (i : Nat) (x : Access), t.pending[i]? = some x → u.pending[i]? = some (if x.isOf w.waiter objectTag
          then { x with id := t.nextId, write := some written, via := none, answer := none } else x)) ∧
        u = { t with pending := u.pending, nextId := t.nextId + 1 }) ∧
    (∀ (o : BarObj) (n : Nat) (k : W32),
      let left := o.arrivals.toNat - n
      (left ≠ 0 ∨ o.bytes + k ≠ 0 → o.arrive n k = { o with bytes := o.bytes + k, arrivals := BitVec.ofNat 24 left }) ∧
      (left = 0 → o.bytes + k = 0 → o.arrive n k = { o with bytes := 0, phase := o.phase + 1, arrivals := o.expected }) ∧
      (o.arrivals ≠ 0 ∨ o.bytes ≠ BitVec.ofNat 32 n → o.landed n = { o with bytes := o.bytes - BitVec.ofNat 32 n }) ∧
      (o.arrivals = 0 → o.bytes = BitVec.ofNat 32 n →
        o.landed n = { o with bytes := 0, phase := o.phase + 1, arrivals := o.expected }))

/-- R35, R157: BSYNC of a unit with no uncommitted result counts the lanes of ACT as arrived and passes the unit beyond the instruction to wait; when the live lanes of the workgroup
have all arrived, the phase advances by one, the count returns to zero and no unit of the workgroup waits any more. -/
def Sys2Proof.Machine.WorkgroupBarrier : Prop :=
  ∀ (s : State), s.Admits acceptNone [] → s.act ≠ 0 → s.NoResults →
    let n := s.g.arrived + Lanes.count s.act
    ∃ t, exec .bsync s = .next t ∧
      (n < s.liveLanes s.g → t.g = { s.g with arrived := n } ∧
        t.u = s.passed .bsync) ∧
      (s.liveLanes s.g ≤ n → t.g = { s.g with arrived := 0, bphase := s.g.bphase + 1 } ∧
        ∀ k ∈ s.g.warps, ∀ x ∈ (t.warpAt k).units, x.2.park ≠ .bsync) ∧
      t.mem = s.mem ∧ ∀ k, k ≠ s.w.wg → t.wgAt k = s.wgAt k

/-- Barrier objects and the workgroup barrier: arrivals, landed bytes and phases: the two statements before this one. -/
def Obligations.BarrierPhases : Prop :=
  Sys2Proof.Machine.BarrierObjects ∧ Sys2Proof.Machine.WorkgroupBarrier

/-- R150, R152, R154 to R156: BINIT, ARRIVE, ARRIVEX and BTEST with a well-formed reference complete once their update of the object is made:
BINIT sets the whole object up, the arrivals write the phase of their arrival, BTEST, which only reads the object, writes its
test in the lanes of ACT. A reference with a nonzero zero field, or an address that is no multiple of 16 or beyond the
scratchpad, raises MISALIGN with the lowest lane of the unit; a BINIT of 0 or of 2^24 and more raises ILLEGAL_OP. That BTEST only reads the
object is inferred (log entry 30), and that a scalar-class MISALIGN reports the lowest lane is the model's choice (log entry 74). -/
def Obligations.BarrierInstructions : Prop :=
  ∀ (s t : State) (o : BarObj) (c b a : BitVec 7) (p : BitVec 3),
    let iops := [sblock .b b 1, ss .c c]
    let aops := [sd .a a, sblock .b b 1]
    let xops := [sd .a a, sblock .b b 1, ss .c c]
    let good := fun (r : W64) => r.toNat / 2 ^ 61 = 0 ∧ r.toNat / 2 ^ 57 % 8 = 0 ∧ r.toNat % 16 = 0 ∧
      (r.getLsbD 60 = true → r.toNat % 2 ^ 57 < 2 ^ 19 ∧ r.toNat % 2 ^ 57 + 16 ≤ s.spadSize s.g)
    let ref := fun (ops : List Opnd) => s.valueAt intConsts ops .b 0
    let count : W32 := (s.valueAt intConsts iops .c 0).setWidth 32
    let bad := Host.Outcome.next (φ := Fault) (ρ := Refusal) (s.takeTrap .misalign (Lanes.lowest s.u.lanes))
    (s.Admits acceptI iops →
      (count ≠ 0 → count.toNat < 2 ^ 24 →
        (good (ref iops) → s.barrier s.who s.w.wg (ref iops)
            (some fun _ => { bytes := 0, phase := 0, expected := count.setWidth 24, arrivals := count.setWidth 24 }) = .ok t o →
          s.Completes (.binit c b) (fun u => u = t)) ∧
        (¬ good (ref iops) → exec (.binit c b) s = bad)) ∧
      (count = 0 ∨ 2 ^ 24 ≤ count.toNat → exec (.binit c b) s = .next (s.takeTrap .illegalOp s.ir.toNat)) ∧
      (good (ref iops) → s.barrier s.who s.w.wg (ref iops) none = .ok t o →
        s.Completes (.btest c b p) (fun u => u = t.setW (t.w.setPred s.act p.toNat
          (if o.phase ≠ (s.valueAt intConsts iops .c 0).setWidth 16 then BitVec.allOnes 32 else 0)))) ∧
      (¬ good (ref iops) → exec (.btest c b p) s = bad)) ∧
    (s.Admits acceptNone aops →
      (good (ref aops) → s.barrier s.who s.w.wg (ref aops) (some fun x => x.arrive (Lanes.count s.act) 0) = .ok t o →
        s.Completes (.arrive b a) (fun u => u = t.setSreg (s.regAt aops .a) (o.phase.setWidth 64))) ∧
      (¬ good (ref aops) → exec (.arrive b a) s = bad)) ∧
    (s.Admits acceptI xops →
      (good (ref xops) → s.barrier s.who s.w.wg (ref xops) (some fun x => x.arrive (Lanes.count s.act)
          ((s.valueAt intConsts xops .c 0).setWidth 32)) = .ok t o →
        s.Completes (.arrivex c b a) (fun u => u = t.setSreg (s.regAt xops .a) (o.phase.setWidth 64))) ∧
      (¬ good (ref xops) → exec (.arrivex c b a) s = bad))

/-- R35, R159 to R161: WAIT with valid control and conditions, by a unit with no uncommitted result, passes beyond the instruction; where
the combination holds of the conditions as far as they can be seen it goes on at once with the bits of the true conditions in
s(a), and else it waits. WAIT_WAKE does the same to
a waiting unit whose access is not faulted, and wakes one whose combination held at an evaluation between the writes of one step with the bits
of that evaluation; a unit that waits notes the lines of its words as they stand. WAIT_TIMEOUT of a unit whose time-out has been reached
wakes it with bit 4 set as well. Invalid control raises ILLEGAL_OP. That a time-out goes by the conditions as last seen, and what malformed
conditions raise, is the model's choice (log entry 32). -/
def Sys2Proof.Machine.WaitAndWake : Prop :=
  ∀ (s t : State) (c b a : BitVec 7) (bs : List (Option Bool)) (w k : Nat) (r : WaitRec),
    let ctl := (s.valueAt (unsConsts true) [ss .c c] .c 0).toNat
    let n := ctl % 8
    let ops := [sd .a a, sblock .b b (2 * n), ss .c c]
    let e := s.regAt ops .b
    let conds := (List.range n).map (fun i => (s.w.sreg (e + 2 * i), s.w.sreg (e + 2 * i + 1)))
    let rec0 : WaitRec := { conds := conds, allOf := ctl.testBit 3, timeout := ctl / 2 ^ 32, start := s.tick, dst := s.regAt ops .a,
                            lines := [], woken := none }
    let lined := fun (x : State) (p : Park) (r : WaitRec) =>
      ∃ ls, p = .wait { r with lines := ls } ∧ ∀ y ∈ ls, y.2 = Memory.readBytes x.mem (128 * y.1) 128
    let v := s.closeWindows.parkNext (.wait rec0)
    let here := { s with cur := w, unit := k }
    let met := fun (r : WaitRec) (bs : List (Option Bool)) => if r.allOf then ∀ x ∈ bs, x = some true else ∃ x ∈ bs, x = some true
    (s.Admits acceptI ops → 1 ≤ n → n ≤ 4 → ctl / 16 % 2 ^ 28 = 0 → conds.any condIllegal = false →
      conds.any (condCrooked (s.spadSize s.g)) = false → v.evalConds v.waitWho 0 conds = .ok t bs →
      s.NoResults → ∃ x, exec (.wait c b a) s = .next x ∧ x.u.pc = s.u.pc + 4 ∧
        (met rec0 bs → x.u.park = restAt s.w.loops s.u.lanes (s.u.pc + 4) ∧ x.w.sreg (s.regAt ops .a) = BitVec.ofNat 64 (boolBits bs)) ∧
        (¬ met rec0 bs → lined x x.u.park rec0 ∧ x.w.sregs = s.w.sregs)) ∧
    (s.Admits acceptI [sd .a a, sblock .b b 1, ss .c c] → n = 0 ∨ 4 < n ∨ ctl / 16 % 2 ^ 28 ≠ 0 →
      s.NoResults → exec (.wait c b a) s = .next (s.closeWindows.takeTrap .illegalOp s.ir.toNat)) ∧
    (here.u.park = .wait r → here.running = true → here.waitFaulted = false → r.woken = none →
      here.evalConds here.waitWho 0 r.conds = .ok t bs → ∃ x, exec (.waitWake w k) s = .next x ∧ x.cur = s.cur ∧ x.unit = s.unit ∧
        let u := Table.get IUnit.blank (x.warpAt w).units k
        (met r bs → u.park = restAt here.w.loops here.u.lanes here.u.pc ∧ (x.warpAt w).sreg r.dst = BitVec.ofNat 64 (boolBits bs)) ∧
        (¬ met r bs → lined x u.park r ∧ (x.warpAt w).sregs = here.w.sregs)) ∧
    (∀ bits, here.u.park = .wait r → here.running = true → here.waitFaulted = false → r.woken = some bits →
      ∃ x, exec (.waitWake w k) s = .next x ∧ x.cur = s.cur ∧ x.unit = s.unit ∧
        (Table.get IUnit.blank (x.warpAt w).units k).park = restAt here.w.loops here.u.lanes here.u.pc ∧
        (x.warpAt w).sreg r.dst = BitVec.ofNat 64 bits ∧ x.mem = s.mem) ∧
    (here.u.park = .wait r → here.running = true → r.timeout ≠ 0 → r.start + r.timeout ≤ s.tick →
      ∃ x, exec (.waitTimeout w k) s = .next x ∧ x.cur = s.cur ∧ x.unit = s.unit ∧
        let u := Table.get IUnit.blank (x.warpAt w).units k
        u.park = restAt here.w.loops here.u.lanes here.u.pc ∧
        (x.warpAt w).sreg r.dst = BitVec.ofNat 64 (16 + boolBits (here.seen r)) ∧ x.mem = s.mem)

/-- R9, R187, R249: HEARTBEAT_TICK brings the reference counter to the next multiple of 64; a deadline stream is raised exactly while its
stamp less its guard has been reached and its stamp has not; where no unit waits at WAIT and no queue at a WAIT packet, the only other
change is that units whose FENCE.SC has its heartbeat go on. -/
def Sys2Proof.Machine.Heartbeat : Prop :=
  ∀ (s : State), ∃ t, exec .heartbeatTick s = .next t ∧ t.tick = (s.tick / 64 + 1) * 64 ∧
    (let up := fun (d : Deadline) => decide (d.stamp.toNat ≤ s.tick / 64 + 1 + d.guard.toNat) && decide (s.tick / 64 + 1 < d.stamp.toNat)
     t.deadlines = s.deadlines.map (fun (x : Nat × Deadline) => (x.1, { x.2 with raised := up x.2 }))) ∧
    ((∀ x ∈ s.warps, ∀ y ∈ x.2.units, ∀ r, y.2.park ≠ .wait r) → (∀ x ∈ s.queues, (s.queueAt x.1).atWait = false) →
      t = { s with tick := t.tick, deadlines := t.deadlines, warps := t.warps } ∧
      t.warps = s.warps.map (fun x => (x.1, x.2.passFence (s.tick / 64 + 1))) ∧
      ∀ (ls : List LoopRec) (u : IUnit) (k : Nat), u.park = .fenceSc k → passFence ls (s.tick / 64 + 1) u =
        if k ≤ s.tick / 64 + 1 then { u with park := restAt ls u.lanes u.pc } else u)

/-- WAIT, its wake and its time-out, and what the heartbeat changes: the two statements before this one. -/
def Obligations.WaitsAndHeartbeat : Prop :=
  Sys2Proof.Machine.WaitAndWake ∧ Sys2Proof.Machine.Heartbeat

/-- R195, R198 to R201: in a kernel that holds the matrix engine, GANGSET of a legal list sets the warp's gang list, ACCZ and ACCWR are
accepted while the queue of tile operations has room and issue again later while it has not, ACCRD adds one result of the
elements and the step count as they stand, and ACCRDI does so once every operation of its tile that was accepted before has
retired and parks until then. In any other kernel each raises ILLEGAL_OP. That ACCRD takes the elements as they stand at issue is the
model's choice (log entry 35). -/
def Obligations.TileInstructions : Prop :=
  ∀ (s : State) (l : BitVec 4) (c b a : BitVec 7) (t : BitVec 2),
    let ill := Host.Outcome.next (φ := Fault) (ρ := Refusal) (s.takeTrap .illegalOp s.ir.toNat)
    let gops := [sblock .b b 1]
    let wops := [vs .b b 1, vblock .c c 1 1]
    let rops := [vd .a a 2, vblock .c c 1 1]
    let v := s.valueAt intConsts gops .b 0
    let e := s.g.eng
    let index := fun (ops : List Opnd) (L : Nat) => (s.valueAt intConsts ops .c L).toNat % 16384
    let writes := (Lanes.list s.act).map (fun L => (index wops L, (s.valueAt (constsT 0) wops .b L).setWidth 32))
    let snapshot := Pending.of s.act
      [(s.regAt rops .a, lanes32.map (fun L => Table.get 0#32 e.elems (16384 * t.toNat + index rops L))),
       (s.regAt rops .a + 1, lanes32.map (fun _ => Table.get 0#32 e.steps t.toNat))] []
    (s.launch.matrix = false → ∀ i ∈ [Instr.gangset b, .accz t, .accwr c b t, .accrd l c t a, .accrdi l c t a, .accepi b t, .mma c b t],
      exec i s = ill) ∧
    (s.launch.matrix = true →
      (s.Admits acceptX gops →
        (v.toNat < 2 ^ 32 → 2 ≤ Lanes.count (v.setWidth 32) → Lanes.count (v.setWidth 32) ≤ 6 → v.getLsbD s.w.index = true →
          (∀ i, s.g.nwarps ≤ i → v.getLsbD i = false) →
          s.Completes (.gangset b) (fun u => s.WarpResult u gops { s.w with gangList := v.setWidth 32 })) ∧
        (2 ^ 32 ≤ v.toNat ∨ Lanes.count (v.setWidth 32) < 2 ∨ 6 < Lanes.count (v.setWidth 32) → exec (.gangset b) s = ill)) ∧
      (s.Admits acceptX [] →
        (e.ops.length < 8 → s.Completes (.accz t) (fun u =>
          s.GroupResult u [] { s.g with eng := accepted e t.toNat (.accz (e.accepted + 1) t.toNat) })) ∧
        (8 ≤ e.ops.length → exec (.accz t) s = .next s)) ∧
      (s.Admits acceptXI wops →
        (e.ops.length < 8 → s.Completes (.accwr c b t) (fun u =>
          s.GroupResult u wops { s.g with eng := accepted e t.toNat (.accwr (e.accepted + 1) t.toNat writes) })) ∧
        (8 ≤ e.ops.length → exec (.accwr c b t) s = .next s)) ∧
      (s.Admits acceptAll rops → s.full = false →
        s.Completes (.accrd l c t a) (fun u => s.LateResult u rops l snapshot) ∧
        (s.rdiSeq t.toNat ≤ e.retired → s.Completes (.accrdi l c t a) (fun u => (s.park .ready).LateResult u rops l snapshot)) ∧
        (e.retired < s.rdiSeq t.toNat → s.act ≠ 0 → exec (.accrdi l c t a) s = .next (s.hold (s.park (.tileOps (s.rdiSeq t.toNat)))))))

/-- R191, R196, R197, R199, R202: MMA by a gang of every live lane of its warp: before the last listed warp arrives, the unit waits at the tile's
latch with its arrival recorded; the last arrival, with one legal envelope in every live lane and room in the queue, closes the
latch, records the envelope as the tile's, queues the operation and lets the gang go on; a listed warp that has ended makes it GANG_MISMATCH, and no steps, no gang list
or a unit that lacks live lanes ILLEGAL_OP; where the queue is full the last arrival issues again later. ACCEPI with a legal block is
accepted with the envelope its tile will hold, and issues again later where the queue is full. The envelope recorded at acceptance (log
entry 35), the trap of a malformed reference (log entry 36) and the lane that MISALIGN reports (log entry 74) are the model's choice. -/
def Sys2Proof.Machine.MatrixAcceptance : Prop :=
  ∀ (s : State) (c b : BitVec 7) (t : BitVec 2) (env : W32),
    let ops := [vblock .b b 1 1]
    let bops := [sblock .b b 4]
    let steps := (s.imm32 c).toNat
    let e := s.g.eng
    let list := s.w.gangList
    let ill := Host.Outcome.next (φ := Fault) (ρ := Refusal) (s.takeTrap .illegalOp s.ir.toNat)
    let before := ((Table.find e.latches t.toNat).map (·.arrivals)).getD []
    let me : Arrival :=
      { warp := s.cur, index := s.w.index, unit := s.unit, word := s.ir,
        vals := (Lanes.list s.act).map (fun L => (L, (s.valueAt intConsts ops .b L).setWidth 32)) }
    let closed := accepted { e with latches := Table.erase e.latches t.toNat, envs := Table.put 0#32 e.envs t.toNat env } t.toNat (.mma (e.accepted + 1) t.toNat env steps)
    let fits := ∀ x ∈ e.latches, if x.1 = t.toNat then x.2.list = list ∧ x.2.steps = steps else x.2.list.getLsbD s.w.index = false
    let allHere := ∀ i ∈ Lanes.list list, ∃ x ∈ before ++ [me], x.index = i
    s.launch.matrix = true →
    (s.Admits acceptXI ops → steps ≠ 0 → s.unit < 8 → s.u.lanes = s.w.live → list ≠ 0 → fits →
      ((∃ i ∈ Lanes.list list, s.indexEnded s.g i = true) → exec (.mma c b t) s = .next (s.takeTrap .gangMismatch list.toNat)) ∧
      ((∀ i ∈ Lanes.list list, s.indexEnded s.g i = false) → ¬ allHere →
        ∃ u, exec (.mma c b t) s = .next u ∧ u.u = { s.u with park := .latch t.toNat } ∧
          Table.find u.g.eng.latches t.toNat = some { list := list, steps := steps, arrivals := before ++ [me] } ∧
          u.g = { s.g with eng := { e with latches := u.g.eng.latches } }) ∧
      ((∀ i ∈ Lanes.list list, s.indexEnded s.g i = false) → allHere →
        (∀ x ∈ before ++ [me], ∀ y ∈ x.vals, y.2 = env) → envBad env = false → e.ops.length < 8 →
        s.act ≠ 0 → s.w.index < 32 →
        s.Completes (.mma c b t) (fun u =>
          u.wgAt s.w.wg = { s.g with eng := closed } ∧ (∀ k, k ≠ s.w.wg → u.wgAt k = s.wgAt k) ∧ u.w = s.w ∧ u.mem = s.mem)) ∧
      ((∀ i ∈ Lanes.list list, s.indexEnded s.g i = false) → allHere →
        (∀ x ∈ before ++ [me], ∀ y ∈ x.vals, y.2 = env) → envBad env = false → 8 ≤ e.ops.length →
        s.act ≠ 0 → s.w.index < 32 → exec (.mma c b t) s = .next s)) ∧
    (steps = 0 ∨ 8 ≤ s.unit ∨ s.u.lanes ≠ s.w.live ∨ list = 0 → exec (.mma c b t) s = ill) ∧
    (s.Admits acceptX bops →
      let r := s.regAt bops .b
      let pitch : W32 := (s.w.sreg (r + 1)).setWidth 32
      let env := e.envOf t.toNat
      let fields := pitch.toNat % 4 = 0 ∧ 128 * outSize env ≤ pitch.toNat
      (fields → (s.w.sreg r).toNat % 4 = 0 → (s.w.sreg (r + 2)).toNat % 4 = 0 → s.engineRefBad (s.w.sreg (r + 3)) = false →
        let op : TileOp := .accepi (e.accepted + 1) t.toNat env (s.w.sreg r) pitch (s.w.sreg (r + 2)) (s.w.sreg (r + 3)) 0 none
        (e.ops.length < 8 → s.Completes (.accepi b t) (fun u => s.GroupResult u bops { s.g with eng := accepted e t.toNat op })) ∧
        (8 ≤ e.ops.length → exec (.accepi b t) s = .next s)) ∧
      (¬ fields → exec (.accepi b t) s = ill) ∧
      (fields → (s.w.sreg r).toNat % 4 ≠ 0 ∨ (s.w.sreg (r + 2)).toNat % 4 ≠ 0 ∨ s.engineRefBad (s.w.sreg (r + 3)) = true →
        exec (.accepi b t) s = .next (s.takeTrap .misalign (Lanes.lowest s.act))))

/-- R196, R197: the traps at a tile's latch, of gang warps that have a handler and are not in handler mode. At the last arrival, where two
lanes' envelopes differ, every gang warp takes FMT_DIVERGE with 32 times the warp index plus the lane of the first lane, in the order of
warp indices and lanes, whose value is not that of the very first; where all agree on a reserved envelope, every one takes ILLEGAL_OP with
its own instruction word. An arrival that does not match the tile's latch, or whose warp another tile's latch lists, closes every such latch:
each warp that had arrived there takes GANG_MISMATCH with its latch's list, and the arriving warp with the list of the first of them. No
operation is queued and no FIFO byte is taken. -/
def Sys2Proof.Machine.MatrixVotes : Prop :=
  ∀ (s : State) (c b : BitVec 7) (t : BitVec 2),
    let ops := [vblock .b b 1 1]
    let steps := (s.imm32 c).toNat
    let e := s.g.eng
    let list := s.w.gangList
    let before := ((Table.find e.latches t.toNat).map (·.arrivals)).getD []
    let me : Arrival :=
      { warp := s.cur, index := s.w.index, unit := s.unit, word := s.ir,
        vals := (Lanes.list s.act).map (fun L => (L, (s.valueAt intConsts ops .b L).setWidth 32)) }
    let odd := fun (x : Nat × Latch) => if x.1 = t.toNat then x.2.list ≠ list ∨ x.2.steps ≠ steps else x.2.list.getLsbD s.w.index = true
    let calm := fun (l : List Arrival) => (l.map (·.warp)).Nodup ∧ ∀ x ∈ l, x.warp ≠ s.cur ∧ (s.warpAt x.warp).wg = s.w.wg ∧
      (s.warpAt x.warp).handler = false ∧ (s.warpAt x.warp).live ≠ 0
    let traps := fun (u : State) (warp : Nat) (tr : Trap) (info : Nat) =>
      (u.warpAt warp).handler = true ∧ (u.warpAt warp).tcause = trapCode tr ∧ (u.warpAt warp).tinfo = BitVec.ofNat 64 info
    let place := fun (x : Arrival) (y : Nat × W32) => 32 * x.index + y.1
    let votes := ∀ i ∈ Lanes.list list, s.indexEnded s.g i = false ∧ ∃ x ∈ before ++ [me], x.index = i
    let orderly := ((before ++ [me]).map (·.index)).Nodup ∧
      ∀ x ∈ before ++ [me], x.index < 32 ∧ (x.vals.map (·.1)).Pairwise (· < ·) ∧ ∀ y ∈ x.vals, y.1 < 32
    s.launch.matrix = true → s.launch.handler ≠ 0 → s.w.handler = false → s.w.live ≠ 0 → s.Admits acceptXI ops → steps ≠ 0 → s.unit < 8 →
    s.u.lanes = s.w.live → list ≠ 0 →
    ((∀ x ∈ e.latches, ¬ odd x) → votes → orderly → calm before →
      (∀ x y p q, x ∈ before ++ [me] → y ∈ x.vals → (∀ z ∈ before ++ [me], ∀ v ∈ z.vals, place x y ≤ place z v) →
        p ∈ before ++ [me] → q ∈ p.vals → q.2 ≠ y.2 → (∀ z ∈ before ++ [me], ∀ v ∈ z.vals, v.2 ≠ y.2 → place p q ≤ place z v) →
        ∃ u, exec (.mma c b t) s = .next u ∧ (u.wgAt s.w.wg).eng = { e with latches := Table.erase e.latches t.toNat } ∧
          ∀ z ∈ before ++ [me], traps u z.warp .fmtDiverge (place p q)) ∧
      (∀ env, (∃ x ∈ before ++ [me], x.vals ≠ []) → (∀ x ∈ before ++ [me], ∀ y ∈ x.vals, y.2 = env) → envBad env = true →
        ∃ u, exec (.mma c b t) s = .next u ∧ (u.wgAt s.w.wg).eng = { e with latches := Table.erase e.latches t.toNat } ∧
          ∀ z ∈ before ++ [me], traps u z.warp .illegalOp z.word.toNat)) ∧
    (∀ x r, e.latches.filter (fun y => decide (odd y)) = x :: r → calm ((x :: r).flatMap (fun y => y.2.arrivals)) →
      ∃ u, exec (.mma c b t) s = .next u ∧
        (∀ k, Table.find (u.wgAt s.w.wg).eng.latches k = if k ∈ (x :: r).map (·.1) then none else Table.find e.latches k) ∧
        (u.wgAt s.w.wg).eng = { e with latches := (u.wgAt s.w.wg).eng.latches } ∧
        (∀ y ∈ x :: r, ∀ z ∈ y.2.arrivals, traps u z.warp .gangMismatch y.2.list.toNat) ∧ traps u s.cur .gangMismatch x.2.list.toNat)

/-- MMA and ACCEPI as they are accepted, and the traps at a latch: the two statements before this one. -/
def Obligations.MatrixInstructions : Prop :=
  Sys2Proof.Machine.MatrixAcceptance ∧ Sys2Proof.Machine.MatrixVotes

/-- R66 to R68, R192, R199, R200, R202: the operation at the head of the queue of a resident workgroup. A K step whose slabs are
present takes them from the ports, replaces each of the tile's elements by the step's result, adds one to the step count and
the saturations and NaNs to the count word, and records the envelope; ACCZ and ACCWR do what they say and retire; an epilogue that
comes to its end retires and frees its stream. No other tile changes. -/
def Obligations.EngineSteps : Prop :=
  ∀ (s : State) (wg q t left : Nat) (env : W32) (r : List TileOp) (es : List (Nat × W32)),
    let g := s.wgAt wg
    let e := g.eng
    let rows := rowsA env (e.fifoA.take (slabA env))
    let cols := colsB env (e.fifoBW.take (slabBW env)) (e.fifoBS.take (slabBS env))
    let cell := fun (i j : Nat) => stepElem (envSat env) (rows.getD i []) (e.elem t (128 * i + j)) (cols.getD j ([], 0, 0))
    let total := fun (f : W32 × Nat × Nat → Nat) =>
      ((List.range 128).map (fun i => ((List.range 128).map (fun j => f (cell i j))).sum)).sum
    g.phase = .resident → Table.wf 0#32 e.elems = true →
    (e.ops = .mma q t env left :: r → slabA env ≤ e.fifoA.length → slabBW env ≤ e.fifoBW.length → slabBS env ≤ e.fifoBS.length →
      ∃ u, exec (.kStep wg) s = .next u ∧
        let f := (u.wgAt wg).eng
        Table.wf 0#32 f.elems = true ∧
        (∀ i j, i < 128 → j < 128 → f.elem t (128 * i + j) = (cell i j).1) ∧
        (∀ m x, m ≠ t → x < 16384 → f.elem m x = e.elem m x) ∧
        (∀ m, Table.get 0#32 f.steps m = Table.get 0#32 e.steps m + if m = t then 1 else 0) ∧
        (∀ m, Table.get 0#32 f.counts m = if m = t then countAfter (Table.get 0#32 e.counts t) (total (·.2.1)) (total (·.2.2))
          else Table.get 0#32 e.counts m) ∧
        (∀ m, Table.get 0#32 f.envs m = if m = t then env else Table.get 0#32 e.envs m) ∧
        f.fifoA = e.fifoA.drop (slabA env) ∧ f.fifoBW = e.fifoBW.drop (slabBW env) ∧ f.fifoBS = e.fifoBS.drop (slabBS env) ∧
        (if left ≤ 1 then f.ops = r ∧ f.retired = q else f.ops = .mma q t env (left - 1) :: r ∧ f.retired = e.retired) ∧
        s.OnlyGroup u wg { g with eng := f }) ∧
    (e.ops = .accz q t :: r → ∃ u, exec (.acczApply wg) s = .next u ∧
      let f := (u.wgAt wg).eng
      Table.wf 0#32 f.elems = true ∧ (∀ x < 16384, f.elem t x = 0) ∧ (∀ m x, m ≠ t → x < 16384 → f.elem m x = e.elem m x) ∧
      Table.get 0#32 f.steps t = 0 ∧ Table.get 0#32 f.counts t = 0 ∧ Table.get 0#32 f.envs t = 0 ∧ f.ops = r ∧ f.retired = q ∧
      s.OnlyGroup u wg { g with eng := f }) ∧
    (e.ops = .accwr q t es :: r → (∀ x ∈ es, x.1 < 16384) → ∃ u, exec (.accwrApply wg) s = .next u ∧
      let f := (u.wgAt wg).eng
      Table.wf 0#32 f.elems = true ∧
      (∀ x < 16384, f.elem t x = ((es.reverse.find? (fun y => y.1 = x)).map (·.2)).getD (e.elem t x)) ∧
      (∀ m x, m ≠ t → x < 16384 → f.elem m x = e.elem m x) ∧
      s.OnlyGroup u wg { g with eng := { retired e q r with elems := f.elems } }) ∧
    (∀ dest pitch bias ref row str n v k, e.ops = .accepi q t env dest pitch bias ref row str :: r →
      str.orElse (fun _ => s.freeStream g.core [0, 1, 2, 3]) = some n →
      let s1 := if str.isSome then s else (s.dropAsked (.stream g.core n)).setStream g.core n (Stream.oneShot wg .epilogue)
      (s1.streamAt g.core n).state = .running →
      s1.epilogue (s1.streamWho g.core n) wg t env dest pitch bias ref (130 - row) row = (v, k, none) →
      ∃ u, exec (.accepiApply wg) s = .next u ∧ (u.wgAt wg).eng = retired (v.wgAt wg).eng q ((v.wgAt wg).eng.ops.drop 1) ∧
        (u.streamAt g.core n).state = .free ∧ u.mem = v.mem)

/-- R174, R203, R204, R206 to R210: CRSTART starts an access slice on the lowest free stream of the core with 16 registers of the block, or
under IMM its constant and free values (the model's choice, log entry 17; so are the cut of a copy into pieces, what CRHALO raises for a bad
pitch or peer and when bytes are counted, log entry 36, and the lane that MISALIGN reports, log entry 74), or answers all ones where none is free; CRCOPY, CRHALO and CRFEED with legal fields put a one-shot job on the lowest free stream,
clear the presence bits of the lines it will write, and issue again later while no stream is free; CRSTAT reads a stream; QPOP
takes entries from the queue, QCNT counts them, and QPUT by a warp raises ILLEGAL_OP. -/
def Sys2Proof.Machine.CourierInstructions : Prop :=
  ∀ (s : State) (c b a : BitVec 7) (x y : BitVec 1) (k p : BitVec 2) (n : Nat),
    let sops := [sd .a a, sblock .b b 1, sblock .c c 16]
    let cops := [sblock .a a 1, sblock .b b 1, sblock .c c 2]
    let hops := [sblock .b b 4]
    let fops := [sblock .b b 1, sblock .c c 1]
    let tops := [sblock .a a 2, sblock .b b 1]
    let qops := [vd .a a (regsW x)]
    let free := s.freeStream s.g.core (List.range 8)
    let trap := fun (t : Trap) (i : Nat) => Host.Outcome.next (φ := Fault) (ρ := Refusal) (s.takeTrap t i)
    let job := fun (i : Instr) (ops : List Opnd) (j : Job) =>
      (free = some n → s.Completes i (fun u => s.StreamResult u ops n (Stream.oneShot s.w.wg j) j.lines)) ∧
      (free = none → exec i s = .next s)
    (s.Admits acceptXI sops →
      let entry := s.valueAt intConsts sops .b 0
      (entry.toNat % 4 ≠ 0 → exec (.crstart c b a) s = trap .misalign (Lanes.lowest s.act)) ∧
      (entry.toNat % 4 = 0 → free = none → s.act ≠ 0 → s.Completes (.crstart c b a) (fun u =>
        s.ScalResult u sops (s.regAt sops .a) (BitVec.allOnes 64) 0)) ∧
      (entry.toNat % 4 = 0 → free = some n → s.Completes (.crstart c b a) (fun u =>
        let st := u.streamAt s.g.core n
        st.state = .running ∧ st.wg = s.w.wg ∧ st.warp = s.cur ∧ st.slice = true ∧ st.pc = entry ∧ st.jobs = [] ∧ st.bytes = 0 ∧ st.sat = 0 ∧
        (∀ i, Table.get 0#64 st.sregs i = if i < 16 then (if s.u.frame.imm = none then s.w.sreg (s.regAt sops .c + i)
          else if i = 0 then s.valueAt intConsts sops .c 0 else Config.freeWord (s.freeCount + i)) else 0) ∧
        (∀ m, m ≠ n → u.streamAt s.g.core m = s.streamAt s.g.core m) ∧
        (∀ i, u.w.sreg i = if i = s.regAt sops .a then BitVec.ofNat 64 n else s.w.sreg i) ∧ u.w = { s.w with sregs := u.w.sregs } ∧
        s.AsksDropped u (.stream s.g.core n) ∧
        u = { s with warps := u.warps, cores := u.cores, freeCount := u.freeCount, pending := u.pending }))) ∧
    (s.Admits acceptXI cops →
      let ctl := (s.valueAt intConsts cops .c 0).toNat % 2 ^ 32
      let dst := s.valueAt intConsts cops .a 0
      let src := s.valueAt intConsts cops .b 0
      let ref := if s.u.frame.imm.isSome then 0 else s.w.sreg (s.regAt cops .c + 1)
      (ctl / 2 ^ 30 = 3 ∨ ctl % 2 ^ 30 % 16 ≠ 0 → exec (.crcopy c b a) s = trap .illegalOp s.ir.toNat) ∧
      (ctl / 2 ^ 30 ≠ 3 → ctl % 2 ^ 30 % 16 = 0 →
        (copyCrooked (s.spadSize s.g) ctl dst.toNat src.toNat ref = true →
          exec (.crcopy c b a) s = trap .misalign (Lanes.lowest s.act)) ∧
        (copyCrooked (s.spadSize s.g) ctl dst.toNat src.toNat ref = false →
          job (.crcopy c b a) cops (.copy (BitVec.ofNat 2 (ctl / 2 ^ 30)) dst src (ctl % 2 ^ 30) ref 0)))) ∧
    (s.Admits acceptX hops →
      let r := s.regAt hops .b
      let w := (s.w.sreg r).toNat
      let o := (s.w.sreg (r + 1)).toNat
      let q := (s.w.sreg (r + 2)).toNat
      let rb := q / 2 ^ 32 % 2 ^ 16
      let rows := q / 2 ^ 48
      let inside := fun (off pitch : Nat) => off % 4 = 0 ∧ (0 < rows → off + (rows - 1) * pitch + rb ≤ s.spadSize s.g)
      let pitches := q % 2 ^ 16 % 4 = 0 ∧ q / 2 ^ 16 % 2 ^ 16 % 4 = 0 ∧ rb % 4 = 0
      (s.launch.total ≤ w ∨ ¬ pitches → exec (.crhalo b) s = trap .illegalOp s.ir.toNat) ∧
      (w < s.launch.total → pitches → inside (o % 2 ^ 19) (q % 2 ^ 16) → inside (o / 2 ^ 32 % 2 ^ 19) (q / 2 ^ 16 % 2 ^ 16) →
        s.engineRefBad (s.w.sreg (r + 3)) = false →
        job (.crhalo b) hops (.halo w (o % 2 ^ 19) (o / 2 ^ 32 % 2 ^ 19) (q % 2 ^ 16) (q / 2 ^ 16 % 2 ^ 16) rb rows (s.w.sreg (r + 3)) 0))) ∧
    (s.launch.matrix = true → s.Admits acceptXI fops →
      let src := s.valueAt intConsts fops .b 0
      let m := (s.valueAt intConsts fops .c 0).toNat % 2 ^ 32
      (p = 3 ∨ (k ≠ 0 ∧ p ≠ 1) ∨ m = 0 ∨ m % 16 ≠ 0 → exec (.crfeed c b y k p) s = trap .illegalOp s.ir.toNat) ∧
      (feedIllegal p k m = false → src.toNat % 16 = 0 → (y = 1 → src.toNat + m ≤ s.spadSize s.g) →
        job (.crfeed c b y k p) fops (.feed p k (decide (y = 1)) src m 0))) ∧
    (s.launch.matrix = false → exec (.crfeed c b y k p) s = trap .illegalOp s.ir.toNat) ∧
    (s.Admits acceptX tops →
      let m := (s.valueAt intConsts tops .b 0).toNat
      let st := s.streamAt s.g.core m
      let mine := st.state = .free ∨ st.wg = s.w.wg
      (7 < m → exec (.crstat b a) s = trap .illegalOp s.ir.toNat) ∧
      (m ≤ 7 → s.Completes (.crstat b a) (fun u =>
        (∀ i, u.w.sreg i =
          if i = s.regAt tops .a + 1 then (if mine then st.sat.setWidth 64 else 0)
          else if i = s.regAt tops .a then
            BitVec.ofNat 64 (if mine then st.bytes.toNat * 2 ^ 32 + m * 2 ^ 8 + st.state.code else m * 2 ^ 8)
          else s.w.sreg i) ∧ u.w = { s.w with sregs := u.w.sregs } ∧ s.OnlyWarp u 0))) ∧
    (s.Admits acceptXI qops → (s.imm32 (x.setWidth 7)).toNat < 2 →
      (s.w.opq.length < regsW x → exec (.qpop x a) s = .next s) ∧
      (regsW x ≤ s.w.opq.length → s.Completes (.qpop x a) (fun u =>
        (∀ L, L < 32 → s.act.getLsbD L = true → ∀ i < regsW x, u.w.vreg (s.regAt qops .a + i) L = (s.w.opq.getD i []).getD L 0) ∧
        (∀ e L, L < 32 → (s.act.getLsbD L = false ∨ e < s.regAt qops .a ∨ s.regAt qops .a + regsW x ≤ e) → u.w.vreg e L = s.w.vreg e L) ∧
        u.w = { s.w with vregs := u.w.vregs, opq := s.w.opq.drop (regsW x) } ∧ s.OnlyWarp u 0))) ∧
    (s.Admits acceptX [sd .a a] → s.act ≠ 0 → s.Completes (.qcnt a) (fun u =>
      s.ScalResult u [sd .a a] (s.regAt [sd .a a] .a) (BitVec.ofNat 64 s.w.opq.length) 0)) ∧
    exec (.qput y b) s = trap .illegalOp s.ir.toNat

/-- R150, R174, R203, R205, R206, R210, R211: a running stream that copies from global memory into the scratchpad moves its next piece: the bytes read are in
the scratchpad, its progress has grown, and a finished job leaves the stream; QPUT of its slice puts 128 bytes as one entry on the consumer's queue; ENGINE_BYTE_COUNT counts the bytes of a job at its barrier; a waiting stream that is no
longer blocked runs again; an absent line that no outstanding job has still to write becomes present. -/
def Sys2Proof.Machine.CourierEvents : Prop :=
  ∀ (s t : State) (core n wg line done bytes : Nat) (dst src : W64) (js : List Job) (bs : List Byte),
    let st := s.streamAt core n
    let d := (dst + BitVec.ofNat 64 done).toNat
    let k := min (min (bytes - done) (128 - d % 128)) (65536 - done % 65536)
    (st.state = .running → s.streamLive core n = true → st.jobs = .copy 0 dst src bytes 0 done :: js → st.owed = 0 → done < bytes →
      s.unperformedBy (.stream core n) = false →
      s.fetchBytes (s.streamWho core n) (src + BitVec.ofNat 64 done).toNat k = .ok t bs →
      ∃ u, exec (.courierJob core n) s = .next u ∧
        u.wgAt st.wg = { s.wgAt st.wg with spad := Memory.writeBytes (s.wgAt st.wg).spad d bs } ∧
        (done + k < bytes → u.streamAt core n = { st with jobs := .copy 0 dst src bytes 0 (done + k) :: js, bytes := st.bytes + BitVec.ofNat 32 k }) ∧
        (bytes ≤ done + k → js ≠ [] ∨ st.slice = true → u.streamAt core n = { st with jobs := js, bytes := st.bytes + BitVec.ofNat 32 k }) ∧
        (bytes ≤ done + k → js = [] → st.slice = false → (u.streamAt core n).state = .free ∧
          (u.streamAt core n).bytes = st.bytes + BitVec.ofNat 32 k) ∧
        u.mem = t.mem ∧ u.warps = s.warps) ∧
    (∀ j, st.state = .running → s.streamLive core n = true → st.jobs = j :: js → st.owed ≠ 0 → s.unperformedBy (.stream core n) = false →
      s.countBytes (s.streamWho core n) st.wg j.ref st.owed = .ok t () →
      exec (.engineByteCount core n st.owed) s = .next ((t.setStream core n { t.streamAt core n with owed := 0 }).nextJob core n)) ∧
    (∀ b w, st.state = .running → (s.wgAt st.wg).phase = .resident → st.jobs = [] → st.slice = true → st.imm = none → st.loops = [] →
      st.warp ≠ 0 → s.unperformedBy (.stream core n) = false → encode (.qput 0 b) = some w → b.toNat < 32 →
      (s.sliceState core n).fetchCode (s.streamWho core n) st.pc 1 = .ok (s.sliceState core n) [w] →
      let x := s.warpAt st.warp
      let a := (Table.get 0#64 st.sregs b.toNat).toNat
      a % 4 = 0 → a + 128 ≤ s.spadSize (s.wgAt st.wg) → (s.wgAt st.wg).present a 128 = true → x.live ≠ 0 → x.opq.length < 16 →
      ∃ u, exec (.courierJob core n) s = .next u ∧ (u.warpAt st.warp).opq = x.opq ++ [words32 32 (Memory.readBytes (s.wgAt st.wg).spad a 128)] ∧
        u.streamAt core n = { st with pc := st.pc + 4 } ∧ u.mem = s.mem) ∧
    (st.state = .waiting → s.streamLive core n = true → (∀ v, s.tryStream core n ≠ .blocked v) →
      ∃ u, exec (.streamWaitClear core n) s = .next u ∧ u.streamAt core n = { st with state := .running } ∧
        (∀ m, m ≠ n → u.streamAt core m = s.streamAt core m) ∧ u = { s with cores := u.cores }) ∧
    (line ∈ (s.wgAt wg).absent → (∀ j ∈ s.jobsOf wg, line ∉ j.lines) →
      ∃ u, exec (.copyLineLand wg line) s = .next u ∧ (∀ l, l ∈ (u.wgAt wg).absent ↔ l ∈ (s.wgAt wg).absent ∧ l ≠ line) ∧
        s.OnlyGroup u wg { s.wgAt wg with absent := (u.wgAt wg).absent })

/-- Courier instructions put work on streams; a stream moves its next piece: the two statements before this one. -/
def Obligations.CourierStreams : Prop :=
  Sys2Proof.Machine.CourierInstructions ∧ Sys2Proof.Machine.CourierEvents

/-- R227, R228, R231, R232: LAUNCH and LAUNCHQ of an aligned record hand it to the front end under the next sequence number of the context
and write that number to s(a), and issue again later while 256 launches of the context have not ended; DIST writes the range of
tiles and iterations of the workgroup; FIXUP writes the sums of the partials once every ready word reads 1; PSETP, PCANCEL and
PREPEAT in a warp raise ILLEGAL_OP. FIXUP's MISALIGN for addresses of its block and the lane that MISALIGN reports are the model's choice
(log entry 74). -/
def Obligations.LaunchInstructions : Prop :=
  ∀ (s : State) (c b a : BitVec 7),
    let ops := [sd .a a, ss .b b]
    let r := s.valueAt intConsts ops .b 0
    let asid := s.g.asid
    let launched := fun (i : Instr) (kind : LaunchKind) =>
      (r.toNat % 64 ≠ 0 → exec i s = .next (s.takeTrap .misalign (Lanes.lowest s.act))) ∧
      (r.toNat % 64 = 0 → 256 ≤ s.launchesOf asid → exec i s = .next s) ∧
      (r.toNat % 64 = 0 → s.launchesOf asid < 256 → s.Completes i (fun u =>
        u.launchAt s.nextId = { Launch.blank with asid := asid, seq := s.ctx.nextSeq, kind := kind, phase := .submitted, record := r,
                                                  queue := s.launch.queue } ∧
        (∀ k, k ≠ s.nextId → u.launchAt k = s.launchAt k) ∧ u.ctxAt asid = { s.ctx with nextSeq := s.ctx.nextSeq + 1 } ∧
        (∀ k, k ≠ asid → u.ctxAt k = s.ctxAt k) ∧ u.nextId = s.nextId + 1 ∧
        u.w = s.w.setSreg (s.regAt ops .a) (BitVec.ofNat 64 s.ctx.nextSeq) ∧
        (∀ k, k ≠ s.cur → u.warpAt k = s.warpAt k) ∧
        u = { s with launches := u.launches, ctxs := u.ctxs, warps := u.warps, nextId := u.nextId }))
    (s.Admits acceptNone ops → launched (.launch b a) .grid ∧ launched (.launchq b a) .query) ∧
    (let dops := [sblock .a a 3, ss .b b]
     let T := (s.valueAt intConsts dops .b 0).toNat % 2 ^ 32
     let I := (s.valueAt intConsts dops .b 0).toNat / 2 ^ 32
     let P := gridSize s.g.grid
     let first := s.g.wgx.toNat * T / P
     let last := (s.g.wgx.toNat + 1) * T / P
     let e := s.regAt dops .a
     s.Admits acceptNone dops →
      (I = 0 ∨ T % I ≠ 0 → exec (.dist b a) s = .next (s.takeTrap .illegalOp s.ir.toNat)) ∧
      (I ≠ 0 → T % I = 0 → s.Completes (.dist b a) (fun u =>
        u.w.sreg e = BitVec.ofNat 64 first ∧ u.w.sreg (e + 1) = BitVec.ofNat 64 last ∧
        u.w.sreg (e + 2) = BitVec.ofNat 64 (first / I * 2 ^ 32 + (if last % I ≠ 0 then 2 else 0) + (if first % I ≠ 0 then 1 else 0)) ∧
        (∀ i, i < e ∨ e + 3 ≤ i → u.w.sreg i = s.w.sreg i) ∧ u.w = { s.w with sregs := u.w.sregs } ∧ s.OnlyWarp u 0))) ∧
    (let fops := [sblock .b b 4]
     let e := s.regAt fops .b
     let dest := (s.w.sreg e).toNat
     let base := (s.w.sreg (e + 1)).toNat
     let stride := (s.w.sreg (e + 2)).toNat % 2 ^ 32
     let n := (s.w.sreg (e + 2)).toNat / 2 ^ 32
     let w0 := (s.w.sreg (e + 3)).toNat / 2 ^ 32
     let k := (s.w.sreg (e + 3)).toNat % 2 ^ 32 + 1 - w0
     let fields := n ≠ 0 ∧ n % 32 = 0 ∧ n ≤ 16384 ∧ w0 ≤ (s.w.sreg (e + 3)).toNat % 2 ^ 32
     s.Admits acceptNone fops →
      (¬ fields → exec (.fixup b) s = .next (s.takeTrap .illegalOp s.ir.toNat)) ∧
      (fields → dest % 128 ≠ 0 ∨ base % 4 ≠ 0 ∨ stride % 128 ≠ 0 → exec (.fixup b) s = .next (s.takeTrap .misalign (Lanes.lowest s.act))) ∧
      (∀ t ready, fields → dest % 128 = 0 → base % 4 = 0 → stride % 128 = 0 → s.unperformedBy s.who.waiter = false →
        s.partialsReady base stride n k w0 = .ok t ready →
        (ready = false → exec (.fixup b) s = .next (s.hold (t.forget s.who.waiter))) ∧
        (∀ ps v x, ready = true → t.partials base stride n k w0 = .ok v ps →
          v.put v.who dest ((sumPartials ps).flatMap (fun y => valBytes 4 y.toNat)) = .ok x () →
          s.Completes (.fixup b) (fun u => u = x.forget s.who.waiter)))) ∧
    (∀ i ∈ [Instr.psetp c b, .pcancel, .prepeat], exec i s = .next (s.takeTrap .illegalOp s.ir.toNat))

/-- R122, R123, R220, R223 to R225, R227, R230: the life of a launch. Its record, read and found good, is accepted, and one found bad gets
its status code; in a prologue PSETP sets a parameter, EXIT and PREPEAT start a run, and PCANCEL gives code 1; the start of a grid run lists its workgroups,
Pending, in order of index with their coordinates; a workgroup with a core becomes resident there, all its lanes live at the
entry; one whose warps have ended is done; the end of a run goes back to the prologue or on to the status store and the arrival;
a budget pass takes the warp-microseconds resident since the last one, of 250 reference ticks each, from the overriding core-time word,
and a workgroup whose word is 0 is pre-empted. On a remote page the charge is a compare-and-swap against the word that was read, made again where
the word has changed. The model's choices: that a launch that fails at acceptance keeps the completion reference to arrive on (log entry 56),
that charges are counted in whole microseconds of 250 ticks and read by these passes (log entry 57), and that workgroups are placed in the order of
their index, with a run's place in the order and its world phase taken at acceptance (log entry 58). -/
def Obligations.LaunchLifecycle : Prop :=
  ∀ (s t : State) (id wg : Nat) (l1 : Launch) (code : Byte),
    let l := s.launchAt id
    let g := s.wgAt wg
    let idle := l.code = 0 ∧ s.launchParked id = false
    let cramped := (List.range 4).any (fun d => decide (s.capacityOf (List.range' (48 * d) 48) l.nwarps l.lines l.matrix <
      ((l.gridGroups id).filter (fun x => decide (s.homeDie x = d))).length))
    (l.phase = .submitted → idle → (s.readLaunch id l).atomic s (.launch id) = .ok t (.ok l1) → l1.prologue = 0 → l1.kind = .grid →
      ∃ u, exec (.launchAccept id) s = .next u ∧
        u.launchAt id = { l1 with phase := .accepted, order := t.nextId, worldPhase := (t.worldAt l1.asid l1.world).requested,
                                  code := (if l1.ends.contains l1.domain then 7 else l1.code), ends := [] } ∧
        (∀ k, k ≠ id → u.launchAt k = t.launchAt k) ∧
        u.ctxAt l.asid = { t.ctxAt l.asid with state := if (t.ctxAt l.asid).state = .defined then .running else (t.ctxAt l.asid).state } ∧
        u = { t with launches := u.launches, ctxs := u.ctxs, nextId := t.nextId + 1 }) ∧
    (l.phase = .submitted → idle → (s.readLaunch id l).atomic s (.launch id) = .ok t (.ok l1) → l1.prologue ≠ 0 →
      ∃ u, exec (.launchAccept id) s = .next u ∧ (u.launchAt id).phase = .prologue ∧ (u.launchAt id).order = t.nextId ∧
        (u.launchAt id).worldPhase = (t.worldAt l1.asid l1.world).requested ∧ (u.launchAt id).ppc = 0 ∧ (u.launchAt id).ppreds = [] ∧
        (∀ i, Table.get 0#64 (u.launchAt id).pregs i = if i = 0 then l1.param 11 else if i = 1 then l1.record else 0) ∧
        (∀ k, k ≠ id → u.launchAt k = t.launchAt k) ∧ u.mem = t.mem) ∧
    (l.phase = .submitted → idle → (s.readLaunch id l).atomic s (.launch id) = .ok t (.error code) →
      exec (.launchAccept id) s = .next (t.setLaunch id { l with code := code, ref := s.recordRef id l })) ∧
    (∀ v p bs, l.phase = .prologue → idle → l.ppc < 64 →
      s.reach (s.frontWho id) accFetch [((l.prologue + BitVec.ofNat 64 (4 * l.ppc)).toNat, 4)] = .ok v p →
      v.segBytes (.launch id) (64 * (l.prologue + BitVec.ofNat 64 (4 * l.ppc)).toNat + 32) p = some bs →
      let word := v.proWord id l (BitVec.ofNat 32 (bytesVal bs))
      (∀ again, word = .run l1 again → ∃ u, exec (.prologueRun id) s = .next u ∧ (u.launchAt id).phase = .accepted ∧
        (u.launchAt id).repeats = again ∧ (u.launchAt id).params = l1.params ∧
        (l.repeats = false → (u.launchAt id).order = l1.order ∧ (u.launchAt id).worldPhase = l1.worldPhase) ∧
        (l.repeats = true → (u.launchAt id).order = v.nextId ∧ (u.launchAt id).worldPhase = (v.worldAt l1.asid l1.world).requested)) ∧
      (word = .cancel l1 → ∃ u, exec (.prologueRun id) s = .next u ∧ u.launchAt id = { l1 with code := 1 }) ∧
      (∀ x, word = .on x l1 → exec (.prologueRun id) s = .next ((x.forget (.launch id)).proRun id 63 l1)) ∧
      (∀ x, word = .held x → exec (.prologueRun id) s = .next (x.setLaunch id l))) ∧
    (∀ c b w, l.pframe = Framing.blank → l.pcover = none → encode (.psetp c b) = some w → b.toNat < 32 →
      let v := Table.get 0#64 l.pregs b.toNat
      psetpBad (decide (l.kind = .query)) c.toNat v = false →
      s.proWord id l w = .on s { l with params := Table.put 0#64 l.params c.toNat v, ppc := l.ppc + 1 }) ∧
    (∀ w, l.pframe = Framing.blank → l.pcover = none → (encode .pcancel = some w → s.proWord id l w = .cancel l) ∧
      (l.kind = .query ∨ gridBad ((l.param 8).toNat, (l.param 9).toNat, (l.param 10).toNat) = false →
        (encode .prepeat = some w → s.proWord id l w = .run l true) ∧ (encode .exit = some w → s.proWord id l w = .run l false))) ∧
    (l.phase = .accepted → idle → l.kind = .grid → (l.cohort = true → cramped = false) →
      let gx := (l.param 8).toNat
      let gy := (l.param 9).toNat
      let gz := (l.param 10).toNat
      ∃ u, exec (.runStart id) s = .next u ∧ u.launchAt id = { l with phase := .running, total := gx * gy * gz } ∧
        (∀ i < gx * gy * gz, let x := u.wgAt (s.nextId + i)
          x.launch = id ∧ x.asid = l.asid ∧ x.phase = .pending ∧ x.wgx = BitVec.ofNat 32 i ∧ x.nwarps = l.nwarps ∧ x.grid = (gx, gy, gz) ∧
          x.coord = (BitVec.ofNat 32 (i % gx), BitVec.ofNat 32 (i / gx % gy), BitVec.ofNat 32 (i / (gx * gy))) ∧ x.karg = l.param 11 ∧
          x.tileAddr = if l.param 12 = 0 then BitVec.ofNat 64 (2 ^ 21 * (i / 4))
            else l.param 12 + BitVec.ofNat 64 (i % gx * l.strides.1 + i / gx % gy * l.strides.2.1 + i / (gx * gy) * l.strides.2.2)) ∧
        (∀ k, k < s.nextId → u.wgAt k = s.wgAt k) ∧
        u = { s with wgs := u.wgs, launches := u.launches, nextId := s.nextId + gx * gy * gz }) ∧
    (l.phase = .accepted → idle → l.kind = .grid → l.cohort = true → cramped = true →
      exec (.runStart id) s = .next (s.setLaunch id { l with code := 3 })) ∧
    (let r := s.lookBudgets (s.launchAt g.launch)
     let h := r.wgAt wg
     let m := r.launchAt h.launch
     ∀ core, h.phase = .pending → h.parcel = none → h.routine = none → m.ordered = false → m.cohort = false → m.param 12 = 0 →
      r.earlierPending h = false → r.unperformedBy h.waiter = false → r.admitted h = true → r.coreFor h = some core →
      (r.warpSlots core).length + h.nwarps ≤ 64 → r.cacheUse core + h.nwarps * m.alloc ≤ 8192 →
      (∀ x ∈ r.wgs, ∀ k ∈ x.2.warps, k < r.nextId) →
      ∃ u, exec (.workgroupResident wg) s = .next u ∧ (u.wgAt wg).phase = .resident ∧ (u.wgAt wg).core = core ∧
        (u.wgAt wg).warps = List.range' r.nextId h.nwarps ∧ (u.wgAt wg).image = r.freeImage h.asid ∧
        (∀ i < h.nwarps, let w := u.warpAt (r.nextId + i)
          w.wg = wg ∧ w.index = i ∧ w.live = BitVec.allOnes 32 ∧ w.sregs = h.init ∧ w.handler = false ∧
          w.units = [(0, { IUnit.blank with lanes := BitVec.allOnes 32, pc := m.entry })]) ∧
        (∀ k, k ≠ wg → u.wgAt k = r.wgAt k) ∧ u.mem = r.mem) ∧
    (g.phase = .resident → (∀ k ∈ g.warps, (s.warpAt k).live = 0) → s.storesOut g = false →
      ∃ u, exec (.workgroupDone wg) s = .next u ∧
        u.wgAt wg = { g with phase := .done, image := none, preempt := false, since := s.tick,
                             spent := g.spent + g.nwarps * (s.tick - g.since) } ∧
        (∀ k, k ≠ wg → u.wgAt k = s.wgAt k) ∧ (∀ x ∈ (u.coreAt g.core).rays, x.2.wg ≠ wg) ∧
        (∀ k, k ≠ g.core → u.coreAt k = s.coreAt k) ∧ u = { s with wgs := u.wgs, cores := u.cores }) ∧
    (idle → l.phase = .running → s.familyBusy id = false →
      (l.repeats = true → ∃ u, exec (.launchEnd id) s = .next u ∧
        u.launchAt id = { l with phase := .prologue, runs := l.runs + 1, ppc := 0, total := 0 } ∧
        u = { s with launches := u.launches, nets := u.nets }) ∧
      (∀ v x, l.repeats = false → l.kind = .grid → s.launchOut id = false →
        let s1 := s.setLaunch id { l with phase := .storing, runs := l.runs + 1 }
        (s1.writeVal (s1.frontWho id) (l.record.toNat + 56) 8 (l.code.toNat + 2 ^ 32 * (l.runs + 1).toNat)).atomic s1 (.launch id) = .ok v () →
        let s2 := v.setLaunch id { l with phase := .arriving, runs := l.runs + 1 }
        s2.launchOut id = false →
        (s2.arriveOnce (s2.frontWho id) l.ref 0).atomic s2 (.launch id) = .ok x () →
        ∃ u, exec (.launchEnd id) s = .next u ∧ u.launchAt id = { l with phase := .ended, runs := l.runs + 1 } ∧ u.mem = x.mem)) ∧
    (l.phase = .storing → s.launchParked id = false → s.launchOut id = true → exec (.launchEnd id) s = .next s.settleNets) ∧
    (let o := s.wgAt wg
     let m := s.launchAt o.launch
     let t0 := o.spent + o.nwarps * (s.tick - o.since)
     let key := 2 ^ 64 * m.asid
     let who := fun (rcb : W64) => engineWho m.asid 0 9 0 0 (.charge (key + rcb.toNat))
     ∀ (rcb : W64) v n p bs pa pk, s.wgs = [(wg, o)] → o.phase = .resident → m.rcbs = [rcb] → s.budgets = [(key + rcb.toNat, ⟨n, 0, false⟩)] →
      s.faults.any (fun x => x.2.waiters.contains (.charge (key + rcb.toNat))) = false → 250 ≤ t0 →
      let a := { s with wgs := [(wg, { o with spent := t0 % 250, since := s.tick })], budgets := [(key + rcb.toNat, ⟨0, n + t0 / 250, false⟩)] }
      a.unperformedBy (.charge (key + rcb.toNat)) = false → a.reach (who rcb) accAtomic [(rcb.toNat + 8, 8)] = .ok v p →
      p = [(.here pa pk, 8)] → v.segBytes (.charge (key + rcb.toNat)) 0 p = some bs →
      let w := bytesVal bs - (n + t0 / 250)
      let x := (v.storeSegs (.charge (key + rcb.toNat)) p (valBytes 8 w)).forget (.charge (key + rcb.toNat))
      ∃ u, exec .budgetChargePass s = .next u ∧ u.budgets = [(key + rcb.toNat, ⟨0, 0, decide (w = 0)⟩)] ∧ (u.wgAt wg).preempt = (o.preempt || decide (w = 0)) ∧
        u = { x with wgs := u.wgs, budgets := u.budgets }) ∧
    (∀ k units v h d pa bs,
      let who := engineWho (k / 2 ^ 64) 0 9 0 0 (.charge k)
      let p := [(Place.away h d pa, 8)]
      units ≠ 0 → s.reach who accAtomic [(k % 2 ^ 64 + 8, 8)] = .ok v p → v.segBytes (.charge k) 0 p = some bs →
      (v.answer (.charge k) 1 = none →
        s.subtract k units = .wait (v.askAtomic (.charge k) 1 8 9 (BitVec.ofNat 64 (bytesVal bs)) (BitVec.ofNat 64 (bytesVal bs - units)) p)) ∧
      (∀ old, v.answer (.charge k) 1 = some old → bytesVal old = bytesVal bs → s.subtract k units = .ok v (bytesVal bs - units)) ∧
      (∀ old, v.answer (.charge k) 1 = some old → bytesVal old ≠ bytesVal bs → s.subtract k units = .wait (v.forget (.charge k))))

/-- R242, R250 to R253: PSEND of a good record with room appends the parcel to the core's queue; QPUSH that claims its entries and QTAKE
complete, QPUSH without space
parks in turn, and one whose entries would not commit in order holds; LBOX writes the latch of a queue of its own context, DLINE sets stamp and guard of a
stream of its own context, and any other queue or stream raises ILLEGAL_OP. The model's choices: PSEND's MISALIGN before its ILLEGAL_OP (log
entry 60), QTAKE's check of the whole range that it may fill and the turns of parked pushers (log entry 62), and the lowest lane of ACT as the one
that MISALIGN reports (log entry 74). -/
def Obligations.QueueInstructions : Prop :=
  ∀ (s t : State) (c b a : BitVec 7) (v : List W64) (res : List (W64 × Nat)) (n0 first : Nat) (bs : List Byte),
    let sops := [ss .b b]
    let ops := [ss .b b, ss .c c]
    let pops := [ss .a a, ss .b b, ss .c c]
    let tops := [sblock .a a 2, ss .b b, ss .c c]
    let trap := fun (t : Trap) (i : Nat) => Host.Outcome.next (φ := Fault) (ρ := Refusal) (s.takeTrap t i)
    let rec0 := s.valueAt intConsts sops .b 0
    let x := s.valueAt intConsts ops .b 0
    let y := s.valueAt intConsts ops .c 0
    (s.Admits acceptNone sops →
      (rec0.toNat % 64 ≠ 0 → exec (.psend b) s = trap .misalign (Lanes.lowest s.act)) ∧
      (rec0.toNat % 64 = 0 → s.fetchWords s.who rec0.toNat 8 = .ok t v →
        (parcelCrooked v = true → exec (.psend b) s = trap .misalign (Lanes.lowest s.act)) ∧
        (parcelCrooked v = false → parcelIllegal v = true → exec (.psend b) s = trap .illegalOp s.ir.toNat) ∧
        (parcelCrooked v = false → parcelIllegal v = false → (t.coreAt s.g.core).parcels.length < 256 →
          s.Completes (.psend b) (fun u => u = t.setCoreAt s.g.core { t.coreAt s.g.core with
            parcels := (t.coreAt s.g.core).parcels ++ [⟨s.g.launch, s.g.asid, rec0, v⟩] })) ∧
        (parcelCrooked v = false → parcelIllegal v = false → 256 ≤ (t.coreAt s.g.core).parcels.length → exec (.psend b) s = .next t))) ∧
    (s.Admits acceptNone pops →
      let n := (s.valueAt intConsts pops .a 0).toNat % 2 ^ 32
      let h := s.valueAt intConsts pops .b 0
      let off := (s.valueAt intConsts pops .c 0).toNat
      (n = 0 ∨ 65535 < n ∨ 2 ^ 19 ≤ off → exec (.qpush c b a) s = trap .illegalOp s.ir.toNat) ∧
      (n ≠ 0 → n ≤ 65535 → off < 2 ^ 19 → off % 16 ≠ 0 ∨ h.toNat % 64 ≠ 0 → exec (.qpush c b a) s = trap .misalign (Lanes.lowest s.act)) ∧
      (n ≠ 0 → n ≤ 65535 → off < 2 ^ 19 → off % 16 = 0 → h.toNat % 64 = 0 →
        s.unperformedBy s.who.waiter = false →
        (s.pushClaim h n off = .ok t .outside → exec (.qpush c b a) s = trap .misalign (Lanes.lowest s.act)) ∧
        (s.pushClaim h n off = .ok t .absent → exec (.qpush c b a) s = .next (s.hold (t.forget s.who.waiter))) ∧
        (s.pushClaim h n off = .ok t .short → exec (.qpush c b a) s = .next (s.hold ((t.forget s.who.waiter).parkPush h))) ∧
        (∀ start ok z, s.pushClaim h n off = .ok t (.claimed start res) →
          let p := t.forget s.who.waiter
          let q := (p.setLaunch p.g.launch { p.launch with reserved := res }).atPush (.claimed h start n)
          (q.pushCommit h start n).atomic q q.who.waiter = .ok z ok →
          (ok = true → s.Completes (.qpush c b a) (fun u => u = z)) ∧ (ok = false → exec (.qpush c b a) s = .next (s.hold z))))) ∧
    (s.Admits acceptNone tops →
      let h := s.valueAt intConsts tops .b 0
      let ctl := (s.valueAt intConsts tops .c 0).toNat
      let off := ctl % 2 ^ 19
      let m := ctl / 2 ^ 32 % 2 ^ 16
      (m = 0 ∨ 2 ^ 48 ≤ ctl ∨ ctl / 2 ^ 19 % 2 ^ 13 ≠ 0 → exec (.qtake c b a) s = trap .illegalOp s.ir.toNat) ∧
      (m ≠ 0 → ctl < 2 ^ 48 → ctl / 2 ^ 19 % 2 ^ 13 = 0 → off % 16 = 0 → h.toNat % 64 = 0 →
        s.unperformedBy s.who.waiter = false → s.takeEntries h m off = .ok t (.took n0 first bs) → s.Completes (.qtake c b a) (fun u =>
          u.wgAt s.w.wg = { s.g with spad := Memory.writeBytes s.g.spad off bs } ∧
          u.w.sreg (s.regAt tops .a) = BitVec.ofNat 64 n0 ∧ u.w.sreg (s.regAt tops .a + 1) = BitVec.ofNat 64 first ∧
          (∀ i, i ≠ s.regAt tops .a → i ≠ s.regAt tops .a + 1 → u.w.sreg i = s.w.sreg i) ∧ u.mem = t.mem ∧ u.takes = t.takes))) ∧
    (s.Admits acceptNone ops →
      (1024 ≤ x.toNat ∨ (s.queueAt x.toNat).asid ≠ s.g.asid → exec (.lbox c b) s = trap .illegalOp s.ir.toNat) ∧
      (x.toNat < 1024 → (s.queueAt x.toNat).asid = s.g.asid → s.windowDenies s.who = true → exec (.lbox c b) s = .next s.uncontained) ∧
      (x.toNat < 1024 → (s.queueAt x.toNat).asid = s.g.asid → s.windowDenies s.who = false → s.Completes (.lbox c b) (fun u =>
        u.queueAt x.toNat = s.latched x.toNat y ∧ s.OnlyQueue u x.toNat)) ∧
      (let n := x.toNat % 32
       let good := x.toNat / 32 % 2 ^ 27 = 0 ∧ (s.deadlineAt n).owner.toNat = s.g.asid ∧ x.toNat / 2 ^ 32 ≠ 0
       (¬ good → exec (.dline c b) s = trap .illegalOp s.ir.toNat) ∧
       (good → s.Completes (.dline c b) (fun u => s.StreamSet u n y (BitVec.ofNat 32 (x.toNat / 2 ^ 32))))))

/-- R233, R234, R236, R238, R239, R249: the mapper and the deadline streams. A letterbox write sets the latch, and any other write to the
window is discarded; enabling, disabling, clearing, activating, evicting and the tenure move a queue between its states; a
restart holds the mapper until the firmware is up again and presents the latches; the host stamps only streams of the aperture's context; a packet is read
whole into the look-ahead. The model's choices: that a restart ends with an event from outside, which presents the latches (log entry 64), and the
moments at which a stream's raised flag is renewed (log entry 65). -/
def Obligations.QueueStates : Prop :=
  ∀ (s t : State) (q n o : Nat) (v a : W64) (bs pk : List Byte) (host : Bool) (asid : BitVec 16),
    let x := s.queueAt q
    let owned := n < 32 ∧ (host = true → ∃ d k, s.aperture = some (d, k) ∧ (s.deadlineAt n).owner.toNat = d)
    (q < 1024 → ∃ u, exec (.letterboxWrite q v) s = .next u ∧ u.queueAt q = s.latched q v ∧ s.OnlyQueue u q) ∧
    exec (.letterboxWindowWrite o bs) s = .next s ∧
    (q < 1024 → x.state = .disabled → ∃ u, exec (.queueEnable q) s = .next u ∧ (u.queueAt q).readPtr = 0 ∧ (u.queueAt q).status = 0 ∧
      (u.queueAt q).state = (if x.latch = 0 ∨ s.restarting = true then .idle else .waiting) ∧ (∀ k, k ≠ q → u.queueAt k = s.queueAt k)) ∧
    (q < 1024 → ∃ u, exec (.queueDisable q) s = .next u ∧ (u.queueAt q).state = .disabled ∧ (u.queueAt q).ahead = [] ∧
      (u.queueAt q).latch = x.latch ∧ u = ((s.setQueue q (u.queueAt q)).dropAccess (.queue q)).dropEnded q) ∧
    (x.state = .stopped → ∃ u, exec (.queueStatusClear q) s = .next u ∧ (u.queueAt q).status = 0 ∧
      (u.queueAt q).state = (if x.readPtr.toNat < x.latch.toNat ∧ s.restarting = false then .waiting else .idle)) ∧
    (x.state = .waiting → s.restarting = false → (s.queuesIn .active).length < 32 →
      (∀ y ∈ s.queuesIn .waiting, s.ranksAbove y (q, x) = false) → ∃ u, exec (.queueActivate q) s = .next u ∧
        u.queueAt q = { x with state := .active, since := s.tick, tenured := false } ∧ s.OnlyQueue u q) ∧
    (x.state = .active → s.restarting = false → 32 ≤ (s.queuesIn .active).length → s.lowest q = true → x.waiting = none →
      x.started = none → x.owePtr = false → s.queueParked q = false → (∃ y ∈ s.queuesIn .waiting, s.evicts x y.2 = true) →
      ∃ u, exec (.queueEvict q) s = .next u ∧ (u.queueAt q).state = .waiting ∧ (u.queueAt q).stamp = s.tick ∧
        (u.queueAt q).ahead = [] ∧ (u.queueAt q).readPtr = x.readPtr ∧ s.OnlyQueue u q) ∧
    (x.state = .active → x.since + 250000 ≤ s.tick → ∃ u, exec (.evictionTenureExpiry q) s = .next u ∧
      u.queueAt q = { x with tenured := true } ∧ s.OnlyQueue u q) ∧
    exec .schedulerRestart s = .next { s with restarting := true } ∧
    (s.restarting = true → s.schedulerUp.restarting = false ∧
      (x.state = .idle → x.readPtr.toNat < x.latch.toNat → q ∈ s.queues.map (·.1) → (s.schedulerUp.queueAt q).state = .waiting)) ∧
    (owned → ∃ u, exec (.deadlineStampWrite host n v) s = .next u ∧ s.StreamSet u n v (s.deadlineAt n).guard) ∧
    (owned → 0 < v.toNat → v.toNat < 2 ^ 32 → ∃ u, exec (.deadlineGuardWrite host n v) s = .next u ∧
      s.StreamSet u n (s.deadlineAt n).stamp (v.setWidth 32)) ∧
    (¬ owned → exec (.deadlineStampWrite host n v) s = .next s ∧ exec (.deadlineGuardWrite host n v) s = .next s) ∧
    (let d := s.deadlineAt n
     let on := d.stamp.toNat ≤ s.tick / 64 + d.guard.toNat ∧ s.tick / 64 < d.stamp.toNat
     (on → exec (.deadlineStreamRaise n) s = .next (s.setDeadline n { d with raised := true })) ∧
     (¬ on → exec (.deadlineStreamLower n) s = .next (s.setDeadline n { d with raised := false })) ∧
     (n < 32 → exec (.deadlineStreamOwnerWrite n asid) s = .next (s.setDeadline n { d with owner := asid }))) ∧
    (x.state = .active → x.ahead.length < 16 → x.barred = false → s.queueFree q = true → x.nextAddr = some a → x.readRing < x.latch.toNat →
      (s.partBytes (s.queueWho q) a.toNat 64).atomic s (.queue q) = .ok t pk →
      ∃ u, exec (.packetLookahead q) s = .next u ∧ (∃ f, (u.queueAt q).ahead = x.ahead ++ [f] ∧ f.addr = a ∧ f.words = words64 8 pk) ∧
        (u.queueAt q).readPtr = x.readPtr ∧ u.mem = t.mem)

/-- R228, R235, R240 to R242, R244, R260: what each packet does when it issues: NOP, JOIN and CALL below the fifth level, a WAIT whose
condition holds, a WRITE, an ARRIVE, a DEADLINE, a LAUNCH whose record has been accepted, a PARCEL and a WCOLL or PIPELINE that has come to its end make their
effect and leave the queue with the read pointer counting them; LAUNCH, WCOLL and PIPELINE first start what they wait for; a WAIT whose
condition does not hold waits, from its first evaluation on, whatever that gives; at its time-out it issues where its condition is then true, and
stops the queue where it is not (R161). -/
def Obligations.Packets : Prop :=
  ∀ (s t v : State) (q : Nat) (f : Fetched) (r : List Fetched) (o : BarObj),
    let x := s.queueAt q
    let gone := fun (u w : State) => u = (w.forget (.queue q)).packetIssued q
    let at' := fun (type : Nat) => s.AtIssue t q type f r
    (at' 0 → ∃ u, exec (.nopPacket q) s = .next u ∧ gone u t) ∧
    (at' 4 → ∃ u, exec (.joinPacket q) s = .next u ∧ gone u t) ∧
    (at' 3 → f.before.length < 4 → ∃ u, exec (.callPacket q) s = .next u ∧ gone u t) ∧
    (at' 3 → 4 ≤ f.before.length → exec (.callPacket q) s = .next ((t.forget (.queue q)).stopQueue q f.ring 2)) ∧
    (at' 1 → (t.queueAt q).started = none → t.launchesOf (t.queueAt q).asid < 256 → ∃ (u w : State), exec (.launchPacket q) s = .next u ∧
      u = (w.forget (.queue q)).heldAtIssue q ∧ (w.queueAt q).started = some t.nextId ∧
      w.launchAt t.nextId = { Launch.blank with asid := (t.queueAt q).asid, seq := (t.ctxAt (t.queueAt q).asid).nextSeq, kind := (if packetFlag f.words 1 then .query else .grid),
                                                phase := .submitted, record := f.w 1, queue := some q } ∧ w.mem = t.mem) ∧
    (∀ id, at' 1 → (t.queueAt q).started = some id → (t.launchAt id).phase ≠ .submitted ∨ (t.launchAt id).code ≠ 0 →
      ∃ u, exec (.launchPacket q) s = .next u ∧ gone u t) ∧
    (at' 5 → ∀ b, (t.heldAtIssue q).packetCond q f = .ok v b →
      exec (.waitPacket q) s = .next (if b then (v.forget (.queue q)).packetIssued q else (v.forget (.queue q)).heldAtIssue q)) ∧
    (at' 5 → ∀ c i, (t.heldAtIssue q).packetCond q f = .fault v c i → ∃ u, exec (.waitPacket q) s = .next u ∧
      (u.queueAt q).waiting.isSome = true ∧ (u.queueAt q).hold = .own ∧ u.mem = t.mem) ∧
    (∀ since, s.packetRipe q = false → x.state = .active → s.ctxRuns x.asid = true → x.ahead = f :: r → x.waiting = some since → packetType f.words = 5 → f.w 3 ≠ 0 →
      since + (f.w 3).toNat ≤ s.tick → ∃ u, exec (.waitPacketTimeout q) s = .next u ∧ (u.queueAt q).state = .stopped ∧
        (u.queueAt q).status = BitVec.ofNat 64 (f.ring % 2 ^ 32 * 2 ^ 32 + 3)) ∧
    (s.packetExpired q = true → s.packetRipe q = true → exec (.waitPacketTimeout q) s = exec (.waitPacket q) s) ∧
    (at' 6 → t.writeVal (t.queueWho q) (f.w 1).toNat 8 (f.w 2).toNat = .ok v () → ∃ u, exec (.writePacket q) s = .next u ∧ gone u v) ∧
    (at' 7 → t.barrier (t.queueWho q) 0 (f.w 1) (some fun y => y.arrive 1 ((f.w 2).setWidth 32)) = .ok v o →
      ∃ u, exec (.arrivePacket q) s = .next u ∧ gone u v) ∧
    (at' 10 → t.dlineBad (t.queueAt q).asid (f.w 1) = false → ∃ u w, exec (.deadlinePacket q) s = .next u ∧ gone u w ∧
      t.StreamSet w ((f.w 1).toNat % 32) (f.w 2) (BitVec.ofNat 32 ((f.w 1).toNat / 2 ^ 32))) ∧
    (at' 2 → ∀ w y bs ks z core, let who := t.queueWho q
      t.partBytes who (f.w 1).toNat 64 = .ok v bs → v.partBytes who (f.w 2).toNat 64 = .ok w ks →
      w.resolveRcb who ((t.queueAt q).desc.getD 3 0) = .ok y (some z) → y.packetCore = some core → z.noMem = false →
      (f.w 1).toNat % 64 = 0 → (f.w 2).toNat % 64 = 0 → parcelCrooked (words64 8 bs) = false → parcelIllegal (words64 8 bs) = false →
      kernelBad (y.ctxAt (t.queueAt q).asid).perLane (words64 8 ks) = false →
      ∃ u k, exec (.parcelPacket q) s = .next u ∧ gone u k ∧ (k.launchAt y.nextId).kind = .parcels ∧
        (k.coreAt core).parcels = (y.coreAt core).parcels ++ [⟨y.nextId, (t.queueAt q).asid, f.w 1, words64 8 bs⟩]) ∧
    (∀ n, at' 8 → (t.queueAt q).started = some n → n ≤ (t.worldAt (t.queueAt q).asid (f.w 1).toNat).ended →
      ∃ u, exec (.wcollPacket q) s = .next u ∧ gone u t) ∧
    (at' 8 → (t.queueAt q).started = none → ∀ d, t.worldDesc (t.queueWho q) (f.w 1).toNat = .ok v (.world d) →
      v.officeDenies (v.queueWho q) 0 = false → ∃ u, exec (.wcollPacket q) s = .next u ∧
      (u.worldAt (t.queueAt q).asid d.num).requested = (v.worldAt (t.queueAt q).asid d.num).requested + 1 ∧
      (u.queueAt q).waiting.isSome = true ∧ (u.queueAt q).started.isSome = true) ∧
    (∀ p y, at' 9 → (t.queueAt q).started = some p → Table.find t.pipes p = some y → y.ended = true →
      ∃ u, exec (.pipelinePacket q) s = .next u ∧ gone u { t with pipes := Table.erase t.pipes p }) ∧
    (at' 9 → (t.queueAt q).started = none → t.pipes.length < 8 → ∀ st, t.pipeline (t.queueWho q) (f.w 1) = .ok v (some st) → ∃ u, exec (.pipelinePacket q) s = .next u ∧
      Table.find u.pipes v.nextId = some { queue := q, asid := (t.queueAt q).asid, record := f.w 1, ended := false } ∧
      (u.queueAt q).started = some v.nextId) ∧
    (∀ (y : State) (g : Fetched) (k : List Fetched), (y.queueAt q).ahead = g :: k →
      ((y.packetIssued q).queueAt q).readPtr =
        if packetType g.words ≠ 3 ∧ g.closes = g.before.length then BitVec.ofNat 64 (g.ring + 1) else (y.queueAt q).readPtr)

/-- The migration commands that R245 gives a context, at most n of them, from the numbers of unpinned parcels on the cores: each from the
core with the most to the core with the fewest, ties to the lower core number, of half the difference rounded down and at most 32; there are fewer
than n only where no two cores differ by 2. -/
def Sys2Proof.Machine.MovesFollow (asid : Nat) : Nat → List (Nat × Nat) → List Sys2Proof.Machine.ParcelMove → Prop
  | n, v, [] => n = 0 ∨ ∀ x ∈ v, ∀ y ∈ v, x.2 < y.2 + 2
  | 0, _, _ :: _ => False
  | n + 1, v, m :: ms => ∃ a b, (m.src, a) ∈ v ∧ (m.dst, b) ∈ v ∧ (∀ x ∈ v, x.2 < a ∨ (x.2 = a ∧ m.src ≤ x.1)) ∧
      (∀ x ∈ v, b < x.2 ∨ (x.2 = b ∧ m.dst ≤ x.1)) ∧ b + 2 ≤ a ∧ m.asid = asid ∧ m.count = min 32 ((a - b) / 2) ∧
      MovesFollow asid n (v.map (fun x => if x.1 = m.src then (x.1, x.2 - m.count) else if x.1 = m.dst then (x.1, x.2 + m.count) else x)) ms

/-- R243 to R245, R247, R248: the parcel at the head of a core's queue starts as a workgroup there once it is admitted and the core has
room; a parcel that has completed counts its counter down and sends the successor it is given; a migration moves the last loose
parcels of the context in order; the postmaster sends each context's commands as R245 says, each from the core with the most to the core with the fewest; a
pass of the stage manager ends a pipeline or does
what it has chosen; an ended stage launch is settled. -/
def Obligations.ParcelsAndStages : Prop :=
  ∀ (s t : State) (core wg src dst asid count id p k : Nat) (a : W64) (ws : List W64) (x : Pipeline),
    let g := s.wgAt wg
    (∀ y0 r0 y r, (s.coreAt core).parcels = y0 :: r0 →
      let v := s.lookBudgets (s.launchAt y0.family)
      (v.coreAt core).parcels = y :: r →
      let l := v.launchAt y.family
      let n := v.nextId
      v.admitted (v.parcelGroup y) = true → v.roomOn core l = true → (v.warpSlots core).length + l.nwarps ≤ 64 →
      v.unperformedBy (.other y.asid) = false → v.cacheUse core + l.nwarps * l.alloc ≤ 8192 → (∀ x ∈ v.wgs, ∀ k ∈ x.2.warps, k < n) →
      (∀ x ∈ v.wgs, x.1 < n) →
      ∃ u, exec (.parcelStart core) s = .next u ∧ (u.coreAt core).parcels = r ∧ (u.wgAt n).phase = .resident ∧
        (u.wgAt n).core = core ∧ (u.wgAt n).launch = y.family ∧ (u.wgAt n).karg = y.words.getD 1 0 ∧
        ∀ i < l.nwarps, let w := u.warpAt (n + 1 + i)
          w.wg = n ∧ w.index = i ∧ w.live = BitVec.allOnes 32 ∧ w.sreg 0 = y.addr ∧
          w.units = [(0, { IUnit.blank with lanes := BitVec.allOnes 32, pc := y.words.getD 0 0 })]) ∧
    (∀ v, g.parcel = some v → g.phase = .done → s.faults.any (fun x => x.2.waiters.contains (.parcel wg)) = false →
      (v.getD 3 0 = 0 → ∃ u, exec (.parcelComplete wg) s = .next u ∧ s.OnlyGroup u wg { g with parcel := none }) ∧
      (v.getD 3 0 ≠ 0 → (s.countDown (s.parcelWho wg) (v.getD 3 0).toNat).atomic s (.parcel wg) = .ok t none →
        ∃ u, exec (.parcelComplete wg) s = .next u ∧ t.OnlyGroup u wg { g with parcel := none }) ∧
      (v.getD 3 0 ≠ 0 → (s.countDown (s.parcelWho wg) (v.getD 3 0).toNat).atomic s (.parcel wg) = .ok t (some (a, ws)) →
        (t.coreAt g.core).parcels.length < 256 →
        ∃ u, exec (.parcelComplete wg) s = .next u ∧ u.wgAt wg = { g with parcel := none } ∧
          (u.coreAt g.core).parcels = (t.coreAt g.core).parcels ++ [⟨g.launch, g.asid, a, ws⟩] ∧ u.mem = t.mem)) ∧
    (let unpinned := fun (n : Nat) => ((List.range 192).filter (fun c => !s.withheldCore c)).map (fun c =>
        (c, ((s.coreAt c).parcels.filter (fun y => decide (y.asid = n) && !(y.words.getD 4 0).getLsbD 0)).length))
     ∃ (u : State) (plans : List (List ParcelMove)), exec .postmasterPass s = .next u ∧ u = { s with moves := s.moves ++ plans.flatten } ∧ plans.length = s.ctxs.length ∧
       ∀ (i n : Nat) (c : Context), s.ctxs[i]? = some (n, c) → ∃ ms, plans[i]? = some ms ∧ MovesFollow n 8 (unpinned n) ms) ∧
    (⟨src, dst, asid, count⟩ ∈ s.moves → src ≠ dst →
      let c := s.coreAt src
      let d := s.coreAt dst
      let loose := c.parcels.filter (fun y => decide (y.asid = asid) && !(y.words.getD 4 0).getLsbD 0)
      let n := min count (256 - d.parcels.length)
      ∃ u, exec (.parcelMigration src dst asid count) s = .next u ∧
        (u.coreAt dst).parcels = d.parcels ++ loose.drop (loose.length - n) ∧
        (u.coreAt src).parcels.length + min n loose.length = c.parcels.length ∧
        (∀ j, j ≠ src → j ≠ dst → u.coreAt j = s.coreAt j) ∧ u = { s with moves := s.moves.erase ⟨src, dst, asid, count⟩, cores := u.cores }) ∧
    (∀ ended, s.pipes = [(p, x)] → x.ended = false → s.pipeParked p = false → s.ctxRuns x.asid = true →
      (s.managePipe p x).atomic s (.pipeline p) = .ok t ended →
      exec .stageManagerPass s = .next (if ended then t.endPipe p else t)) ∧
    (∀ v, (s.launchAt id).kind = .stage p k → (s.launchAt id).phase = .ended → (s.launchAt id).ranges ≠ [] → s.pipeParked p = false →
      s.unperformedBy (.pipeline p) = false → s.settleStage id p = .ok v () →
      v.launchAt id = { s.launchAt id with ranges := [], reserved := [], claimed := 0 } ∧
      (Table.find v.pipes p = none → exec (.stageLaunchEnd id) s = .next (v.forget (.pipeline p))) ∧
      (∀ y z ended, Table.find v.pipes p = some y → v.pipeDone p y = .ok z ended →
        exec (.stageLaunchEnd id) s = .next (if ended then (z.forget (.pipeline p)).endPipe p else z.forget (.pipeline p))))

/-- R254 to R258, R260, R263, R264, R266, R267: the world instructions. WLOOK writes for every lane of ACT the row reference of its
handle: code 2 for the null handle, 3 for an undefined world, 0 with the bundle, the row and a set predicate where the handle is
current, and 1, or the trap STALE in a strict world, where it is not. WCOL reads a column base, 0 where there is none; WDEAD the log's
written count and the collection number; WOPEN, WNEXT and WCLOSE open, step and close a cursor, and WCLOSE has no effect on a closed one; WNEW, WDEL, WADD and WREM post one
change a lane in a run and raise ILLEGAL_OP elsewhere; WCOLL adds a request and writes the number it will produce. What a malformed query or
descriptor raises and the cursor that WOPEN takes are the model's reading (log entry 69). -/
def Sys2Proof.Machine.WorldInstructions : Prop :=
  ∀ (s t v x y z : State) (l : BitVec 4) (p : BitVec 3) (c b a : BitVec 7) (d : WorldDesc) (res : List (Nat × W64 × Bool)) (e : Slot)
    (q : Query) (cu cv : Cursor) (n : Nat),
    let lops := [vd .a a 2, vbase .b b]
    let ops := [sd .a a, ss .b b]
    let dops := [sblock .a a 2, ss .b b]
    let nops := [sblock .a a 3, ss .b b]
    let cops := [sd .a a, ss .b b, ss .c c]
    let trap := fun (t : Trap) (i : Nat) => Host.Outcome.next (φ := Fault) (ρ := Refusal) (s.takeTrap t i)
    let late := fun (i : Instr) (ops : List Opnd) (y : State) (vals : List W64) => s.Completes i (fun u =>
      (y.forget s.who.waiter).LateResult u ops l { Pending.of s.act [] [] with
        scl := (List.range vals.length).map (fun k => (s.regAt ops .a + k, vals.getD k 0)) })
    let r := s.valueAt intConsts ops .b 0
    (s.Admits acceptGX lops → s.full = false →
      let seek := (s.looks (fun L => (s.valueAt intConsts lops .b L).toNat) (Lanes.list s.act)).atomic s s.who.waiter
      (seek = .ok t (.val res) →
        (∀ L, L < 32 → s.act.getLsbD L = true → ∃ s1 s2, State.look s1 L (s.valueAt intConsts lops .b L).toNat = .ok s2 (.val (laneEntry (0, false) res L))) ∧
        s.Completes (.wlook l p b a) (fun u => t.LateResult u lops l
          { lateValue s.act (s.regAt lops .a) 2 (fun L => (laneEntry (0, false) res L).1) [] with
            pred := some (p, Lanes.of (fun L => (laneEntry (0, false) res L).2)) })) ∧
      (seek = .ok t (.trap .stale n) → exec (.wlook l p b a) s = trap .stale n)) ∧
    (∀ L h, s.look L 0 = .ok s (.val (0x2000000#64, false)) ∧
      (h ≠ 0 → s.worldDesc s.who (handleWorld h) = .ok t .undefined →
        s.look L h = .ok t (.val (BitVec.ofNat 64 (3 * 2 ^ 24 + handleWorld h * 2 ^ 16), false))) ∧
      (h ≠ 0 → s.worldDesc s.who (handleWorld h) = .ok t (.world d) →
        (d.cap ≤ handleSlot h →
          s.look L h = .ok t (if d.strict then .trap .stale L else .val (BitVec.ofNat 64 (2 ^ 24 + handleWorld h * 2 ^ 16), false))) ∧
        (handleSlot h < d.cap → t.slotAt t.who d (handleSlot h) = .ok v e →
          s.look L h = .ok v (if e.state = 1 ∧ e.mark = handleMark h then
              .val (BitVec.ofNat 64 (handleWorld h * 2 ^ 16 + e.bundle + e.row * 2 ^ 32), true)
            else if d.strict then .trap .stale L else .val (BitVec.ofNat 64 (2 ^ 24 + handleWorld h * 2 ^ 16), false))))) ∧
    (s.Admits acceptAll ops → s.full = false → s.act ≠ 0 → s.unperformedBy s.who.waiter = false → 
      (s.worldDesc s.who (refWorld r) = .ok t .undefined → late (.wcol l c b a) ops t [0]) ∧
      (s.worldDesc s.who (refWorld r) = .ok t (.world d) →
        (d.nbundles ≤ refBundle r ∨ d.ntypes ≤ (s.imm32 c).toNat → late (.wcol l c b a) ops t [0]) ∧
        (∀ cols m, refBundle r < d.nbundles → (s.imm32 c).toNat < d.ntypes →
          t.readVal t.who (d.bundles + 64 * refBundle r + 8) 8 = .ok v cols → v.readVal v.who (cols + 8 * (s.imm32 c).toNat) 8 = .ok x m →
          late (.wcol l c b a) ops x [BitVec.ofNat 64 m]))) ∧
    (s.Admits acceptGX dops → s.full = false → s.act ≠ 0 → s.unperformedBy s.who.waiter = false → 
      let w := (s.valueAt intConsts dops .b 0).toNat
      (256 ≤ w → exec (.wdead l b a) s = trap .illegalOp s.ir.toNat) ∧
      (w < 256 → s.worldDesc s.who w = .ok t (.world d) →
        late (.wdead l b a) dops t [BitVec.ofNat 64 d.written, BitVec.ofNat 64 d.coll])) ∧
    (s.Admits acceptAll ops → s.full = false → s.act ≠ 0 → s.unperformedBy s.who.waiter = false → 0 < s.openRows c → s.openRows c ≤ 65536 →
      (s.openCursor s.who r.toNat (s.openRows c) = .ok t none → exec (.wopen l c b a) s = trap .illegalOp s.ir.toNat) ∧
      (s.openCursor s.who r.toNat (s.openRows c) = .ok t (some none) → late (.wopen l c b a) ops t [BitVec.allOnes 64]) ∧
      (s.openCursor s.who r.toNat (s.openRows c) = .ok t (some (some (d, q, n, cu))) →
        n < 16 ∧ cu.open_ = true ∧ cu.opened = d.coll ∧ cu.query = r.toNat ∧ cu.rows = s.openRows c ∧ cu.next = 0 ∧ cu.bundle = 0 ∧ cu.done = false ∧
        cu.list = [] ∧ cu.fwd = false ∧ cu.addr = d.cursors + 512 * n ∧
        (t.putCursor s.who cu = .ok y () → late (.wopen l c b a) ops y [BitVec.ofNat 64 (16 * d.num + n)]))) ∧
    (s.Admits acceptGX nops → s.full = false → s.act ≠ 0 → s.unperformedBy s.who.waiter = false → 
      let k := (s.valueAt intConsts nops .b 0).toNat
      (2 ^ 12 ≤ k → exec (.wnext l b a) s = trap .illegalOp s.ir.toNat) ∧
      (k < 2 ^ 12 → s.worldDesc s.who (k / 16) = .ok t (.world d) → t.cursorAt t.who d (k % 16) = .ok v cu →
        (cu.open_ = false → exec (.wnext l b a) s = trap .illegalOp s.ir.toNat) ∧
        (∀ f, cu.open_ = true → v.queryAt v.who cu.query = .ok x (some q) → x.nextRange x.who d q (d.nbundles + 1) cu = .ok y (cv, f) →
          y.putCursor y.who cv = .ok z () → late (.wnext l b a) nops z (match f with
            | none => [0, 0, 0]
            | some (bn, row, m) => [BitVec.ofNat 64 (d.num * 2 ^ 16 + bn), BitVec.ofNat 64 row, BitVec.ofNat 64 m])))) ∧
    (s.Admits acceptGX [ss .b b] → s.act ≠ 0 → s.unperformedBy s.who.waiter = false → ∀ k, k = (s.valueAt intConsts [ss .b b] .b 0).toNat → k < 2 ^ 12 →
      s.worldDesc s.who (k / 16) = .ok t (.world d) → t.cursorAt t.who d (k % 16) = .ok v cu →
      (cu.open_ = false → s.Completes (.wclose b) (fun u => u = v.forget s.who.waiter)) ∧
      (cu.open_ = true → v.putCursor v.who { cu with open_ := false, list := [] } = .ok x () →
        s.Completes (.wclose b) (fun u => u = x.forget s.who.waiter))) ∧
    (∀ f ∈ [(Instr.wnew c b, [postReg .b b 1, postReg .c c 2], PostKind.wnew), (.wdel b, [postReg .b b 2], .wdel),
            (.wadd c b a, [vs .a a 1, postReg .b b 2, postReg .c c 2], .wadd), (.wrem b a, [vs .a a 1, postReg .b b 2], .wrem)],
      let i := f.1
      let ops := f.2.1
      let post := fun L : Nat =>
        ({ rank := s.launch.rank, launch := s.launch.seq, index := s.g.wgx.toNat * 32 * s.g.nwarps + 32 * s.w.index + L,
           seq := Table.get 0 s.w.postSeq L, kind := f.2.2, target := s.valueAt intConsts ops .b L,
           typ := (s.valueAt intConsts ops .a L).setWidth 32, addr := s.valueAt intConsts ops .c L } : Post)
      (s.launch.kind ≠ .query ∨ s.g.parcel.isSome = true → exec i s = trap .illegalOp s.ir.toNat) ∧
      (s.Admits (postAccept ops) ops → s.launch.kind = .query → s.g.parcel = none →
        (∀ L, L < 32 → s.act.getLsbD L = true → (s.valueAt intConsts ops .c L).toNat % 8 = 0) →
        s.unperformedBy s.who.waiter = false → s.worldDesc s.who s.launch.world = .ok t (.world d) → d.posted + Lanes.count s.act ≤ d.outCap →
        (∀ L, L < 32 → s.act.getLsbD L = true → t.officeDenies s.who ((post L).office s.who.die) = false) →
        t.postAll s.g.asid d ((Lanes.list s.act).map post) = .ok v () → s.Completes i (fun u =>
          (s.act ≠ 0 → (u.worldAt s.g.asid d.num).posts = (s.worldAt s.g.asid d.num).posts.take d.posted ++ (Lanes.list s.act).map post) ∧
          u.w = { s.w with postSeq := bumpSeq s.w.postSeq (Lanes.list s.act), opq := s.w.opq.drop (s.popped ops) } ∧
          (∀ k, k ≠ s.cur → u.warpAt k = s.warpAt k) ∧ u.mem = v.mem))) ∧
    (∀ L, Table.get 0 (bumpSeq s.w.postSeq (Lanes.list s.act)) L =
      Table.get 0 s.w.postSeq L + (if L < 32 ∧ s.act.getLsbD L = true then 1 else 0)) ∧
    (s.Admits acceptAll cops → s.act ≠ 0 → s.unperformedBy s.who.waiter = false → 
      let w := (s.valueAt intConsts cops .b 0).toNat
      let ref := s.valueAt intConsts cops .c 0
      (256 ≤ w ∨ globalRef ref = false ∨ (s.launch.kind = .query ∧ s.launch.world = w) →
        exec (.wcoll c b a) s = trap .illegalOp s.ir.toNat) ∧
      (w < 256 → globalRef ref = true → ¬ (s.launch.kind = .query ∧ s.launch.world = w) → s.worldDesc s.who w = .ok t (.world d) →
        t.officeDenies t.who t.who.die = false → s.Completes (.wcoll c b a) (fun u =>
          let old := s.worldAt s.g.asid d.num
          u.worldAt s.g.asid d.num = { old with requests := old.requests ++ [ref], requested := old.requested + 1 } ∧
          u.w = s.w.setSreg (s.regAt cops .a) (BitVec.ofNat 64 (d.coll + old.requests.length + 1)) ∧
          (∀ k, k ≠ s.cur → u.warpAt k = s.warpAt k) ∧ u.mem = t.mem)))

/-- R256, R260, R261, R263, R265: at its collection point a world's posts are sorted and applied, the slots whose quarantine ends leave
it, the request's arrival falls due and compaction of every bundle begins; an arrival that is due is made before anything else; a rejected change goes to the dead-letter log with its reason; a
deletion tombstones the row, counts it out and quarantines or retires the slot; a component already present is overwritten in
place; a move of a compaction ends a bundle, or goes on, and with the last bundle the arrival on the compaction barrier falls due. The bytes of a
move are subtracted on that barrier once they have been performed (R150), before anything else. The model's choices: a collection is one event
and its arrival is made by the next (log entry 68), which bytes compaction counts (log entry 78), and which office applies a change (log entry 67). -/
def Sys2Proof.Machine.WorldEvents : Prop :=
  ∀ (s t v : State) (asid world bundle : Nat) (ref : W64) (r : List W64) (d : WorldDesc) (p : Post) (x : Collecting) (e : Slot) (n k : Nat),
    let w := s.worldAt asid world
    let who := (officeWho asid world 0).forSlot (handleSlot p.target.toNat)
    let calm := s.officeParked asid world = false ∧ s.unperformedBy (.office asid world) = false
    let ready := calm ∧ w.moved = 0
    let answered := fun (o : List W64) (f : W64) => if f = 0 then o else o ++ [f]
    let becomes := fun (i : Instr) (a : State) (y : WorldState) => ∃ u, exec i s = .next u ∧ u.worldAt asid world = y ∧
      (∀ k, k ≠ 256 * asid + world → Table.get WorldState.blank u.worlds k = Table.get WorldState.blank s.worlds k) ∧
      u = { a.forget (.office asid world) with worlds := u.worlds }
    (ready → w.owed = [] → w.requests = ref :: r → s.phaseBusy asid world = false → s.collectionOf asid world = .ok t n →
      becomes (.collection asid world) t { w with requests := r, posts := [], compact := List.range n, owed := answered [] ref, work := .idle }) ∧
    (ready → w.owed = ref :: r → s.arriveOnce (officeWho asid world 0) ref 0 = .ok t () →
      becomes (.collection asid world) t { w with owed := r, work := .idle } ∧
      becomes (.compactionMove asid world bundle) t { w with owed := r, work := .idle }) ∧
    (calm → w.moved ≠ 0 → s.compactEnd asid world = .ok t ref → ref ≠ 0 → t.countBytes (officeWho asid world 0) 0 ref w.moved = .ok v () →
      becomes (.collection asid world) v { w with moved := 0, work := .idle } ∧
      becomes (.compactionMove asid world bundle) v { w with moved := 0, work := .idle }) ∧
    (s.officeParked asid world = true ∨ (w.moved = 0 ∧ w.owed = [] ∧ (w.requests = [] ∨ s.phaseBusy asid world = true)) →
      exec (.collection asid world) s = .next s) ∧
    (s.slotAt who d k = .ok t e → let due := e.state = 2 ∧ (e.num + d.quar) % 2 ^ 32 = (d.coll + 1) % 2 ^ 32
      (∀ a b c, due → t.putSlot who d k { e with state := 0 } = .ok a () → a.writeVal who (d.free + 4 * (d.tail % d.cap)) 4 k = .ok b () →
        b.writeVal who (d.addr + 0x50) 8 (d.tail + 1) = .ok c () →
        s.releaseFrom who d (n + 1) k = c.releaseFrom who { d with tail := d.tail + 1 } n (k + 1)) ∧
      (¬ due → s.releaseFrom who d (n + 1) k = t.releaseFrom who d n (k + 1))) ∧
    ((sortPosts w.posts).Perm w.posts ∧ (sortPosts w.posts).Pairwise (fun f g => g.before f = false)) ∧
    (∀ reason, s.writeVal who (x.desc.log + 32 * (x.desc.written % x.desc.logCap)) 32 (logEntry (x.desc.coll + 1) p reason) = .ok t () →
      t.writeVal who (x.desc.addr + 0x78) 8 (x.desc.written + 1) = .ok v () →
      let out := Got.ok v { x with desc := { x.desc with written := x.desc.written + 1 } }
      (p.kind = .wnew → refWorld p.target ≠ x.desc.num → reason = 7 → s.applyPost who x p = out) ∧
      (p.kind = .wnew → refWorld p.target = x.desc.num → x.desc.nbundles ≤ refBundle p.target → reason = 4 → s.applyPost who x p = out) ∧
      (p.kind = .wnew → refWorld p.target = x.desc.num → refBundle p.target < x.desc.nbundles → x.desc.tail = x.desc.head → reason = 3 →
        s.applyPost who x p = out) ∧
      (p.kind ≠ .wnew → handleWorld p.target.toNat ≠ x.desc.num → reason = 7 → s.applyPost who x p = out) ∧
      (p.kind ≠ .wnew → handleWorld p.target.toNat = x.desc.num → p.target.toNat ∈ x.gone → reason = 2 → s.applyPost who x p = out) ∧
      (p.kind ≠ .wnew → handleWorld p.target.toNat = x.desc.num → p.target.toNat ∉ x.gone → x.desc.cap ≤ handleSlot p.target.toNat →
        reason = 1 → s.applyPost who x p = out)) ∧
    (∀ e bn s1 s2 s3 s4, p.kind ≠ .wnew → handleWorld p.target.toNat = x.desc.num → p.target.toNat ∉ x.gone →
      s.currentSlot who x.desc p.target.toNat = .ok t (some e) → t.bundleAt who x.desc e.bundle = .ok v bn →
      (p.kind = .wdel → v.writeVal who (bn.slotCol + 4 * e.row) 4 0xFFFFFFFF = .ok s1 () →
        s1.writeVal who (bn.addr + 24) 4 bn.count = .ok s2 () → s2.writeVal who (bn.addr + 32) 4 (bn.live - 1) = .ok s3 () →
        (e.mark = 0xFFFFFF → s3.putSlot who x.desc (handleSlot p.target.toNat) { e with state := 3 } = .ok s4 () →
          s.applyPost who x p = .ok s4 { x with gone := p.target.toNat :: x.gone }) ∧
        (e.mark ≠ 0xFFFFFF →
          s3.putSlot who x.desc (handleSlot p.target.toNat) { e with mark := e.mark + 1, state := 2, num := x.desc.coll + 1 } = .ok s4 () →
          s.applyPost who x p = .ok s4 { x with gone := p.target.toNat :: x.gone })) ∧
      (p.kind = .wadd → p.typ.toNat < x.desc.ntypes → bn.set.testBit p.typ.toNat = true →
        v.putValue who x.desc bn p.typ.toNat e.row p.addr.toNat = .ok s1 () → s.applyPost who x p = .ok s1 x) ∧
      (p.kind = .wrem → p.typ.toNat < x.desc.ntypes → bn.set.testBit p.typ.toNat = false → s.applyPost who x p = .ok v x)) ∧
    (ready → w.owed = [] → bundle ∈ w.compact → (∀ k ∈ w.compact, k < bundle → k % 4 ≠ bundle % 4) →
      s.compactPaused asid world bundle = false →
      (s.compactStep asid world bundle = .ok t (false, n) → becomes (.compactionMove asid world bundle) t { w with moved := n, work := .idle }) ∧
      (w.compact ≠ [bundle] → s.compactStep asid world bundle = .ok t (true, n) → becomes (.compactionMove asid world bundle) t
        { w with compact := w.compact.filter (fun k => k ≠ bundle), moved := n, work := .idle }) ∧
      (w.compact = [bundle] → s.compactStep asid world bundle = .ok t (true, n) → t.compactEnd asid world = .ok v ref →
        becomes (.compactionMove asid world bundle) v { w with compact := [], owed := answered [] ref, moved := n, work := .idle }))

/-- World instructions, collections and compaction: the two statements before this one. -/
def Obligations.WorldChanges : Prop :=
  Sys2Proof.Machine.WorldInstructions ∧ Sys2Proof.Machine.WorldEvents

/-- R277 to R283: RLAUNCH hands an aligned descriptor to the die's unfolding engine under the next sequence number of the context,
and issues again later while four objects are in hand there; in a routine it raises ILLEGAL_OP. RSPLIT appends one child a lane
from private scratch and writes its index, and traps by the first check that fails; RLEAF marks frames as leaves; RKIDS takes the
next result and sets its predicate where there was one; RPUT records a result; RINFO describes the frame. That RSPLIT makes each check for all
lanes before the next, and that a misaligned descriptor reports the lowest lane of ACT, are the model's choices (log entry 74). -/
def Sys2Proof.Machine.RecursionInstructions : Prop :=
  ∀ (s t : State) (c b a : BitVec 7) (p : BitVec 3) (ps : List (Nat × Segs)) (bytes : List (Nat × List Byte)),
    let ops := [sd .a a, ss .b b]
    let xops := [vd .a a 1, voff .b b]
    let trap := fun (t : Trap) (i : Nat) => Host.Outcome.next (φ := Fault) (ρ := Refusal) (s.takeTrap t i)
    let addr := s.valueAt intConsts ops .b 0
    let die := dieOf s.g.core
    (s.inRoutine = true → exec (.rlaunch b a) s = trap .illegalOp s.ir.toNat) ∧
    (s.Admits acceptNone ops → s.inRoutine = false →
      (addr.toNat % 256 ≠ 0 → exec (.rlaunch b a) s = trap .misalign (Lanes.lowest s.act)) ∧
      (addr.toNat % 256 = 0 → 4 ≤ s.objsOn die → exec (.rlaunch b a) s = .next s) ∧
      (addr.toNat % 256 = 0 → s.objsOn die < 4 → s.Completes (.rlaunch b a) (fun u =>
        (u.objAt s.nextId).die = die ∧ (u.objAt s.nextId).asid = s.g.asid ∧ (u.objAt s.nextId).seq = s.ctx.nextSeq ∧
        (u.objAt s.nextId).desc = addr ∧ (u.objAt s.nextId).phase = .start ∧ (∀ k, k ≠ s.nextId → u.objAt k = s.objAt k) ∧
        u.ctxAt s.g.asid = { s.ctx with nextSeq := s.ctx.nextSeq + 1 } ∧ (∀ k, k ≠ s.g.asid → u.ctxAt k = s.ctxAt k) ∧
        u.w = s.w.setSreg (s.regAt ops .a) (BitVec.ofNat 64 s.ctx.nextSeq) ∧ (∀ k, k ≠ s.cur → u.warpAt k = s.warpAt k) ∧
        u = { s with objs := u.objs, ctxs := u.ctxs, warps := u.warps, nextId := s.nextId + 1 }))) ∧
    (s.notRoutine [0] = true → exec (.rsplit c b a) s = trap .illegalOp s.ir.toNat) ∧
    (s.Admits acceptI xops → s.notRoutine [0] = false → (b.toNat < 112 ∨ b = 120) →
      let f0 := s.w.frameAt (Lanes.lowest s.act)
      let o := s.objAt f0.obj
      let off := fun L => (s.valueAt intConsts xops .b L).toNat % 2 ^ 32 + (s.imm32 c).toNat
      (∀ k i, s.splitTrap o off = some (k, i) → exec (.rsplit c b a) s = trap k i) ∧
      (s.splitTrap o off = none → ∀ L, L < 32 → s.act.getLsbD L = true → (s.w.frameAt L).leaf = false ∧ off L % 4 = 0 ∧
        off L + recF o.words ≤ recStack o.words ∧ (s.w.frameAt L).level + 1 ≠ recD o.words ∧
        (s.w.frameAt L).made.length < recFan o.words) ∧
      (s.splitTrap o off = none → s.reachLanes s.who accRead (s.scratchRuns off (recF o.words)) = .ok t ps → t.laneBytes ps = some bytes →
        s.Completes (.rsplit c b a) (fun u =>
          (∀ L, L < 32 → s.act.getLsbD L = true →
            u.w.vreg (s.regAt xops .a) L = BitVec.ofNat 32 (s.w.frameAt L).made.length ∧
            u.w.frameAt L = { s.w.frameAt L with made := (s.w.frameAt L).made ++ [laneEntry [] bytes L],
                                                 count := (s.w.frameAt L).count + (s.w.frameAt L).depth.toNat }) ∧
          (∀ x L, L < 32 → (s.act.getLsbD L = false ∨ x ≠ s.regAt xops .a) → u.w.vreg x L = s.w.vreg x L) ∧
          (∀ L, L < 32 → s.act.getLsbD L = false → u.w.frameAt L = s.w.frameAt L) ∧
          u.w = { s.w with vregs := u.w.vregs, frames := u.w.frames } ∧
          u.objAt f0.obj = { o with arena := o.arena + if f0.depth then 0 else Lanes.count s.act } ∧ u.mem = t.mem))) ∧
    (s.Admits acceptNone [] →
      let split := (Lanes.list s.act).any (fun L => !(s.w.frameAt L).made.isEmpty)
      (s.notRoutine [0] = true ∨ split = true → exec .rleaf s = trap .illegalOp s.ir.toNat) ∧
      (s.notRoutine [0] = false → split = false → s.Completes .rleaf (fun u =>
        (∀ L, L < 32 → u.w.frameAt L = if s.act.getLsbD L then { s.w.frameAt L with leaf := true } else s.w.frameAt L) ∧
        u.w = { s.w with frames := u.w.frames } ∧ s.OnlyWarp u 0))) ∧
    (s.Admits acceptNone [vd .a a 2] → s.notRoutine [2] = false → s.Completes (.rkids p a) (fun u =>
      let e := s.regAt [vd .a a 2] .a
      let more := fun L => decide ((s.w.frameAt L).pos < (s.w.frameAt L).results.length)
      (∀ L, L < 32 → s.act.getLsbD L = true → more L = true →
        u.w.pair e L = (s.w.frameAt L).results.getD (s.w.frameAt L).pos 0 ∧
        u.w.frameAt L = { s.w.frameAt L with pos := (s.w.frameAt L).pos + 1 }) ∧
      (∀ x L, L < 32 → (s.act.getLsbD L = false ∨ more L = false ∨ x < e ∨ e + 2 ≤ x) → u.w.vreg x L = s.w.vreg x L) ∧
      (∀ L, L < 32 → (s.act.getLsbD L = false ∨ more L = false) → u.w.frameAt L = s.w.frameAt L) ∧
      (∀ q L, L < 32 → (u.w.pred q).getLsbD L =
        if q = p.toNat ∧ p ≠ 0 ∧ s.act.getLsbD L = true then more L else (s.w.pred q).getLsbD L) ∧
      u.w = { s.w with vregs := u.w.vregs, preds := u.w.preds, frames := u.w.frames } ∧ s.OnlyWarp u 0)) ∧
    (s.Admits acceptNone [vdata .b b 2] → s.notRoutine [1, 2] = false → s.Completes (.rput b) (fun u =>
      (∀ L, L < 32 → u.w.frameAt L =
        if s.act.getLsbD L then { s.w.frameAt L with result := s.valueAt intConsts [vdata .b b 2] .b L } else s.w.frameAt L) ∧
      u.w = { s.w with frames := u.w.frames } ∧ s.OnlyWarp u 0)) ∧
    (s.Admits acceptNone [vd .a a 1] → s.notRoutine [0, 1, 2] = false → s.Completes (.rinfo a) (fun u =>
      s.VecResult u [vd .a a 1] 1 (s.regAt [vd .a a 1] .a) (fun L =>
        let f := s.w.frameAt L
        BitVec.ofNat 64 (f.level % 64 + 2 ^ 6 * f.routine + 2 ^ 8 * f.child + 2 ^ 12 * (if f.routine = 2 then f.results.length else 0) +
          2 ^ 16 * f.depth.toNat)) 0)) ∧
    (s.notRoutine [2] = true → exec (.rkids p a) s = trap .illegalOp s.ir.toNat) ∧
    (s.notRoutine [1, 2] = true → exec (.rput b) s = trap .illegalOp s.ir.toNat) ∧
    (s.notRoutine [0, 1, 2] = true → exec (.rinfo a) s = trap .illegalOp s.ir.toNat)

/-- R269, R272 to R275: the unfolding engine. A good descriptor starts its object with routine Divide on the root frame; a bad one ends it
with status 2. After a routine launch the object goes on to the next routine and its frames, and after the last combine its root
result is stored and it ends with status 1; an end stores the status and then arrives. After the base of a level it is combined where the next level is empty, is walked in
depth where that level has frames enough, and is divided again otherwise. A lane's walk goes to Base on a leaf frame, to Divide on the
first child and then on each next one, and to Combine after the last. An object whose fault domain has ended ends with status 3, whatever it was
about to store. That each routine launch reads the kernel descriptor and its RCB path again is the model's choice (log entry 70). -/
def Sys2Proof.Machine.RecursionEngine : Prop :=
  ∀ (s t t1 v x y : State) (k : Nat) (o1 : RecObj) (ws : List W64) (b b2 : Launch) (kb : Option Launch),
    let o := s.objAt k
    let who := recWho o k
    let ends := fun (i : Instr) (a : State) => let e := a.forget (.recursion k)
      ∀ (p q : State), (e.recFinal k).atomic e (.recursion k) = .ok p () → (p.recFinal k).atomic p (.recursion k) = .ok q () →
        exec i s = .next q ∧ (q.objAt k).phase = .ended
    (o.phase = .start → o.dead = false → o.ends = [] → s.recParked k = false → s.ctxRuns o.asid = true → s.unperformedBy (.recursion k) = false →
      (let o2 : RecObj := { o with words := ws, base := some b, arena := 1, levels := [0, 1] }
       s.recRead k o = .ok t (.ok ws) → t.recDomainBase who (ws.getD 3 0) = .ok t1 kb → t1.recBase who (ws.getD 3 0) = .ok v (.ok b) → v.recRoot k o2 = .ok x () →
        x.recBase who (ws.getD 3 0) = .ok y (.ok b2) →
        exec (.recursionStart k) s = .next (((y.setObj k { o2 with base := some b2 }).recLaunch k (.divide 0) [0]).forget (.recursion k))) ∧
      (s.recRead k o = .ok t (.error ws) → ends (.recursionStart k) ((t.setObj k { o with words := ws }).recStop k 2 0))) ∧
    (∀ l, (o.phase = .divide l ∨ o.phase = .base l ∨ o.phase = .depth l ∨ o.phase = .combine l) → ∀ id, o.launch = some id →
      (s.launchAt id).phase = .ended → (s.launchAt id).code = 0 → o.dead = false → s.recParked k = false →
      s.unperformedBy (.recursion k) = false →
      (∀ p fs, s.recNext k o (s.framesOf id o.frames) = .ok t (o1, .run p fs) → t.recBase (recWho o1 k) (o1.words.getD 3 0) = .ok v (.ok b) →
        exec (.recursionLaunchEnd k) s =
          .next (((v.setObj k { o1 with launch := none, base := some b }).recLaunch k p fs).forget (.recursion k))) ∧
      (s.recNext k o (s.framesOf id o.frames) = .ok t (o1, .finish) → t.rootResult k o1 = .ok v () →
        ends (.recursionLaunchEnd k) ((v.setObj k { o1 with launch := none }).recStop k 1 0))) ∧
    (let lost := (s.dropAccess (.recursion k)).recStop k 3 0
     (lost.objAt k).phase = .ending 3 0 ∧
     (o.dead = true → o.phase = .start → exec (.recursionStart k) s = .next (lost.recEnd k)) ∧
     (∀ c n, o.dead = true → o.phase = .ending c n ∨ o.phase = .arriving c n → c ≠ 3 → exec (.recursionLaunchEnd k) s = .next (lost.recEnd k)) ∧
     (∀ l, o.phase = .divide l ∨ o.phase = .base l ∨ o.phase = .depth l ∨ o.phase = .combine l → (s.launchAt (o.launch.getD 0)).phase = .ended →
       o.dead = true ∨ ((s.launchAt (o.launch.getD 0)).code = 7 ∧ s.recParked k = false) → exec (.recursionLaunchEnd k) s = .next (lost.recEnd k))) ∧
    (∀ l, o.phase = .combine l → s.putResults who o.words [] = .ok s () ∧
      (∀ fs, s.putResults who o.words fs = .ok t () →
        (l = 0 → s.recNext k o fs = .ok t (o, .finish)) ∧
        (∀ up, l ≠ 0 → t.framesWith who o.words true (o.level (l - 1)) = .ok v up → s.recNext k o fs = .ok v (o, .run (.combine (l - 1)) up)))) ∧
    (∀ l, let n := (o.level (l + 1)).length
      (n = 0 → l = 0 → s.afterBase who o l = .ok s .finish) ∧
      (∀ fs, n = 0 → l ≠ 0 → s.framesWith who o.words true (o.level (l - 1)) = .ok t fs → s.afterBase who o l = .ok t (.run (.combine (l - 1)) fs)) ∧
      (n ≠ 0 → l + 1 = 16 → s.afterBase who o l = .ok s (.run (.depth (l + 1)) (o.level (l + 1)))) ∧
      (n ≠ 0 → l + 1 ≠ 16 → recTarget o.words ≠ 0 → s.afterBase who o l =
        .ok s (.run (if recTarget o.words ≤ n then .depth (l + 1) else .divide (l + 1)) (o.level (l + 1))))) ∧
    (∀ (f : LaneFrame) (e : DepthEntry) (es : List DepthEntry),
      (f.routine = 0 → f.made = [] → ∃ g, f.walk = some g ∧ g.routine = 1 ∧ g.bytes = f.bytes ∧ g.level = f.level ∧ g.stack = f.stack) ∧
      (∀ kid r, f.routine = 0 → f.made = kid :: r → ∃ g, f.walk = some g ∧ g.routine = 0 ∧ g.bytes = kid ∧ g.level = f.level + 1 ∧ g.child = 0 ∧
        g.made = [] ∧ g.stack = { bytes := f.bytes, level := f.level, child := f.child, kids := f.made, results := [] } :: f.stack) ∧
      (f.routine ≠ 0 → f.stack = [] → f.walk = none) ∧
      (f.routine ≠ 0 → f.stack = e :: es → e.results.length + 1 < e.kids.length → ∃ g, f.walk = some g ∧ g.routine = 0 ∧
        g.bytes = e.kids.getD (e.results.length + 1) [] ∧ g.level = e.level + 1 ∧ g.child = e.results.length + 1 ∧
        g.stack = { e with results := e.results ++ [f.result] } :: es) ∧
      (f.routine ≠ 0 → f.stack = e :: es → e.kids.length ≤ e.results.length + 1 → ∃ g, f.walk = some g ∧ g.routine = 2 ∧
        g.bytes = e.bytes ∧ g.level = e.level ∧ g.child = e.child ∧ g.results = e.results ++ [f.result] ∧ g.stack = es))

/-- Recursion instructions and the unfolding engine: the two statements before this one. -/
def Obligations.RecursionObjects : Prop :=
  Sys2Proof.Machine.RecursionInstructions ∧ Sys2Proof.Machine.RecursionEngine

/-- R285, R291 to R294: BOXT, TRIT and TFILT. A lane whose address is not aligned raises MISALIGN. BOXT reads the 28 words of the node and
gives the hit children's distances and words in order of distance, filled up with infinities; TRIT takes the better of its
best hit and the record's triangle, and a lane without a better hit keeps its registers; TFILT filters the texture its descriptor
gives, and a descriptor of format 3 raises ILLEGAL_OP. That TFILT ignores the descriptor's reserved bits and an unaligned texture base is the
model's choice (log entry 39). -/
def Obligations.RayAndTextureInstructions : Prop :=
  ∀ (s : State) (l : BitVec 4) (c b a : BitVec 7),
    let bops := [vblock .a a 8 1, vblock .b b 8 1, vaddr c]
    let tops := [vblock .a a 5 1, vblock .b b 8 1, vaddr c]
    let fops := [vblock .a a 4 1, vblock .b b 3 1, vaddr c]
    s.RenderCase (.boxt l c b a) l c bops 128 8 (fun s L addr => (s.partBytes (s.renderWho 4) addr 128).bind (fun s bs =>
      .ok s (.val (some (boxResult (s.laneWords (s.regAt bops .b) 8 L) (words32N bs 28)))))) ∧
    s.RenderCase (.trit l c b a) l c tops 16 5 (fun s L addr => (s.partBytes (s.renderWho 4) addr 48).bind (fun s bs =>
      .ok s (.val (triTake (s.laneWords (s.regAt tops .b) 8 L) (s.laneWords (s.regAt tops .a) 5 L) (words32N bs 11))))) ∧
    s.RenderCase (.tfilt l c b a) l c fops 64 4 (fun s L addr => (s.partBytes (s.renderWho 3) addr 16).bind (fun s bs =>
      let t := textureOf (bytesVal (bs.take 8)) (bytesVal (bs.drop 8))
      let x := s.laneWords (s.regAt fops .b) 3 L
      if t.fmt = 3 then .ok s (.trap .illegalOp s.ir.toNat)
      else (s.filterLane t (x.getD 0 0) (x.getD 1 0) (x.getD 2 0)).bind (fun s r => .ok s (.val (some (r.map (BitVec.ofNat 32))))))) ∧
    (∀ ray node : List Nat, (boxResult ray node).length = 8 ∧
      ((∀ i < 4, boxHit ray ((node.drop (6 * i)).take 3) ((node.drop (6 * i + 3)).take 3) = none) →
        boxResult ray node = List.replicate 4 0x7F800000#32 ++ List.replicate 4 0xFFFFFFFF#32) ∧
      (∀ i < 3, spLt ((boxResult ray node).getD (i + 1) 0).toNat ((boxResult ray node).getD i 0).toNat = false) ∧
      (∀ i d, i < 4 → boxHit ray ((node.drop (6 * i)).take 3) ((node.drop (6 * i + 3)).take 3) = some d →
        ∃ j < 4, (boxResult ray node)[j]? = some (BitVec.ofNat 32 d) ∧ (boxResult ray node)[j + 4]? = some (BitVec.ofNat 32 (node.getD (24 + i) 0)))) ∧
    (∀ (ray best rec : List Nat) (t u v : Nat),
      (triHit ray (rec.take 9) = none → triTake ray best rec = none) ∧
      (triHit ray (rec.take 9) = some (t, u, v) →
        (spLt t (best.getD 0 0) = true → triTake ray best rec = some ([t, u, v, rec.getD 9 0, rec.getD 10 0].map (BitVec.ofNat 32))) ∧
        (spLt t (best.getD 0 0) = false → eqV (sp t) (sp (best.getD 0 0)) = false → triTake ray best rec = none) ∧
        (spLt t (best.getD 0 0) = false → best.getD 3 0 < rec.getD 9 0 → triTake ray best rec = none)))

/-- R285 to R288, R290: SMARCH starts a ray for every lane: a place in the sampling unit, one more ray in flight in the queue's
header, and a tag of the queue's SMARCH count and the lane; it waits at issue while the core has no room for its rays, and has issued and
is held while the header's line is absent.
SMNEXT frees the batch before it and takes the samples the queue holds, at most c of them; with none and rays in flight it waits. That a
sample queue outside the scratchpad raises MISALIGN is the model's choice (log entry 37), and so is the wait for an absent header line (log entry 38). -/
def Sys2Proof.Machine.MarchInstructions : Prop :=
  ∀ (s t : State) (l : BitVec 4) (c b a : BitVec 7) (vs : List (Nat × List W64)),
    let ops := [vd .a a 1, vblock .b b 8 1, vaddr c]
    let addr := s.renderAddr ops c
    let read := fun (s : State) (L : Nat) => (s.partBytes (s.renderWho 3) (addr L) 128).bind (fun s bs =>
      if marchBad (words64 16 bs) then .ok s (.trap .illegalOp s.ir.toNat)
      else if s.queueOut (marchQueue (words64 16 bs)) then .ok s (.trap .misalign L)
      else .ok s (Ans.val (words64 16 bs)))
    let seek := (s.eachLane read (Lanes.list s.act)).atomic s s.who.waiter
    let words := fun L => laneEntry [] vs L
    (s.Admits acceptAll ops → (∀ L, L < 32 → s.act.getLsbD L = true → addr L % 128 = 0) →
      (∀ k n, seek = .ok t (.trap k n) → exec (.smarch c b a) s = .next (s.takeTrap k n)) ∧
      (seek = .ok t (.val vs) →
        let room := s.core.rays.length + Lanes.count s.act ≤ 1024
        let here := ∀ L, L < 32 → s.act.getLsbD L = true → s.g.present (marchQueue (words L)) 128 = true
        (¬ room → exec (.smarch c b a) s = .next t) ∧
        (room → ¬ here → exec (.smarch c b a) s = .next (s.hold t)) ∧
        (room → here → s.Completes (.smarch c b a) (fun u =>
          (∀ L, L < 32 → s.act.getLsbD L = true →
            let tag := BitVec.ofNat 32 ((s.core.queueOf s.w.wg (marchQueue (words L))).seq % 2 ^ 27 * 32 + L)
            u.w.vreg (s.regAt ops .a) L = tag ∧ ∃ k, Table.find s.core.rays k = none ∧ Table.find (u.coreAt s.g.core).rays k = some
              { wg := s.w.wg, desc := BitVec.ofNat 64 (addr L), words := words L, vals := (s.laneWords (s.regAt ops .b) 8 L).map (BitVec.ofNat 32),
                t := s.w.vreg (s.regAt ops .b + 6) L, n := 0, tag := tag, held := none }) ∧
          (∀ e L, L < 32 → (s.act.getLsbD L = false ∨ e ≠ s.regAt ops .a) → u.w.vreg e L = s.w.vreg e L) ∧
          (∀ o, o % 128 = 0 → (u.wgAt s.w.wg).header o 3 =
            (s.g.header o 3 + ((Lanes.list s.act).filter (fun L => decide (marchQueue (words L) = o))).length) % 2 ^ 32) ∧
          u.mem = t.mem)))) ∧
    (let nops := [sblock .a a 3, ss .b b]
     let most := (s.imm32 c).toNat
     let sb := (s.valueAt intConsts nops .b 0).toNat
     let g := s.g
     let q := s.core.queueOf s.w.wg sb
     let head := (g.header sb 1 + q.batch) % 2 ^ 32
     let have_ := (g.header sb 2 + 2 ^ 32 - head) % 2 ^ 32
     let rays := g.header sb 3
     s.Admits acceptAll nops → most ≠ 0 → s.act ≠ 0 →
      (2 ^ 19 ≤ sb → exec (.smnext l c b a) s = .next (s.takeTrap .illegalOp s.ir.toNat)) ∧
      (sb < 2 ^ 19 → sb % 128 ≠ 0 ∨ s.spadSize g < sb + 128 →
        exec (.smnext l c b a) s = .next (s.takeTrap .misalign (Lanes.lowest s.act))) ∧
      (sb < 2 ^ 19 → sb % 128 = 0 → sb + 128 ≤ s.spadSize g → s.full = false → g.present sb 128 = true →
        (s.u.frame.imm.isSome = true → most ≤ g.header sb 0) →
        (have_ = 0 → rays ≠ 0 → ∃ u, exec (.smnext l c b a) s = .next (s.hold u) ∧ (u.wgAt s.w.wg).header sb 1 = head ∧
          (u.coreAt s.g.core).queueOf s.w.wg sb = { q with batch := 0 } ∧ u.warps = s.warps) ∧
        (have_ ≠ 0 ∨ rays = 0 → s.Completes (.smnext l c b a) (fun u =>
          (u.wgAt s.w.wg).header sb 1 = head ∧ (u.coreAt s.g.core).queueOf s.w.wg sb = { q with batch := min have_ most } ∧
          u.w = { s.w with pend := s.w.pend ++ [{ Pending.of s.act [] [] with
            unit := s.unit, left := l.toNat + 1, scl := [(s.regAt nops .a, BitVec.ofNat 64 head),
              (s.regAt nops .a + 1, BitVec.ofNat 64 (min have_ most)), (s.regAt nops .a + 2, BitVec.ofNat 64 rays)] }] } ∧
          u.mem = s.mem))))

/-- R287 to R289: a turn of a ray's loop. A ray that is past its end, has made its samples or has left the volume ends, and one ray
less is in flight; a ray in an empty cell goes to where it leaves the largest empty cell, or a smallest step on; otherwise it writes the
record of a sample at the queue's tail and goes a step on, and waits while the queue is full; a ray whose access faults is held at it. That one
event is one turn, of at most one sample, is the model's choice (log entry 38). -/
def Sys2Proof.Machine.RayMarchSamples : Prop :=
  ∀ (s t : State) (core k : Nat) (r r1 : Ray),
    let g := s.wgAt r.wg
    let turn := (s.marchTurn core k r).atomic s (.ray core k)
    let out := [0, 1, 2].any (fun j => let p := spFma r.t.toNat (r.vals.getD (3 + j) 0).toNat (r.vals.getD j 0).toNat
      (sp p).isNan || spLt p 0 || spLe spOne p)
    let done := spLt r.t.toNat (r.vals.getD 7 0).toNat = false ∨ marchMax r.words ≤ r.n ∨ out = true
    (Table.find (s.coreAt core).rays k = some r → g.phase = .resident → r.held = none →
      (done → s.unperformedBy (.ray core k) = false → ∃ u, exec (.rayMarchSample core k) s = .next u ∧ Table.find (u.coreAt core).rays k = none ∧
        (u.wgAt r.wg).header (marchQueue r.words) 3 = (g.header (marchQueue r.words) 3 + 2 ^ 32 - 1) % 2 ^ 32 ∧ u.mem = s.mem) ∧
      (turn = .ok t (some (some r1)) → ∃ u, exec (.rayMarchSample core k) s = .next u ∧ Table.find (u.coreAt core).rays k = some r1 ∧
        u = { t with cores := u.cores }) ∧
      (turn = .ok t none → exec (.rayMarchSample core k) s = .next t) ∧
      (∀ d n, turn = .fault t d n → ∃ u, exec (.rayMarchSample core k) s = .next u ∧
        Table.find (u.coreAt core).rays k = some { r with held := some (d, n) } ∧ u = { t with cores := u.cores })) ∧
    (let cell := fun j => (floorV (match sp (spFma r.t.toNat (r.vals.getD (3 + j) 0).toNat (r.vals.getD j 0).toNat) with
        | .num n m e => .num n m (e + marchG r.words)
        | x => x)).toNat
     ¬ done →
      (∀ m, s.skipLevel (s.rayWho core k r.wg) r.words cell = .ok t (some m) → s.marchTurn core k r =
        .ok t (some (some { r with t := BitVec.ofNat 32 (spMax (leaveAt r.words r cell m) (spAdd r.t.toNat (marchDtmin r.words))) }))) ∧
      (s.skipLevel (s.rayWho core k r.wg) r.words cell = .ok t none →
        let o := marchQueue r.words
        let h := t.wgAt r.wg
        ((h.header o 2 + 2 ^ 32 - h.header o 1) % 2 ^ 32 < h.header o 0 ∨ s.marchTurn core k r = .ok t none) ∧
        (∀ u r2, s.marchTurn core k r = .ok u (some (some r2)) →
          let at_ := o + 128 + 128 * (h.header o 2 % h.header o 0)
          let p := fun j => spFma r.t.toNat (r.vals.getD (3 + j) 0).toNat (r.vals.getD j 0).toNat
          let dt := marchStep r.words r.t.toNat
          r2 = { r with n := r.n + 1, t := BitVec.ofNat 32 (spAdd r.t.toNat dt) } ∧
          (u.wgAt r.wg).header o 2 = (h.header o 2 + 1) % 2 ^ 32 ∧
          (at_ + 128 ≤ s.spadSize h → ∃ fs, Memory.readBytes (u.wgAt r.wg).spad at_ 128 = recordBytes p r.t.toNat dt r.tag.toNat fs))))

/-- SMARCH, SMNEXT and a turn of a marching ray: the two statements before this one. -/
def Obligations.RayMarching : Prop :=
  Sys2Proof.Machine.MarchInstructions ∧ Sys2Proof.Machine.RayMarchSamples

/-- R295 to R297: RCQ and RCQT evaluate the network of a slot that is bound and owned by the context on the features of every lane; the
results and the version of the weights are pending. RCQT first posts one sample a lane. A slot that is not, or a constant with
[31:3] set, raises ILLEGAL_OP. RCVER writes the version that the lane's last committed query used. A lane's sample takes a place of the
ring and rises the lane's sequence number; without a place it is dropped and counted. The model's choices: the place of the ring that a sample
takes (log entry 40), and that a query reads the weights when it issues (log entry 43). -/
def Sys2Proof.Machine.RadianceQueries : Prop :=
  ∀ (s t : State) (l : BitVec 4) (k : BitVec 3) (b a : BitVec 7) (n : NetSlot),
    let slot := (s.slotNumber k).bind s.netOf
    let ni := netIn n.words
    let no := netOut n.words
    let ops := [vblock .a a no 1, vblock .b b ni 1]
    let tops := [vblock .a a no 1, vblock .b b (ni + no) 1]
    let result := fun (ops : List Opnd) => { Pending.of s.act ((List.range no).map (fun i => (s.regAt ops .a + i, allLanes (fun L =>
      BitVec.ofNat 32 ((netOutputs n.words n.live (s.laneWords (s.regAt ops .b) ni L)).getD i 0))))) [] with ver := some n.version }
    (slot = none → exec (.rcq l k b a) s = .next (s.takeTrap .illegalOp s.ir.toNat) ∧
      exec (.rcqt l k b a) s = .next (s.takeTrap .illegalOp s.ir.toNat)) ∧
    (slot = some n → s.Admits acceptAll ops → s.full = false → s.unperformedBy s.who.waiter = false → s.Completes (.rcq l k b a) (fun u =>
      (s.forget s.who.waiter).LateResult u ops l (result ops))) ∧
    (slot = some n → s.Admits acceptAll tops → s.full = false → s.unperformedBy s.who.waiter = false →
      s.postSamples k.toNat (s.laneWords (s.regAt tops .b) ni) (s.laneWords (s.regAt tops .b + ni) no) (Lanes.list s.act) = .ok t () →
      s.Completes (.rcqt l k b a) (fun u => (t.forget s.who.waiter).LateResult u tops l (result tops)) ∧
      (∀ L, Table.get 0 t.w.rcqtSeq L = Table.get 0 s.w.rcqtSeq L + if L < 32 ∧ s.act.getLsbD L = true then 1 else 0)) ∧
    (s.Admits acceptGX [vd .a a 1] → s.Completes (.rcver a) (fun u =>
      s.VecResult u [vd .a a 1] 1 (s.regAt [vd .a a 1] .a) (fun L => (Table.get 0xFFFFFFFF#32 s.w.rcver L).setWidth 64) 0)) ∧
    (∀ (slot : Nat) xs ts L p v, let m := s.netAt (dieOf s.g.core) slot
      let seq := Table.get 0 s.w.rcqtSeq L
      let s0 := s.setW { s.w with rcqtSeq := Table.set s.w.rcqtSeq L (seq + 1) }
      (m.place = none → s.postSamples slot xs ts [L] = .ok (s0.dropSample m) ()) ∧
      (m.place = some p → s0.put (s0.renderWho 5) (ringAt m.words p) (sampleBytes (xs L) (ts L) s.launch.seq (s.linear L) seq) = .ok v () →
        ∃ u, s.postSamples slot xs ts [L] = .ok u () ∧ u.netAt (dieOf s.g.core) slot = m.posted s.launch.seq (s.linear L) seq p ∧ u.mem = v.mem)) ∧
    (netOrdered n.words = false → n.tail - n.head < netCapacity n.words → n.place = some (n.tail % netCapacity n.words)) ∧
    (netOrdered n.words = false → netCapacity n.words ≤ n.tail - n.head → n.place = none)

/-- R295, R298 to R300, R310: a binding write of 0 unbinds a slot, of an aligned address with a legal descriptor binds it with its weights
rounded to BF16 once the trainer can read them, and of anything else changes nothing; a training step of a full batch, of the lowest
slot that has one, leaves the new weights in the idle half and adds
one to the steps; publishing exchanges the halves and numbers the version by the steps done. The model's choices: how a descriptor is read and
that a malformed bind leaves the slot as it is (log entry 41), the order of the training arithmetic (log entry 42), and that a bind waits while the
trainer is held and that the lowest slot is trained first (log entry 43). -/
def Sys2Proof.Machine.WeightsAndTraining : Prop :=
  ∀ (s t : State) (die slot : Nat) (v : W64) (n : NetSlot) (bs : List Byte) (places ws : List Nat),
    let key := 8 * die + slot
    let words := (List.range 16).map (fun i => s.phys64 (v.toNat + 8 * i))
    let free := State.dropAccess { s with nets := Table.erase s.nets key, binds := Table.erase s.binds key } (.trainer die slot)
    let bound := { free with binds := Table.set free.binds key v }
    let ready := s.settleNets.bindAll die
    (v.toNat % 128 ≠ 0 → exec (.netbindWrite die slot v) s = .next s) ∧
    (die < 4 → slot < 8 → exec (.netbindWrite die slot 0) s = .next free) ∧
    (die < 4 → slot < 8 → v ≠ 0 → v.toNat % 128 = 0 → v.toNat + 128 ≤ 2 ^ 40 →
      (netBad words = true → exec (.netbindWrite die slot v) s = .next s) ∧
      (netBad words = false → bound.trainerParked die = true → exec (.netbindWrite die slot v) s = .next bound) ∧
      (netBad words = false → bound.trainerParked die = false →
        (bound.partBytes (trainerWho (netOwner words) die slot) (words.getD 1 0).toNat (4 * netSize words)).atomic bound (.trainer die slot) = .ok t bs →
        ∃ u, exec (.netbindWrite die slot v) s = .next u ∧
          u.netAt die slot = { NetSlot.blank with desc := v, words := words, step := (words.getD 7 0).toNat,
                                                  half0 := (words32N bs (netSize words)).map (fun x => BitVec.ofNat 16 (toBf16 x)) } ∧
          Table.find u.binds key = none ∧ (∀ k, k ≠ key → Table.find u.nets k = Table.find s.nets k))) ∧
    (Table.find ready.nets key = some n → netTraining n.words = true → n.ready = false → ready.trainerParked die = false →
      n.batch = some places → (∀ k < slot, ready.batchOf die k = none) →
      (ready.trainSlot (trainerWho (netOwner n.words) die slot) n places).atomic ready (.trainer die slot) = .ok t ws →
      ∃ u, exec (.trainerStep die slot) s = .next u ∧
        u.netAt die slot = { n.taken.setIdle (ws.map toBf16) with ready := true, step := n.step + 1 }) ∧
    (Table.find ready.nets key = some n → (netTraining n.words = false ∨ n.ready = true ∨ n.batch = none) →
      exec (.trainerStep die slot) s = .next ready) ∧
    (Table.find s.nets key = some n → n.ready = true → s.trainerParked die = false → s.unperformedBy (.trainer die slot) = false →
      ∃ u, exec (.weightPublish die slot) s = .next u ∧
        u.netAt die slot = { n with active := !n.active, version := BitVec.ofNat 32 n.step, ready := false } ∧
        (∀ k, k ≠ key → Table.find u.nets k = Table.find s.nets k) ∧ u.warps = s.warps) ∧
    (∀ p, n.batch = some p → p.length = 1024 ∧
      (netOrdered n.words = false → n.taken = { n with head := n.head + 1024 } ∧ n.head + 1024 ≤ n.tail))

/-- Radiance queries, their samples, training and publishing: the two statements before this one. -/
def Obligations.RadianceCache : Prop :=
  Sys2Proof.Machine.RadianceQueries ∧ Sys2Proof.Machine.WeightsAndTraining

/-- R25, R170, R172, R314, R319, R320, R323, R325: a missed register line comes back from the warp's register area, and a line that the
cache must give up for it, or may where it is named, is written to its own; a page walk that finds a leaf which allows the access caches
its translation and changes nothing else but the A and D bits of that leaf. An access left to perform is sent after those of its agent
before it: to the host a write, a read or an atomic, to a device's port one flit of up to 64 bytes, over Ethernet an RDMA operation; one
with no way to go fails, and one that has been sent is not sent again. A write to a remote page of a checkpoint that is yet to be copied is held
(R330), and so is one to a barrier object whose update is under way (R149). The model's choices: that a page walk whose leaf does not allow the
access leaves the fault to the access (log entry 73), and which register line a full cache gives up (log entry 34). -/
def Obligations.AccessesLeftToPerform : Prop :=
  ∀ (s t v : State) (warp line asid va access die index a k x : Nat) (bs : List Byte) (e : W64) (l : Nat) (q : Access),
    let w := s.warpAt warp
    let g := s.wgAt w.wg
    let filled := fun (u : State) => (∀ L, L < 32 → (u.warpAt warp).vreg line L = (words32 32 bs).getD L 0) ∧
      (∀ x L, x ≠ line → (u.warpAt warp).vreg x L = w.vreg x L) ∧ (∀ j, j ≠ warp → (u.warpAt j).vregs = (s.warpAt j).vregs)
    (g.phase = .resident → line ∈ w.evicted → (s.partBytes (s.poolWho g) (s.lineAddr w line) 128).atomic s (.other g.asid) = .ok t bs →
      let full := decide (8192 ≤ t.cacheUse g.core)
      (∀ victim, full = false → (∀ y, victim = some y → t.evictable g.core false y = false) →
        ∃ u, exec (.registerLineFill warp line victim) s = .next u ∧ filled u ∧
          (∀ y, y ∈ (u.warpAt warp).evicted ↔ y ∈ w.evicted ∧ y ≠ line) ∧ (∀ j, j ≠ warp → u.warpAt j = s.warpAt j) ∧
          u = { t with warps := u.warps }) ∧
      (t.evictable g.core full (k, x) = true → t.putLines k [x] = .ok v () →
        ∃ u, exec (.registerLineFill warp line (some (k, x))) s = .next u ∧ filled u ∧ line ∉ (u.warpAt warp).evicted ∧
          x ∈ (u.warpAt k).evicted ∧ u = { v with warps := u.warps })) ∧
    (∀ victim, g.phase ≠ .resident ∨ line ∉ w.evicted → exec (.registerLineFill warp line victim) s = .next s) ∧
    (let kind := BitVec.ofNat 2 access
     (∀ cause level, s.walk asid va = .fault cause level → exec (.pageWalk asid va access die) s = .next s) ∧
     (s.walk asid va = .leaf a e l → (denies e kind).isSome = true → exec (.pageWalk asid va access die) s = .next s) ∧
     (s.walk asid va = .leaf a e l → denies e kind = none → ∃ u, exec (.pageWalk asid va access die) s = .next u ∧
       s.OnlyTranslated u ∧ (∀ b, Memory.read u.mem b = Memory.read s.mem b ||| if b = a then (usedBits kind).setWidth 8 else 0) ∧
       ∃ c ∈ u.tlb, c.asid = asid ∧ c.base ≤ va ∧ va < c.base + c.size ∧ c.at_ = a ∧ c.leaf = e ||| usedBits kind)) ∧
    (s.pending[index]? = some q → q.via.isSome = true ∨ s.sentBefore index q.owner = true ∨ s.heldByCut q = true ∨ s.heldByObject q = true →
      exec (.memoryAccessPerform index) s = .next s) ∧
    (∀ c y, s.ckpt = some c → c.failed = false → y ∈ c.pages → y.away = some (q.host, q.dev, q.addr / 4096) →
      (s.heldByCut q = true ↔ q.write.isSome = true ∨ q.atomic.isSome = true)) ∧
    (s.pending[index]? = some q → q.via = none → s.sentBefore index q.owner = false → s.heldByCut q = false → s.heldByObject q = false →
      let left := s.pending.eraseIdx index
      let sent := fun (r : Nat) => s.pending.modify index (fun y => { y with via := some r })
      let r := (s.routeOf q.dev).toNat
      let p := s.portAt r
      let o := (q.transfer s.devid).stamped p.sent
      (q.host = true → q.write = some bs → exec (.memoryAccessPerform index) s =
        .next { s with pending := left, hostOut := s.hostOut ++ [.write q.id q.addr bs] }) ∧
      (q.host = true → q.write = none → q.atomic = none → exec (.memoryAccessPerform index) s =
        .next { s with pending := sent 16, hostOut := s.hostOut ++ [.read q.id q.addr q.bytes] }) ∧
      (∀ op y z, q.host = true → q.write = none → q.atomic = some (op, y, z) → (op = 0 ∨ op = 8 ∨ op = 9) → (q.bytes = 4 ∨ q.bytes = 8) →
        exec (.memoryAccessPerform index) s =
          .next { s with pending := sent 16, hostOut := s.hostOut ++ [.atomic q.id q.addr op q.bytes y z] }) ∧
      (q.host = false → r < 12 → p.usable = true → p.queue = [] → p.credits ≠ 0 → (q.write.getD []).length ≤ 64 →
        exec (.memoryAccessPerform index) s = .next ({ s with pending := sent r }.setPort r
          { p with credits := p.credits - 1, sent := p.sent + 1, out := p.out ++ [o], flight := p.flight ++ [o] }) ∧
        o.head.dest = q.dev ∧ o.head.src = s.devid ∧ o.head.seq = p.sent ∧ o.addr = q.addr ∧ o.bytes = q.bytes ∧ o.req = q.id ∧
        o.atomic = q.atomic ∧ o.data = q.write.getD [] ∧
        o.head.kind = if q.atomic.isSome = true then 3 else if q.write.isSome = true then 2 else 1) ∧
      (∀ port qp, q.host = false → r = 12 → q.overEther = true → Table.find s.conns q.dev.toNat = some (port, qp) →
        exec (.memoryAccessPerform index) s =
          .next { s with pending := sent 12, etherOut := s.etherOut ++ [(port, qp, (q.transfer s.devid).wire)] }) ∧
      (q.host = false → (r < 12 ∧ p.usable = false) ∨ 12 < r → exec (.memoryAccessPerform index) s =
        .next ({ s with pending := left }.failAccess q)))

/-- R123, R229, R230, R303 to R305, R312 to R315: a workgroup chosen for pre-emption, or outranked by waiting work, stops issue at
instruction boundaries, and not inside a fused group; once its transfers and
stores are done its group image is written and it is switched out, its streams, rays and sample queues with it; it comes back on
a core that has room, with its image read and, where no unit waits in a WAIT, its registers as they were. The model's choices: that the registers
come back as they were saved, whatever has been written over the image (log entry 22), and that a workgroup asked to leave for a higher class does
so only where waiting work outranks it (log entry 45). -/
def Obligations.PreemptionAndResumption : Prop :=
  ∀ (s t : State) (wg core : Nat),
    let g := s.wgAt wg
    let live := g.warps.any (fun k => decide ((s.warpAt k).live ≠ 0))
    let stops := fun (u : State) => (u.wgAt wg).phase = .leaving ∧ (∀ k, k ∉ g.warps → u.warpAt k = s.warpAt k) ∧
      (∀ k ∈ g.warps, u.warpAt k = { s.warpAt k with units := (u.warpAt k).units } ∧
        ∀ n x, Table.find (s.warpAt k).units n = some x → Table.find (u.warpAt k).units n =
          some (if x.issued.isSome then x else { x with pc := x.origin, frame := Framing.blank })) ∧
      u = { s with wgs := u.wgs, warps := u.warps }
    (g.phase = .resident → live = true → s.midGroup g = false → g.preempt = true → ∃ u, exec (.workgroupLeave wg) s = .next u ∧
      stops u ∧ u.wgAt wg = { g with phase := .leaving } ∧ ∀ k, k ≠ wg → u.wgAt k = s.wgAt k) ∧
    (g.phase = .resident → live = true → s.midGroup g = false → g.preempt = false → s.outranked g = true → (s.launchAt g.launch).cohort = false →
      ∃ u, exec (.workgroupLeave wg) s = .next u ∧ stops u) ∧
    (g.phase = .resident → live = true → g.preempt = false → s.outranked g = false → exec (.workgroupLeave wg) s = .next s) ∧
    (g.phase ≠ .resident ∨ live = false ∨ s.midGroup g = true → exec (.workgroupLeave wg) s = .next s) ∧
    (g.phase = .leaving → s.drained wg = true → ∀ i, g.image = some i → (s.ctxAt g.asid).state ≠ .frozen →
      s.putAt (s.poolWho g) ((s.ctxAt g.asid).pool.toNat + 0x800000 * i) (s.imageRuns wg) = .ok t () →
      ∃ u, exec (.saveComplete wg) s = .next u ∧ u.mem = t.mem ∧
        u.wgAt wg = { g with phase := .switchedOut, preempt := false, due := false, since := s.tick,
                             spent := g.spent + g.nwarps * (s.tick - g.since),
                             streams := (s.coreAt g.core).streams.filter (fun x => decide (x.2.wg = wg) && decide (x.2.state ≠ .free)),
                             rays := ((s.coreAt g.core).rays.filter (fun x => x.2.wg = wg)).map (·.2),
                             queues := (s.coreAt g.core).queues.filter (fun q => q.wg = wg) } ∧
        (u.coreAt g.core).rays = (s.coreAt g.core).rays.filter (fun x => x.2.wg ≠ wg) ∧
        (∀ k, k ≠ wg → u.wgAt k = s.wgAt k) ∧ (∀ k ∈ g.warps, (u.warpAt k).vregs = (s.warpAt k).vregs)) ∧
    (g.phase ≠ .leaving ∨ s.drained wg = false → exec (.saveComplete wg) s = .next s) ∧
    (let r := s.lookBudgets (s.launchAt g.launch)
     let h := r.wgAt wg
     let m := r.launchAt h.launch
     (r.mayResume h = true → m.cohort = false → r.resumeCore h = none → exec (.workgroupResume wg) s = .next r) ∧
     (r.mayResume h = true → m.cohort = false → r.resumeCore h = some core → h.core = core →
      r.imageReads wg = .ok t () → (∀ k ∈ h.warps, ∀ x ∈ (r.warpAt k).units, ∀ y, x.2.park ≠ .wait y) →
      ∃ u, exec (.workgroupResume wg) s = .next u ∧ (u.wgAt wg).phase = .resident ∧ (u.wgAt wg).core = core ∧ (u.wgAt wg).spad = h.spad ∧
        (∀ k ∈ h.warps, (u.warpAt k).vregs = (r.warpAt k).vregs ∧ (u.warpAt k).sregs = (r.warpAt k).sregs ∧
          (u.warpAt k).live = (r.warpAt k).live)) ∧
     (r.mayResume h = false → exec (.workgroupResume wg) s = .next r)) ∧
    (∀ c, s.resumeCore g = some c → c / 48 = s.homeDie g ∧ s.roomOn c (s.launchAt g.launch) = true)

/-- R170, R176, R302, R303, R309, R314, R316, R335, R358: the commands of the control complex on contexts, fault buffers and device
registers. Each completes with its record and status 0, or with status 1 where it is refused, and waits for
one before it that is in hand: DEFINE reads the entry of a free context; FREEZE
asks its workgroups to leave and completes once none is on a core; THAW lets a frozen context run; TEARDOWN ends every launch with status 7
and frees the context; INVALIDATE drops the translations of a range; REPLAY lets what waits on an entry go on, CANCEL ends the fault domains of
the units that wait on it; PREEMPT asks for one workgroup; READ stores a device register and ATTEST a signed quote, and an operand of theirs
outside the map is refused. The model's choices: that a command in hand completes by its event again, and what waits for what (log entry 44), status 1
for commands that name nothing (log entry 45), and how READ numbers a register and its die (log entry 50). -/
def Obligations.ContextCommands : Prop :=
  ∀ (s : State) (asid va bytes die index slot reg dst nonce : Nat) (v : List W64) (e : FaultEntry) (x : W64),
    let c := s.ctxAt asid
    let one := fun (code : Nat) (ops : List Nat) (status : Nat) => s.completions ++ [recordOf code (ops.map (BitVec.ofNat 64)) status]
    let hand := fun (code : Nat) (ops : List Nat) => [(code, ops.map (BitVec.ofNat 64), (none : Option Nat))]
    let answers := fun (i : Instr) (code : Nat) (ops : List Nat) (status : Nat) => exec i s = .next { s with completions := one code ops status }
    (∀ code ops status, List.length ops ≤ 6 → (recordOf code ops status).length = 8 ∧ (recordOf code ops status).getD 0 0 = BitVec.ofNat 64 code ∧
      (recordOf code ops status).getD 7 0 = BitVec.ofNat 64 (1 + 2 ^ 8 * status)) ∧
    (∀ code ops r, s.commands = (code, ops, none) :: r → code ≠ 13 → code ≠ 14 →
      (∀ y ∈ [(Instr.define asid, 1, [asid]), (.freeze asid, 2, [asid]), (.thaw asid, 3, [asid]), (.teardown asid, 4, [asid]),
        (.invalidate asid va bytes, 5, [asid, va, bytes]), (.preempt asid slot, 8, [asid, slot])],
        (y.2.1, List.map (BitVec.ofNat 64) y.2.2, none) ∉ s.commands →
        exec y.1 s = .next { s with commands := s.commands ++ hand y.2.1 y.2.2 })) ∧
    (s.commands = [] →
    (asid < 4096 → c.state = .free → Table.find s.ctxTable asid = some v → (v.getD 0 0).toNat = asid + 2 ^ 16 →
      ∃ u, exec (.define asid) s = .next u ∧
        u.ctxAt asid = { Context.blank with state := .defined, root := v.getD 1 0, worlds := v.getD 2 0, pool := v.getD 3 0,
                                            slots := (v.getD 4 0).toNat % 2 ^ 16, rcb := v.getD 5 0, scratch := v.getD 6 0,
                                            perLane := (v.getD 7 0).setWidth 32 } ∧
        (∀ k, k ≠ asid → u.ctxAt k = s.ctxAt k) ∧ (∀ y, y ∈ u.tlb ↔ y ∈ s.tlb ∧ y.asid ≠ asid) ∧
        u = { s with ctxs := u.ctxs, tlb := u.tlb, completions := one 1 [asid] 0 }) ∧
    (4096 ≤ asid ∨ c.state ≠ .free → answers (.define asid) 1 [asid] 1) ∧
    (c.state = .free → answers (.freeze asid) 2 [asid] 1 ∧ answers (.teardown asid) 4 [asid] 1) ∧
    (c.state = .frozen → s.occupied asid = false → answers (.freeze asid) 2 [asid] 0) ∧
    (c.state = .frozen → s.occupied asid = true → exec (.freeze asid) s = .next { s with commands := hand 2 [asid] }) ∧
    (c.state = .running → (∀ y ∈ s.wgs, y.2.asid = asid → y.2.phase ≠ .resident ∧ y.2.phase ≠ .leaving ∧ y.2.phase ≠ .switchedOut) →
      ∃ u, exec (.freeze asid) s = .next u ∧ u.ctxAt asid = { c with state := .frozen } ∧
        u.completions = one 2 [asid] 0 ∧ u.mem = s.mem) ∧
    (c.state = .running → (∃ y ∈ s.wgs, y.2.asid = asid ∧ y.2.phase = .resident) → (∀ y ∈ s.wgs, y.2.asid = asid → y.2.phase ≠ .switchedOut) →
      ∃ u, exec (.freeze asid) s = .next u ∧ u.ctxAt asid = { c with state := .frozen } ∧ u.completions = s.completions ∧ u.commands = hand 2 [asid] ∧
        (∀ y ∈ u.wgs, y.2.asid = asid → y.2.phase = .resident → y.2.preempt = true)) ∧
    (c.state = .frozen → s.occupied asid = false → ∃ u, exec (.thaw asid) s = .next u ∧ u.ctxAt asid = { c with state := .running } ∧
      (∀ k, k ≠ asid → u.ctxAt k = s.ctxAt k) ∧ u = { s with ctxs := u.ctxs, completions := one 3 [asid] 0 }) ∧
    (c.state ≠ .frozen → answers (.thaw asid) 3 [asid] 1) ∧
    (c.state = .frozen → s.occupied asid = false → (∀ y ∈ s.launches, y.2.asid ≠ asid) →
      ∃ u, exec (.teardown asid) s = .next u ∧ u.ctxAt asid = Context.blank ∧ u.completions = one 4 [asid] 0 ∧
        (∀ y ∈ u.faults, y.2.asid.toNat ≠ asid) ∧ (∀ y ∈ u.objs, y.2.asid ≠ asid) ∧ u.mem = s.mem) ∧
    (s.unperformedOf asid = false → ∃ u, exec (.invalidate asid va bytes) s = .next u ∧
      (∀ y, y ∈ u.tlb ↔ y ∈ s.tlb ∧ ¬ (y.asid = asid ∧ (bytes = 0 ∨ (va < y.base + y.size ∧ y.base < va + bytes)))) ∧
      u = { s with tlb := u.tlb, completions := one 5 [asid, va, bytes] 0 }) ∧
    (Table.find s.faults (1024 * die + index) = none ∨ 1024 ≤ index → answers (.replay die index) 6 [die, index] 1 ∧
      answers (.cancel die index) 7 [die, index] 1) ∧
    (Table.find s.faults (1024 * die + index) = some e → index < 1024 → (∀ y ∈ e.waiters, ∀ q k, y ≠ .queue q ∧ y ≠ .trainer q k) →
      ∃ u, exec (.replay die index) s = .next u ∧ u.faults = Table.erase s.faults (1024 * die + index) ∧ u.mem = s.mem ∧
        u.completions = one 6 [die, index] 0 ∧
        (∀ k n, let park := (Table.get IUnit.blank (s.warpAt k).units n).park
          (Table.get IUnit.blank (u.warpAt k).units n).park = if park = .fault die index then .ready else park)) ∧
    (∀ w n, Table.find s.faults (1024 * die + index) = some e → index < 1024 → e.waiters = [.unit w n] →
      (∀ y ∈ s.cores, (∀ z ∈ y.2.streams, z.2.state ≠ .parked die index) ∧ ∀ z ∈ y.2.rays, z.2.held ≠ some (die, index)) →
      (∀ y ∈ s.wgs, (∀ z ∈ y.2.streams, z.2.state ≠ .parked die index) ∧ ∀ z ∈ y.2.rays, z.held ≠ some (die, index)) →
      let g := s.wgAt (s.warpAt w).wg
      let z := State.endDomain { s with faults := Table.erase s.faults (1024 * die + index) } g.asid (s.launchAt g.launch).domain
      exec (.cancel die index) s = .next { z with completions := one 7 [die, index] 0 }) ∧
    (∀ k g, s.wgs.find? (fun y => decide (y.2.asid = asid) && decide (y.2.image = some slot) && decide (y.2.phase ≠ .done)) = some (k, g) →
      (g.phase = .switchedOut → answers (.preempt asid slot) 8 [asid, slot] 0) ∧
      (g.phase ≠ .switchedOut → ∃ u, exec (.preempt asid slot) s = .next u ∧ u = { s with wgs := u.wgs, commands := hand 8 [asid, slot] } ∧
        ∀ y ∈ u.wgs, y.2.phase = .resident → y.2.asid = asid → y.2.image = some slot → y.2.preempt = true)) ∧
    (s.wgs.find? (fun y => decide (y.2.asid = asid) && decide (y.2.image = some slot) && decide (y.2.phase ≠ .done)) = none →
      answers (.preempt asid slot) 8 [asid, slot] 1) ∧
    (dst + 8 ≤ 2 ^ 40 → reg < 0x10000800000 → s.deviceReg (reg / 0x1000) (reg % 0x1000) = some x → s.hbmDenied mapMaster accWrite dst 8 = false →
      exec (.read reg dst) s = .next { s.physStore dst (valBytes 8 x.toNat) with completions := one 9 [reg, dst] 0 }) ∧
    (dst + 8 ≤ 2 ^ 40 → reg < 0x10000800000 → s.deviceReg (reg / 0x1000) (reg % 0x1000) = none → answers (.read reg dst) 9 [reg, dst] 1) ∧
    (2 ^ 40 < dst + 8 → inMap dst 8 = false → answers (.read reg dst) 9 [reg, dst] 1) ∧
    (s.deviceReg die 0xC10 = some (s.devid.setWidth 64) ∧ s.deviceReg die 0xC18 = some s.eccfix ∧ s.deviceReg die 0xC19 = some s.eccbad ∧
      s.deviceReg die 0xC1E = some (s.temp.setWidth 64)) ∧
    (nonce + 48 ≤ 2 ^ 40 → dst + 340 ≤ 2 ^ 40 → s.hbmDenied mapMaster accRead nonce 48 = false →
      let q := (List.range 4).flatMap (fun i => digestBytes (Table.get 0#384 s.meas i)) ++ Memory.readBytes s.mem nonce 48 ++ valBytes 4 s.devid.toNat
      let bs := q ++ quoteSignature q
      s.hbmDenied mapMaster accWrite dst bs.length = false →
      (quoteSignature q).length = 96 ∧ exec (.attest nonce dst) s = .next { s.physStore dst bs with completions := one 17 [nonce, dst] 0 }) ∧
    (2 ^ 40 < nonce + 48 → inMap nonce 48 = false → answers (.attest nonce dst) 17 [nonce, dst] 1))

/-- R319 to R322, R324, R325: the peer link ports. A port goes from Down through Training to Up or Degraded, and back to Down when its replays
are exhausted; FENCE and UNFENCE complete with status 0. Flits go out in order, one credit each, 64 bytes of data in one. A flit in sequence at
a usable port takes its sequence numbers and returns credits: a read request is answered with the bytes, a write is performed, an atomic performs
its operation and answers with the old value, an answer goes to the request it names; one that is denied is refused, one for another device is
passed over, one whose CRC fails or that is out of sequence is discarded and asks for a replay, and one at a port that carries no traffic is discarded.
A write to a context that is moving goes on to its destination, or is refused where its route does not carry it (R328); a refusal ends the access it
names, and a port that stops tells the senders of what it was forwarding. The model's choices: the idle flit that gives credits back, that flits for
another device are passed over, and what a refusal sends (log entry 53). -/
def Obligations.PortsAndFlits : Prop :=
  ∀ (s : State) (port addr n lanes given : Nat) (seq credits : Byte) (f : Flit) (data : List Byte) (op : BitVec 4) (operand swap : W64)
    (o : Outgoing) (a : Access),
    let p := s.portAt port
    let m := peerMaster f.src
    let target := portTarget port
    let key := s.portKey target m
    let who : Sender := .peer port f.src f.seq
    let sound := fun (data : List Byte) => f.crc = crcOf f (data.take 64)
    let inSeq := fun (kind : BitVec 4) (data : List Byte) => port < 12 ∧ p.usable = true ∧ f.kind = kind ∧ sound data ∧ f.seq = p.expect ∧ p.queue = []
    let took := fun (len : Nat) => s.tookFlit port f (flitsFor len)
    let answered := fun (t : State) => { t with pending := if a.posted then [] else [{ a with answer := some data }] }
    let asked := s.pending = [a] ∧ a.id = n ∧ a.owner ≠ .host ∧ (∀ x y, a.owner ≠ .ether x y) ∧ ∀ x y z, a.owner ≠ .peer x y z
    let answers := fun (i : Instr) (t : State) (code status : Nat) =>
      exec i s = .next { t with completions := s.completions ++ [recordOf code [BitVec.ofNat 64 port] status] }
    let begun := { p with credits := given, expect := 0, sent := 0, replay := none, flight := [] }
    (p.usable = true → p.queue = [] → (0 < p.credits → p.push [o] =
        { p with credits := p.credits - 1, sent := p.sent + 1, out := p.out ++ [o.stamped p.sent], flight := p.flight ++ [o.stamped p.sent] }) ∧
      (p.credits = 0 → p.push [o] = { p with queue := [o] })) ∧
    ((flitsOf o).length = flitsFor o.data.length ∧ (flitsOf o).flatMap (fun x => x.data) = o.data) ∧
    (p.queue = [] → (port < 12 → p.state = .down → exec (.portPartnerDetect port) s = .next (s.setPort port { p with state := .training })) ∧
      (p.state ≠ .down → exec (.portPartnerDetect port) s = .next s) ∧
      (port < 12 → p.state = .training →
        (Config.portLanes ≤ lanes → exec (.portTrainingDone port ⟨lanes, given⟩) s = .next (s.setPort port { begun with state := .up })) ∧
        (lanes < Config.portLanes → Config.portLanes ≤ 2 * lanes →
          exec (.portTrainingDone port ⟨lanes, given⟩) s = .next (s.setPort port { begun with state := .degraded }))) ∧
      (port < 12 → p.state = .up → Config.portLanes ≤ 2 * lanes →
        exec (.portLanesLost port lanes) s = .next (s.setPort port { p with state := .degraded, out := p.out ++ p.flight })) ∧
      (∀ x, port < 12 → p.usable = true → (∀ y ∈ s.pending, y.inFlight port = false) → p.flight = [x] → x.head.kind = 6 → x.head.src ≠ s.devid →
        exec (.portReplayExhausted port) s =
          .next ((s.setPort port { p with state := .down, flight := [] }).emit (flitTo x.head.src s.devid 7 0 0 x.req none []))) ∧
      (port < 12 → (∀ x ∈ s.pending, x.inFlight port = false) → (∀ x ∈ p.flight, x.head.kind = 6 → x.head.src = s.devid) →
        (p.usable = true → exec (.portReplayExhausted port) s = .next (s.setPort port { p with state := .down, flight := [] })) ∧
        (s.commands = [] → answers (.fencePort port) (s.setPort port { p with state := .fenced, flight := [] }) 15 0)) ∧
      (port < 12 → p.usable = true → exec (.flitBad port seq) s = .next (s.setPort port { p with replay := some seq }) ∧
        exec (.idleFlit port credits) s =
          .next ((s.setPort port { p with credits := p.credits + credits.toNat, flight := p.flight.drop credits.toNat }).credited port
            (p.flight.take credits.toNat)))) ∧
    (s.commands = [] → (port < 12 → p.state = .fenced → answers (.unfencePort port) (s.setPort port { p with state := .down }) 16 0) ∧
      (12 ≤ port → answers (.fencePort port) s 15 1) ∧ (12 ≤ port ∨ p.state ≠ .fenced → answers (.unfencePort port) s 16 1)) ∧
    (∀ y ∈ [(Instr.readRequestFlit port f addr n, [1#4], []), (.writeFlit port f addr data, [2], data), (.atomicFlit port f addr op true operand swap, [3, 6], []),
        (.responseFlit port f n data, [4], data), (.forwardedWriteFlit port f addr data, [6], data), (.controlFlit port f, [7], [])],
      (12 ≤ port ∨ p.usable = false ∨ f.kind ∉ y.2.1 → exec y.1 s = .next s) ∧
      (port < 12 → p.usable = true → f.kind ∈ y.2.1 → ¬ sound y.2.2 → exec y.1 s = .next (s.setPort port { p with replay := some f.seq })) ∧
      (port < 12 → p.usable = true → f.kind ∈ y.2.1 → sound y.2.2 → f.seq ≠ p.expect →
        exec y.1 s = .next (s.setPort port { p with replay := some p.expect }))) ∧
    (inSeq 1 [] → (f.dest ≠ s.devid → exec (.readRequestFlit port f addr n) s = .next (took 0)) ∧
      (f.dest = s.devid → s.outsideDenied target m accRead addr n = true → exec (.readRequestFlit port f addr n) s = .next ((took 0).refuse who n)) ∧
      (f.dest = s.devid → s.outsideDenied target m accRead addr n = false →
        exec (.readRequestFlit port f addr n) s = .next ((took 0).reply who (s.loadBytes addr key n)))) ∧
    (∀ i, (inSeq 2 data ∧ i = .writeFlit port f addr data) ∨ (inSeq 6 data ∧ i = .forwardedWriteFlit port f addr data) →
      let t := took data.length
      (f.dest ≠ s.devid → exec i s = .next t) ∧
      (f.dest = s.devid → s.outsideDenied target m accWrite addr data.length = true → exec i s = .next (t.refuse who 0)) ∧
      (f.dest = s.devid → s.outsideDenied target m accWrite addr data.length = false →
        (s.movedFrame addr = none → exec i s = .next ((t.storeBytes addr key data).recopy addr data.length)) ∧
        (∀ g, s.movedFrame addr = some g →
          (g.phase = .done ∨ t.carries g.dev none data.length = false → exec i s = .next (t.refuse who 0)) ∧
          (g.phase ≠ .done → t.carries g.dev none data.length = true → s.routeOf g.dev ≠ 12 →
            exec i s = .next (t.emit (flitTo g.dev f.src 6 addr data.length f.seq.toNat none data)))))) ∧
    (∀ wide, let k := if wide then 8 else 4
      inSeq 3 [] ∨ inSeq 6 [] → f.dest = s.devid → s.outsideDenied target m accAtomic addr k = false → atomicKnown op wide = true → addr % k = 0 →
      s.movedFrame addr = none →
      let old := s.loadBytes addr key k
      let new := atomNew64 wide op.toNat (bytes64 old) operand swap
      exec (.atomicFlit port f addr op wide operand swap) s = .next ((((took 0).storeBytes addr key (valBytes k new.toNat)).recopy addr k).reply who old)) ∧
    (inSeq 4 data → f.dest = s.devid → f.credits = 0 → asked → (∃ r, a.via = some r ∧ r < 12) →
      exec (.responseFlit port f n data) s = .next (answered (took data.length))) ∧
    (asked → a.via = some 16 → exec (.pcieCompletion n data) s = .next (answered s)) ∧
    (asked → a.via = some 12 → s.ckpt = none → exec (.roceResponse port n data) s = .next (answered s)) ∧
    (inSeq 7 [] → f.dest = s.devid → f.credits = 0 → s.pending = [a] → a.id = n → a.via.isSome = true →
      s.refusedFlit port f n = State.failAccess { took 0 with pending := [] } a) ∧
    (inSeq 7 [] → (∀ x ∈ s.migrations, x.2.phase ≠ .cutover) → exec (.controlFlit port f) s = .next (took 0)) ∧
    (∀ asid g, let ops := [BitVec.ofNat 64 asid, BitVec.ofNat 64 g.dev.toNat]
      inSeq 7 [] → f.dest = s.devid → g.phase = .cutover → g.dev = f.src → s.migrations = [(asid, g)] → s.commands = [(13, ops, none)] →
      exec (.controlFlit port f) s = .next { took 0 with
        migrations := [(asid, { g with phase := .forwarding })], commands := [], completions := s.completions ++ [recordOf 13 ops 0] })

/-- R319, R325, R327: the host and Ethernet. A read through the aperture of what is not mapped answers all ones and a write there is
discarded; a mapped read answers the bytes and a mapped write is performed; an AtomicOp through the aperture performs its operation and answers the
old value; the device registers discard the host's writes; assigning the aperture names its context and base. An RDMA write, read, fetch-and-add
and compare-and-swap at a port are performed and answered where they are allowed, and change nothing where they are not; a SEND of a gang
token is taken as one, and another changes nothing. An access of the host waits while an earlier write of the host to a remote page is not performed
(R215). How aperture accesses and AtomicOps answer, and that every later access waits, are the model's choices (log entry 51), and so are a denied RDMA
request that answers nothing and a SEND of anything else that changes nothing (log entry 54). -/
def Obligations.HostAndEthernet : Prop :=
  ∀ (s t : State) (offset n port qp addr : Nat) (data : List Byte) (v cmp : W64) (asid : Option Nat) (op : BitVec 4) (wide : Bool) (pa k : Nat),
    let m := etherMaster port
    let e := etherTarget port
    let key := s.portKey e m
    let told := fun (u : State) (bs : List Byte) => { u with hostOut := u.hostOut ++ [Wire.reply bs] }
    let sent := fun (u : State) (bs : List Byte) => { u with etherOut := u.etherOut ++ [(port, qp, Wire.reply bs)] }
    let put := fun (u : State) (bs : List Byte) => (u.storeBytes addr key bs).recopy addr bs.length
    let old := s.loadBytes addr key 8
    (s.hostWaits = true → (∀ d, exec (.hostApertureAccess offset n d) s = .next s) ∧ s.hostAtomic offset op wide v cmp = s) ∧
    (s.hostWaits = true ↔ ∃ x ∈ s.pending, x.owner = .host ∧ x.posted = true ∧ x.answer = none) ∧
    (s.hostWaits = false → s.aperturePlaces accRead offset n = none → n ≠ 0 →
      exec (.hostApertureAccess offset n none) s = .next (told s (List.replicate n 0xFF#8))) ∧
    (s.hostWaits = false → s.aperturePlaces accRead offset n = some (t, [(.here pa k, n)]) →
      exec (.hostApertureAccess offset n none) s = .next (told t (t.loadBytes pa k n))) ∧
    (s.hostWaits = false → s.aperturePlaces accWrite offset data.length = none → exec (.hostApertureAccess offset n (some data)) s = .next s) ∧
    (s.hostWaits = false → s.aperturePlaces accWrite offset data.length = some (t, [(.here pa k, data.length)]) → t.movedFrame pa = none →
      exec (.hostApertureAccess offset n (some data)) s = .next ((t.storeBytes pa k data).recopy pa data.length)) ∧
    (∀ kind, s.aperture = none ∨ 2 ^ 36 < offset + n → s.aperturePlaces kind offset n = none) ∧
    (
      let w := if wide then 8 else 4
      s.hostWaits = false → (op = 0 ∨ op = 8 ∨ op = 9 → offset % w = 0 → s.aperturePlaces accAtomic offset w = some (t, [(.here pa k, w)]) → t.movedFrame pa = none →
        let was := t.loadBytes pa k w
        s.hostAtomic offset op wide v cmp = told ((t.storeBytes pa k (valBytes w (atomNew64 wide op.toNat (bytes64 was) v cmp).toNat)).recopy pa w) was) ∧
      ((op ≠ 0 ∧ op ≠ 8 ∧ op ≠ 9) ∨ offset % w ≠ 0 → s.hostAtomic offset op wide v cmp = told s (List.replicate w 0xFF#8))) ∧
    exec (.hostRegisterWrite offset v) s = .next s ∧
    exec (.hostApertureAssign asid v) s = .next { s with aperture := asid.map (fun a => (a, v)) } ∧
    (4 ≤ port → ∀ verb, exec (.roceRequest ⟨port, qp⟩ verb) s = .next s) ∧
    (port < 4 → (tokenOf data = none → exec (.roceRequest ⟨port, qp⟩ (.send data)) s = .next s) ∧
      (∀ slice token, slice < 2 ^ 64 → (∀ i, token = .ready i ∨ token = .forfeit i → i < 2 ^ 32) →
        exec (.roceRequest ⟨port, qp⟩ (.send (tokenBytes slice token))) s = .next (s.gotToken slice token))) ∧
    (port < 4 → s.outsideDenied e m accWrite addr data.length = false → s.movedFrame addr = none →
      exec (.roceRequest ⟨port, qp⟩ (.rdmaWrite addr data)) s = .next (sent (put s data) [])) ∧
    (port < 4 → s.outsideDenied e m accRead addr n = false →
      exec (.roceRequest ⟨port, qp⟩ (.rdmaRead addr n)) s = .next (sent s (s.loadBytes addr key n))) ∧
    (port < 4 → s.outsideDenied e m accAtomic addr 8 = false → addr % 8 = 0 → s.movedFrame addr = none →
      exec (.roceRequest ⟨port, qp⟩ (.fetchAdd addr v)) s = .next (sent (put s (valBytes 8 (bytes64 old + v).toNat)) old) ∧
      exec (.roceRequest ⟨port, qp⟩ (.compareSwap addr cmp v)) s =
        .next (sent (put s (valBytes 8 (if bytes64 old = cmp then v else bytes64 old).toNat)) old)) ∧
    (port < 4 → (s.outsideDenied e m accWrite addr data.length = true → exec (.roceRequest ⟨port, qp⟩ (.rdmaWrite addr data)) s = .next s) ∧
      (s.outsideDenied e m accRead addr n = true → exec (.roceRequest ⟨port, qp⟩ (.rdmaRead addr n)) s = .next s) ∧
      (s.outsideDenied e m accAtomic addr 8 = true → exec (.roceRequest ⟨port, qp⟩ (.fetchAdd addr v)) s = .next s ∧
        exec (.roceRequest ⟨port, qp⟩ (.compareSwap addr cmp v)) s = .next s))

/-- R326, R327: gang slices. GANGSLICE of a good record makes the outcome pending, lets a frozen context run, and sends a ready token to the
collector, and is refused for a bad one. The collector decides go when it has every member's token in time, and forfeits at its deadline naming the
lowest member that is not ready; a member takes the first decision it gets in time. A slice that has go starts at its tick, runs its quantum and
records outcome 1; one whose collector is lost records outcome 3; a forfeit records outcome 2 with the member's index. A decision that comes before
the member's own GANGSLICE is kept for it. A context issues only while a slice of it runs. That a bad record is refused, that issue is held for as
long as any slice names the context, that a Frozen context is allowed to run, and the outcome at the quantum's end are the model's choices (log entry 55). -/
def Obligations.GangSlices : Prop :=
  ∀ (s : State) (record port k i : Nat) (f : Flit) (x : Slice) (t : GangToken),
    let word := fun j => Memory.readN s.ctlMem (record + 8 * j) 8
    let member := fun j => BitVec.ofNat 18 (Memory.readN s.ctlMem (word 3 + 4 * j) 4)
    let p := s.portAt port
    let arrives := fun (t : GangToken) => port < 12 ∧ p.usable = true ∧ f.kind = 5 ∧ f.crc = crcOf f ((tokenBytes k t).take 64) ∧
      f.seq = p.expect ∧ p.queue = [] ∧ f.dest = s.devid
    let took := s.tookFlit port f 1
    let put := fun (u : State) (y : Slice) => { u with slices := Table.set s.slices k y }
    let ended := fun (u : State) (y : Slice) (v : Nat) =>
      { put u { y with outcome := BitVec.ofNat 64 v, running := none } with ctlMem := Memory.writeN s.ctlMem (x.record + 48) 8 v }
    let done := fun (status : Nat) => s.completions ++ [recordOf 12 [BitVec.ofNat 64 record] status]
    (s.commands = [] → word 4 < 2 ∨ 262144 < word 4 ∨ 4096 ≤ word 5 ∨ word 7 ≠ 0 ∨ (∀ j < word 4, member j ≠ s.devid) ∨
        (s.ctxAt (word 5)).state = .free →
      exec (.gangslice record) s = .next { s with completions := done 1 }) ∧
    (s.commands = [] → word 4 = 2 → word 5 < 4096 → word 7 = 0 → (s.ctxAt (word 5)).state = .running ∨ (s.ctxAt (word 5)).state = .frozen →
      member 0 ≠ s.devid → member 1 = s.devid → Table.find s.told (word 0) = none → ∃ u, exec (.gangslice record) s = .next u ∧ u.completions = done 0 ∧
        (u.ctxAt (word 5)).state = .running ∧ u.ctlMem = Memory.writeN s.ctlMem (record + 48) 8 0 ∧
        Table.find u.slices (word 0) = some { asid := word 5, start := word 1, quantum := word 2, members := [member 0, member 1], me := 1,
                                              tokens := [], decision := none, running := none, outcome := 0, record := record } ∧
        (
          let r := (s.routeOf (member 0)).toNat
          let o := flitTo (member 0) s.devid 5 0 16 0 none (tokenBytes (word 0) (.ready 1))
          r < 12 → u.portAt r = (s.portAt r).push [o])) ∧
    (s.commands = [] → word 4 = 2 → word 5 < 4096 → word 7 = 0 → (s.ctxAt (word 5)).state = .running → member 0 ≠ s.devid → member 1 = s.devid →
      ∀ n, Table.find s.told (word 0) = some (.forfeit i, n) → n ≤ word 1 + 250000 →
        ∃ u, exec (.gangslice record) s = .next u ∧ Table.find u.told (word 0) = none ∧
          u.ctlMem = Memory.writeN (Memory.writeN s.ctlMem (record + 48) 8 0) (record + 48) 8 (2 + 2 ^ 32 * i) ∧
          ∃ y, Table.find u.slices (word 0) = some y ∧ y.decision = some (.forfeit i) ∧ y.outcome = BitVec.ofNat 64 (2 + 2 ^ 32 * i)) ∧
    (arrives t → Table.find s.slices k = none → (∀ j, t ≠ .ready j) → Table.find s.told k = none →
      exec (.gangTokenFlit port f k t) s = .next { took with told := Table.set took.told k (t, s.tick) }) ∧
    (Table.find s.slices k = some x → x.decision = none → x.outcome = 0 →
      (x.me ≠ 0 → s.tick ≤ x.start + 250000 →
        (arrives .go → exec (.gangTokenFlit port f k .go) s = .next (put took { x with decision := some .go })) ∧
        (arrives (.forfeit i) →
          exec (.gangTokenFlit port f k (.forfeit i)) s = .next (ended took { x with decision := some (.forfeit i) } (2 + 2 ^ 32 * i)))) ∧
      (arrives (.ready i) → x.me = 0 → s.tick ≤ x.start + 125000 → i < x.members.length → i ∉ x.tokens →
        ((∃ j < x.members.length, j ≠ i ∧ j ∉ x.tokens) →
          exec (.gangTokenFlit port f k (.ready i)) s = .next (put took { x with tokens := x.tokens ++ [i] })) ∧
        ((∀ j < x.members.length, j ≠ i → j ∈ x.tokens) → ∃ u, exec (.gangTokenFlit port f k (.ready i)) s = .next u ∧
          Table.find u.slices k = some { x with tokens := x.tokens ++ [i], decision := some .go } ∧
          (∀ d, x.members = [s.devid, d] → u = put (took.emit (flitTo d s.devid 5 0 16 0 none (tokenBytes k .go)))
            { x with tokens := x.tokens ++ [i], decision := some .go })))) ∧
    (arrives t → Table.find s.slices k = some x → (x.decision.isSome = true ∨ x.outcome ≠ 0 ∨ x.start + 250000 < s.tick) →
      exec (.gangTokenFlit port f k t) s = .next took) ∧
    (Table.find s.slices k = some x → x.me = 0 → x.decision = none → x.outcome = 0 → x.start + 125000 ≤ s.tick →
      i < x.members.length → i ∉ x.tokens → (∀ j < i, j ∈ x.tokens) → ∃ u, exec (.gangDecisionDeadline k) s = .next u ∧
        u = ended { s with ports := u.ports, etherOut := u.etherOut } { x with decision := some (.forfeit i) } (2 + 2 ^ 32 * i)) ∧
    (Table.find s.slices k = some x → x.decision = some .go → x.outcome = 0 → x.running = none → x.start ≤ s.tick →
      exec (.gangStart k) s = .next (put s { x with running := some s.tick })) ∧
    (Table.find s.slices k = some x → (x.decision ≠ some .go ∨ s.tick < x.start) → exec (.gangStart k) s = .next s) ∧
    (∀ n, Table.find s.slices k = some x → x.running = some n →
      (n + x.quantum ≤ s.tick → exec (.gangQuantumEnd k) s = .next (ended s x 1)) ∧
      (s.tick < n + x.quantum → exec (.gangQuantumEnd k) s = .next s)) ∧
    (Table.find s.slices k = some x → x.me ≠ 0 → x.decision = none → x.outcome = 0 → x.start + 250000 ≤ s.tick →
      exec (.gangCollectorLost k) s = .next (ended s x 3)) ∧
    (s.slices = [(k, x)] → (s.gangHeld x.asid = true ↔ x.running = none))

/-- R328 to R333: migration and checkpoints. MIGRATE freezes a Running context and begins to copy its frames; a page copied is sent to the
destination and recorded; with every page copied the cutover begins, and forwarding ends 100 ms after it. CHECKPOINT of a good descriptor makes
the cut under the next number and clears the slot's first word, one of a bad descriptor is refused; the copy takes the pages in order and
writes the frame of a chunk that is whole; once every frame is written the entries are, once those are acknowledged the header is, and once that is
the reference is arrived on and the command completes; one that has failed completes with status 1. The bytes of writes that have been
acknowledged are subtracted on the barrier object first (R150). A page that was remote at the cut is read where it was. The model's choices: how a
migration copies and cuts over (log entry 46), where a checkpoint's descriptor lies (log entry 47), the blocks of a frame (log entry 76), and
which bytes count on the barrier object (log entry 78). -/
def Obligations.MigrationAndCheckpoints : Prop :=
  ∀ (s : State) (asid page desc id q : Nat) (dev : BitVec 18) (ref : W64) (ops : List W64) (m : Migration) (c : Checkpoint) (p : CutPage)
    (r : List CutPage) (bs : List Byte),
    let word := fun j => Memory.readN s.ctlMem (desc + 8 * j) 8
    let ops13 := [BitVec.ofNat 64 asid, BitVec.ofNat 64 dev.toNat]
    let ops14 := [BitVec.ofNat 64 desc, ref]
    let put := fun (y : Migration) => { s with migrations := Table.set s.migrations asid y }
    let at_ := fun (c : Checkpoint) => { s with ckpt := some c }
    let wrote := fun (c : Checkpoint) (a : W64) (data : List Byte) =>
      { s with ckpt := some { c with unacked := c.unacked ++ [s.nextId] }, nextId := s.nextId + 1,
               store := s.store ++ [({ id := s.nextId, qp := c.qp, key := c.key, addr := a, data := data } : StoreWrite)] }
    (s.commands = [] → Table.find s.migrations asid = none →
      ((s.ctxAt asid).state ≠ .running → exec (.migrate asid dev) s = .next { s with completions := s.completions ++ [recordOf 13 ops13 1] }) ∧
      ((s.ctxAt asid).state = .running → (∀ y ∈ s.wgs, y.2.asid = asid → y.2.phase ≠ .switchedOut) →
        ∃ u, exec (.migrate asid dev) s = .next u ∧ u.ctxAt asid = { s.ctxAt asid with state := .frozen } ∧
          Table.find u.migrations asid = some { dev := dev, phase := .copying, frames := s.framesUnder [5, 4, 3, 2, 1] (s.ctxAt asid).root.toNat,
                                                copied := [], since := 0 } ∧
          (∀ y ∈ u.wgs, y.2.asid = asid → y.2.phase = .resident → y.2.preempt = true) ∧
          u = { s with ctxs := u.ctxs, wgs := u.wgs, migrations := u.migrations, commands := [(13, ops13, none)] })) ∧
    (Table.find s.migrations asid = some m → m.phase = .copying → s.occupied asid = false →
      (m.has page = true → page ∉ m.copied → s.carries m.dev none 4096 = true → exec (.migratePageCopy asid page) s =
        .next { s.emit (flitTo m.dev s.devid 2 (4096 * page) 4096 0 none (Memory.readBytes s.mem (4096 * page) 4096)) with
          migrations := Table.set s.migrations asid { m with copied := page :: m.copied } }) ∧
      (m.has page = false ∨ page ∈ m.copied ∨ s.carries m.dev none 4096 = false → exec (.migratePageCopy asid page) s = .next s) ∧
      (m.copiedAll = true → exec (.migrateCutover asid) s = .next (put { m with phase := .cutover, since := s.tick })) ∧
      (m.copiedAll = false → exec (.migrateCutover asid) s = .next s)) ∧
    (m.copiedAll = true ↔ ∀ f ∈ m.frames, ∀ i < f.2 / 4096, f.1 / 4096 + i ∈ m.copied) ∧
    (Table.find s.migrations asid = some m → m.phase = .forwarding →
      (m.since + 25000000 ≤ s.tick → exec (.migrateForwardEnd asid) s = .next (put { m with phase := .done })) ∧
      (s.tick < m.since + 25000000 → exec (.migrateForwardEnd asid) s = .next s)) ∧
    (s.commands = [] → s.ckpt = none → ckptBad word = true →
      exec (.checkpoint desc ref) s = .next { s with completions := s.completions ++ [recordOf 14 ops14 1] }) ∧
    (s.commands = [] → s.ckpt = none → ckptBad word = false →
      let n := word 7 + 1
      let base := BitVec.ofNat 64 (if n % 2 = 0 then word 4 else word 5)
      let rkey := BitVec.ofNat 32 (if n % 2 = 0 then word 6 % 2 ^ 32 else word 6 / 2 ^ 32)
      ∃ u x, exec (.checkpoint desc ref) s = .next u ∧ u.ckpt = some x ∧ x.asid = word 0 % 2 ^ 16 ∧ x.base = word 1 ∧ x.bytes = word 2 ∧
        x.width = 2 ^ (word 3 % 4) ∧ x.qp = word 3 / 2 ^ 24 ∧ x.key = rkey ∧ x.number = BitVec.ofNat 64 n ∧ x.slotBase = base ∧
        x.pages.map (·.number) = List.range (word 2 / 4096) ∧ x.ref = ref ∧ x.failed = false ∧ x.stage = 0 ∧ x.unacked = [s.nextId] ∧ x.owed = 0 ∧
        u = { s with ckpt := u.ckpt, nextId := s.nextId + 1, ctlMem := Memory.writeN s.ctlMem (desc + 56) 8 n, commands := [(14, ops14, none)],
                     store := s.store ++ [{ id := s.nextId, qp := word 3 / 2 ^ 24, key := rkey, addr := base, data := valBytes 8 0 }] }) ∧
    (s.commands = [] → s.ckpt.isSome = true → exec (.checkpoint desc ref) s = .next { s with commands := [(14, ops14, none)] }) ∧
    (s.ckpt = some c → c.pages = p :: r → c.failed = false → s.ckptParked = false → p.page = some q → s.cutHere q p.key = some bs →
      (∀ y ∈ r, y.number ≠ p.number) → (∀ y ∈ c.pages, y.away = none) → c.owes = false →
      let c1 := { c with pages := r, copied := Memory.writeBytes c.copied (4096 * p.number) bs }
      ((c.stage = 0 ∧ c.unacked ≠ []) ∨ (c.stage = 1 ∧ ∃ y ∈ r, y.number / 1024 = p.number / 1024) →
        exec .checkpointPageCopy s = .next (at_ c1)) ∧
      (c.stage = 1 → r ≠ [] → (∀ y ∈ r, y.number / 1024 ≠ p.number / 1024) → (∀ f ∈ c.frames, f.1 ≠ p.number / 1024) →
        let z := zstdFrame (bytePlanes c.width (Memory.readBytes c1.copied (2 ^ 22 * (p.number / 1024)) (2 ^ 22)))
        exec .checkpointPageCopy s =
          .next (wrote { c1 with frames := c.frames ++ [(p.number / 1024, c.next, z.length)], next := c.next + z.length }
            (c.slotBase + BitVec.ofNat 64 c.next) z))) ∧
    (s.ckpt = some c → c.pages = [] → exec .checkpointPageCopy s = .next s) ∧
    (s.ckpt = some c → c.stage = 1 → c.pages = [] → c.frames.length = c.bytes / 2 ^ 22 →
      s.ckptAdvance = wrote { c with stage := 2 } (c.slotBase + 0x80) c.entries) ∧
    (∀ w, s.ckpt = some c → s.pending = [] → c.unacked = [id] → s.store.find? (fun x => x.id = id) = some w →
      let owed := c.owed + w.data.length
      (c.stage = 0 → c.pages ≠ [] → (∀ k < c.bytes / 2 ^ 22, c.chunkReady k = false) →
        exec (.roceResponse 0 id []) s = .next (at_ { c with stage := 1, unacked := [], owed := owed })) ∧
      (c.stage = 2 → exec (.roceResponse 0 id []) s = .next (wrote { c with stage := 3, unacked := [], owed := owed } c.slotBase c.header))) ∧
    (∀ t : State, s.ckpt = some c → c.ref ≠ 0 → c.owed ≠ 0 → s.ckptParked = false → s.unperformedBy .checkpoint = false →
      s.countBytes (ckptWho c.asid) 0 c.ref c.owed = .ok t () →
      (t.ckpt = some c → exec .checkpointComplete s = .next { t.forget .checkpoint with ckpt := some { c with owed := 0 } }) ∧
      (c.failed = false → c.pages = p :: r → exec .checkpointPageCopy s = .next (s.ckptCount c))) ∧
    (∀ h d, s.ckpt = some c → c.failed = false → s.ckptParked = false → c.owes = false → s.nextCut c = some p → p.page = none →
      p.away = some (h, d, page) → s.placeDenied (ckptWho c.asid) accRead (.away h d (4096 * page)) = false →
      let at_ := [(Place.away h d (4096 * page), 4096)]
      let tag := 64 * (c.base + 4096 * p.number)
      (s.segBytes .checkpoint tag at_ = none → exec .checkpointPageCopy s = .next (s.ask .checkpoint tag at_)) ∧
      (s.segBytes .checkpoint tag at_ = some bs → exec .checkpointPageCopy s = .next ((s.forget .checkpoint).tookCut c p bs).ckptAdvance)) ∧
    (s.ckpt = some c → s.commands = [(14, ops, none)] →
      (c.failed = true → c.owes = false → exec .checkpointComplete s =
        .next { s with ckpt := none, commands := [], completions := s.completions ++ [recordOf 14 ops 1] }) ∧
      (c.failed = false → c.stage = 3 → c.unacked = [] → s.ckptParked = false → c.ref = 0 → s.pending = [] → exec .checkpointComplete s =
        .next { s with ckpt := none, commands := [], completions := s.completions ++ [recordOf 14 ops 0] })) ∧
    (s.ckpt = some c → c.failed = false → c.owes = false → c.stage ≠ 3 ∨ c.unacked ≠ [] → exec .checkpointComplete s = .next s)

/-- R7, R177, R178, R323, R334 to R336, R338 to R341: bring-up. A module without power that is switched on runs the boot chain: each stage that is
accepted is measured and loaded before the next; with every stage of a copy good it reaches Run, and with neither copy good it stops in recovery with
the failing stage; power removal leaves the flash. A power check keeps watts and temperature, throttles above 2,150 W until below 2,100 W
and at 105 degrees, and switches off at 115. The control complex's table writes set key slots, which are never read back, access rights with the
key id of a port's entry, routes, the device id and withheld cores; a plug-in fault stops that plug-in alone; the application cores write
neither registers nor flash; a plug-in's access that does not lie inside its region stops it and is not made, and it sets the policy of its own
tenant's contexts alone. Corrected errors are counted, and the sixteenth at one location within a second withholds the core; an
uncorrectable error ends the fault domain of its launch, or resets the module. The model's choices: how the access tables number masters and targets
(log entry 12), and the boot chain as one step, where stages are loaded, which register each extends, and what the flash keeps (log entry 49). -/
def Obligations.BringUp : Prop :=
  ∀ (s : State) (watts : BitVec 16) (celsius : Byte) (n m core id location kid : Nat) (key : BitVec 512) (rights : BitVec 2) (dev : BitVec 18)
    (route : BitVec 4) (v : W64) (l : Launch) (bs image : List Byte) (d : BitVec 384) (tenant : List Nat),
    let boot := State.extendMeas { s.unpowered with power := .boot } 0 Config.romDigest
    let M := fun (t : State) (i : Nat) => Table.get 0#384 t.meas i
    (s.power ≠ .off → exec .powerOn s = .next s) ∧
    (s.power = .off → (∀ t, boot.runChain imageBytes flashStages 0 = (t, none) → exec .powerOn s = .next { t with power := .run }) ∧
      (∀ t k, boot.runChain imageBytes flashStages 0 = (t, some k) →
        (∀ u, t.runChain (2 * imageBytes) flashStages imageBytes = (u, none) → exec .powerOn s = .next { u with power := .run }) ∧
        (∀ u i, t.runChain (2 * imageBytes) flashStages imageBytes = (u, some i) →
          exec .powerOn s = .next { u with power := .recovery, bootstat := BitVec.ofNat 8 i }))) ∧
    (∀ a limit st rest, (stageGood s.flash a limit st = false → s.runChain limit (st :: rest) a = (s, some st)) ∧
      (stageGood s.flash a limit st = true → Config.fusedVersion ≤ Memory.readN s.flash (a + 8) 4 ∧
        sha384 (Memory.readBytes s.flash (a + 256) (stageLength s.flash a)) = stageDigest s.flash a ∧
        ecdsaValid Config.publicKey (Memory.readBytes s.flash a 0x50) (Memory.readBytes s.flash (a + 0x50) 96) = true ∧
        s.runChain limit (st :: rest) a =
          ((s.extendMeas (measureOf st) (stageDigest s.flash a)).loadStage a st).runChain limit rest (a + 256 + stageLength s.flash a))) ∧
    (flashStages = [2, 3, 4, 5] ∧ measureOf 2 = 0 ∧ measureOf 3 = 0 ∧ measureOf 5 = 2) ∧
    (∀ i, M (s.extendMeas n d) i = if i = n then sha384 (digestBytes (M s n) ++ digestBytes d) else M s i) ∧
    (let u := s.pluginLoad n m core tenant image
     M u 1 = sha384 (digestBytes (M s 1) ++ digestBytes (sha384 image)) ∧ Table.find u.plugins n = some { base := m, size := core, contexts := tenant }) ∧
    (∀ r, Table.find s.plugins n = some r → n ∉ s.stopped →
      (∀ w, let k := (w.map List.length).getD m
        (id < r.base ∨ r.base + r.size < id + k → s.pluginAccess n id m w = { s with stopped := s.stopped ++ [n] })) ∧
      (r.base ≤ id → id + bs.length ≤ r.base + r.size → s.pluginAccess n id m (some bs) = { s with ctlMem := Memory.writeBytes s.ctlMem id bs }) ∧
      (∀ y, (core ∉ r.contexts → s.pluginPolicy n core y = s) ∧
      (core ∈ r.contexts → s.pluginPolicy n core y = { s with policies := Table.set s.policies core y }))) ∧
    (exec .powerRemoval s = .next { State.reset with flash := s.flash, agenda := s.agenda, freeCount := s.freeCount, power := .off }) ∧
    (s.power = .off → exec (.powerCheck watts celsius) s = .next s) ∧
    ((s.power = .run ∨ s.power = .throttled) → celsius.toNat < 115 →
      let tooMuch := decide (2150 < watts.toNat ∨ (s.overPower = true ∧ 2100 ≤ watts.toNat))
      let hot := tooMuch || decide (105 ≤ celsius.toNat)
      exec (.powerCheck watts celsius) s = .next { s with
        watts := watts, temp := celsius, throttled := hot, overPower := tooMuch, power := if hot then .throttled else .run }) ∧
    (s.power ≠ .off → 115 ≤ celsius.toNat → exec (.powerCheck watts celsius) s = exec .powerRemoval s) ∧
    (192 ≤ core → exec (.eccCorrected core location) s = .next { s with eccfix := s.eccfix + 1 }) ∧
    (core < 192 →
      let recent := (s.eccHits.filter (fun x => decide (s.tick < x.2 + 250000000) && decide (x.1 = 192 * location + core))).length
      (recent < 15 → ∃ u, exec (.eccCorrected core location) s = .next u ∧ u = { s with eccfix := s.eccfix + 1, eccHits := u.eccHits }) ∧
      (15 ≤ recent → ∃ u, exec (.eccCorrected core location) s = .next u ∧ u.eccfix = s.eccfix + 1 ∧
        (∀ k, u.withheldCore k = (decide (k = core) || s.withheldCore k)) ∧
        (∀ y ∈ u.wgs, y.2.phase = .resident → y.2.core = core → y.2.preempt = true) ∧
        u = { s with eccfix := u.eccfix, eccHits := u.eccHits, withheld := u.withheld, wgs := u.wgs })) ∧
    (Table.find s.launches id = some l → exec (.eccUncorrectable false (some id)) s =
      .next (State.endDomain { s with eccbad := s.eccbad + 1 } l.asid l.domain)) ∧
    exec (.eccUncorrectable true none) s = exec .powerOn { s with power := .off } ∧
    exec (.eccUncorrectable false none) s = .next { s with eccbad := s.eccbad + 1 } ∧
    (∃ u, exec (.pluginFault n) s = .next u ∧ (∀ k, k ∈ u.stopped ↔ k ∈ s.stopped ∨ k = n) ∧ u = { s with stopped := u.stopped }) ∧
    (registerBase ≤ n → s.mapStore .app n bs = none) ∧
    (n < 512 → ∃ u, exec (.keyTableWrite n key) s = .next u ∧ (∀ k, Table.find u.keys k = if k = n then some key else Table.find s.keys k) ∧
      u = { s with keys := u.keys }) ∧
    (s.portRead (.key n) = { s with mapOut := s.mapOut ++ [List.replicate 64 0#8] }) ∧
    (n < 2 ^ 20 → m < 2 ^ 20 → ∃ u, exec (.accessTableWrite n m ⟨rights, kid⟩) s = .next u ∧ u = { s with access := u.access, portKeys := u.portKeys } ∧
      (∀ kind, u.tableDenies n m kind = ((decide (kind ≠ accWrite) && rights.getLsbD 0) || (decide (kind = accWrite ∨ kind = accAtomic) && rights.getLsbD 1))) ∧
      u.portKey n m = kid % 512 ∧
      (∀ x y kind, x < 2 ^ 20 → y < 2 ^ 20 → (x ≠ n ∨ y ≠ m) → u.tableDenies x y kind = s.tableDenies x y kind ∧ u.portKey x y = s.portKey x y)) ∧
    (∃ u, exec (.routeTableWrite dev route) s = .next u ∧ (∀ d, u.routeOf d = if d = dev then route else s.routeOf d) ∧
      u = { s with routes := u.routes }) ∧
    exec (.devidWrite dev) s = .next { s with devid := dev } ∧
    (n < 3 → ∃ u, exec (.withheldWrite n v) s = .next u ∧ (∀ k, Table.get 0#64 u.withheld k = if k = n then v else Table.get 0#64 s.withheld k) ∧
      u = { s with withheld := u.withheld })
end

