-- ==== Sys2Proof/Laws/Table.lean ====
section
/-! SUPPORT. Laws of sparse tables and memories: a read after a write, every other key left alone, and the canonical
form kept by every memory operation. -/
namespace Sys2Proof

variable {α : Type}

@[simp] theorem Table.get_nil (d : α) (n : Nat) : Table.get d [] n = d := rfl
@[simp] theorem Table.find_nil (n : Nat) : Table.find ([] : Table α) n = none := rfl

theorem Table.get_set (d : α) (t : Table α) (n m : Nat) (x : α) :
    Table.get d (Table.set t n x) m = if m = n then x else Table.get d t m := by
  induction t with
  | nil => simp [Table.set, Table.get, eq_comm]
  | cons p t ih =>
    obtain ⟨k, v⟩ := p
    simp only [Table.set]
    by_cases h1 : k = n
    · subst h1; by_cases h2 : m = k <;> simp [Table.get, h2, eq_comm]
    · by_cases h2 : n < k
      · by_cases h3 : m = n
        · subst h3; simp [Table.get, h1, h2]
        · simp [Table.get, h1, h2, h3, Ne.symm h3]
      · by_cases h3 : k = m
        · subst h3; simp [Table.get, h1, h2]
        · simp [Table.get, h1, h2, h3, ih]

@[simp] theorem Table.get_set_same (d : α) (t : Table α) (n : Nat) (x : α) : Table.get d (Table.set t n x) n = x := by
  simp [Table.get_set]
theorem Table.get_set_of_ne (d : α) (t : Table α) {n m : Nat} (x : α) (h : m ≠ n) :
    Table.get d (Table.set t n x) m = Table.get d t m := by simp [Table.get_set, h]

theorem Table.find_set (t : Table α) (n m : Nat) (x : α) :
    Table.find (Table.set t n x) m = if m = n then some x else Table.find t m := by
  induction t with
  | nil => simp [Table.set, Table.find, eq_comm]
  | cons p t ih =>
    obtain ⟨k, v⟩ := p
    simp only [Table.set]
    by_cases h1 : k = n
    · subst h1; by_cases h2 : m = k <;> simp [Table.find, h2, eq_comm]
    · by_cases h2 : n < k
      · by_cases h3 : m = n
        · subst h3; simp [Table.find, h1, h2]
        · simp [Table.find, h1, h2, h3, Ne.symm h3]
      · by_cases h3 : k = m
        · subst h3; simp [Table.find, h1, h2]
        · simp [Table.find, h1, h2, h3, ih]

@[simp] theorem Table.find_set_same (t : Table α) (n : Nat) (x : α) : Table.find (Table.set t n x) n = some x := by
  simp [Table.find_set]

theorem Table.get_erase (d : α) (t : Table α) (n m : Nat) :
    Table.get d (Table.erase t n) m = if m = n then d else Table.get d t m := by
  induction t with
  | nil => simp [Table.erase]
  | cons p t ih =>
    obtain ⟨k, v⟩ := p
    simp only [Table.erase]
    by_cases h1 : k = n
    · subst h1; by_cases h2 : m = k
      · subst h2; simp [ih]
      · simp [Table.get, ih, h2, Ne.symm h2]
    · by_cases h3 : k = m
      · subst h3; simp [Table.get, h1]
      · simp [Table.get, h1, h3, ih]

theorem Table.find_erase (t : Table α) (n m : Nat) :
    Table.find (Table.erase t n) m = if m = n then none else Table.find t m := by
  induction t with
  | nil => simp [Table.erase]
  | cons p t ih =>
    obtain ⟨k, v⟩ := p
    simp only [Table.erase]
    by_cases h1 : k = n
    · subst h1; by_cases h2 : m = k
      · subst h2; simp [ih]
      · simp [Table.find, ih, h2, Ne.symm h2]
    · by_cases h3 : k = m
      · subst h3; simp [Table.find, h1]
      · simp [Table.find, h1, h3, ih]

theorem Table.get_put [DecidableEq α] (d : α) (t : Table α) (n m : Nat) (x : α) :
    Table.get d (Table.put d t n x) m = if m = n then x else Table.get d t m := by
  unfold Table.put
  split_ifs with h h2 <;> simp [Table.get_erase, Table.get_set, *]

@[simp] theorem Table.get_put_same [DecidableEq α] (d : α) (t : Table α) (n : Nat) (x : α) :
    Table.get d (Table.put d t n x) n = x := by simp [Table.get_put]

/-! ### The canonical form -/

theorem Table.risingFrom_mono {t : Table α} {lo lo' : Nat} (h : lo' ≤ lo) (w : Table.risingFrom lo t = true) :
    Table.risingFrom lo' t = true := by
  cases t with
  | nil => rfl
  | cons p t => obtain ⟨k, v⟩ := p; simp_all [Table.risingFrom]; omega

theorem Table.risingFrom_set {t : Table α} {lo n : Nat} (x : α) (h : lo ≤ n) (w : Table.risingFrom lo t = true) :
    Table.risingFrom lo (Table.set t n x) = true := by
  induction t generalizing lo with
  | nil => simp [Table.set, Table.risingFrom, h]
  | cons p t ih =>
    obtain ⟨k, v⟩ := p
    simp only [Table.risingFrom, Bool.and_eq_true, decide_eq_true_eq] at w
    simp only [Table.set]
    split_ifs with h1 h2
    · subst h1; simp [Table.risingFrom, w]
    · simp only [Table.risingFrom, Bool.and_eq_true, decide_eq_true_eq]; exact ⟨h, by omega, w.2⟩
    · simp only [Table.risingFrom, Bool.and_eq_true, decide_eq_true_eq]; exact ⟨w.1, ih (by omega) w.2⟩

theorem Table.risingFrom_erase {t : Table α} {lo : Nat} (n : Nat) (w : Table.risingFrom lo t = true) :
    Table.risingFrom lo (Table.erase t n) = true := by
  induction t generalizing lo with
  | nil => rfl
  | cons p t ih =>
    obtain ⟨k, v⟩ := p
    simp only [Table.risingFrom, Bool.and_eq_true, decide_eq_true_eq] at w
    simp only [Table.erase]
    split_ifs with h1
    · exact Table.risingFrom_mono (by omega) (ih w.2)
    · simp only [Table.risingFrom, Bool.and_eq_true, decide_eq_true_eq]; exact ⟨w.1, ih w.2⟩

theorem Table.all_set {t : Table α} {n : Nat} {x : α} {q : Nat × α → Bool} (hx : q (n, x) = true) (w : t.all q = true) :
    (Table.set t n x).all q = true := by
  induction t with
  | nil => simpa [Table.set] using hx
  | cons p t ih =>
    obtain ⟨k, v⟩ := p
    simp only [List.all_cons, Bool.and_eq_true] at w
    simp only [Table.set]
    split_ifs <;> simp_all

theorem Table.all_erase {t : Table α} {n : Nat} {q : Nat × α → Bool} (w : t.all q = true) :
    (Table.erase t n).all q = true := by
  induction t with
  | nil => rfl
  | cons p t ih =>
    obtain ⟨k, v⟩ := p
    simp only [List.all_cons, Bool.and_eq_true] at w
    simp only [Table.erase]
    split_ifs <;> simp_all

theorem Table.wf_put [DecidableEq α] {d : α} {t : Table α} (n : Nat) (x : α) (w : Table.wf d t = true) :
    Table.wf d (Table.put d t n x) = true := by
  simp only [Table.wf, Bool.and_eq_true] at w ⊢
  unfold Table.put
  split_ifs with h
  · exact ⟨Table.risingFrom_erase n w.1, Table.all_erase w.2⟩
  · exact ⟨Table.risingFrom_set x (Nat.zero_le n) w.1, Table.all_set (by simpa using h) w.2⟩

/-! ### Memories -/

theorem Memory.read_write (m : Memory) (a b : Nat) (x : Byte) :
    Memory.read (Memory.write m a x) b = if b = a then x else Memory.read m b := Table.get_put _ _ _ _ _

theorem Memory.wf_write {m : Memory} (a : Nat) (x : Byte) (w : Memory.wf m = true) : Memory.wf (Memory.write m a x) = true :=
  Table.wf_put a x w

theorem Memory.wf_writeN {m : Memory} (a n v : Nat) (w : Memory.wf m = true) : Memory.wf (Memory.writeN m a n v) = true := by
  induction n generalizing m a v with
  | zero => exact w
  | succ n ih => exact ih _ _ (Memory.wf_write _ _ w)

theorem Memory.wf_writeBytes {m : Memory} (a : Nat) (bs : List Byte) (w : Memory.wf m = true) :
    Memory.wf (Memory.writeBytes m a bs) = true := by
  induction bs generalizing m a with
  | nil => exact w
  | cons b bs ih => exact ih _ (Memory.wf_write _ _ w)

/-- Bytes outside a stored value are left alone. -/
theorem Memory.read_writeN_of_outside (m : Memory) (a n v b : Nat) (h : b < a ∨ a + n ≤ b) :
    Memory.read (Memory.writeN m a n v) b = Memory.read m b := by
  induction n generalizing m a v with
  | zero => rfl
  | succ n ih => rw [Memory.writeN, ih _ _ _ (by omega), Memory.read_write, if_neg (by omega)]

/-- A byte of a stored value. -/
theorem Memory.read_writeN_inside (m : Memory) (a n v i : Nat) (h : i < n) :
    Memory.read (Memory.writeN m a n v) (a + i) = BitVec.ofNat 8 (v / 256 ^ i) := by
  induction n generalizing m a v i with
  | zero => omega
  | succ n ih =>
    rw [Memory.writeN]
    cases i with
    | zero => rw [Memory.read_writeN_of_outside _ _ _ _ _ (by omega), Memory.read_write]; simp
    | succ i =>
      have := ih (Memory.write m a (BitVec.ofNat 8 v)) (a + 1) (v / 256) i (by omega)
      rw [show a + (i + 1) = a + 1 + i by omega, this, Nat.div_div_eq_div_mul, ← pow_succ']

theorem Memory.read_writeBytes_of_outside (m : Memory) (a b : Nat) (bs : List Byte) (h : b < a ∨ a + bs.length ≤ b) :
    Memory.read (Memory.writeBytes m a bs) b = Memory.read m b := by
  induction bs generalizing m a with
  | nil => rfl
  | cons x bs ih =>
    simp only [List.length_cons] at h
    rw [Memory.writeBytes, ih _ _ (by omega), Memory.read_write, if_neg (by omega)]

/-- Reading back a stored value (R2: little-endian). -/
theorem Memory.readN_writeN (m : Memory) (a n v : Nat) : Memory.readN (Memory.writeN m a n v) a n = v % 256 ^ n := by
  have key : ∀ (n : Nat) (m' : Memory) (a v : Nat), (∀ i, i < n → Memory.read m' (a + i) = BitVec.ofNat 8 (v / 256 ^ i)) →
      Memory.readN m' a n = v % 256 ^ n := by
    intro n
    induction n with
    | zero => intro m' a v _; simp [Memory.readN, Nat.mod_one]
    | succ n ih =>
      intro m' a v h
      rw [Memory.readN, ih m' (a + 1) (v / 256)]
      · have h0 := h 0 (by omega)
        simp only [Nat.add_zero, pow_zero, Nat.div_one] at h0
        rw [h0, BitVec.toNat_ofNat, pow_succ' (256 : Nat) n, Nat.mod_mul]
      · intro i hi
        have := h (i + 1) (by omega)
        rw [show a + 1 + i = a + (i + 1) by omega, this, pow_succ', Nat.div_div_eq_div_mul]
  exact key n _ a v (fun i hi => Memory.read_writeN_inside m a n v i hi)

end Sys2Proof
end

