-- ==== Sys2Proof/Laws/State.lean ====
section
/-! SUPPORT. One lemma per update of the state and field: what the named updates of Machine/Ops.lean leave alone, and
what they write. -/
namespace Sys2Proof.Machine

/-! ### setWarp -/

@[simp] theorem State.setWarp_mem (s : State) (k : Nat) (w : Warp) : (s.setWarp k w).mem = s.mem := rfl
@[simp] theorem State.setWarp_keyOf (s : State) (k : Nat) (w : Warp) : (s.setWarp k w).keyOf = s.keyOf := rfl
@[simp] theorem State.setWarp_dirty (s : State) (k : Nat) (w : Warp) : (s.setWarp k w).dirty = s.dirty := rfl
@[simp] theorem State.setWarp_keys (s : State) (k : Nat) (w : Warp) : (s.setWarp k w).keys = s.keys := rfl
@[simp] theorem State.setWarp_access (s : State) (k : Nat) (w : Warp) : (s.setWarp k w).access = s.access := rfl
@[simp] theorem State.setWarp_portKeys (s : State) (k : Nat) (w : Warp) : (s.setWarp k w).portKeys = s.portKeys := rfl
@[simp] theorem State.setWarp_tlb (s : State) (k : Nat) (w : Warp) : (s.setWarp k w).tlb = s.tlb := rfl
@[simp] theorem State.setWarp_faults (s : State) (k : Nat) (w : Warp) : (s.setWarp k w).faults = s.faults := rfl
@[simp] theorem State.setWarp_tick (s : State) (k : Nat) (w : Warp) : (s.setWarp k w).tick = s.tick := rfl
@[simp] theorem State.setWarp_ctxTable (s : State) (k : Nat) (w : Warp) : (s.setWarp k w).ctxTable = s.ctxTable := rfl
@[simp] theorem State.setWarp_ctxs (s : State) (k : Nat) (w : Warp) : (s.setWarp k w).ctxs = s.ctxs := rfl
@[simp] theorem State.setWarp_wgs (s : State) (k : Nat) (w : Warp) : (s.setWarp k w).wgs = s.wgs := rfl
@[simp] theorem State.setWarp_cores (s : State) (k : Nat) (w : Warp) : (s.setWarp k w).cores = s.cores := rfl
@[simp] theorem State.setWarp_launches (s : State) (k : Nat) (w : Warp) : (s.setWarp k w).launches = s.launches := rfl
@[simp] theorem State.setWarp_budgets (s : State) (k : Nat) (w : Warp) : (s.setWarp k w).budgets = s.budgets := rfl
@[simp] theorem State.setWarp_queues (s : State) (k : Nat) (w : Warp) : (s.setWarp k w).queues = s.queues := rfl
@[simp] theorem State.setWarp_deadlines (s : State) (k : Nat) (w : Warp) : (s.setWarp k w).deadlines = s.deadlines := rfl
@[simp] theorem State.setWarp_pipes (s : State) (k : Nat) (w : Warp) : (s.setWarp k w).pipes = s.pipes := rfl
@[simp] theorem State.setWarp_takes (s : State) (k : Nat) (w : Warp) : (s.setWarp k w).takes = s.takes := rfl
@[simp] theorem State.setWarp_moves (s : State) (k : Nat) (w : Warp) : (s.setWarp k w).moves = s.moves := rfl
@[simp] theorem State.setWarp_worlds (s : State) (k : Nat) (w : Warp) : (s.setWarp k w).worlds = s.worlds := rfl
@[simp] theorem State.setWarp_objs (s : State) (k : Nat) (w : Warp) : (s.setWarp k w).objs = s.objs := rfl
@[simp] theorem State.setWarp_nets (s : State) (k : Nat) (w : Warp) : (s.setWarp k w).nets = s.nets := rfl
@[simp] theorem State.setWarp_binds (s : State) (k : Nat) (w : Warp) : (s.setWarp k w).binds = s.binds := rfl
@[simp] theorem State.setWarp_pending (s : State) (k : Nat) (w : Warp) : (s.setWarp k w).pending = s.pending := rfl
@[simp] theorem State.setWarp_posts (s : State) (k : Nat) (w : Warp) : (s.setWarp k w).posts = s.posts := rfl
@[simp] theorem State.setWarp_ports (s : State) (k : Nat) (w : Warp) : (s.setWarp k w).ports = s.ports := rfl
@[simp] theorem State.setWarp_routes (s : State) (k : Nat) (w : Warp) : (s.setWarp k w).routes = s.routes := rfl
@[simp] theorem State.setWarp_devid (s : State) (k : Nat) (w : Warp) : (s.setWarp k w).devid = s.devid := rfl
@[simp] theorem State.setWarp_aperture (s : State) (k : Nat) (w : Warp) : (s.setWarp k w).aperture = s.aperture := rfl
@[simp] theorem State.setWarp_hostOut (s : State) (k : Nat) (w : Warp) : (s.setWarp k w).hostOut = s.hostOut := rfl
@[simp] theorem State.setWarp_etherOut (s : State) (k : Nat) (w : Warp) : (s.setWarp k w).etherOut = s.etherOut := rfl
@[simp] theorem State.setWarp_conns (s : State) (k : Nat) (w : Warp) : (s.setWarp k w).conns = s.conns := rfl
@[simp] theorem State.setWarp_slices (s : State) (k : Nat) (w : Warp) : (s.setWarp k w).slices = s.slices := rfl
@[simp] theorem State.setWarp_early (s : State) (k : Nat) (w : Warp) : (s.setWarp k w).early = s.early := rfl
@[simp] theorem State.setWarp_told (s : State) (k : Nat) (w : Warp) : (s.setWarp k w).told = s.told := rfl
@[simp] theorem State.setWarp_migrations (s : State) (k : Nat) (w : Warp) : (s.setWarp k w).migrations = s.migrations := rfl
@[simp] theorem State.setWarp_ckpt (s : State) (k : Nat) (w : Warp) : (s.setWarp k w).ckpt = s.ckpt := rfl
@[simp] theorem State.setWarp_store (s : State) (k : Nat) (w : Warp) : (s.setWarp k w).store = s.store := rfl
@[simp] theorem State.setWarp_commands (s : State) (k : Nat) (w : Warp) : (s.setWarp k w).commands = s.commands := rfl
@[simp] theorem State.setWarp_completions (s : State) (k : Nat) (w : Warp) : (s.setWarp k w).completions = s.completions := rfl
@[simp] theorem State.setWarp_ctlMem (s : State) (k : Nat) (w : Warp) : (s.setWarp k w).ctlMem = s.ctlMem := rfl
@[simp] theorem State.setWarp_flash (s : State) (k : Nat) (w : Warp) : (s.setWarp k w).flash = s.flash := rfl
@[simp] theorem State.setWarp_power (s : State) (k : Nat) (w : Warp) : (s.setWarp k w).power = s.power := rfl
@[simp] theorem State.setWarp_bootstat (s : State) (k : Nat) (w : Warp) : (s.setWarp k w).bootstat = s.bootstat := rfl
@[simp] theorem State.setWarp_meas (s : State) (k : Nat) (w : Warp) : (s.setWarp k w).meas = s.meas := rfl
@[simp] theorem State.setWarp_eccfix (s : State) (k : Nat) (w : Warp) : (s.setWarp k w).eccfix = s.eccfix := rfl
@[simp] theorem State.setWarp_eccbad (s : State) (k : Nat) (w : Warp) : (s.setWarp k w).eccbad = s.eccbad := rfl
@[simp] theorem State.setWarp_withheld (s : State) (k : Nat) (w : Warp) : (s.setWarp k w).withheld = s.withheld := rfl
@[simp] theorem State.setWarp_watts (s : State) (k : Nat) (w : Warp) : (s.setWarp k w).watts = s.watts := rfl
@[simp] theorem State.setWarp_throttled (s : State) (k : Nat) (w : Warp) : (s.setWarp k w).throttled = s.throttled := rfl
@[simp] theorem State.setWarp_overPower (s : State) (k : Nat) (w : Warp) : (s.setWarp k w).overPower = s.overPower := rfl
@[simp] theorem State.setWarp_temp (s : State) (k : Nat) (w : Warp) : (s.setWarp k w).temp = s.temp := rfl
@[simp] theorem State.setWarp_eccHits (s : State) (k : Nat) (w : Warp) : (s.setWarp k w).eccHits = s.eccHits := rfl
@[simp] theorem State.setWarp_plugins (s : State) (k : Nat) (w : Warp) : (s.setWarp k w).plugins = s.plugins := rfl
@[simp] theorem State.setWarp_stopped (s : State) (k : Nat) (w : Warp) : (s.setWarp k w).stopped = s.stopped := rfl
@[simp] theorem State.setWarp_policies (s : State) (k : Nat) (w : Warp) : (s.setWarp k w).policies = s.policies := rfl
@[simp] theorem State.setWarp_restarting (s : State) (k : Nat) (w : Warp) : (s.setWarp k w).restarting = s.restarting := rfl
@[simp] theorem State.setWarp_mapOut (s : State) (k : Nat) (w : Warp) : (s.setWarp k w).mapOut = s.mapOut := rfl
@[simp] theorem State.setWarp_rvs (s : State) (k : Nat) (w : Warp) : (s.setWarp k w).rvs = s.rvs := rfl
@[simp] theorem State.setWarp_nextId (s : State) (k : Nat) (w : Warp) : (s.setWarp k w).nextId = s.nextId := rfl
@[simp] theorem State.setWarp_cur (s : State) (k : Nat) (w : Warp) : (s.setWarp k w).cur = s.cur := rfl
@[simp] theorem State.setWarp_unit (s : State) (k : Nat) (w : Warp) : (s.setWarp k w).unit = s.unit := rfl
@[simp] theorem State.setWarp_ir (s : State) (k : Nat) (w : Warp) : (s.setWarp k w).ir = s.ir := rfl
@[simp] theorem State.setWarp_order (s : State) (k : Nat) (w : Warp) : (s.setWarp k w).order = s.order := rfl
@[simp] theorem State.setWarp_stalled (s : State) (k : Nat) (w : Warp) : (s.setWarp k w).stalled = s.stalled := rfl
@[simp] theorem State.setWarp_byLane (s : State) (k : Nat) (w : Warp) : (s.setWarp k w).byLane = s.byLane := rfl
@[simp] theorem State.setWarp_agenda (s : State) (k : Nat) (w : Warp) : (s.setWarp k w).agenda = s.agenda := rfl
@[simp] theorem State.setWarp_freeCount (s : State) (k : Nat) (w : Warp) : (s.setWarp k w).freeCount = s.freeCount := rfl

/-! ### setWg -/

@[simp] theorem State.setWg_mem (s : State) (k : Nat) (g : Workgroup) : (s.setWg k g).mem = s.mem := rfl
@[simp] theorem State.setWg_keyOf (s : State) (k : Nat) (g : Workgroup) : (s.setWg k g).keyOf = s.keyOf := rfl
@[simp] theorem State.setWg_dirty (s : State) (k : Nat) (g : Workgroup) : (s.setWg k g).dirty = s.dirty := rfl
@[simp] theorem State.setWg_keys (s : State) (k : Nat) (g : Workgroup) : (s.setWg k g).keys = s.keys := rfl
@[simp] theorem State.setWg_access (s : State) (k : Nat) (g : Workgroup) : (s.setWg k g).access = s.access := rfl
@[simp] theorem State.setWg_portKeys (s : State) (k : Nat) (g : Workgroup) : (s.setWg k g).portKeys = s.portKeys := rfl
@[simp] theorem State.setWg_tlb (s : State) (k : Nat) (g : Workgroup) : (s.setWg k g).tlb = s.tlb := rfl
@[simp] theorem State.setWg_faults (s : State) (k : Nat) (g : Workgroup) : (s.setWg k g).faults = s.faults := rfl
@[simp] theorem State.setWg_tick (s : State) (k : Nat) (g : Workgroup) : (s.setWg k g).tick = s.tick := rfl
@[simp] theorem State.setWg_ctxTable (s : State) (k : Nat) (g : Workgroup) : (s.setWg k g).ctxTable = s.ctxTable := rfl
@[simp] theorem State.setWg_ctxs (s : State) (k : Nat) (g : Workgroup) : (s.setWg k g).ctxs = s.ctxs := rfl
@[simp] theorem State.setWg_warps (s : State) (k : Nat) (g : Workgroup) : (s.setWg k g).warps = s.warps := rfl
@[simp] theorem State.setWg_cores (s : State) (k : Nat) (g : Workgroup) : (s.setWg k g).cores = s.cores := rfl
@[simp] theorem State.setWg_launches (s : State) (k : Nat) (g : Workgroup) : (s.setWg k g).launches = s.launches := rfl
@[simp] theorem State.setWg_budgets (s : State) (k : Nat) (g : Workgroup) : (s.setWg k g).budgets = s.budgets := rfl
@[simp] theorem State.setWg_queues (s : State) (k : Nat) (g : Workgroup) : (s.setWg k g).queues = s.queues := rfl
@[simp] theorem State.setWg_deadlines (s : State) (k : Nat) (g : Workgroup) : (s.setWg k g).deadlines = s.deadlines := rfl
@[simp] theorem State.setWg_pipes (s : State) (k : Nat) (g : Workgroup) : (s.setWg k g).pipes = s.pipes := rfl
@[simp] theorem State.setWg_takes (s : State) (k : Nat) (g : Workgroup) : (s.setWg k g).takes = s.takes := rfl
@[simp] theorem State.setWg_moves (s : State) (k : Nat) (g : Workgroup) : (s.setWg k g).moves = s.moves := rfl
@[simp] theorem State.setWg_worlds (s : State) (k : Nat) (g : Workgroup) : (s.setWg k g).worlds = s.worlds := rfl
@[simp] theorem State.setWg_objs (s : State) (k : Nat) (g : Workgroup) : (s.setWg k g).objs = s.objs := rfl
@[simp] theorem State.setWg_nets (s : State) (k : Nat) (g : Workgroup) : (s.setWg k g).nets = s.nets := rfl
@[simp] theorem State.setWg_binds (s : State) (k : Nat) (g : Workgroup) : (s.setWg k g).binds = s.binds := rfl
@[simp] theorem State.setWg_pending (s : State) (k : Nat) (g : Workgroup) : (s.setWg k g).pending = s.pending := rfl
@[simp] theorem State.setWg_posts (s : State) (k : Nat) (g : Workgroup) : (s.setWg k g).posts = s.posts := rfl
@[simp] theorem State.setWg_ports (s : State) (k : Nat) (g : Workgroup) : (s.setWg k g).ports = s.ports := rfl
@[simp] theorem State.setWg_routes (s : State) (k : Nat) (g : Workgroup) : (s.setWg k g).routes = s.routes := rfl
@[simp] theorem State.setWg_devid (s : State) (k : Nat) (g : Workgroup) : (s.setWg k g).devid = s.devid := rfl
@[simp] theorem State.setWg_aperture (s : State) (k : Nat) (g : Workgroup) : (s.setWg k g).aperture = s.aperture := rfl
@[simp] theorem State.setWg_hostOut (s : State) (k : Nat) (g : Workgroup) : (s.setWg k g).hostOut = s.hostOut := rfl
@[simp] theorem State.setWg_etherOut (s : State) (k : Nat) (g : Workgroup) : (s.setWg k g).etherOut = s.etherOut := rfl
@[simp] theorem State.setWg_conns (s : State) (k : Nat) (g : Workgroup) : (s.setWg k g).conns = s.conns := rfl
@[simp] theorem State.setWg_slices (s : State) (k : Nat) (g : Workgroup) : (s.setWg k g).slices = s.slices := rfl
@[simp] theorem State.setWg_early (s : State) (k : Nat) (g : Workgroup) : (s.setWg k g).early = s.early := rfl
@[simp] theorem State.setWg_told (s : State) (k : Nat) (g : Workgroup) : (s.setWg k g).told = s.told := rfl
@[simp] theorem State.setWg_migrations (s : State) (k : Nat) (g : Workgroup) : (s.setWg k g).migrations = s.migrations := rfl
@[simp] theorem State.setWg_ckpt (s : State) (k : Nat) (g : Workgroup) : (s.setWg k g).ckpt = s.ckpt := rfl
@[simp] theorem State.setWg_store (s : State) (k : Nat) (g : Workgroup) : (s.setWg k g).store = s.store := rfl
@[simp] theorem State.setWg_commands (s : State) (k : Nat) (g : Workgroup) : (s.setWg k g).commands = s.commands := rfl
@[simp] theorem State.setWg_completions (s : State) (k : Nat) (g : Workgroup) : (s.setWg k g).completions = s.completions := rfl
@[simp] theorem State.setWg_ctlMem (s : State) (k : Nat) (g : Workgroup) : (s.setWg k g).ctlMem = s.ctlMem := rfl
@[simp] theorem State.setWg_flash (s : State) (k : Nat) (g : Workgroup) : (s.setWg k g).flash = s.flash := rfl
@[simp] theorem State.setWg_power (s : State) (k : Nat) (g : Workgroup) : (s.setWg k g).power = s.power := rfl
@[simp] theorem State.setWg_bootstat (s : State) (k : Nat) (g : Workgroup) : (s.setWg k g).bootstat = s.bootstat := rfl
@[simp] theorem State.setWg_meas (s : State) (k : Nat) (g : Workgroup) : (s.setWg k g).meas = s.meas := rfl
@[simp] theorem State.setWg_eccfix (s : State) (k : Nat) (g : Workgroup) : (s.setWg k g).eccfix = s.eccfix := rfl
@[simp] theorem State.setWg_eccbad (s : State) (k : Nat) (g : Workgroup) : (s.setWg k g).eccbad = s.eccbad := rfl
@[simp] theorem State.setWg_withheld (s : State) (k : Nat) (g : Workgroup) : (s.setWg k g).withheld = s.withheld := rfl
@[simp] theorem State.setWg_watts (s : State) (k : Nat) (g : Workgroup) : (s.setWg k g).watts = s.watts := rfl
@[simp] theorem State.setWg_throttled (s : State) (k : Nat) (g : Workgroup) : (s.setWg k g).throttled = s.throttled := rfl
@[simp] theorem State.setWg_overPower (s : State) (k : Nat) (g : Workgroup) : (s.setWg k g).overPower = s.overPower := rfl
@[simp] theorem State.setWg_temp (s : State) (k : Nat) (g : Workgroup) : (s.setWg k g).temp = s.temp := rfl
@[simp] theorem State.setWg_eccHits (s : State) (k : Nat) (g : Workgroup) : (s.setWg k g).eccHits = s.eccHits := rfl
@[simp] theorem State.setWg_plugins (s : State) (k : Nat) (g : Workgroup) : (s.setWg k g).plugins = s.plugins := rfl
@[simp] theorem State.setWg_stopped (s : State) (k : Nat) (g : Workgroup) : (s.setWg k g).stopped = s.stopped := rfl
@[simp] theorem State.setWg_policies (s : State) (k : Nat) (g : Workgroup) : (s.setWg k g).policies = s.policies := rfl
@[simp] theorem State.setWg_restarting (s : State) (k : Nat) (g : Workgroup) : (s.setWg k g).restarting = s.restarting := rfl
@[simp] theorem State.setWg_mapOut (s : State) (k : Nat) (g : Workgroup) : (s.setWg k g).mapOut = s.mapOut := rfl
@[simp] theorem State.setWg_rvs (s : State) (k : Nat) (g : Workgroup) : (s.setWg k g).rvs = s.rvs := rfl
@[simp] theorem State.setWg_nextId (s : State) (k : Nat) (g : Workgroup) : (s.setWg k g).nextId = s.nextId := rfl
@[simp] theorem State.setWg_cur (s : State) (k : Nat) (g : Workgroup) : (s.setWg k g).cur = s.cur := rfl
@[simp] theorem State.setWg_unit (s : State) (k : Nat) (g : Workgroup) : (s.setWg k g).unit = s.unit := rfl
@[simp] theorem State.setWg_ir (s : State) (k : Nat) (g : Workgroup) : (s.setWg k g).ir = s.ir := rfl
@[simp] theorem State.setWg_order (s : State) (k : Nat) (g : Workgroup) : (s.setWg k g).order = s.order := rfl
@[simp] theorem State.setWg_stalled (s : State) (k : Nat) (g : Workgroup) : (s.setWg k g).stalled = s.stalled := rfl
@[simp] theorem State.setWg_byLane (s : State) (k : Nat) (g : Workgroup) : (s.setWg k g).byLane = s.byLane := rfl
@[simp] theorem State.setWg_agenda (s : State) (k : Nat) (g : Workgroup) : (s.setWg k g).agenda = s.agenda := rfl
@[simp] theorem State.setWg_freeCount (s : State) (k : Nat) (g : Workgroup) : (s.setWg k g).freeCount = s.freeCount := rfl

/-! ### setCoreAt -/

@[simp] theorem State.setCoreAt_mem (s : State) (k : Nat) (c : Core) : (s.setCoreAt k c).mem = s.mem := rfl
@[simp] theorem State.setCoreAt_keyOf (s : State) (k : Nat) (c : Core) : (s.setCoreAt k c).keyOf = s.keyOf := rfl
@[simp] theorem State.setCoreAt_dirty (s : State) (k : Nat) (c : Core) : (s.setCoreAt k c).dirty = s.dirty := rfl
@[simp] theorem State.setCoreAt_keys (s : State) (k : Nat) (c : Core) : (s.setCoreAt k c).keys = s.keys := rfl
@[simp] theorem State.setCoreAt_access (s : State) (k : Nat) (c : Core) : (s.setCoreAt k c).access = s.access := rfl
@[simp] theorem State.setCoreAt_portKeys (s : State) (k : Nat) (c : Core) : (s.setCoreAt k c).portKeys = s.portKeys := rfl
@[simp] theorem State.setCoreAt_tlb (s : State) (k : Nat) (c : Core) : (s.setCoreAt k c).tlb = s.tlb := rfl
@[simp] theorem State.setCoreAt_faults (s : State) (k : Nat) (c : Core) : (s.setCoreAt k c).faults = s.faults := rfl
@[simp] theorem State.setCoreAt_tick (s : State) (k : Nat) (c : Core) : (s.setCoreAt k c).tick = s.tick := rfl
@[simp] theorem State.setCoreAt_ctxTable (s : State) (k : Nat) (c : Core) : (s.setCoreAt k c).ctxTable = s.ctxTable := rfl
@[simp] theorem State.setCoreAt_ctxs (s : State) (k : Nat) (c : Core) : (s.setCoreAt k c).ctxs = s.ctxs := rfl
@[simp] theorem State.setCoreAt_wgs (s : State) (k : Nat) (c : Core) : (s.setCoreAt k c).wgs = s.wgs := rfl
@[simp] theorem State.setCoreAt_warps (s : State) (k : Nat) (c : Core) : (s.setCoreAt k c).warps = s.warps := rfl
@[simp] theorem State.setCoreAt_launches (s : State) (k : Nat) (c : Core) : (s.setCoreAt k c).launches = s.launches := rfl
@[simp] theorem State.setCoreAt_budgets (s : State) (k : Nat) (c : Core) : (s.setCoreAt k c).budgets = s.budgets := rfl
@[simp] theorem State.setCoreAt_queues (s : State) (k : Nat) (c : Core) : (s.setCoreAt k c).queues = s.queues := rfl
@[simp] theorem State.setCoreAt_deadlines (s : State) (k : Nat) (c : Core) : (s.setCoreAt k c).deadlines = s.deadlines := rfl
@[simp] theorem State.setCoreAt_pipes (s : State) (k : Nat) (c : Core) : (s.setCoreAt k c).pipes = s.pipes := rfl
@[simp] theorem State.setCoreAt_takes (s : State) (k : Nat) (c : Core) : (s.setCoreAt k c).takes = s.takes := rfl
@[simp] theorem State.setCoreAt_moves (s : State) (k : Nat) (c : Core) : (s.setCoreAt k c).moves = s.moves := rfl
@[simp] theorem State.setCoreAt_worlds (s : State) (k : Nat) (c : Core) : (s.setCoreAt k c).worlds = s.worlds := rfl
@[simp] theorem State.setCoreAt_objs (s : State) (k : Nat) (c : Core) : (s.setCoreAt k c).objs = s.objs := rfl
@[simp] theorem State.setCoreAt_nets (s : State) (k : Nat) (c : Core) : (s.setCoreAt k c).nets = s.nets := rfl
@[simp] theorem State.setCoreAt_binds (s : State) (k : Nat) (c : Core) : (s.setCoreAt k c).binds = s.binds := rfl
@[simp] theorem State.setCoreAt_pending (s : State) (k : Nat) (c : Core) : (s.setCoreAt k c).pending = s.pending := rfl
@[simp] theorem State.setCoreAt_posts (s : State) (k : Nat) (c : Core) : (s.setCoreAt k c).posts = s.posts := rfl
@[simp] theorem State.setCoreAt_ports (s : State) (k : Nat) (c : Core) : (s.setCoreAt k c).ports = s.ports := rfl
@[simp] theorem State.setCoreAt_routes (s : State) (k : Nat) (c : Core) : (s.setCoreAt k c).routes = s.routes := rfl
@[simp] theorem State.setCoreAt_devid (s : State) (k : Nat) (c : Core) : (s.setCoreAt k c).devid = s.devid := rfl
@[simp] theorem State.setCoreAt_aperture (s : State) (k : Nat) (c : Core) : (s.setCoreAt k c).aperture = s.aperture := rfl
@[simp] theorem State.setCoreAt_hostOut (s : State) (k : Nat) (c : Core) : (s.setCoreAt k c).hostOut = s.hostOut := rfl
@[simp] theorem State.setCoreAt_etherOut (s : State) (k : Nat) (c : Core) : (s.setCoreAt k c).etherOut = s.etherOut := rfl
@[simp] theorem State.setCoreAt_conns (s : State) (k : Nat) (c : Core) : (s.setCoreAt k c).conns = s.conns := rfl
@[simp] theorem State.setCoreAt_slices (s : State) (k : Nat) (c : Core) : (s.setCoreAt k c).slices = s.slices := rfl
@[simp] theorem State.setCoreAt_early (s : State) (k : Nat) (c : Core) : (s.setCoreAt k c).early = s.early := rfl
@[simp] theorem State.setCoreAt_told (s : State) (k : Nat) (c : Core) : (s.setCoreAt k c).told = s.told := rfl
@[simp] theorem State.setCoreAt_migrations (s : State) (k : Nat) (c : Core) : (s.setCoreAt k c).migrations = s.migrations := rfl
@[simp] theorem State.setCoreAt_ckpt (s : State) (k : Nat) (c : Core) : (s.setCoreAt k c).ckpt = s.ckpt := rfl
@[simp] theorem State.setCoreAt_store (s : State) (k : Nat) (c : Core) : (s.setCoreAt k c).store = s.store := rfl
@[simp] theorem State.setCoreAt_commands (s : State) (k : Nat) (c : Core) : (s.setCoreAt k c).commands = s.commands := rfl
@[simp] theorem State.setCoreAt_completions (s : State) (k : Nat) (c : Core) : (s.setCoreAt k c).completions = s.completions := rfl
@[simp] theorem State.setCoreAt_ctlMem (s : State) (k : Nat) (c : Core) : (s.setCoreAt k c).ctlMem = s.ctlMem := rfl
@[simp] theorem State.setCoreAt_flash (s : State) (k : Nat) (c : Core) : (s.setCoreAt k c).flash = s.flash := rfl
@[simp] theorem State.setCoreAt_power (s : State) (k : Nat) (c : Core) : (s.setCoreAt k c).power = s.power := rfl
@[simp] theorem State.setCoreAt_bootstat (s : State) (k : Nat) (c : Core) : (s.setCoreAt k c).bootstat = s.bootstat := rfl
@[simp] theorem State.setCoreAt_meas (s : State) (k : Nat) (c : Core) : (s.setCoreAt k c).meas = s.meas := rfl
@[simp] theorem State.setCoreAt_eccfix (s : State) (k : Nat) (c : Core) : (s.setCoreAt k c).eccfix = s.eccfix := rfl
@[simp] theorem State.setCoreAt_eccbad (s : State) (k : Nat) (c : Core) : (s.setCoreAt k c).eccbad = s.eccbad := rfl
@[simp] theorem State.setCoreAt_withheld (s : State) (k : Nat) (c : Core) : (s.setCoreAt k c).withheld = s.withheld := rfl
@[simp] theorem State.setCoreAt_watts (s : State) (k : Nat) (c : Core) : (s.setCoreAt k c).watts = s.watts := rfl
@[simp] theorem State.setCoreAt_throttled (s : State) (k : Nat) (c : Core) : (s.setCoreAt k c).throttled = s.throttled := rfl
@[simp] theorem State.setCoreAt_overPower (s : State) (k : Nat) (c : Core) : (s.setCoreAt k c).overPower = s.overPower := rfl
@[simp] theorem State.setCoreAt_temp (s : State) (k : Nat) (c : Core) : (s.setCoreAt k c).temp = s.temp := rfl
@[simp] theorem State.setCoreAt_eccHits (s : State) (k : Nat) (c : Core) : (s.setCoreAt k c).eccHits = s.eccHits := rfl
@[simp] theorem State.setCoreAt_plugins (s : State) (k : Nat) (c : Core) : (s.setCoreAt k c).plugins = s.plugins := rfl
@[simp] theorem State.setCoreAt_stopped (s : State) (k : Nat) (c : Core) : (s.setCoreAt k c).stopped = s.stopped := rfl
@[simp] theorem State.setCoreAt_policies (s : State) (k : Nat) (c : Core) : (s.setCoreAt k c).policies = s.policies := rfl
@[simp] theorem State.setCoreAt_restarting (s : State) (k : Nat) (c : Core) : (s.setCoreAt k c).restarting = s.restarting := rfl
@[simp] theorem State.setCoreAt_mapOut (s : State) (k : Nat) (c : Core) : (s.setCoreAt k c).mapOut = s.mapOut := rfl
@[simp] theorem State.setCoreAt_rvs (s : State) (k : Nat) (c : Core) : (s.setCoreAt k c).rvs = s.rvs := rfl
@[simp] theorem State.setCoreAt_nextId (s : State) (k : Nat) (c : Core) : (s.setCoreAt k c).nextId = s.nextId := rfl
@[simp] theorem State.setCoreAt_cur (s : State) (k : Nat) (c : Core) : (s.setCoreAt k c).cur = s.cur := rfl
@[simp] theorem State.setCoreAt_unit (s : State) (k : Nat) (c : Core) : (s.setCoreAt k c).unit = s.unit := rfl
@[simp] theorem State.setCoreAt_ir (s : State) (k : Nat) (c : Core) : (s.setCoreAt k c).ir = s.ir := rfl
@[simp] theorem State.setCoreAt_order (s : State) (k : Nat) (c : Core) : (s.setCoreAt k c).order = s.order := rfl
@[simp] theorem State.setCoreAt_stalled (s : State) (k : Nat) (c : Core) : (s.setCoreAt k c).stalled = s.stalled := rfl
@[simp] theorem State.setCoreAt_byLane (s : State) (k : Nat) (c : Core) : (s.setCoreAt k c).byLane = s.byLane := rfl
@[simp] theorem State.setCoreAt_agenda (s : State) (k : Nat) (c : Core) : (s.setCoreAt k c).agenda = s.agenda := rfl
@[simp] theorem State.setCoreAt_freeCount (s : State) (k : Nat) (c : Core) : (s.setCoreAt k c).freeCount = s.freeCount := rfl

/-! ### setLaunch -/

@[simp] theorem State.setLaunch_mem (s : State) (k : Nat) (l : Launch) : (s.setLaunch k l).mem = s.mem := rfl
@[simp] theorem State.setLaunch_keyOf (s : State) (k : Nat) (l : Launch) : (s.setLaunch k l).keyOf = s.keyOf := rfl
@[simp] theorem State.setLaunch_dirty (s : State) (k : Nat) (l : Launch) : (s.setLaunch k l).dirty = s.dirty := rfl
@[simp] theorem State.setLaunch_keys (s : State) (k : Nat) (l : Launch) : (s.setLaunch k l).keys = s.keys := rfl
@[simp] theorem State.setLaunch_access (s : State) (k : Nat) (l : Launch) : (s.setLaunch k l).access = s.access := rfl
@[simp] theorem State.setLaunch_portKeys (s : State) (k : Nat) (l : Launch) : (s.setLaunch k l).portKeys = s.portKeys := rfl
@[simp] theorem State.setLaunch_tlb (s : State) (k : Nat) (l : Launch) : (s.setLaunch k l).tlb = s.tlb := rfl
@[simp] theorem State.setLaunch_faults (s : State) (k : Nat) (l : Launch) : (s.setLaunch k l).faults = s.faults := rfl
@[simp] theorem State.setLaunch_tick (s : State) (k : Nat) (l : Launch) : (s.setLaunch k l).tick = s.tick := rfl
@[simp] theorem State.setLaunch_ctxTable (s : State) (k : Nat) (l : Launch) : (s.setLaunch k l).ctxTable = s.ctxTable := rfl
@[simp] theorem State.setLaunch_ctxs (s : State) (k : Nat) (l : Launch) : (s.setLaunch k l).ctxs = s.ctxs := rfl
@[simp] theorem State.setLaunch_wgs (s : State) (k : Nat) (l : Launch) : (s.setLaunch k l).wgs = s.wgs := rfl
@[simp] theorem State.setLaunch_warps (s : State) (k : Nat) (l : Launch) : (s.setLaunch k l).warps = s.warps := rfl
@[simp] theorem State.setLaunch_cores (s : State) (k : Nat) (l : Launch) : (s.setLaunch k l).cores = s.cores := rfl
@[simp] theorem State.setLaunch_budgets (s : State) (k : Nat) (l : Launch) : (s.setLaunch k l).budgets = s.budgets := rfl
@[simp] theorem State.setLaunch_queues (s : State) (k : Nat) (l : Launch) : (s.setLaunch k l).queues = s.queues := rfl
@[simp] theorem State.setLaunch_deadlines (s : State) (k : Nat) (l : Launch) : (s.setLaunch k l).deadlines = s.deadlines := rfl
@[simp] theorem State.setLaunch_pipes (s : State) (k : Nat) (l : Launch) : (s.setLaunch k l).pipes = s.pipes := rfl
@[simp] theorem State.setLaunch_takes (s : State) (k : Nat) (l : Launch) : (s.setLaunch k l).takes = s.takes := rfl
@[simp] theorem State.setLaunch_moves (s : State) (k : Nat) (l : Launch) : (s.setLaunch k l).moves = s.moves := rfl
@[simp] theorem State.setLaunch_worlds (s : State) (k : Nat) (l : Launch) : (s.setLaunch k l).worlds = s.worlds := rfl
@[simp] theorem State.setLaunch_objs (s : State) (k : Nat) (l : Launch) : (s.setLaunch k l).objs = s.objs := rfl
@[simp] theorem State.setLaunch_nets (s : State) (k : Nat) (l : Launch) : (s.setLaunch k l).nets = s.nets := rfl
@[simp] theorem State.setLaunch_binds (s : State) (k : Nat) (l : Launch) : (s.setLaunch k l).binds = s.binds := rfl
@[simp] theorem State.setLaunch_pending (s : State) (k : Nat) (l : Launch) : (s.setLaunch k l).pending = s.pending := rfl
@[simp] theorem State.setLaunch_posts (s : State) (k : Nat) (l : Launch) : (s.setLaunch k l).posts = s.posts := rfl
@[simp] theorem State.setLaunch_ports (s : State) (k : Nat) (l : Launch) : (s.setLaunch k l).ports = s.ports := rfl
@[simp] theorem State.setLaunch_routes (s : State) (k : Nat) (l : Launch) : (s.setLaunch k l).routes = s.routes := rfl
@[simp] theorem State.setLaunch_devid (s : State) (k : Nat) (l : Launch) : (s.setLaunch k l).devid = s.devid := rfl
@[simp] theorem State.setLaunch_aperture (s : State) (k : Nat) (l : Launch) : (s.setLaunch k l).aperture = s.aperture := rfl
@[simp] theorem State.setLaunch_hostOut (s : State) (k : Nat) (l : Launch) : (s.setLaunch k l).hostOut = s.hostOut := rfl
@[simp] theorem State.setLaunch_etherOut (s : State) (k : Nat) (l : Launch) : (s.setLaunch k l).etherOut = s.etherOut := rfl
@[simp] theorem State.setLaunch_conns (s : State) (k : Nat) (l : Launch) : (s.setLaunch k l).conns = s.conns := rfl
@[simp] theorem State.setLaunch_slices (s : State) (k : Nat) (l : Launch) : (s.setLaunch k l).slices = s.slices := rfl
@[simp] theorem State.setLaunch_early (s : State) (k : Nat) (l : Launch) : (s.setLaunch k l).early = s.early := rfl
@[simp] theorem State.setLaunch_told (s : State) (k : Nat) (l : Launch) : (s.setLaunch k l).told = s.told := rfl
@[simp] theorem State.setLaunch_migrations (s : State) (k : Nat) (l : Launch) : (s.setLaunch k l).migrations = s.migrations := rfl
@[simp] theorem State.setLaunch_ckpt (s : State) (k : Nat) (l : Launch) : (s.setLaunch k l).ckpt = s.ckpt := rfl
@[simp] theorem State.setLaunch_store (s : State) (k : Nat) (l : Launch) : (s.setLaunch k l).store = s.store := rfl
@[simp] theorem State.setLaunch_commands (s : State) (k : Nat) (l : Launch) : (s.setLaunch k l).commands = s.commands := rfl
@[simp] theorem State.setLaunch_completions (s : State) (k : Nat) (l : Launch) : (s.setLaunch k l).completions = s.completions := rfl
@[simp] theorem State.setLaunch_ctlMem (s : State) (k : Nat) (l : Launch) : (s.setLaunch k l).ctlMem = s.ctlMem := rfl
@[simp] theorem State.setLaunch_flash (s : State) (k : Nat) (l : Launch) : (s.setLaunch k l).flash = s.flash := rfl
@[simp] theorem State.setLaunch_power (s : State) (k : Nat) (l : Launch) : (s.setLaunch k l).power = s.power := rfl
@[simp] theorem State.setLaunch_bootstat (s : State) (k : Nat) (l : Launch) : (s.setLaunch k l).bootstat = s.bootstat := rfl
@[simp] theorem State.setLaunch_meas (s : State) (k : Nat) (l : Launch) : (s.setLaunch k l).meas = s.meas := rfl
@[simp] theorem State.setLaunch_eccfix (s : State) (k : Nat) (l : Launch) : (s.setLaunch k l).eccfix = s.eccfix := rfl
@[simp] theorem State.setLaunch_eccbad (s : State) (k : Nat) (l : Launch) : (s.setLaunch k l).eccbad = s.eccbad := rfl
@[simp] theorem State.setLaunch_withheld (s : State) (k : Nat) (l : Launch) : (s.setLaunch k l).withheld = s.withheld := rfl
@[simp] theorem State.setLaunch_watts (s : State) (k : Nat) (l : Launch) : (s.setLaunch k l).watts = s.watts := rfl
@[simp] theorem State.setLaunch_throttled (s : State) (k : Nat) (l : Launch) : (s.setLaunch k l).throttled = s.throttled := rfl
@[simp] theorem State.setLaunch_overPower (s : State) (k : Nat) (l : Launch) : (s.setLaunch k l).overPower = s.overPower := rfl
@[simp] theorem State.setLaunch_temp (s : State) (k : Nat) (l : Launch) : (s.setLaunch k l).temp = s.temp := rfl
@[simp] theorem State.setLaunch_eccHits (s : State) (k : Nat) (l : Launch) : (s.setLaunch k l).eccHits = s.eccHits := rfl
@[simp] theorem State.setLaunch_plugins (s : State) (k : Nat) (l : Launch) : (s.setLaunch k l).plugins = s.plugins := rfl
@[simp] theorem State.setLaunch_stopped (s : State) (k : Nat) (l : Launch) : (s.setLaunch k l).stopped = s.stopped := rfl
@[simp] theorem State.setLaunch_policies (s : State) (k : Nat) (l : Launch) : (s.setLaunch k l).policies = s.policies := rfl
@[simp] theorem State.setLaunch_restarting (s : State) (k : Nat) (l : Launch) : (s.setLaunch k l).restarting = s.restarting := rfl
@[simp] theorem State.setLaunch_mapOut (s : State) (k : Nat) (l : Launch) : (s.setLaunch k l).mapOut = s.mapOut := rfl
@[simp] theorem State.setLaunch_rvs (s : State) (k : Nat) (l : Launch) : (s.setLaunch k l).rvs = s.rvs := rfl
@[simp] theorem State.setLaunch_nextId (s : State) (k : Nat) (l : Launch) : (s.setLaunch k l).nextId = s.nextId := rfl
@[simp] theorem State.setLaunch_cur (s : State) (k : Nat) (l : Launch) : (s.setLaunch k l).cur = s.cur := rfl
@[simp] theorem State.setLaunch_unit (s : State) (k : Nat) (l : Launch) : (s.setLaunch k l).unit = s.unit := rfl
@[simp] theorem State.setLaunch_ir (s : State) (k : Nat) (l : Launch) : (s.setLaunch k l).ir = s.ir := rfl
@[simp] theorem State.setLaunch_order (s : State) (k : Nat) (l : Launch) : (s.setLaunch k l).order = s.order := rfl
@[simp] theorem State.setLaunch_stalled (s : State) (k : Nat) (l : Launch) : (s.setLaunch k l).stalled = s.stalled := rfl
@[simp] theorem State.setLaunch_byLane (s : State) (k : Nat) (l : Launch) : (s.setLaunch k l).byLane = s.byLane := rfl
@[simp] theorem State.setLaunch_agenda (s : State) (k : Nat) (l : Launch) : (s.setLaunch k l).agenda = s.agenda := rfl
@[simp] theorem State.setLaunch_freeCount (s : State) (k : Nat) (l : Launch) : (s.setLaunch k l).freeCount = s.freeCount := rfl

/-! ### setQueue -/

@[simp] theorem State.setQueue_mem (s : State) (k : Nat) (q : Queue) : (s.setQueue k q).mem = s.mem := rfl
@[simp] theorem State.setQueue_keyOf (s : State) (k : Nat) (q : Queue) : (s.setQueue k q).keyOf = s.keyOf := rfl
@[simp] theorem State.setQueue_dirty (s : State) (k : Nat) (q : Queue) : (s.setQueue k q).dirty = s.dirty := rfl
@[simp] theorem State.setQueue_keys (s : State) (k : Nat) (q : Queue) : (s.setQueue k q).keys = s.keys := rfl
@[simp] theorem State.setQueue_access (s : State) (k : Nat) (q : Queue) : (s.setQueue k q).access = s.access := rfl
@[simp] theorem State.setQueue_portKeys (s : State) (k : Nat) (q : Queue) : (s.setQueue k q).portKeys = s.portKeys := rfl
@[simp] theorem State.setQueue_tlb (s : State) (k : Nat) (q : Queue) : (s.setQueue k q).tlb = s.tlb := rfl
@[simp] theorem State.setQueue_faults (s : State) (k : Nat) (q : Queue) : (s.setQueue k q).faults = s.faults := rfl
@[simp] theorem State.setQueue_tick (s : State) (k : Nat) (q : Queue) : (s.setQueue k q).tick = s.tick := rfl
@[simp] theorem State.setQueue_ctxTable (s : State) (k : Nat) (q : Queue) : (s.setQueue k q).ctxTable = s.ctxTable := rfl
@[simp] theorem State.setQueue_ctxs (s : State) (k : Nat) (q : Queue) : (s.setQueue k q).ctxs = s.ctxs := rfl
@[simp] theorem State.setQueue_wgs (s : State) (k : Nat) (q : Queue) : (s.setQueue k q).wgs = s.wgs := rfl
@[simp] theorem State.setQueue_warps (s : State) (k : Nat) (q : Queue) : (s.setQueue k q).warps = s.warps := rfl
@[simp] theorem State.setQueue_cores (s : State) (k : Nat) (q : Queue) : (s.setQueue k q).cores = s.cores := rfl
@[simp] theorem State.setQueue_launches (s : State) (k : Nat) (q : Queue) : (s.setQueue k q).launches = s.launches := rfl
@[simp] theorem State.setQueue_budgets (s : State) (k : Nat) (q : Queue) : (s.setQueue k q).budgets = s.budgets := rfl
@[simp] theorem State.setQueue_deadlines (s : State) (k : Nat) (q : Queue) : (s.setQueue k q).deadlines = s.deadlines := rfl
@[simp] theorem State.setQueue_pipes (s : State) (k : Nat) (q : Queue) : (s.setQueue k q).pipes = s.pipes := rfl
@[simp] theorem State.setQueue_takes (s : State) (k : Nat) (q : Queue) : (s.setQueue k q).takes = s.takes := rfl
@[simp] theorem State.setQueue_moves (s : State) (k : Nat) (q : Queue) : (s.setQueue k q).moves = s.moves := rfl
@[simp] theorem State.setQueue_worlds (s : State) (k : Nat) (q : Queue) : (s.setQueue k q).worlds = s.worlds := rfl
@[simp] theorem State.setQueue_objs (s : State) (k : Nat) (q : Queue) : (s.setQueue k q).objs = s.objs := rfl
@[simp] theorem State.setQueue_nets (s : State) (k : Nat) (q : Queue) : (s.setQueue k q).nets = s.nets := rfl
@[simp] theorem State.setQueue_binds (s : State) (k : Nat) (q : Queue) : (s.setQueue k q).binds = s.binds := rfl
@[simp] theorem State.setQueue_pending (s : State) (k : Nat) (q : Queue) : (s.setQueue k q).pending = s.pending := rfl
@[simp] theorem State.setQueue_posts (s : State) (k : Nat) (q : Queue) : (s.setQueue k q).posts = s.posts := rfl
@[simp] theorem State.setQueue_ports (s : State) (k : Nat) (q : Queue) : (s.setQueue k q).ports = s.ports := rfl
@[simp] theorem State.setQueue_routes (s : State) (k : Nat) (q : Queue) : (s.setQueue k q).routes = s.routes := rfl
@[simp] theorem State.setQueue_devid (s : State) (k : Nat) (q : Queue) : (s.setQueue k q).devid = s.devid := rfl
@[simp] theorem State.setQueue_aperture (s : State) (k : Nat) (q : Queue) : (s.setQueue k q).aperture = s.aperture := rfl
@[simp] theorem State.setQueue_hostOut (s : State) (k : Nat) (q : Queue) : (s.setQueue k q).hostOut = s.hostOut := rfl
@[simp] theorem State.setQueue_etherOut (s : State) (k : Nat) (q : Queue) : (s.setQueue k q).etherOut = s.etherOut := rfl
@[simp] theorem State.setQueue_conns (s : State) (k : Nat) (q : Queue) : (s.setQueue k q).conns = s.conns := rfl
@[simp] theorem State.setQueue_slices (s : State) (k : Nat) (q : Queue) : (s.setQueue k q).slices = s.slices := rfl
@[simp] theorem State.setQueue_early (s : State) (k : Nat) (q : Queue) : (s.setQueue k q).early = s.early := rfl
@[simp] theorem State.setQueue_told (s : State) (k : Nat) (q : Queue) : (s.setQueue k q).told = s.told := rfl
@[simp] theorem State.setQueue_migrations (s : State) (k : Nat) (q : Queue) : (s.setQueue k q).migrations = s.migrations := rfl
@[simp] theorem State.setQueue_ckpt (s : State) (k : Nat) (q : Queue) : (s.setQueue k q).ckpt = s.ckpt := rfl
@[simp] theorem State.setQueue_store (s : State) (k : Nat) (q : Queue) : (s.setQueue k q).store = s.store := rfl
@[simp] theorem State.setQueue_commands (s : State) (k : Nat) (q : Queue) : (s.setQueue k q).commands = s.commands := rfl
@[simp] theorem State.setQueue_completions (s : State) (k : Nat) (q : Queue) : (s.setQueue k q).completions = s.completions := rfl
@[simp] theorem State.setQueue_ctlMem (s : State) (k : Nat) (q : Queue) : (s.setQueue k q).ctlMem = s.ctlMem := rfl
@[simp] theorem State.setQueue_flash (s : State) (k : Nat) (q : Queue) : (s.setQueue k q).flash = s.flash := rfl
@[simp] theorem State.setQueue_power (s : State) (k : Nat) (q : Queue) : (s.setQueue k q).power = s.power := rfl
@[simp] theorem State.setQueue_bootstat (s : State) (k : Nat) (q : Queue) : (s.setQueue k q).bootstat = s.bootstat := rfl
@[simp] theorem State.setQueue_meas (s : State) (k : Nat) (q : Queue) : (s.setQueue k q).meas = s.meas := rfl
@[simp] theorem State.setQueue_eccfix (s : State) (k : Nat) (q : Queue) : (s.setQueue k q).eccfix = s.eccfix := rfl
@[simp] theorem State.setQueue_eccbad (s : State) (k : Nat) (q : Queue) : (s.setQueue k q).eccbad = s.eccbad := rfl
@[simp] theorem State.setQueue_withheld (s : State) (k : Nat) (q : Queue) : (s.setQueue k q).withheld = s.withheld := rfl
@[simp] theorem State.setQueue_watts (s : State) (k : Nat) (q : Queue) : (s.setQueue k q).watts = s.watts := rfl
@[simp] theorem State.setQueue_throttled (s : State) (k : Nat) (q : Queue) : (s.setQueue k q).throttled = s.throttled := rfl
@[simp] theorem State.setQueue_overPower (s : State) (k : Nat) (q : Queue) : (s.setQueue k q).overPower = s.overPower := rfl
@[simp] theorem State.setQueue_temp (s : State) (k : Nat) (q : Queue) : (s.setQueue k q).temp = s.temp := rfl
@[simp] theorem State.setQueue_eccHits (s : State) (k : Nat) (q : Queue) : (s.setQueue k q).eccHits = s.eccHits := rfl
@[simp] theorem State.setQueue_plugins (s : State) (k : Nat) (q : Queue) : (s.setQueue k q).plugins = s.plugins := rfl
@[simp] theorem State.setQueue_stopped (s : State) (k : Nat) (q : Queue) : (s.setQueue k q).stopped = s.stopped := rfl
@[simp] theorem State.setQueue_policies (s : State) (k : Nat) (q : Queue) : (s.setQueue k q).policies = s.policies := rfl
@[simp] theorem State.setQueue_restarting (s : State) (k : Nat) (q : Queue) : (s.setQueue k q).restarting = s.restarting := rfl
@[simp] theorem State.setQueue_mapOut (s : State) (k : Nat) (q : Queue) : (s.setQueue k q).mapOut = s.mapOut := rfl
@[simp] theorem State.setQueue_rvs (s : State) (k : Nat) (q : Queue) : (s.setQueue k q).rvs = s.rvs := rfl
@[simp] theorem State.setQueue_nextId (s : State) (k : Nat) (q : Queue) : (s.setQueue k q).nextId = s.nextId := rfl
@[simp] theorem State.setQueue_cur (s : State) (k : Nat) (q : Queue) : (s.setQueue k q).cur = s.cur := rfl
@[simp] theorem State.setQueue_unit (s : State) (k : Nat) (q : Queue) : (s.setQueue k q).unit = s.unit := rfl
@[simp] theorem State.setQueue_ir (s : State) (k : Nat) (q : Queue) : (s.setQueue k q).ir = s.ir := rfl
@[simp] theorem State.setQueue_order (s : State) (k : Nat) (q : Queue) : (s.setQueue k q).order = s.order := rfl
@[simp] theorem State.setQueue_stalled (s : State) (k : Nat) (q : Queue) : (s.setQueue k q).stalled = s.stalled := rfl
@[simp] theorem State.setQueue_byLane (s : State) (k : Nat) (q : Queue) : (s.setQueue k q).byLane = s.byLane := rfl
@[simp] theorem State.setQueue_agenda (s : State) (k : Nat) (q : Queue) : (s.setQueue k q).agenda = s.agenda := rfl
@[simp] theorem State.setQueue_freeCount (s : State) (k : Nat) (q : Queue) : (s.setQueue k q).freeCount = s.freeCount := rfl

/-! ### setCtx -/

@[simp] theorem State.setCtx_mem (s : State) (k : Nat) (c : Context) : (s.setCtx k c).mem = s.mem := rfl
@[simp] theorem State.setCtx_keyOf (s : State) (k : Nat) (c : Context) : (s.setCtx k c).keyOf = s.keyOf := rfl
@[simp] theorem State.setCtx_dirty (s : State) (k : Nat) (c : Context) : (s.setCtx k c).dirty = s.dirty := rfl
@[simp] theorem State.setCtx_keys (s : State) (k : Nat) (c : Context) : (s.setCtx k c).keys = s.keys := rfl
@[simp] theorem State.setCtx_access (s : State) (k : Nat) (c : Context) : (s.setCtx k c).access = s.access := rfl
@[simp] theorem State.setCtx_portKeys (s : State) (k : Nat) (c : Context) : (s.setCtx k c).portKeys = s.portKeys := rfl
@[simp] theorem State.setCtx_tlb (s : State) (k : Nat) (c : Context) : (s.setCtx k c).tlb = s.tlb := rfl
@[simp] theorem State.setCtx_faults (s : State) (k : Nat) (c : Context) : (s.setCtx k c).faults = s.faults := rfl
@[simp] theorem State.setCtx_tick (s : State) (k : Nat) (c : Context) : (s.setCtx k c).tick = s.tick := rfl
@[simp] theorem State.setCtx_ctxTable (s : State) (k : Nat) (c : Context) : (s.setCtx k c).ctxTable = s.ctxTable := rfl
@[simp] theorem State.setCtx_wgs (s : State) (k : Nat) (c : Context) : (s.setCtx k c).wgs = s.wgs := rfl
@[simp] theorem State.setCtx_warps (s : State) (k : Nat) (c : Context) : (s.setCtx k c).warps = s.warps := rfl
@[simp] theorem State.setCtx_cores (s : State) (k : Nat) (c : Context) : (s.setCtx k c).cores = s.cores := rfl
@[simp] theorem State.setCtx_launches (s : State) (k : Nat) (c : Context) : (s.setCtx k c).launches = s.launches := rfl
@[simp] theorem State.setCtx_budgets (s : State) (k : Nat) (c : Context) : (s.setCtx k c).budgets = s.budgets := rfl
@[simp] theorem State.setCtx_queues (s : State) (k : Nat) (c : Context) : (s.setCtx k c).queues = s.queues := rfl
@[simp] theorem State.setCtx_deadlines (s : State) (k : Nat) (c : Context) : (s.setCtx k c).deadlines = s.deadlines := rfl
@[simp] theorem State.setCtx_pipes (s : State) (k : Nat) (c : Context) : (s.setCtx k c).pipes = s.pipes := rfl
@[simp] theorem State.setCtx_takes (s : State) (k : Nat) (c : Context) : (s.setCtx k c).takes = s.takes := rfl
@[simp] theorem State.setCtx_moves (s : State) (k : Nat) (c : Context) : (s.setCtx k c).moves = s.moves := rfl
@[simp] theorem State.setCtx_worlds (s : State) (k : Nat) (c : Context) : (s.setCtx k c).worlds = s.worlds := rfl
@[simp] theorem State.setCtx_objs (s : State) (k : Nat) (c : Context) : (s.setCtx k c).objs = s.objs := rfl
@[simp] theorem State.setCtx_nets (s : State) (k : Nat) (c : Context) : (s.setCtx k c).nets = s.nets := rfl
@[simp] theorem State.setCtx_binds (s : State) (k : Nat) (c : Context) : (s.setCtx k c).binds = s.binds := rfl
@[simp] theorem State.setCtx_pending (s : State) (k : Nat) (c : Context) : (s.setCtx k c).pending = s.pending := rfl
@[simp] theorem State.setCtx_posts (s : State) (k : Nat) (c : Context) : (s.setCtx k c).posts = s.posts := rfl
@[simp] theorem State.setCtx_ports (s : State) (k : Nat) (c : Context) : (s.setCtx k c).ports = s.ports := rfl
@[simp] theorem State.setCtx_routes (s : State) (k : Nat) (c : Context) : (s.setCtx k c).routes = s.routes := rfl
@[simp] theorem State.setCtx_devid (s : State) (k : Nat) (c : Context) : (s.setCtx k c).devid = s.devid := rfl
@[simp] theorem State.setCtx_aperture (s : State) (k : Nat) (c : Context) : (s.setCtx k c).aperture = s.aperture := rfl
@[simp] theorem State.setCtx_hostOut (s : State) (k : Nat) (c : Context) : (s.setCtx k c).hostOut = s.hostOut := rfl
@[simp] theorem State.setCtx_etherOut (s : State) (k : Nat) (c : Context) : (s.setCtx k c).etherOut = s.etherOut := rfl
@[simp] theorem State.setCtx_conns (s : State) (k : Nat) (c : Context) : (s.setCtx k c).conns = s.conns := rfl
@[simp] theorem State.setCtx_slices (s : State) (k : Nat) (c : Context) : (s.setCtx k c).slices = s.slices := rfl
@[simp] theorem State.setCtx_early (s : State) (k : Nat) (c : Context) : (s.setCtx k c).early = s.early := rfl
@[simp] theorem State.setCtx_told (s : State) (k : Nat) (c : Context) : (s.setCtx k c).told = s.told := rfl
@[simp] theorem State.setCtx_migrations (s : State) (k : Nat) (c : Context) : (s.setCtx k c).migrations = s.migrations := rfl
@[simp] theorem State.setCtx_ckpt (s : State) (k : Nat) (c : Context) : (s.setCtx k c).ckpt = s.ckpt := rfl
@[simp] theorem State.setCtx_store (s : State) (k : Nat) (c : Context) : (s.setCtx k c).store = s.store := rfl
@[simp] theorem State.setCtx_commands (s : State) (k : Nat) (c : Context) : (s.setCtx k c).commands = s.commands := rfl
@[simp] theorem State.setCtx_completions (s : State) (k : Nat) (c : Context) : (s.setCtx k c).completions = s.completions := rfl
@[simp] theorem State.setCtx_ctlMem (s : State) (k : Nat) (c : Context) : (s.setCtx k c).ctlMem = s.ctlMem := rfl
@[simp] theorem State.setCtx_flash (s : State) (k : Nat) (c : Context) : (s.setCtx k c).flash = s.flash := rfl
@[simp] theorem State.setCtx_power (s : State) (k : Nat) (c : Context) : (s.setCtx k c).power = s.power := rfl
@[simp] theorem State.setCtx_bootstat (s : State) (k : Nat) (c : Context) : (s.setCtx k c).bootstat = s.bootstat := rfl
@[simp] theorem State.setCtx_meas (s : State) (k : Nat) (c : Context) : (s.setCtx k c).meas = s.meas := rfl
@[simp] theorem State.setCtx_eccfix (s : State) (k : Nat) (c : Context) : (s.setCtx k c).eccfix = s.eccfix := rfl
@[simp] theorem State.setCtx_eccbad (s : State) (k : Nat) (c : Context) : (s.setCtx k c).eccbad = s.eccbad := rfl
@[simp] theorem State.setCtx_withheld (s : State) (k : Nat) (c : Context) : (s.setCtx k c).withheld = s.withheld := rfl
@[simp] theorem State.setCtx_watts (s : State) (k : Nat) (c : Context) : (s.setCtx k c).watts = s.watts := rfl
@[simp] theorem State.setCtx_throttled (s : State) (k : Nat) (c : Context) : (s.setCtx k c).throttled = s.throttled := rfl
@[simp] theorem State.setCtx_overPower (s : State) (k : Nat) (c : Context) : (s.setCtx k c).overPower = s.overPower := rfl
@[simp] theorem State.setCtx_temp (s : State) (k : Nat) (c : Context) : (s.setCtx k c).temp = s.temp := rfl
@[simp] theorem State.setCtx_eccHits (s : State) (k : Nat) (c : Context) : (s.setCtx k c).eccHits = s.eccHits := rfl
@[simp] theorem State.setCtx_plugins (s : State) (k : Nat) (c : Context) : (s.setCtx k c).plugins = s.plugins := rfl
@[simp] theorem State.setCtx_stopped (s : State) (k : Nat) (c : Context) : (s.setCtx k c).stopped = s.stopped := rfl
@[simp] theorem State.setCtx_policies (s : State) (k : Nat) (c : Context) : (s.setCtx k c).policies = s.policies := rfl
@[simp] theorem State.setCtx_restarting (s : State) (k : Nat) (c : Context) : (s.setCtx k c).restarting = s.restarting := rfl
@[simp] theorem State.setCtx_mapOut (s : State) (k : Nat) (c : Context) : (s.setCtx k c).mapOut = s.mapOut := rfl
@[simp] theorem State.setCtx_rvs (s : State) (k : Nat) (c : Context) : (s.setCtx k c).rvs = s.rvs := rfl
@[simp] theorem State.setCtx_nextId (s : State) (k : Nat) (c : Context) : (s.setCtx k c).nextId = s.nextId := rfl
@[simp] theorem State.setCtx_cur (s : State) (k : Nat) (c : Context) : (s.setCtx k c).cur = s.cur := rfl
@[simp] theorem State.setCtx_unit (s : State) (k : Nat) (c : Context) : (s.setCtx k c).unit = s.unit := rfl
@[simp] theorem State.setCtx_ir (s : State) (k : Nat) (c : Context) : (s.setCtx k c).ir = s.ir := rfl
@[simp] theorem State.setCtx_order (s : State) (k : Nat) (c : Context) : (s.setCtx k c).order = s.order := rfl
@[simp] theorem State.setCtx_stalled (s : State) (k : Nat) (c : Context) : (s.setCtx k c).stalled = s.stalled := rfl
@[simp] theorem State.setCtx_byLane (s : State) (k : Nat) (c : Context) : (s.setCtx k c).byLane = s.byLane := rfl
@[simp] theorem State.setCtx_agenda (s : State) (k : Nat) (c : Context) : (s.setCtx k c).agenda = s.agenda := rfl
@[simp] theorem State.setCtx_freeCount (s : State) (k : Nat) (c : Context) : (s.setCtx k c).freeCount = s.freeCount := rfl

/-! ### setW -/

@[simp] theorem State.setW_mem (s : State) (w : Warp) : (s.setW w).mem = s.mem := rfl
@[simp] theorem State.setW_keyOf (s : State) (w : Warp) : (s.setW w).keyOf = s.keyOf := rfl
@[simp] theorem State.setW_dirty (s : State) (w : Warp) : (s.setW w).dirty = s.dirty := rfl
@[simp] theorem State.setW_keys (s : State) (w : Warp) : (s.setW w).keys = s.keys := rfl
@[simp] theorem State.setW_access (s : State) (w : Warp) : (s.setW w).access = s.access := rfl
@[simp] theorem State.setW_portKeys (s : State) (w : Warp) : (s.setW w).portKeys = s.portKeys := rfl
@[simp] theorem State.setW_tlb (s : State) (w : Warp) : (s.setW w).tlb = s.tlb := rfl
@[simp] theorem State.setW_faults (s : State) (w : Warp) : (s.setW w).faults = s.faults := rfl
@[simp] theorem State.setW_tick (s : State) (w : Warp) : (s.setW w).tick = s.tick := rfl
@[simp] theorem State.setW_ctxTable (s : State) (w : Warp) : (s.setW w).ctxTable = s.ctxTable := rfl
@[simp] theorem State.setW_ctxs (s : State) (w : Warp) : (s.setW w).ctxs = s.ctxs := rfl
@[simp] theorem State.setW_wgs (s : State) (w : Warp) : (s.setW w).wgs = s.wgs := rfl
@[simp] theorem State.setW_cores (s : State) (w : Warp) : (s.setW w).cores = s.cores := rfl
@[simp] theorem State.setW_launches (s : State) (w : Warp) : (s.setW w).launches = s.launches := rfl
@[simp] theorem State.setW_budgets (s : State) (w : Warp) : (s.setW w).budgets = s.budgets := rfl
@[simp] theorem State.setW_queues (s : State) (w : Warp) : (s.setW w).queues = s.queues := rfl
@[simp] theorem State.setW_deadlines (s : State) (w : Warp) : (s.setW w).deadlines = s.deadlines := rfl
@[simp] theorem State.setW_pipes (s : State) (w : Warp) : (s.setW w).pipes = s.pipes := rfl
@[simp] theorem State.setW_takes (s : State) (w : Warp) : (s.setW w).takes = s.takes := rfl
@[simp] theorem State.setW_moves (s : State) (w : Warp) : (s.setW w).moves = s.moves := rfl
@[simp] theorem State.setW_worlds (s : State) (w : Warp) : (s.setW w).worlds = s.worlds := rfl
@[simp] theorem State.setW_objs (s : State) (w : Warp) : (s.setW w).objs = s.objs := rfl
@[simp] theorem State.setW_nets (s : State) (w : Warp) : (s.setW w).nets = s.nets := rfl
@[simp] theorem State.setW_binds (s : State) (w : Warp) : (s.setW w).binds = s.binds := rfl
@[simp] theorem State.setW_pending (s : State) (w : Warp) : (s.setW w).pending = s.pending := rfl
@[simp] theorem State.setW_posts (s : State) (w : Warp) : (s.setW w).posts = s.posts := rfl
@[simp] theorem State.setW_ports (s : State) (w : Warp) : (s.setW w).ports = s.ports := rfl
@[simp] theorem State.setW_routes (s : State) (w : Warp) : (s.setW w).routes = s.routes := rfl
@[simp] theorem State.setW_devid (s : State) (w : Warp) : (s.setW w).devid = s.devid := rfl
@[simp] theorem State.setW_aperture (s : State) (w : Warp) : (s.setW w).aperture = s.aperture := rfl
@[simp] theorem State.setW_hostOut (s : State) (w : Warp) : (s.setW w).hostOut = s.hostOut := rfl
@[simp] theorem State.setW_etherOut (s : State) (w : Warp) : (s.setW w).etherOut = s.etherOut := rfl
@[simp] theorem State.setW_conns (s : State) (w : Warp) : (s.setW w).conns = s.conns := rfl
@[simp] theorem State.setW_slices (s : State) (w : Warp) : (s.setW w).slices = s.slices := rfl
@[simp] theorem State.setW_early (s : State) (w : Warp) : (s.setW w).early = s.early := rfl
@[simp] theorem State.setW_told (s : State) (w : Warp) : (s.setW w).told = s.told := rfl
@[simp] theorem State.setW_migrations (s : State) (w : Warp) : (s.setW w).migrations = s.migrations := rfl
@[simp] theorem State.setW_ckpt (s : State) (w : Warp) : (s.setW w).ckpt = s.ckpt := rfl
@[simp] theorem State.setW_store (s : State) (w : Warp) : (s.setW w).store = s.store := rfl
@[simp] theorem State.setW_commands (s : State) (w : Warp) : (s.setW w).commands = s.commands := rfl
@[simp] theorem State.setW_completions (s : State) (w : Warp) : (s.setW w).completions = s.completions := rfl
@[simp] theorem State.setW_ctlMem (s : State) (w : Warp) : (s.setW w).ctlMem = s.ctlMem := rfl
@[simp] theorem State.setW_flash (s : State) (w : Warp) : (s.setW w).flash = s.flash := rfl
@[simp] theorem State.setW_power (s : State) (w : Warp) : (s.setW w).power = s.power := rfl
@[simp] theorem State.setW_bootstat (s : State) (w : Warp) : (s.setW w).bootstat = s.bootstat := rfl
@[simp] theorem State.setW_meas (s : State) (w : Warp) : (s.setW w).meas = s.meas := rfl
@[simp] theorem State.setW_eccfix (s : State) (w : Warp) : (s.setW w).eccfix = s.eccfix := rfl
@[simp] theorem State.setW_eccbad (s : State) (w : Warp) : (s.setW w).eccbad = s.eccbad := rfl
@[simp] theorem State.setW_withheld (s : State) (w : Warp) : (s.setW w).withheld = s.withheld := rfl
@[simp] theorem State.setW_watts (s : State) (w : Warp) : (s.setW w).watts = s.watts := rfl
@[simp] theorem State.setW_throttled (s : State) (w : Warp) : (s.setW w).throttled = s.throttled := rfl
@[simp] theorem State.setW_overPower (s : State) (w : Warp) : (s.setW w).overPower = s.overPower := rfl
@[simp] theorem State.setW_temp (s : State) (w : Warp) : (s.setW w).temp = s.temp := rfl
@[simp] theorem State.setW_eccHits (s : State) (w : Warp) : (s.setW w).eccHits = s.eccHits := rfl
@[simp] theorem State.setW_plugins (s : State) (w : Warp) : (s.setW w).plugins = s.plugins := rfl
@[simp] theorem State.setW_stopped (s : State) (w : Warp) : (s.setW w).stopped = s.stopped := rfl
@[simp] theorem State.setW_policies (s : State) (w : Warp) : (s.setW w).policies = s.policies := rfl
@[simp] theorem State.setW_restarting (s : State) (w : Warp) : (s.setW w).restarting = s.restarting := rfl
@[simp] theorem State.setW_mapOut (s : State) (w : Warp) : (s.setW w).mapOut = s.mapOut := rfl
@[simp] theorem State.setW_rvs (s : State) (w : Warp) : (s.setW w).rvs = s.rvs := rfl
@[simp] theorem State.setW_nextId (s : State) (w : Warp) : (s.setW w).nextId = s.nextId := rfl
@[simp] theorem State.setW_cur (s : State) (w : Warp) : (s.setW w).cur = s.cur := rfl
@[simp] theorem State.setW_unit (s : State) (w : Warp) : (s.setW w).unit = s.unit := rfl
@[simp] theorem State.setW_ir (s : State) (w : Warp) : (s.setW w).ir = s.ir := rfl
@[simp] theorem State.setW_order (s : State) (w : Warp) : (s.setW w).order = s.order := rfl
@[simp] theorem State.setW_stalled (s : State) (w : Warp) : (s.setW w).stalled = s.stalled := rfl
@[simp] theorem State.setW_byLane (s : State) (w : Warp) : (s.setW w).byLane = s.byLane := rfl
@[simp] theorem State.setW_agenda (s : State) (w : Warp) : (s.setW w).agenda = s.agenda := rfl
@[simp] theorem State.setW_freeCount (s : State) (w : Warp) : (s.setW w).freeCount = s.freeCount := rfl

/-! ### setG -/

@[simp] theorem State.setG_mem (s : State) (g : Workgroup) : (s.setG g).mem = s.mem := rfl
@[simp] theorem State.setG_keyOf (s : State) (g : Workgroup) : (s.setG g).keyOf = s.keyOf := rfl
@[simp] theorem State.setG_dirty (s : State) (g : Workgroup) : (s.setG g).dirty = s.dirty := rfl
@[simp] theorem State.setG_keys (s : State) (g : Workgroup) : (s.setG g).keys = s.keys := rfl
@[simp] theorem State.setG_access (s : State) (g : Workgroup) : (s.setG g).access = s.access := rfl
@[simp] theorem State.setG_portKeys (s : State) (g : Workgroup) : (s.setG g).portKeys = s.portKeys := rfl
@[simp] theorem State.setG_tlb (s : State) (g : Workgroup) : (s.setG g).tlb = s.tlb := rfl
@[simp] theorem State.setG_faults (s : State) (g : Workgroup) : (s.setG g).faults = s.faults := rfl
@[simp] theorem State.setG_tick (s : State) (g : Workgroup) : (s.setG g).tick = s.tick := rfl
@[simp] theorem State.setG_ctxTable (s : State) (g : Workgroup) : (s.setG g).ctxTable = s.ctxTable := rfl
@[simp] theorem State.setG_ctxs (s : State) (g : Workgroup) : (s.setG g).ctxs = s.ctxs := rfl
@[simp] theorem State.setG_warps (s : State) (g : Workgroup) : (s.setG g).warps = s.warps := rfl
@[simp] theorem State.setG_cores (s : State) (g : Workgroup) : (s.setG g).cores = s.cores := rfl
@[simp] theorem State.setG_launches (s : State) (g : Workgroup) : (s.setG g).launches = s.launches := rfl
@[simp] theorem State.setG_budgets (s : State) (g : Workgroup) : (s.setG g).budgets = s.budgets := rfl
@[simp] theorem State.setG_queues (s : State) (g : Workgroup) : (s.setG g).queues = s.queues := rfl
@[simp] theorem State.setG_deadlines (s : State) (g : Workgroup) : (s.setG g).deadlines = s.deadlines := rfl
@[simp] theorem State.setG_pipes (s : State) (g : Workgroup) : (s.setG g).pipes = s.pipes := rfl
@[simp] theorem State.setG_takes (s : State) (g : Workgroup) : (s.setG g).takes = s.takes := rfl
@[simp] theorem State.setG_moves (s : State) (g : Workgroup) : (s.setG g).moves = s.moves := rfl
@[simp] theorem State.setG_worlds (s : State) (g : Workgroup) : (s.setG g).worlds = s.worlds := rfl
@[simp] theorem State.setG_objs (s : State) (g : Workgroup) : (s.setG g).objs = s.objs := rfl
@[simp] theorem State.setG_nets (s : State) (g : Workgroup) : (s.setG g).nets = s.nets := rfl
@[simp] theorem State.setG_binds (s : State) (g : Workgroup) : (s.setG g).binds = s.binds := rfl
@[simp] theorem State.setG_pending (s : State) (g : Workgroup) : (s.setG g).pending = s.pending := rfl
@[simp] theorem State.setG_posts (s : State) (g : Workgroup) : (s.setG g).posts = s.posts := rfl
@[simp] theorem State.setG_ports (s : State) (g : Workgroup) : (s.setG g).ports = s.ports := rfl
@[simp] theorem State.setG_routes (s : State) (g : Workgroup) : (s.setG g).routes = s.routes := rfl
@[simp] theorem State.setG_devid (s : State) (g : Workgroup) : (s.setG g).devid = s.devid := rfl
@[simp] theorem State.setG_aperture (s : State) (g : Workgroup) : (s.setG g).aperture = s.aperture := rfl
@[simp] theorem State.setG_hostOut (s : State) (g : Workgroup) : (s.setG g).hostOut = s.hostOut := rfl
@[simp] theorem State.setG_etherOut (s : State) (g : Workgroup) : (s.setG g).etherOut = s.etherOut := rfl
@[simp] theorem State.setG_conns (s : State) (g : Workgroup) : (s.setG g).conns = s.conns := rfl
@[simp] theorem State.setG_slices (s : State) (g : Workgroup) : (s.setG g).slices = s.slices := rfl
@[simp] theorem State.setG_early (s : State) (g : Workgroup) : (s.setG g).early = s.early := rfl
@[simp] theorem State.setG_told (s : State) (g : Workgroup) : (s.setG g).told = s.told := rfl
@[simp] theorem State.setG_migrations (s : State) (g : Workgroup) : (s.setG g).migrations = s.migrations := rfl
@[simp] theorem State.setG_ckpt (s : State) (g : Workgroup) : (s.setG g).ckpt = s.ckpt := rfl
@[simp] theorem State.setG_store (s : State) (g : Workgroup) : (s.setG g).store = s.store := rfl
@[simp] theorem State.setG_commands (s : State) (g : Workgroup) : (s.setG g).commands = s.commands := rfl
@[simp] theorem State.setG_completions (s : State) (g : Workgroup) : (s.setG g).completions = s.completions := rfl
@[simp] theorem State.setG_ctlMem (s : State) (g : Workgroup) : (s.setG g).ctlMem = s.ctlMem := rfl
@[simp] theorem State.setG_flash (s : State) (g : Workgroup) : (s.setG g).flash = s.flash := rfl
@[simp] theorem State.setG_power (s : State) (g : Workgroup) : (s.setG g).power = s.power := rfl
@[simp] theorem State.setG_bootstat (s : State) (g : Workgroup) : (s.setG g).bootstat = s.bootstat := rfl
@[simp] theorem State.setG_meas (s : State) (g : Workgroup) : (s.setG g).meas = s.meas := rfl
@[simp] theorem State.setG_eccfix (s : State) (g : Workgroup) : (s.setG g).eccfix = s.eccfix := rfl
@[simp] theorem State.setG_eccbad (s : State) (g : Workgroup) : (s.setG g).eccbad = s.eccbad := rfl
@[simp] theorem State.setG_withheld (s : State) (g : Workgroup) : (s.setG g).withheld = s.withheld := rfl
@[simp] theorem State.setG_watts (s : State) (g : Workgroup) : (s.setG g).watts = s.watts := rfl
@[simp] theorem State.setG_throttled (s : State) (g : Workgroup) : (s.setG g).throttled = s.throttled := rfl
@[simp] theorem State.setG_overPower (s : State) (g : Workgroup) : (s.setG g).overPower = s.overPower := rfl
@[simp] theorem State.setG_temp (s : State) (g : Workgroup) : (s.setG g).temp = s.temp := rfl
@[simp] theorem State.setG_eccHits (s : State) (g : Workgroup) : (s.setG g).eccHits = s.eccHits := rfl
@[simp] theorem State.setG_plugins (s : State) (g : Workgroup) : (s.setG g).plugins = s.plugins := rfl
@[simp] theorem State.setG_stopped (s : State) (g : Workgroup) : (s.setG g).stopped = s.stopped := rfl
@[simp] theorem State.setG_policies (s : State) (g : Workgroup) : (s.setG g).policies = s.policies := rfl
@[simp] theorem State.setG_restarting (s : State) (g : Workgroup) : (s.setG g).restarting = s.restarting := rfl
@[simp] theorem State.setG_mapOut (s : State) (g : Workgroup) : (s.setG g).mapOut = s.mapOut := rfl
@[simp] theorem State.setG_rvs (s : State) (g : Workgroup) : (s.setG g).rvs = s.rvs := rfl
@[simp] theorem State.setG_nextId (s : State) (g : Workgroup) : (s.setG g).nextId = s.nextId := rfl
@[simp] theorem State.setG_cur (s : State) (g : Workgroup) : (s.setG g).cur = s.cur := rfl
@[simp] theorem State.setG_unit (s : State) (g : Workgroup) : (s.setG g).unit = s.unit := rfl
@[simp] theorem State.setG_ir (s : State) (g : Workgroup) : (s.setG g).ir = s.ir := rfl
@[simp] theorem State.setG_order (s : State) (g : Workgroup) : (s.setG g).order = s.order := rfl
@[simp] theorem State.setG_stalled (s : State) (g : Workgroup) : (s.setG g).stalled = s.stalled := rfl
@[simp] theorem State.setG_byLane (s : State) (g : Workgroup) : (s.setG g).byLane = s.byLane := rfl
@[simp] theorem State.setG_agenda (s : State) (g : Workgroup) : (s.setG g).agenda = s.agenda := rfl
@[simp] theorem State.setG_freeCount (s : State) (g : Workgroup) : (s.setG g).freeCount = s.freeCount := rfl

/-! ### setCore -/

@[simp] theorem State.setCore_mem (s : State) (c : Core) : (s.setCore c).mem = s.mem := rfl
@[simp] theorem State.setCore_keyOf (s : State) (c : Core) : (s.setCore c).keyOf = s.keyOf := rfl
@[simp] theorem State.setCore_dirty (s : State) (c : Core) : (s.setCore c).dirty = s.dirty := rfl
@[simp] theorem State.setCore_keys (s : State) (c : Core) : (s.setCore c).keys = s.keys := rfl
@[simp] theorem State.setCore_access (s : State) (c : Core) : (s.setCore c).access = s.access := rfl
@[simp] theorem State.setCore_portKeys (s : State) (c : Core) : (s.setCore c).portKeys = s.portKeys := rfl
@[simp] theorem State.setCore_tlb (s : State) (c : Core) : (s.setCore c).tlb = s.tlb := rfl
@[simp] theorem State.setCore_faults (s : State) (c : Core) : (s.setCore c).faults = s.faults := rfl
@[simp] theorem State.setCore_tick (s : State) (c : Core) : (s.setCore c).tick = s.tick := rfl
@[simp] theorem State.setCore_ctxTable (s : State) (c : Core) : (s.setCore c).ctxTable = s.ctxTable := rfl
@[simp] theorem State.setCore_ctxs (s : State) (c : Core) : (s.setCore c).ctxs = s.ctxs := rfl
@[simp] theorem State.setCore_wgs (s : State) (c : Core) : (s.setCore c).wgs = s.wgs := rfl
@[simp] theorem State.setCore_warps (s : State) (c : Core) : (s.setCore c).warps = s.warps := rfl
@[simp] theorem State.setCore_launches (s : State) (c : Core) : (s.setCore c).launches = s.launches := rfl
@[simp] theorem State.setCore_budgets (s : State) (c : Core) : (s.setCore c).budgets = s.budgets := rfl
@[simp] theorem State.setCore_queues (s : State) (c : Core) : (s.setCore c).queues = s.queues := rfl
@[simp] theorem State.setCore_deadlines (s : State) (c : Core) : (s.setCore c).deadlines = s.deadlines := rfl
@[simp] theorem State.setCore_pipes (s : State) (c : Core) : (s.setCore c).pipes = s.pipes := rfl
@[simp] theorem State.setCore_takes (s : State) (c : Core) : (s.setCore c).takes = s.takes := rfl
@[simp] theorem State.setCore_moves (s : State) (c : Core) : (s.setCore c).moves = s.moves := rfl
@[simp] theorem State.setCore_worlds (s : State) (c : Core) : (s.setCore c).worlds = s.worlds := rfl
@[simp] theorem State.setCore_objs (s : State) (c : Core) : (s.setCore c).objs = s.objs := rfl
@[simp] theorem State.setCore_nets (s : State) (c : Core) : (s.setCore c).nets = s.nets := rfl
@[simp] theorem State.setCore_binds (s : State) (c : Core) : (s.setCore c).binds = s.binds := rfl
@[simp] theorem State.setCore_pending (s : State) (c : Core) : (s.setCore c).pending = s.pending := rfl
@[simp] theorem State.setCore_posts (s : State) (c : Core) : (s.setCore c).posts = s.posts := rfl
@[simp] theorem State.setCore_ports (s : State) (c : Core) : (s.setCore c).ports = s.ports := rfl
@[simp] theorem State.setCore_routes (s : State) (c : Core) : (s.setCore c).routes = s.routes := rfl
@[simp] theorem State.setCore_devid (s : State) (c : Core) : (s.setCore c).devid = s.devid := rfl
@[simp] theorem State.setCore_aperture (s : State) (c : Core) : (s.setCore c).aperture = s.aperture := rfl
@[simp] theorem State.setCore_hostOut (s : State) (c : Core) : (s.setCore c).hostOut = s.hostOut := rfl
@[simp] theorem State.setCore_etherOut (s : State) (c : Core) : (s.setCore c).etherOut = s.etherOut := rfl
@[simp] theorem State.setCore_conns (s : State) (c : Core) : (s.setCore c).conns = s.conns := rfl
@[simp] theorem State.setCore_slices (s : State) (c : Core) : (s.setCore c).slices = s.slices := rfl
@[simp] theorem State.setCore_early (s : State) (c : Core) : (s.setCore c).early = s.early := rfl
@[simp] theorem State.setCore_told (s : State) (c : Core) : (s.setCore c).told = s.told := rfl
@[simp] theorem State.setCore_migrations (s : State) (c : Core) : (s.setCore c).migrations = s.migrations := rfl
@[simp] theorem State.setCore_ckpt (s : State) (c : Core) : (s.setCore c).ckpt = s.ckpt := rfl
@[simp] theorem State.setCore_store (s : State) (c : Core) : (s.setCore c).store = s.store := rfl
@[simp] theorem State.setCore_commands (s : State) (c : Core) : (s.setCore c).commands = s.commands := rfl
@[simp] theorem State.setCore_completions (s : State) (c : Core) : (s.setCore c).completions = s.completions := rfl
@[simp] theorem State.setCore_ctlMem (s : State) (c : Core) : (s.setCore c).ctlMem = s.ctlMem := rfl
@[simp] theorem State.setCore_flash (s : State) (c : Core) : (s.setCore c).flash = s.flash := rfl
@[simp] theorem State.setCore_power (s : State) (c : Core) : (s.setCore c).power = s.power := rfl
@[simp] theorem State.setCore_bootstat (s : State) (c : Core) : (s.setCore c).bootstat = s.bootstat := rfl
@[simp] theorem State.setCore_meas (s : State) (c : Core) : (s.setCore c).meas = s.meas := rfl
@[simp] theorem State.setCore_eccfix (s : State) (c : Core) : (s.setCore c).eccfix = s.eccfix := rfl
@[simp] theorem State.setCore_eccbad (s : State) (c : Core) : (s.setCore c).eccbad = s.eccbad := rfl
@[simp] theorem State.setCore_withheld (s : State) (c : Core) : (s.setCore c).withheld = s.withheld := rfl
@[simp] theorem State.setCore_watts (s : State) (c : Core) : (s.setCore c).watts = s.watts := rfl
@[simp] theorem State.setCore_throttled (s : State) (c : Core) : (s.setCore c).throttled = s.throttled := rfl
@[simp] theorem State.setCore_overPower (s : State) (c : Core) : (s.setCore c).overPower = s.overPower := rfl
@[simp] theorem State.setCore_temp (s : State) (c : Core) : (s.setCore c).temp = s.temp := rfl
@[simp] theorem State.setCore_eccHits (s : State) (c : Core) : (s.setCore c).eccHits = s.eccHits := rfl
@[simp] theorem State.setCore_plugins (s : State) (c : Core) : (s.setCore c).plugins = s.plugins := rfl
@[simp] theorem State.setCore_stopped (s : State) (c : Core) : (s.setCore c).stopped = s.stopped := rfl
@[simp] theorem State.setCore_policies (s : State) (c : Core) : (s.setCore c).policies = s.policies := rfl
@[simp] theorem State.setCore_restarting (s : State) (c : Core) : (s.setCore c).restarting = s.restarting := rfl
@[simp] theorem State.setCore_mapOut (s : State) (c : Core) : (s.setCore c).mapOut = s.mapOut := rfl
@[simp] theorem State.setCore_rvs (s : State) (c : Core) : (s.setCore c).rvs = s.rvs := rfl
@[simp] theorem State.setCore_nextId (s : State) (c : Core) : (s.setCore c).nextId = s.nextId := rfl
@[simp] theorem State.setCore_cur (s : State) (c : Core) : (s.setCore c).cur = s.cur := rfl
@[simp] theorem State.setCore_unit (s : State) (c : Core) : (s.setCore c).unit = s.unit := rfl
@[simp] theorem State.setCore_ir (s : State) (c : Core) : (s.setCore c).ir = s.ir := rfl
@[simp] theorem State.setCore_order (s : State) (c : Core) : (s.setCore c).order = s.order := rfl
@[simp] theorem State.setCore_stalled (s : State) (c : Core) : (s.setCore c).stalled = s.stalled := rfl
@[simp] theorem State.setCore_byLane (s : State) (c : Core) : (s.setCore c).byLane = s.byLane := rfl
@[simp] theorem State.setCore_agenda (s : State) (c : Core) : (s.setCore c).agenda = s.agenda := rfl
@[simp] theorem State.setCore_freeCount (s : State) (c : Core) : (s.setCore c).freeCount = s.freeCount := rfl

/-! ### setU -/

@[simp] theorem State.setU_mem (s : State) (u : IUnit) : (s.setU u).mem = s.mem := rfl
@[simp] theorem State.setU_keyOf (s : State) (u : IUnit) : (s.setU u).keyOf = s.keyOf := rfl
@[simp] theorem State.setU_dirty (s : State) (u : IUnit) : (s.setU u).dirty = s.dirty := rfl
@[simp] theorem State.setU_keys (s : State) (u : IUnit) : (s.setU u).keys = s.keys := rfl
@[simp] theorem State.setU_access (s : State) (u : IUnit) : (s.setU u).access = s.access := rfl
@[simp] theorem State.setU_portKeys (s : State) (u : IUnit) : (s.setU u).portKeys = s.portKeys := rfl
@[simp] theorem State.setU_tlb (s : State) (u : IUnit) : (s.setU u).tlb = s.tlb := rfl
@[simp] theorem State.setU_faults (s : State) (u : IUnit) : (s.setU u).faults = s.faults := rfl
@[simp] theorem State.setU_tick (s : State) (u : IUnit) : (s.setU u).tick = s.tick := rfl
@[simp] theorem State.setU_ctxTable (s : State) (u : IUnit) : (s.setU u).ctxTable = s.ctxTable := rfl
@[simp] theorem State.setU_ctxs (s : State) (u : IUnit) : (s.setU u).ctxs = s.ctxs := rfl
@[simp] theorem State.setU_wgs (s : State) (u : IUnit) : (s.setU u).wgs = s.wgs := rfl
@[simp] theorem State.setU_cores (s : State) (u : IUnit) : (s.setU u).cores = s.cores := rfl
@[simp] theorem State.setU_launches (s : State) (u : IUnit) : (s.setU u).launches = s.launches := rfl
@[simp] theorem State.setU_budgets (s : State) (u : IUnit) : (s.setU u).budgets = s.budgets := rfl
@[simp] theorem State.setU_queues (s : State) (u : IUnit) : (s.setU u).queues = s.queues := rfl
@[simp] theorem State.setU_deadlines (s : State) (u : IUnit) : (s.setU u).deadlines = s.deadlines := rfl
@[simp] theorem State.setU_pipes (s : State) (u : IUnit) : (s.setU u).pipes = s.pipes := rfl
@[simp] theorem State.setU_takes (s : State) (u : IUnit) : (s.setU u).takes = s.takes := rfl
@[simp] theorem State.setU_moves (s : State) (u : IUnit) : (s.setU u).moves = s.moves := rfl
@[simp] theorem State.setU_worlds (s : State) (u : IUnit) : (s.setU u).worlds = s.worlds := rfl
@[simp] theorem State.setU_objs (s : State) (u : IUnit) : (s.setU u).objs = s.objs := rfl
@[simp] theorem State.setU_nets (s : State) (u : IUnit) : (s.setU u).nets = s.nets := rfl
@[simp] theorem State.setU_binds (s : State) (u : IUnit) : (s.setU u).binds = s.binds := rfl
@[simp] theorem State.setU_pending (s : State) (u : IUnit) : (s.setU u).pending = s.pending := rfl
@[simp] theorem State.setU_posts (s : State) (u : IUnit) : (s.setU u).posts = s.posts := rfl
@[simp] theorem State.setU_ports (s : State) (u : IUnit) : (s.setU u).ports = s.ports := rfl
@[simp] theorem State.setU_routes (s : State) (u : IUnit) : (s.setU u).routes = s.routes := rfl
@[simp] theorem State.setU_devid (s : State) (u : IUnit) : (s.setU u).devid = s.devid := rfl
@[simp] theorem State.setU_aperture (s : State) (u : IUnit) : (s.setU u).aperture = s.aperture := rfl
@[simp] theorem State.setU_hostOut (s : State) (u : IUnit) : (s.setU u).hostOut = s.hostOut := rfl
@[simp] theorem State.setU_etherOut (s : State) (u : IUnit) : (s.setU u).etherOut = s.etherOut := rfl
@[simp] theorem State.setU_conns (s : State) (u : IUnit) : (s.setU u).conns = s.conns := rfl
@[simp] theorem State.setU_slices (s : State) (u : IUnit) : (s.setU u).slices = s.slices := rfl
@[simp] theorem State.setU_early (s : State) (u : IUnit) : (s.setU u).early = s.early := rfl
@[simp] theorem State.setU_told (s : State) (u : IUnit) : (s.setU u).told = s.told := rfl
@[simp] theorem State.setU_migrations (s : State) (u : IUnit) : (s.setU u).migrations = s.migrations := rfl
@[simp] theorem State.setU_ckpt (s : State) (u : IUnit) : (s.setU u).ckpt = s.ckpt := rfl
@[simp] theorem State.setU_store (s : State) (u : IUnit) : (s.setU u).store = s.store := rfl
@[simp] theorem State.setU_commands (s : State) (u : IUnit) : (s.setU u).commands = s.commands := rfl
@[simp] theorem State.setU_completions (s : State) (u : IUnit) : (s.setU u).completions = s.completions := rfl
@[simp] theorem State.setU_ctlMem (s : State) (u : IUnit) : (s.setU u).ctlMem = s.ctlMem := rfl
@[simp] theorem State.setU_flash (s : State) (u : IUnit) : (s.setU u).flash = s.flash := rfl
@[simp] theorem State.setU_power (s : State) (u : IUnit) : (s.setU u).power = s.power := rfl
@[simp] theorem State.setU_bootstat (s : State) (u : IUnit) : (s.setU u).bootstat = s.bootstat := rfl
@[simp] theorem State.setU_meas (s : State) (u : IUnit) : (s.setU u).meas = s.meas := rfl
@[simp] theorem State.setU_eccfix (s : State) (u : IUnit) : (s.setU u).eccfix = s.eccfix := rfl
@[simp] theorem State.setU_eccbad (s : State) (u : IUnit) : (s.setU u).eccbad = s.eccbad := rfl
@[simp] theorem State.setU_withheld (s : State) (u : IUnit) : (s.setU u).withheld = s.withheld := rfl
@[simp] theorem State.setU_watts (s : State) (u : IUnit) : (s.setU u).watts = s.watts := rfl
@[simp] theorem State.setU_throttled (s : State) (u : IUnit) : (s.setU u).throttled = s.throttled := rfl
@[simp] theorem State.setU_overPower (s : State) (u : IUnit) : (s.setU u).overPower = s.overPower := rfl
@[simp] theorem State.setU_temp (s : State) (u : IUnit) : (s.setU u).temp = s.temp := rfl
@[simp] theorem State.setU_eccHits (s : State) (u : IUnit) : (s.setU u).eccHits = s.eccHits := rfl
@[simp] theorem State.setU_plugins (s : State) (u : IUnit) : (s.setU u).plugins = s.plugins := rfl
@[simp] theorem State.setU_stopped (s : State) (u : IUnit) : (s.setU u).stopped = s.stopped := rfl
@[simp] theorem State.setU_policies (s : State) (u : IUnit) : (s.setU u).policies = s.policies := rfl
@[simp] theorem State.setU_restarting (s : State) (u : IUnit) : (s.setU u).restarting = s.restarting := rfl
@[simp] theorem State.setU_mapOut (s : State) (u : IUnit) : (s.setU u).mapOut = s.mapOut := rfl
@[simp] theorem State.setU_rvs (s : State) (u : IUnit) : (s.setU u).rvs = s.rvs := rfl
@[simp] theorem State.setU_nextId (s : State) (u : IUnit) : (s.setU u).nextId = s.nextId := rfl
@[simp] theorem State.setU_cur (s : State) (u : IUnit) : (s.setU u).cur = s.cur := rfl
@[simp] theorem State.setU_unit (s : State) (u : IUnit) : (s.setU u).unit = s.unit := rfl
@[simp] theorem State.setU_ir (s : State) (u : IUnit) : (s.setU u).ir = s.ir := rfl
@[simp] theorem State.setU_order (s : State) (u : IUnit) : (s.setU u).order = s.order := rfl
@[simp] theorem State.setU_stalled (s : State) (u : IUnit) : (s.setU u).stalled = s.stalled := rfl
@[simp] theorem State.setU_byLane (s : State) (u : IUnit) : (s.setU u).byLane = s.byLane := rfl
@[simp] theorem State.setU_agenda (s : State) (u : IUnit) : (s.setU u).agenda = s.agenda := rfl
@[simp] theorem State.setU_freeCount (s : State) (u : IUnit) : (s.setU u).freeCount = s.freeCount := rfl

/-! ### setSreg -/

@[simp] theorem State.setSreg_mem (s : State) (n : Nat) (v : W64) : (s.setSreg n v).mem = s.mem := rfl
@[simp] theorem State.setSreg_keyOf (s : State) (n : Nat) (v : W64) : (s.setSreg n v).keyOf = s.keyOf := rfl
@[simp] theorem State.setSreg_dirty (s : State) (n : Nat) (v : W64) : (s.setSreg n v).dirty = s.dirty := rfl
@[simp] theorem State.setSreg_keys (s : State) (n : Nat) (v : W64) : (s.setSreg n v).keys = s.keys := rfl
@[simp] theorem State.setSreg_access (s : State) (n : Nat) (v : W64) : (s.setSreg n v).access = s.access := rfl
@[simp] theorem State.setSreg_portKeys (s : State) (n : Nat) (v : W64) : (s.setSreg n v).portKeys = s.portKeys := rfl
@[simp] theorem State.setSreg_tlb (s : State) (n : Nat) (v : W64) : (s.setSreg n v).tlb = s.tlb := rfl
@[simp] theorem State.setSreg_faults (s : State) (n : Nat) (v : W64) : (s.setSreg n v).faults = s.faults := rfl
@[simp] theorem State.setSreg_tick (s : State) (n : Nat) (v : W64) : (s.setSreg n v).tick = s.tick := rfl
@[simp] theorem State.setSreg_ctxTable (s : State) (n : Nat) (v : W64) : (s.setSreg n v).ctxTable = s.ctxTable := rfl
@[simp] theorem State.setSreg_ctxs (s : State) (n : Nat) (v : W64) : (s.setSreg n v).ctxs = s.ctxs := rfl
@[simp] theorem State.setSreg_wgs (s : State) (n : Nat) (v : W64) : (s.setSreg n v).wgs = s.wgs := rfl
@[simp] theorem State.setSreg_cores (s : State) (n : Nat) (v : W64) : (s.setSreg n v).cores = s.cores := rfl
@[simp] theorem State.setSreg_launches (s : State) (n : Nat) (v : W64) : (s.setSreg n v).launches = s.launches := rfl
@[simp] theorem State.setSreg_budgets (s : State) (n : Nat) (v : W64) : (s.setSreg n v).budgets = s.budgets := rfl
@[simp] theorem State.setSreg_queues (s : State) (n : Nat) (v : W64) : (s.setSreg n v).queues = s.queues := rfl
@[simp] theorem State.setSreg_deadlines (s : State) (n : Nat) (v : W64) : (s.setSreg n v).deadlines = s.deadlines := rfl
@[simp] theorem State.setSreg_pipes (s : State) (n : Nat) (v : W64) : (s.setSreg n v).pipes = s.pipes := rfl
@[simp] theorem State.setSreg_takes (s : State) (n : Nat) (v : W64) : (s.setSreg n v).takes = s.takes := rfl
@[simp] theorem State.setSreg_moves (s : State) (n : Nat) (v : W64) : (s.setSreg n v).moves = s.moves := rfl
@[simp] theorem State.setSreg_worlds (s : State) (n : Nat) (v : W64) : (s.setSreg n v).worlds = s.worlds := rfl
@[simp] theorem State.setSreg_objs (s : State) (n : Nat) (v : W64) : (s.setSreg n v).objs = s.objs := rfl
@[simp] theorem State.setSreg_nets (s : State) (n : Nat) (v : W64) : (s.setSreg n v).nets = s.nets := rfl
@[simp] theorem State.setSreg_binds (s : State) (n : Nat) (v : W64) : (s.setSreg n v).binds = s.binds := rfl
@[simp] theorem State.setSreg_pending (s : State) (n : Nat) (v : W64) : (s.setSreg n v).pending = s.pending := rfl
@[simp] theorem State.setSreg_posts (s : State) (n : Nat) (v : W64) : (s.setSreg n v).posts = s.posts := rfl
@[simp] theorem State.setSreg_ports (s : State) (n : Nat) (v : W64) : (s.setSreg n v).ports = s.ports := rfl
@[simp] theorem State.setSreg_routes (s : State) (n : Nat) (v : W64) : (s.setSreg n v).routes = s.routes := rfl
@[simp] theorem State.setSreg_devid (s : State) (n : Nat) (v : W64) : (s.setSreg n v).devid = s.devid := rfl
@[simp] theorem State.setSreg_aperture (s : State) (n : Nat) (v : W64) : (s.setSreg n v).aperture = s.aperture := rfl
@[simp] theorem State.setSreg_hostOut (s : State) (n : Nat) (v : W64) : (s.setSreg n v).hostOut = s.hostOut := rfl
@[simp] theorem State.setSreg_etherOut (s : State) (n : Nat) (v : W64) : (s.setSreg n v).etherOut = s.etherOut := rfl
@[simp] theorem State.setSreg_conns (s : State) (n : Nat) (v : W64) : (s.setSreg n v).conns = s.conns := rfl
@[simp] theorem State.setSreg_slices (s : State) (n : Nat) (v : W64) : (s.setSreg n v).slices = s.slices := rfl
@[simp] theorem State.setSreg_early (s : State) (n : Nat) (v : W64) : (s.setSreg n v).early = s.early := rfl
@[simp] theorem State.setSreg_told (s : State) (n : Nat) (v : W64) : (s.setSreg n v).told = s.told := rfl
@[simp] theorem State.setSreg_migrations (s : State) (n : Nat) (v : W64) : (s.setSreg n v).migrations = s.migrations := rfl
@[simp] theorem State.setSreg_ckpt (s : State) (n : Nat) (v : W64) : (s.setSreg n v).ckpt = s.ckpt := rfl
@[simp] theorem State.setSreg_store (s : State) (n : Nat) (v : W64) : (s.setSreg n v).store = s.store := rfl
@[simp] theorem State.setSreg_commands (s : State) (n : Nat) (v : W64) : (s.setSreg n v).commands = s.commands := rfl
@[simp] theorem State.setSreg_completions (s : State) (n : Nat) (v : W64) : (s.setSreg n v).completions = s.completions := rfl
@[simp] theorem State.setSreg_ctlMem (s : State) (n : Nat) (v : W64) : (s.setSreg n v).ctlMem = s.ctlMem := rfl
@[simp] theorem State.setSreg_flash (s : State) (n : Nat) (v : W64) : (s.setSreg n v).flash = s.flash := rfl
@[simp] theorem State.setSreg_power (s : State) (n : Nat) (v : W64) : (s.setSreg n v).power = s.power := rfl
@[simp] theorem State.setSreg_bootstat (s : State) (n : Nat) (v : W64) : (s.setSreg n v).bootstat = s.bootstat := rfl
@[simp] theorem State.setSreg_meas (s : State) (n : Nat) (v : W64) : (s.setSreg n v).meas = s.meas := rfl
@[simp] theorem State.setSreg_eccfix (s : State) (n : Nat) (v : W64) : (s.setSreg n v).eccfix = s.eccfix := rfl
@[simp] theorem State.setSreg_eccbad (s : State) (n : Nat) (v : W64) : (s.setSreg n v).eccbad = s.eccbad := rfl
@[simp] theorem State.setSreg_withheld (s : State) (n : Nat) (v : W64) : (s.setSreg n v).withheld = s.withheld := rfl
@[simp] theorem State.setSreg_watts (s : State) (n : Nat) (v : W64) : (s.setSreg n v).watts = s.watts := rfl
@[simp] theorem State.setSreg_throttled (s : State) (n : Nat) (v : W64) : (s.setSreg n v).throttled = s.throttled := rfl
@[simp] theorem State.setSreg_overPower (s : State) (n : Nat) (v : W64) : (s.setSreg n v).overPower = s.overPower := rfl
@[simp] theorem State.setSreg_temp (s : State) (n : Nat) (v : W64) : (s.setSreg n v).temp = s.temp := rfl
@[simp] theorem State.setSreg_eccHits (s : State) (n : Nat) (v : W64) : (s.setSreg n v).eccHits = s.eccHits := rfl
@[simp] theorem State.setSreg_plugins (s : State) (n : Nat) (v : W64) : (s.setSreg n v).plugins = s.plugins := rfl
@[simp] theorem State.setSreg_stopped (s : State) (n : Nat) (v : W64) : (s.setSreg n v).stopped = s.stopped := rfl
@[simp] theorem State.setSreg_policies (s : State) (n : Nat) (v : W64) : (s.setSreg n v).policies = s.policies := rfl
@[simp] theorem State.setSreg_restarting (s : State) (n : Nat) (v : W64) : (s.setSreg n v).restarting = s.restarting := rfl
@[simp] theorem State.setSreg_mapOut (s : State) (n : Nat) (v : W64) : (s.setSreg n v).mapOut = s.mapOut := rfl
@[simp] theorem State.setSreg_rvs (s : State) (n : Nat) (v : W64) : (s.setSreg n v).rvs = s.rvs := rfl
@[simp] theorem State.setSreg_nextId (s : State) (n : Nat) (v : W64) : (s.setSreg n v).nextId = s.nextId := rfl
@[simp] theorem State.setSreg_cur (s : State) (n : Nat) (v : W64) : (s.setSreg n v).cur = s.cur := rfl
@[simp] theorem State.setSreg_unit (s : State) (n : Nat) (v : W64) : (s.setSreg n v).unit = s.unit := rfl
@[simp] theorem State.setSreg_ir (s : State) (n : Nat) (v : W64) : (s.setSreg n v).ir = s.ir := rfl
@[simp] theorem State.setSreg_order (s : State) (n : Nat) (v : W64) : (s.setSreg n v).order = s.order := rfl
@[simp] theorem State.setSreg_stalled (s : State) (n : Nat) (v : W64) : (s.setSreg n v).stalled = s.stalled := rfl
@[simp] theorem State.setSreg_byLane (s : State) (n : Nat) (v : W64) : (s.setSreg n v).byLane = s.byLane := rfl
@[simp] theorem State.setSreg_agenda (s : State) (n : Nat) (v : W64) : (s.setSreg n v).agenda = s.agenda := rfl
@[simp] theorem State.setSreg_freeCount (s : State) (n : Nat) (v : W64) : (s.setSreg n v).freeCount = s.freeCount := rfl

/-! ### setDeadline -/

@[simp] theorem State.setDeadline_mem (s : State) (k : Nat) (d : Deadline) : (s.setDeadline k d).mem = s.mem := rfl
@[simp] theorem State.setDeadline_keyOf (s : State) (k : Nat) (d : Deadline) : (s.setDeadline k d).keyOf = s.keyOf := rfl
@[simp] theorem State.setDeadline_dirty (s : State) (k : Nat) (d : Deadline) : (s.setDeadline k d).dirty = s.dirty := rfl
@[simp] theorem State.setDeadline_keys (s : State) (k : Nat) (d : Deadline) : (s.setDeadline k d).keys = s.keys := rfl
@[simp] theorem State.setDeadline_access (s : State) (k : Nat) (d : Deadline) : (s.setDeadline k d).access = s.access := rfl
@[simp] theorem State.setDeadline_portKeys (s : State) (k : Nat) (d : Deadline) : (s.setDeadline k d).portKeys = s.portKeys := rfl
@[simp] theorem State.setDeadline_tlb (s : State) (k : Nat) (d : Deadline) : (s.setDeadline k d).tlb = s.tlb := rfl
@[simp] theorem State.setDeadline_faults (s : State) (k : Nat) (d : Deadline) : (s.setDeadline k d).faults = s.faults := rfl
@[simp] theorem State.setDeadline_tick (s : State) (k : Nat) (d : Deadline) : (s.setDeadline k d).tick = s.tick := rfl
@[simp] theorem State.setDeadline_ctxTable (s : State) (k : Nat) (d : Deadline) : (s.setDeadline k d).ctxTable = s.ctxTable := rfl
@[simp] theorem State.setDeadline_ctxs (s : State) (k : Nat) (d : Deadline) : (s.setDeadline k d).ctxs = s.ctxs := rfl
@[simp] theorem State.setDeadline_wgs (s : State) (k : Nat) (d : Deadline) : (s.setDeadline k d).wgs = s.wgs := rfl
@[simp] theorem State.setDeadline_warps (s : State) (k : Nat) (d : Deadline) : (s.setDeadline k d).warps = s.warps := rfl
@[simp] theorem State.setDeadline_cores (s : State) (k : Nat) (d : Deadline) : (s.setDeadline k d).cores = s.cores := rfl
@[simp] theorem State.setDeadline_launches (s : State) (k : Nat) (d : Deadline) : (s.setDeadline k d).launches = s.launches := rfl
@[simp] theorem State.setDeadline_budgets (s : State) (k : Nat) (d : Deadline) : (s.setDeadline k d).budgets = s.budgets := rfl
@[simp] theorem State.setDeadline_queues (s : State) (k : Nat) (d : Deadline) : (s.setDeadline k d).queues = s.queues := rfl
@[simp] theorem State.setDeadline_pipes (s : State) (k : Nat) (d : Deadline) : (s.setDeadline k d).pipes = s.pipes := rfl
@[simp] theorem State.setDeadline_takes (s : State) (k : Nat) (d : Deadline) : (s.setDeadline k d).takes = s.takes := rfl
@[simp] theorem State.setDeadline_moves (s : State) (k : Nat) (d : Deadline) : (s.setDeadline k d).moves = s.moves := rfl
@[simp] theorem State.setDeadline_worlds (s : State) (k : Nat) (d : Deadline) : (s.setDeadline k d).worlds = s.worlds := rfl
@[simp] theorem State.setDeadline_objs (s : State) (k : Nat) (d : Deadline) : (s.setDeadline k d).objs = s.objs := rfl
@[simp] theorem State.setDeadline_nets (s : State) (k : Nat) (d : Deadline) : (s.setDeadline k d).nets = s.nets := rfl
@[simp] theorem State.setDeadline_binds (s : State) (k : Nat) (d : Deadline) : (s.setDeadline k d).binds = s.binds := rfl
@[simp] theorem State.setDeadline_pending (s : State) (k : Nat) (d : Deadline) : (s.setDeadline k d).pending = s.pending := rfl
@[simp] theorem State.setDeadline_posts (s : State) (k : Nat) (d : Deadline) : (s.setDeadline k d).posts = s.posts := rfl
@[simp] theorem State.setDeadline_ports (s : State) (k : Nat) (d : Deadline) : (s.setDeadline k d).ports = s.ports := rfl
@[simp] theorem State.setDeadline_routes (s : State) (k : Nat) (d : Deadline) : (s.setDeadline k d).routes = s.routes := rfl
@[simp] theorem State.setDeadline_devid (s : State) (k : Nat) (d : Deadline) : (s.setDeadline k d).devid = s.devid := rfl
@[simp] theorem State.setDeadline_aperture (s : State) (k : Nat) (d : Deadline) : (s.setDeadline k d).aperture = s.aperture := rfl
@[simp] theorem State.setDeadline_hostOut (s : State) (k : Nat) (d : Deadline) : (s.setDeadline k d).hostOut = s.hostOut := rfl
@[simp] theorem State.setDeadline_etherOut (s : State) (k : Nat) (d : Deadline) : (s.setDeadline k d).etherOut = s.etherOut := rfl
@[simp] theorem State.setDeadline_conns (s : State) (k : Nat) (d : Deadline) : (s.setDeadline k d).conns = s.conns := rfl
@[simp] theorem State.setDeadline_slices (s : State) (k : Nat) (d : Deadline) : (s.setDeadline k d).slices = s.slices := rfl
@[simp] theorem State.setDeadline_early (s : State) (k : Nat) (d : Deadline) : (s.setDeadline k d).early = s.early := rfl
@[simp] theorem State.setDeadline_told (s : State) (k : Nat) (d : Deadline) : (s.setDeadline k d).told = s.told := rfl
@[simp] theorem State.setDeadline_migrations (s : State) (k : Nat) (d : Deadline) : (s.setDeadline k d).migrations = s.migrations := rfl
@[simp] theorem State.setDeadline_ckpt (s : State) (k : Nat) (d : Deadline) : (s.setDeadline k d).ckpt = s.ckpt := rfl
@[simp] theorem State.setDeadline_store (s : State) (k : Nat) (d : Deadline) : (s.setDeadline k d).store = s.store := rfl
@[simp] theorem State.setDeadline_commands (s : State) (k : Nat) (d : Deadline) : (s.setDeadline k d).commands = s.commands := rfl
@[simp] theorem State.setDeadline_completions (s : State) (k : Nat) (d : Deadline) : (s.setDeadline k d).completions = s.completions := rfl
@[simp] theorem State.setDeadline_ctlMem (s : State) (k : Nat) (d : Deadline) : (s.setDeadline k d).ctlMem = s.ctlMem := rfl
@[simp] theorem State.setDeadline_flash (s : State) (k : Nat) (d : Deadline) : (s.setDeadline k d).flash = s.flash := rfl
@[simp] theorem State.setDeadline_power (s : State) (k : Nat) (d : Deadline) : (s.setDeadline k d).power = s.power := rfl
@[simp] theorem State.setDeadline_bootstat (s : State) (k : Nat) (d : Deadline) : (s.setDeadline k d).bootstat = s.bootstat := rfl
@[simp] theorem State.setDeadline_meas (s : State) (k : Nat) (d : Deadline) : (s.setDeadline k d).meas = s.meas := rfl
@[simp] theorem State.setDeadline_eccfix (s : State) (k : Nat) (d : Deadline) : (s.setDeadline k d).eccfix = s.eccfix := rfl
@[simp] theorem State.setDeadline_eccbad (s : State) (k : Nat) (d : Deadline) : (s.setDeadline k d).eccbad = s.eccbad := rfl
@[simp] theorem State.setDeadline_withheld (s : State) (k : Nat) (d : Deadline) : (s.setDeadline k d).withheld = s.withheld := rfl
@[simp] theorem State.setDeadline_watts (s : State) (k : Nat) (d : Deadline) : (s.setDeadline k d).watts = s.watts := rfl
@[simp] theorem State.setDeadline_throttled (s : State) (k : Nat) (d : Deadline) : (s.setDeadline k d).throttled = s.throttled := rfl
@[simp] theorem State.setDeadline_overPower (s : State) (k : Nat) (d : Deadline) : (s.setDeadline k d).overPower = s.overPower := rfl
@[simp] theorem State.setDeadline_temp (s : State) (k : Nat) (d : Deadline) : (s.setDeadline k d).temp = s.temp := rfl
@[simp] theorem State.setDeadline_eccHits (s : State) (k : Nat) (d : Deadline) : (s.setDeadline k d).eccHits = s.eccHits := rfl
@[simp] theorem State.setDeadline_plugins (s : State) (k : Nat) (d : Deadline) : (s.setDeadline k d).plugins = s.plugins := rfl
@[simp] theorem State.setDeadline_stopped (s : State) (k : Nat) (d : Deadline) : (s.setDeadline k d).stopped = s.stopped := rfl
@[simp] theorem State.setDeadline_policies (s : State) (k : Nat) (d : Deadline) : (s.setDeadline k d).policies = s.policies := rfl
@[simp] theorem State.setDeadline_restarting (s : State) (k : Nat) (d : Deadline) : (s.setDeadline k d).restarting = s.restarting := rfl
@[simp] theorem State.setDeadline_mapOut (s : State) (k : Nat) (d : Deadline) : (s.setDeadline k d).mapOut = s.mapOut := rfl
@[simp] theorem State.setDeadline_rvs (s : State) (k : Nat) (d : Deadline) : (s.setDeadline k d).rvs = s.rvs := rfl
@[simp] theorem State.setDeadline_nextId (s : State) (k : Nat) (d : Deadline) : (s.setDeadline k d).nextId = s.nextId := rfl
@[simp] theorem State.setDeadline_cur (s : State) (k : Nat) (d : Deadline) : (s.setDeadline k d).cur = s.cur := rfl
@[simp] theorem State.setDeadline_unit (s : State) (k : Nat) (d : Deadline) : (s.setDeadline k d).unit = s.unit := rfl
@[simp] theorem State.setDeadline_ir (s : State) (k : Nat) (d : Deadline) : (s.setDeadline k d).ir = s.ir := rfl
@[simp] theorem State.setDeadline_order (s : State) (k : Nat) (d : Deadline) : (s.setDeadline k d).order = s.order := rfl
@[simp] theorem State.setDeadline_stalled (s : State) (k : Nat) (d : Deadline) : (s.setDeadline k d).stalled = s.stalled := rfl
@[simp] theorem State.setDeadline_byLane (s : State) (k : Nat) (d : Deadline) : (s.setDeadline k d).byLane = s.byLane := rfl
@[simp] theorem State.setDeadline_agenda (s : State) (k : Nat) (d : Deadline) : (s.setDeadline k d).agenda = s.agenda := rfl
@[simp] theorem State.setDeadline_freeCount (s : State) (k : Nat) (d : Deadline) : (s.setDeadline k d).freeCount = s.freeCount := rfl

/-! ### setPort -/

@[simp] theorem State.setPort_mem (s : State) (k : Nat) (p : Port) : (s.setPort k p).mem = s.mem := rfl
@[simp] theorem State.setPort_keyOf (s : State) (k : Nat) (p : Port) : (s.setPort k p).keyOf = s.keyOf := rfl
@[simp] theorem State.setPort_dirty (s : State) (k : Nat) (p : Port) : (s.setPort k p).dirty = s.dirty := rfl
@[simp] theorem State.setPort_keys (s : State) (k : Nat) (p : Port) : (s.setPort k p).keys = s.keys := rfl
@[simp] theorem State.setPort_access (s : State) (k : Nat) (p : Port) : (s.setPort k p).access = s.access := rfl
@[simp] theorem State.setPort_portKeys (s : State) (k : Nat) (p : Port) : (s.setPort k p).portKeys = s.portKeys := rfl
@[simp] theorem State.setPort_tlb (s : State) (k : Nat) (p : Port) : (s.setPort k p).tlb = s.tlb := rfl
@[simp] theorem State.setPort_faults (s : State) (k : Nat) (p : Port) : (s.setPort k p).faults = s.faults := rfl
@[simp] theorem State.setPort_tick (s : State) (k : Nat) (p : Port) : (s.setPort k p).tick = s.tick := rfl
@[simp] theorem State.setPort_ctxTable (s : State) (k : Nat) (p : Port) : (s.setPort k p).ctxTable = s.ctxTable := rfl
@[simp] theorem State.setPort_ctxs (s : State) (k : Nat) (p : Port) : (s.setPort k p).ctxs = s.ctxs := rfl
@[simp] theorem State.setPort_wgs (s : State) (k : Nat) (p : Port) : (s.setPort k p).wgs = s.wgs := rfl
@[simp] theorem State.setPort_warps (s : State) (k : Nat) (p : Port) : (s.setPort k p).warps = s.warps := rfl
@[simp] theorem State.setPort_cores (s : State) (k : Nat) (p : Port) : (s.setPort k p).cores = s.cores := rfl
@[simp] theorem State.setPort_launches (s : State) (k : Nat) (p : Port) : (s.setPort k p).launches = s.launches := rfl
@[simp] theorem State.setPort_budgets (s : State) (k : Nat) (p : Port) : (s.setPort k p).budgets = s.budgets := rfl
@[simp] theorem State.setPort_queues (s : State) (k : Nat) (p : Port) : (s.setPort k p).queues = s.queues := rfl
@[simp] theorem State.setPort_deadlines (s : State) (k : Nat) (p : Port) : (s.setPort k p).deadlines = s.deadlines := rfl
@[simp] theorem State.setPort_pipes (s : State) (k : Nat) (p : Port) : (s.setPort k p).pipes = s.pipes := rfl
@[simp] theorem State.setPort_takes (s : State) (k : Nat) (p : Port) : (s.setPort k p).takes = s.takes := rfl
@[simp] theorem State.setPort_moves (s : State) (k : Nat) (p : Port) : (s.setPort k p).moves = s.moves := rfl
@[simp] theorem State.setPort_worlds (s : State) (k : Nat) (p : Port) : (s.setPort k p).worlds = s.worlds := rfl
@[simp] theorem State.setPort_objs (s : State) (k : Nat) (p : Port) : (s.setPort k p).objs = s.objs := rfl
@[simp] theorem State.setPort_nets (s : State) (k : Nat) (p : Port) : (s.setPort k p).nets = s.nets := rfl
@[simp] theorem State.setPort_binds (s : State) (k : Nat) (p : Port) : (s.setPort k p).binds = s.binds := rfl
@[simp] theorem State.setPort_pending (s : State) (k : Nat) (p : Port) : (s.setPort k p).pending = s.pending := rfl
@[simp] theorem State.setPort_posts (s : State) (k : Nat) (p : Port) : (s.setPort k p).posts = s.posts := rfl
@[simp] theorem State.setPort_routes (s : State) (k : Nat) (p : Port) : (s.setPort k p).routes = s.routes := rfl
@[simp] theorem State.setPort_devid (s : State) (k : Nat) (p : Port) : (s.setPort k p).devid = s.devid := rfl
@[simp] theorem State.setPort_aperture (s : State) (k : Nat) (p : Port) : (s.setPort k p).aperture = s.aperture := rfl
@[simp] theorem State.setPort_hostOut (s : State) (k : Nat) (p : Port) : (s.setPort k p).hostOut = s.hostOut := rfl
@[simp] theorem State.setPort_etherOut (s : State) (k : Nat) (p : Port) : (s.setPort k p).etherOut = s.etherOut := rfl
@[simp] theorem State.setPort_conns (s : State) (k : Nat) (p : Port) : (s.setPort k p).conns = s.conns := rfl
@[simp] theorem State.setPort_slices (s : State) (k : Nat) (p : Port) : (s.setPort k p).slices = s.slices := rfl
@[simp] theorem State.setPort_early (s : State) (k : Nat) (p : Port) : (s.setPort k p).early = s.early := rfl
@[simp] theorem State.setPort_told (s : State) (k : Nat) (p : Port) : (s.setPort k p).told = s.told := rfl
@[simp] theorem State.setPort_migrations (s : State) (k : Nat) (p : Port) : (s.setPort k p).migrations = s.migrations := rfl
@[simp] theorem State.setPort_ckpt (s : State) (k : Nat) (p : Port) : (s.setPort k p).ckpt = s.ckpt := rfl
@[simp] theorem State.setPort_store (s : State) (k : Nat) (p : Port) : (s.setPort k p).store = s.store := rfl
@[simp] theorem State.setPort_commands (s : State) (k : Nat) (p : Port) : (s.setPort k p).commands = s.commands := rfl
@[simp] theorem State.setPort_completions (s : State) (k : Nat) (p : Port) : (s.setPort k p).completions = s.completions := rfl
@[simp] theorem State.setPort_ctlMem (s : State) (k : Nat) (p : Port) : (s.setPort k p).ctlMem = s.ctlMem := rfl
@[simp] theorem State.setPort_flash (s : State) (k : Nat) (p : Port) : (s.setPort k p).flash = s.flash := rfl
@[simp] theorem State.setPort_power (s : State) (k : Nat) (p : Port) : (s.setPort k p).power = s.power := rfl
@[simp] theorem State.setPort_bootstat (s : State) (k : Nat) (p : Port) : (s.setPort k p).bootstat = s.bootstat := rfl
@[simp] theorem State.setPort_meas (s : State) (k : Nat) (p : Port) : (s.setPort k p).meas = s.meas := rfl
@[simp] theorem State.setPort_eccfix (s : State) (k : Nat) (p : Port) : (s.setPort k p).eccfix = s.eccfix := rfl
@[simp] theorem State.setPort_eccbad (s : State) (k : Nat) (p : Port) : (s.setPort k p).eccbad = s.eccbad := rfl
@[simp] theorem State.setPort_withheld (s : State) (k : Nat) (p : Port) : (s.setPort k p).withheld = s.withheld := rfl
@[simp] theorem State.setPort_watts (s : State) (k : Nat) (p : Port) : (s.setPort k p).watts = s.watts := rfl
@[simp] theorem State.setPort_throttled (s : State) (k : Nat) (p : Port) : (s.setPort k p).throttled = s.throttled := rfl
@[simp] theorem State.setPort_overPower (s : State) (k : Nat) (p : Port) : (s.setPort k p).overPower = s.overPower := rfl
@[simp] theorem State.setPort_temp (s : State) (k : Nat) (p : Port) : (s.setPort k p).temp = s.temp := rfl
@[simp] theorem State.setPort_eccHits (s : State) (k : Nat) (p : Port) : (s.setPort k p).eccHits = s.eccHits := rfl
@[simp] theorem State.setPort_plugins (s : State) (k : Nat) (p : Port) : (s.setPort k p).plugins = s.plugins := rfl
@[simp] theorem State.setPort_stopped (s : State) (k : Nat) (p : Port) : (s.setPort k p).stopped = s.stopped := rfl
@[simp] theorem State.setPort_policies (s : State) (k : Nat) (p : Port) : (s.setPort k p).policies = s.policies := rfl
@[simp] theorem State.setPort_restarting (s : State) (k : Nat) (p : Port) : (s.setPort k p).restarting = s.restarting := rfl
@[simp] theorem State.setPort_mapOut (s : State) (k : Nat) (p : Port) : (s.setPort k p).mapOut = s.mapOut := rfl
@[simp] theorem State.setPort_rvs (s : State) (k : Nat) (p : Port) : (s.setPort k p).rvs = s.rvs := rfl
@[simp] theorem State.setPort_nextId (s : State) (k : Nat) (p : Port) : (s.setPort k p).nextId = s.nextId := rfl
@[simp] theorem State.setPort_cur (s : State) (k : Nat) (p : Port) : (s.setPort k p).cur = s.cur := rfl
@[simp] theorem State.setPort_unit (s : State) (k : Nat) (p : Port) : (s.setPort k p).unit = s.unit := rfl
@[simp] theorem State.setPort_ir (s : State) (k : Nat) (p : Port) : (s.setPort k p).ir = s.ir := rfl
@[simp] theorem State.setPort_order (s : State) (k : Nat) (p : Port) : (s.setPort k p).order = s.order := rfl
@[simp] theorem State.setPort_stalled (s : State) (k : Nat) (p : Port) : (s.setPort k p).stalled = s.stalled := rfl
@[simp] theorem State.setPort_byLane (s : State) (k : Nat) (p : Port) : (s.setPort k p).byLane = s.byLane := rfl
@[simp] theorem State.setPort_agenda (s : State) (k : Nat) (p : Port) : (s.setPort k p).agenda = s.agenda := rfl
@[simp] theorem State.setPort_freeCount (s : State) (k : Nat) (p : Port) : (s.setPort k p).freeCount = s.freeCount := rfl

/-! ### setNet -/

@[simp] theorem State.setNet_mem (s : State) (die slot : Nat) (n : NetSlot) : (s.setNet die slot n).mem = s.mem := rfl
@[simp] theorem State.setNet_keyOf (s : State) (die slot : Nat) (n : NetSlot) : (s.setNet die slot n).keyOf = s.keyOf := rfl
@[simp] theorem State.setNet_dirty (s : State) (die slot : Nat) (n : NetSlot) : (s.setNet die slot n).dirty = s.dirty := rfl
@[simp] theorem State.setNet_keys (s : State) (die slot : Nat) (n : NetSlot) : (s.setNet die slot n).keys = s.keys := rfl
@[simp] theorem State.setNet_access (s : State) (die slot : Nat) (n : NetSlot) : (s.setNet die slot n).access = s.access := rfl
@[simp] theorem State.setNet_portKeys (s : State) (die slot : Nat) (n : NetSlot) : (s.setNet die slot n).portKeys = s.portKeys := rfl
@[simp] theorem State.setNet_tlb (s : State) (die slot : Nat) (n : NetSlot) : (s.setNet die slot n).tlb = s.tlb := rfl
@[simp] theorem State.setNet_faults (s : State) (die slot : Nat) (n : NetSlot) : (s.setNet die slot n).faults = s.faults := rfl
@[simp] theorem State.setNet_tick (s : State) (die slot : Nat) (n : NetSlot) : (s.setNet die slot n).tick = s.tick := rfl
@[simp] theorem State.setNet_ctxTable (s : State) (die slot : Nat) (n : NetSlot) : (s.setNet die slot n).ctxTable = s.ctxTable := rfl
@[simp] theorem State.setNet_ctxs (s : State) (die slot : Nat) (n : NetSlot) : (s.setNet die slot n).ctxs = s.ctxs := rfl
@[simp] theorem State.setNet_wgs (s : State) (die slot : Nat) (n : NetSlot) : (s.setNet die slot n).wgs = s.wgs := rfl
@[simp] theorem State.setNet_warps (s : State) (die slot : Nat) (n : NetSlot) : (s.setNet die slot n).warps = s.warps := rfl
@[simp] theorem State.setNet_cores (s : State) (die slot : Nat) (n : NetSlot) : (s.setNet die slot n).cores = s.cores := rfl
@[simp] theorem State.setNet_launches (s : State) (die slot : Nat) (n : NetSlot) : (s.setNet die slot n).launches = s.launches := rfl
@[simp] theorem State.setNet_budgets (s : State) (die slot : Nat) (n : NetSlot) : (s.setNet die slot n).budgets = s.budgets := rfl
@[simp] theorem State.setNet_queues (s : State) (die slot : Nat) (n : NetSlot) : (s.setNet die slot n).queues = s.queues := rfl
@[simp] theorem State.setNet_deadlines (s : State) (die slot : Nat) (n : NetSlot) : (s.setNet die slot n).deadlines = s.deadlines := rfl
@[simp] theorem State.setNet_pipes (s : State) (die slot : Nat) (n : NetSlot) : (s.setNet die slot n).pipes = s.pipes := rfl
@[simp] theorem State.setNet_takes (s : State) (die slot : Nat) (n : NetSlot) : (s.setNet die slot n).takes = s.takes := rfl
@[simp] theorem State.setNet_moves (s : State) (die slot : Nat) (n : NetSlot) : (s.setNet die slot n).moves = s.moves := rfl
@[simp] theorem State.setNet_worlds (s : State) (die slot : Nat) (n : NetSlot) : (s.setNet die slot n).worlds = s.worlds := rfl
@[simp] theorem State.setNet_objs (s : State) (die slot : Nat) (n : NetSlot) : (s.setNet die slot n).objs = s.objs := rfl
@[simp] theorem State.setNet_binds (s : State) (die slot : Nat) (n : NetSlot) : (s.setNet die slot n).binds = s.binds := rfl
@[simp] theorem State.setNet_pending (s : State) (die slot : Nat) (n : NetSlot) : (s.setNet die slot n).pending = s.pending := rfl
@[simp] theorem State.setNet_posts (s : State) (die slot : Nat) (n : NetSlot) : (s.setNet die slot n).posts = s.posts := rfl
@[simp] theorem State.setNet_ports (s : State) (die slot : Nat) (n : NetSlot) : (s.setNet die slot n).ports = s.ports := rfl
@[simp] theorem State.setNet_routes (s : State) (die slot : Nat) (n : NetSlot) : (s.setNet die slot n).routes = s.routes := rfl
@[simp] theorem State.setNet_devid (s : State) (die slot : Nat) (n : NetSlot) : (s.setNet die slot n).devid = s.devid := rfl
@[simp] theorem State.setNet_aperture (s : State) (die slot : Nat) (n : NetSlot) : (s.setNet die slot n).aperture = s.aperture := rfl
@[simp] theorem State.setNet_hostOut (s : State) (die slot : Nat) (n : NetSlot) : (s.setNet die slot n).hostOut = s.hostOut := rfl
@[simp] theorem State.setNet_etherOut (s : State) (die slot : Nat) (n : NetSlot) : (s.setNet die slot n).etherOut = s.etherOut := rfl
@[simp] theorem State.setNet_conns (s : State) (die slot : Nat) (n : NetSlot) : (s.setNet die slot n).conns = s.conns := rfl
@[simp] theorem State.setNet_slices (s : State) (die slot : Nat) (n : NetSlot) : (s.setNet die slot n).slices = s.slices := rfl
@[simp] theorem State.setNet_early (s : State) (die slot : Nat) (n : NetSlot) : (s.setNet die slot n).early = s.early := rfl
@[simp] theorem State.setNet_told (s : State) (die slot : Nat) (n : NetSlot) : (s.setNet die slot n).told = s.told := rfl
@[simp] theorem State.setNet_migrations (s : State) (die slot : Nat) (n : NetSlot) : (s.setNet die slot n).migrations = s.migrations := rfl
@[simp] theorem State.setNet_ckpt (s : State) (die slot : Nat) (n : NetSlot) : (s.setNet die slot n).ckpt = s.ckpt := rfl
@[simp] theorem State.setNet_store (s : State) (die slot : Nat) (n : NetSlot) : (s.setNet die slot n).store = s.store := rfl
@[simp] theorem State.setNet_commands (s : State) (die slot : Nat) (n : NetSlot) : (s.setNet die slot n).commands = s.commands := rfl
@[simp] theorem State.setNet_completions (s : State) (die slot : Nat) (n : NetSlot) : (s.setNet die slot n).completions = s.completions := rfl
@[simp] theorem State.setNet_ctlMem (s : State) (die slot : Nat) (n : NetSlot) : (s.setNet die slot n).ctlMem = s.ctlMem := rfl
@[simp] theorem State.setNet_flash (s : State) (die slot : Nat) (n : NetSlot) : (s.setNet die slot n).flash = s.flash := rfl
@[simp] theorem State.setNet_power (s : State) (die slot : Nat) (n : NetSlot) : (s.setNet die slot n).power = s.power := rfl
@[simp] theorem State.setNet_bootstat (s : State) (die slot : Nat) (n : NetSlot) : (s.setNet die slot n).bootstat = s.bootstat := rfl
@[simp] theorem State.setNet_meas (s : State) (die slot : Nat) (n : NetSlot) : (s.setNet die slot n).meas = s.meas := rfl
@[simp] theorem State.setNet_eccfix (s : State) (die slot : Nat) (n : NetSlot) : (s.setNet die slot n).eccfix = s.eccfix := rfl
@[simp] theorem State.setNet_eccbad (s : State) (die slot : Nat) (n : NetSlot) : (s.setNet die slot n).eccbad = s.eccbad := rfl
@[simp] theorem State.setNet_withheld (s : State) (die slot : Nat) (n : NetSlot) : (s.setNet die slot n).withheld = s.withheld := rfl
@[simp] theorem State.setNet_watts (s : State) (die slot : Nat) (n : NetSlot) : (s.setNet die slot n).watts = s.watts := rfl
@[simp] theorem State.setNet_throttled (s : State) (die slot : Nat) (n : NetSlot) : (s.setNet die slot n).throttled = s.throttled := rfl
@[simp] theorem State.setNet_overPower (s : State) (die slot : Nat) (n : NetSlot) : (s.setNet die slot n).overPower = s.overPower := rfl
@[simp] theorem State.setNet_temp (s : State) (die slot : Nat) (n : NetSlot) : (s.setNet die slot n).temp = s.temp := rfl
@[simp] theorem State.setNet_eccHits (s : State) (die slot : Nat) (n : NetSlot) : (s.setNet die slot n).eccHits = s.eccHits := rfl
@[simp] theorem State.setNet_plugins (s : State) (die slot : Nat) (n : NetSlot) : (s.setNet die slot n).plugins = s.plugins := rfl
@[simp] theorem State.setNet_stopped (s : State) (die slot : Nat) (n : NetSlot) : (s.setNet die slot n).stopped = s.stopped := rfl
@[simp] theorem State.setNet_policies (s : State) (die slot : Nat) (n : NetSlot) : (s.setNet die slot n).policies = s.policies := rfl
@[simp] theorem State.setNet_restarting (s : State) (die slot : Nat) (n : NetSlot) : (s.setNet die slot n).restarting = s.restarting := rfl
@[simp] theorem State.setNet_mapOut (s : State) (die slot : Nat) (n : NetSlot) : (s.setNet die slot n).mapOut = s.mapOut := rfl
@[simp] theorem State.setNet_rvs (s : State) (die slot : Nat) (n : NetSlot) : (s.setNet die slot n).rvs = s.rvs := rfl
@[simp] theorem State.setNet_nextId (s : State) (die slot : Nat) (n : NetSlot) : (s.setNet die slot n).nextId = s.nextId := rfl
@[simp] theorem State.setNet_cur (s : State) (die slot : Nat) (n : NetSlot) : (s.setNet die slot n).cur = s.cur := rfl
@[simp] theorem State.setNet_unit (s : State) (die slot : Nat) (n : NetSlot) : (s.setNet die slot n).unit = s.unit := rfl
@[simp] theorem State.setNet_ir (s : State) (die slot : Nat) (n : NetSlot) : (s.setNet die slot n).ir = s.ir := rfl
@[simp] theorem State.setNet_order (s : State) (die slot : Nat) (n : NetSlot) : (s.setNet die slot n).order = s.order := rfl
@[simp] theorem State.setNet_stalled (s : State) (die slot : Nat) (n : NetSlot) : (s.setNet die slot n).stalled = s.stalled := rfl
@[simp] theorem State.setNet_byLane (s : State) (die slot : Nat) (n : NetSlot) : (s.setNet die slot n).byLane = s.byLane := rfl
@[simp] theorem State.setNet_agenda (s : State) (die slot : Nat) (n : NetSlot) : (s.setNet die slot n).agenda = s.agenda := rfl
@[simp] theorem State.setNet_freeCount (s : State) (die slot : Nat) (n : NetSlot) : (s.setNet die slot n).freeCount = s.freeCount := rfl

/-! ### setWorld -/

@[simp] theorem State.setWorld_mem (s : State) (asid w : Nat) (x : WorldState) : (s.setWorld asid w x).mem = s.mem := rfl
@[simp] theorem State.setWorld_keyOf (s : State) (asid w : Nat) (x : WorldState) : (s.setWorld asid w x).keyOf = s.keyOf := rfl
@[simp] theorem State.setWorld_dirty (s : State) (asid w : Nat) (x : WorldState) : (s.setWorld asid w x).dirty = s.dirty := rfl
@[simp] theorem State.setWorld_keys (s : State) (asid w : Nat) (x : WorldState) : (s.setWorld asid w x).keys = s.keys := rfl
@[simp] theorem State.setWorld_access (s : State) (asid w : Nat) (x : WorldState) : (s.setWorld asid w x).access = s.access := rfl
@[simp] theorem State.setWorld_portKeys (s : State) (asid w : Nat) (x : WorldState) : (s.setWorld asid w x).portKeys = s.portKeys := rfl
@[simp] theorem State.setWorld_tlb (s : State) (asid w : Nat) (x : WorldState) : (s.setWorld asid w x).tlb = s.tlb := rfl
@[simp] theorem State.setWorld_faults (s : State) (asid w : Nat) (x : WorldState) : (s.setWorld asid w x).faults = s.faults := rfl
@[simp] theorem State.setWorld_tick (s : State) (asid w : Nat) (x : WorldState) : (s.setWorld asid w x).tick = s.tick := rfl
@[simp] theorem State.setWorld_ctxTable (s : State) (asid w : Nat) (x : WorldState) : (s.setWorld asid w x).ctxTable = s.ctxTable := rfl
@[simp] theorem State.setWorld_ctxs (s : State) (asid w : Nat) (x : WorldState) : (s.setWorld asid w x).ctxs = s.ctxs := rfl
@[simp] theorem State.setWorld_wgs (s : State) (asid w : Nat) (x : WorldState) : (s.setWorld asid w x).wgs = s.wgs := rfl
@[simp] theorem State.setWorld_warps (s : State) (asid w : Nat) (x : WorldState) : (s.setWorld asid w x).warps = s.warps := rfl
@[simp] theorem State.setWorld_cores (s : State) (asid w : Nat) (x : WorldState) : (s.setWorld asid w x).cores = s.cores := rfl
@[simp] theorem State.setWorld_launches (s : State) (asid w : Nat) (x : WorldState) : (s.setWorld asid w x).launches = s.launches := rfl
@[simp] theorem State.setWorld_budgets (s : State) (asid w : Nat) (x : WorldState) : (s.setWorld asid w x).budgets = s.budgets := rfl
@[simp] theorem State.setWorld_queues (s : State) (asid w : Nat) (x : WorldState) : (s.setWorld asid w x).queues = s.queues := rfl
@[simp] theorem State.setWorld_deadlines (s : State) (asid w : Nat) (x : WorldState) : (s.setWorld asid w x).deadlines = s.deadlines := rfl
@[simp] theorem State.setWorld_pipes (s : State) (asid w : Nat) (x : WorldState) : (s.setWorld asid w x).pipes = s.pipes := rfl
@[simp] theorem State.setWorld_takes (s : State) (asid w : Nat) (x : WorldState) : (s.setWorld asid w x).takes = s.takes := rfl
@[simp] theorem State.setWorld_moves (s : State) (asid w : Nat) (x : WorldState) : (s.setWorld asid w x).moves = s.moves := rfl
@[simp] theorem State.setWorld_objs (s : State) (asid w : Nat) (x : WorldState) : (s.setWorld asid w x).objs = s.objs := rfl
@[simp] theorem State.setWorld_nets (s : State) (asid w : Nat) (x : WorldState) : (s.setWorld asid w x).nets = s.nets := rfl
@[simp] theorem State.setWorld_binds (s : State) (asid w : Nat) (x : WorldState) : (s.setWorld asid w x).binds = s.binds := rfl
@[simp] theorem State.setWorld_pending (s : State) (asid w : Nat) (x : WorldState) : (s.setWorld asid w x).pending = s.pending := rfl
@[simp] theorem State.setWorld_posts (s : State) (asid w : Nat) (x : WorldState) : (s.setWorld asid w x).posts = s.posts := rfl
@[simp] theorem State.setWorld_ports (s : State) (asid w : Nat) (x : WorldState) : (s.setWorld asid w x).ports = s.ports := rfl
@[simp] theorem State.setWorld_routes (s : State) (asid w : Nat) (x : WorldState) : (s.setWorld asid w x).routes = s.routes := rfl
@[simp] theorem State.setWorld_devid (s : State) (asid w : Nat) (x : WorldState) : (s.setWorld asid w x).devid = s.devid := rfl
@[simp] theorem State.setWorld_aperture (s : State) (asid w : Nat) (x : WorldState) : (s.setWorld asid w x).aperture = s.aperture := rfl
@[simp] theorem State.setWorld_hostOut (s : State) (asid w : Nat) (x : WorldState) : (s.setWorld asid w x).hostOut = s.hostOut := rfl
@[simp] theorem State.setWorld_etherOut (s : State) (asid w : Nat) (x : WorldState) : (s.setWorld asid w x).etherOut = s.etherOut := rfl
@[simp] theorem State.setWorld_conns (s : State) (asid w : Nat) (x : WorldState) : (s.setWorld asid w x).conns = s.conns := rfl
@[simp] theorem State.setWorld_slices (s : State) (asid w : Nat) (x : WorldState) : (s.setWorld asid w x).slices = s.slices := rfl
@[simp] theorem State.setWorld_early (s : State) (asid w : Nat) (x : WorldState) : (s.setWorld asid w x).early = s.early := rfl
@[simp] theorem State.setWorld_told (s : State) (asid w : Nat) (x : WorldState) : (s.setWorld asid w x).told = s.told := rfl
@[simp] theorem State.setWorld_migrations (s : State) (asid w : Nat) (x : WorldState) : (s.setWorld asid w x).migrations = s.migrations := rfl
@[simp] theorem State.setWorld_ckpt (s : State) (asid w : Nat) (x : WorldState) : (s.setWorld asid w x).ckpt = s.ckpt := rfl
@[simp] theorem State.setWorld_store (s : State) (asid w : Nat) (x : WorldState) : (s.setWorld asid w x).store = s.store := rfl
@[simp] theorem State.setWorld_commands (s : State) (asid w : Nat) (x : WorldState) : (s.setWorld asid w x).commands = s.commands := rfl
@[simp] theorem State.setWorld_completions (s : State) (asid w : Nat) (x : WorldState) : (s.setWorld asid w x).completions = s.completions := rfl
@[simp] theorem State.setWorld_ctlMem (s : State) (asid w : Nat) (x : WorldState) : (s.setWorld asid w x).ctlMem = s.ctlMem := rfl
@[simp] theorem State.setWorld_flash (s : State) (asid w : Nat) (x : WorldState) : (s.setWorld asid w x).flash = s.flash := rfl
@[simp] theorem State.setWorld_power (s : State) (asid w : Nat) (x : WorldState) : (s.setWorld asid w x).power = s.power := rfl
@[simp] theorem State.setWorld_bootstat (s : State) (asid w : Nat) (x : WorldState) : (s.setWorld asid w x).bootstat = s.bootstat := rfl
@[simp] theorem State.setWorld_meas (s : State) (asid w : Nat) (x : WorldState) : (s.setWorld asid w x).meas = s.meas := rfl
@[simp] theorem State.setWorld_eccfix (s : State) (asid w : Nat) (x : WorldState) : (s.setWorld asid w x).eccfix = s.eccfix := rfl
@[simp] theorem State.setWorld_eccbad (s : State) (asid w : Nat) (x : WorldState) : (s.setWorld asid w x).eccbad = s.eccbad := rfl
@[simp] theorem State.setWorld_withheld (s : State) (asid w : Nat) (x : WorldState) : (s.setWorld asid w x).withheld = s.withheld := rfl
@[simp] theorem State.setWorld_watts (s : State) (asid w : Nat) (x : WorldState) : (s.setWorld asid w x).watts = s.watts := rfl
@[simp] theorem State.setWorld_throttled (s : State) (asid w : Nat) (x : WorldState) : (s.setWorld asid w x).throttled = s.throttled := rfl
@[simp] theorem State.setWorld_overPower (s : State) (asid w : Nat) (x : WorldState) : (s.setWorld asid w x).overPower = s.overPower := rfl
@[simp] theorem State.setWorld_temp (s : State) (asid w : Nat) (x : WorldState) : (s.setWorld asid w x).temp = s.temp := rfl
@[simp] theorem State.setWorld_eccHits (s : State) (asid w : Nat) (x : WorldState) : (s.setWorld asid w x).eccHits = s.eccHits := rfl
@[simp] theorem State.setWorld_plugins (s : State) (asid w : Nat) (x : WorldState) : (s.setWorld asid w x).plugins = s.plugins := rfl
@[simp] theorem State.setWorld_stopped (s : State) (asid w : Nat) (x : WorldState) : (s.setWorld asid w x).stopped = s.stopped := rfl
@[simp] theorem State.setWorld_policies (s : State) (asid w : Nat) (x : WorldState) : (s.setWorld asid w x).policies = s.policies := rfl
@[simp] theorem State.setWorld_restarting (s : State) (asid w : Nat) (x : WorldState) : (s.setWorld asid w x).restarting = s.restarting := rfl
@[simp] theorem State.setWorld_mapOut (s : State) (asid w : Nat) (x : WorldState) : (s.setWorld asid w x).mapOut = s.mapOut := rfl
@[simp] theorem State.setWorld_rvs (s : State) (asid w : Nat) (x : WorldState) : (s.setWorld asid w x).rvs = s.rvs := rfl
@[simp] theorem State.setWorld_nextId (s : State) (asid w : Nat) (x : WorldState) : (s.setWorld asid w x).nextId = s.nextId := rfl
@[simp] theorem State.setWorld_cur (s : State) (asid w : Nat) (x : WorldState) : (s.setWorld asid w x).cur = s.cur := rfl
@[simp] theorem State.setWorld_unit (s : State) (asid w : Nat) (x : WorldState) : (s.setWorld asid w x).unit = s.unit := rfl
@[simp] theorem State.setWorld_ir (s : State) (asid w : Nat) (x : WorldState) : (s.setWorld asid w x).ir = s.ir := rfl
@[simp] theorem State.setWorld_order (s : State) (asid w : Nat) (x : WorldState) : (s.setWorld asid w x).order = s.order := rfl
@[simp] theorem State.setWorld_stalled (s : State) (asid w : Nat) (x : WorldState) : (s.setWorld asid w x).stalled = s.stalled := rfl
@[simp] theorem State.setWorld_byLane (s : State) (asid w : Nat) (x : WorldState) : (s.setWorld asid w x).byLane = s.byLane := rfl
@[simp] theorem State.setWorld_agenda (s : State) (asid w : Nat) (x : WorldState) : (s.setWorld asid w x).agenda = s.agenda := rfl
@[simp] theorem State.setWorld_freeCount (s : State) (asid w : Nat) (x : WorldState) : (s.setWorld asid w x).freeCount = s.freeCount := rfl

/-! ### Reading back -/

theorem State.warpAt_setWarp (s : State) (k m : Nat) (w : Warp) : (s.setWarp k w).warpAt m = if m = k then w else s.warpAt m :=
  Table.get_set _ _ _ _ _
theorem State.wgAt_setWg (s : State) (k m : Nat) (g : Workgroup) : (s.setWg k g).wgAt m = if m = k then g else s.wgAt m :=
  Table.get_set _ _ _ _ _
theorem State.coreAt_setCoreAt (s : State) (k m : Nat) (c : Core) : (s.setCoreAt k c).coreAt m = if m = k then c else s.coreAt m :=
  Table.get_set _ _ _ _ _
theorem State.launchAt_setLaunch (s : State) (k m : Nat) (l : Launch) :
    (s.setLaunch k l).launchAt m = if m = k then l else s.launchAt m := Table.get_set _ _ _ _ _
theorem State.queueAt_setQueue (s : State) (k m : Nat) (q : Queue) : (s.setQueue k q).queueAt m = if m = k then q else s.queueAt m :=
  Table.get_set _ _ _ _ _
theorem State.ctxAt_setCtx (s : State) (k m : Nat) (c : Context) : (s.setCtx k c).ctxAt m = if m = k then c else s.ctxAt m :=
  Table.get_set _ _ _ _ _
theorem State.deadlineAt_setDeadline (s : State) (k m : Nat) (d : Deadline) :
    (s.setDeadline k d).deadlineAt m = if m = k then d else s.deadlineAt m := Table.get_set _ _ _ _ _
theorem State.portAt_setPort (s : State) (k m : Nat) (p : Port) : (s.setPort k p).portAt m = if m = k then p else s.portAt m :=
  Table.get_set _ _ _ _ _

@[simp] theorem State.w_setW (s : State) (w : Warp) : (s.setW w).w = w := Table.get_set_same _ _ _ _
@[simp] theorem State.warpAt_setW (s : State) (w : Warp) (m : Nat) : (s.setW w).warpAt m = if m = s.cur then w else s.warpAt m :=
  Table.get_set _ _ _ _ _
@[simp] theorem State.wgAt_setW (s : State) (w : Warp) (m : Nat) : (s.setW w).wgAt m = s.wgAt m := rfl
@[simp] theorem State.coreAt_setW (s : State) (w : Warp) (m : Nat) : (s.setW w).coreAt m = s.coreAt m := rfl
@[simp] theorem State.launchAt_setW (s : State) (w : Warp) (m : Nat) : (s.setW w).launchAt m = s.launchAt m := rfl
@[simp] theorem State.w_setCore (s : State) (c : Core) : (s.setCore c).w = s.w := rfl
@[simp] theorem State.w_setG (s : State) (g : Workgroup) : (s.setG g).w = s.w := rfl
@[simp] theorem State.g_setG (s : State) (g : Workgroup) : (s.setG g).g = g := Table.get_set_same _ _ _ _
@[simp] theorem State.coreAt_setG (s : State) (g : Workgroup) (m : Nat) : (s.setG g).coreAt m = s.coreAt m := rfl
@[simp] theorem State.w_setU (s : State) (u : IUnit) : (s.setU u).w = { s.w with units := Table.set s.w.units s.unit u } :=
  Table.get_set_same _ _ _ _
@[simp] theorem State.u_setU (s : State) (u : IUnit) : (s.setU u).u = u := by
  unfold State.u; rw [State.w_setU]; exact Table.get_set_same _ _ _ _
@[simp] theorem State.w_setSreg (s : State) (n : Nat) (v : W64) : (s.setSreg n v).w = s.w.setSreg n v := State.w_setW _ _

theorem Warp.sreg_setSreg (w : Warp) (n m : Nat) (v : W64) : (w.setSreg n v).sreg m = if m = n then v else w.sreg m :=
  Table.get_put _ _ _ _ _

end Sys2Proof.Machine
end

