-- ==== Sys2Proof/Laws/Lanes.lean ====
section
/-! SUPPORT. Laws of lane sets, of writing registers in the lanes of a set, and of predicates. -/
namespace Sys2Proof.Machine

theorem mem_lanes32 {L : Nat} : L ∈ lanes32 ↔ L < 32 := by simp [lanes32]

theorem Lanes.mem_list {m : Lanes} {L : Nat} : L ∈ Lanes.list m ↔ L < 32 ∧ m.getLsbD L = true := by
  simp [Lanes.list, mem_lanes32]

theorem getLsbD_foldl_or (ls : List Nat) (m : Lanes) (i : Nat) (hi : i < 32) :
    (ls.foldl (fun m L => m ||| (1#32 <<< L)) m).getLsbD i = (m.getLsbD i || decide (i ∈ ls)) := by
  induction ls generalizing m with
  | nil => simp
  | cons L ls ih =>
    rw [List.foldl_cons, ih]
    have : (1#32 <<< L).getLsbD i = decide (i = L) := by
      rw [BitVec.getLsbD_shiftLeft]
      by_cases h : i < L
      · have : i ≠ L := by omega
        simp [hi, h, this]
      · rcases Nat.eq_or_lt_of_le (Nat.le_of_not_lt h) with e | e
        · subst e; simp [hi]
        · have h1 : i - L ≠ 0 := by omega
          have h2 : i ≠ L := by omega
          simp [hi, h, h1, h2]
    rw [BitVec.getLsbD_or, this, Bool.or_assoc]
    by_cases h : i = L <;> simp [h]

/-- Lane L is in the set of the lanes for which a test holds exactly where it holds. -/
theorem Lanes.getLsbD_of (f : Nat → Bool) (L : Nat) (h : L < 32) : (Lanes.of f).getLsbD L = f L := by
  unfold Lanes.of
  rw [getLsbD_foldl_or _ _ _ h]
  simp [mem_lanes32, h]

theorem Lanes.getLsbD_merge (act old new : Lanes) (L : Nat) (h : L < 32) :
    (Lanes.merge act old new).getLsbD L = if act.getLsbD L then new.getLsbD L else old.getLsbD L := by
  unfold Lanes.merge
  rw [BitVec.getLsbD_or, BitVec.getLsbD_and, BitVec.getLsbD_and, BitVec.getLsbD_not]
  cases act.getLsbD L <;> simp [h]

theorem ne_zero_of_lane {m : Lanes} {L : Nat} (h : m.getLsbD L = true) : m ≠ 0 := by
  intro e; subst e; simp at h

/-- A register after a write in some lanes. -/
theorem get_writeLanes (t : Table W32) (e : Nat) (f : Nat → W32) (ls : List Nat) (k : Nat) :
    Table.get 0 (writeLanes t e f ls) k =
      if ∃ L ∈ ls, k = 32 * e + L then f (k - 32 * e) else Table.get 0 t k := by
  induction ls generalizing t with
  | nil => simp [writeLanes]
  | cons L ls ih =>
    rw [writeLanes, ih, Table.get_put]
    by_cases h : ∃ J ∈ ls, k = 32 * e + J
    · rw [if_pos h, if_pos]; obtain ⟨J, hJ, hk⟩ := h; exact ⟨J, List.mem_cons_of_mem _ hJ, hk⟩
    · rw [if_neg h]
      by_cases h2 : k = 32 * e + L
      · rw [if_pos h2, if_pos ⟨L, List.mem_cons_self, h2⟩, h2]; congr 1; omega
      · rw [if_neg h2, if_neg]
        rintro ⟨J, hJ, hk⟩
        rcases List.mem_cons.1 hJ with rfl | hJ
        · exact h2 hk
        · exact h ⟨J, hJ, hk⟩

theorem Warp.vreg_setVreg (w : Warp) (act : Lanes) (e : Nat) (f : Nat → W32) (x L : Nat) (hL : L < 32) :
    (w.setVreg act e f).vreg x L = if x = e ∧ act.getLsbD L = true then f L else w.vreg x L := by
  unfold Warp.setVreg Warp.vreg
  simp only [get_writeLanes]
  by_cases h : x = e ∧ act.getLsbD L = true
  · rw [if_pos h, if_pos ⟨L, Lanes.mem_list.2 ⟨hL, h.2⟩, by rw [h.1]⟩, h.1]; congr 1; omega
  · rw [if_neg h, if_neg]
    rintro ⟨J, hJ, hk⟩
    have hJ' := (Lanes.mem_list.1 hJ)
    have : x = e ∧ L = J := by omega
    exact h ⟨this.1, this.2 ▸ hJ'.2⟩

@[simp] theorem Warp.setVreg_rest (w : Warp) (act : Lanes) (e : Nat) (f : Nat → W32) :
    w.setVreg act e f = { w with vregs := (w.setVreg act e f).vregs } := rfl

theorem Warp.vreg_setPair (w : Warp) (act : Lanes) (e : Nat) (f : Nat → W64) (x L : Nat) (hL : L < 32) :
    (w.setPair act e f).vreg x L =
      if act.getLsbD L = true ∧ x = e then (f L).setWidth 32
      else if act.getLsbD L = true ∧ x = e + 1 then ((f L) >>> 32).setWidth 32 else w.vreg x L := by
  unfold Warp.setPair
  rw [Warp.vreg_setVreg _ _ _ _ _ _ hL, Warp.vreg_setVreg _ _ _ _ _ _ hL]
  by_cases h : act.getLsbD L = true <;> by_cases h1 : x = e <;> by_cases h2 : x = e + 1 <;> simp_all

theorem append_halves (v : W64) : (v >>> 32).setWidth 32 ++ v.setWidth 32 = v := by
  apply BitVec.eq_of_getLsbD_eq
  intro i hi
  rw [BitVec.getLsbD_append]
  by_cases h : i < 32
  · simp [h]
  · have h1 : i - 32 < 32 := by omega
    have h2 : 32 + (i - 32) = i := by omega
    simp [h, h1, h2]

theorem Warp.pair_setPair (w : Warp) (act : Lanes) (e : Nat) (f : Nat → W64) (L : Nat) (hL : L < 32) (h : act.getLsbD L = true) :
    (w.setPair act e f).pair e L = f L := by
  unfold Warp.pair
  rw [Warp.vreg_setPair _ _ _ _ _ _ hL, Warp.vreg_setPair _ _ _ _ _ _ hL]
  simp [h, append_halves]

/-- A predicate after a write (R29). -/
theorem Warp.getLsbD_pred_setPred (w : Warp) (act : Lanes) (p : Nat) (m : Lanes) (q L : Nat) (hL : L < 32) :
    ((w.setPred act p m).pred q).getLsbD L =
      if q = p ∧ p ≠ 0 ∧ act.getLsbD L = true then m.getLsbD L else (w.pred q).getLsbD L := by
  unfold Warp.setPred
  by_cases hp : p = 0
  · simp [hp]
  · by_cases hq : q = 0
    · subst hq
      have : (0 : Nat) ≠ p := fun h => hp h.symm
      simp [hp, this, Warp.pred]
    · by_cases h : q = p
      · subst h
        simp [Warp.pred, hp, Lanes.getLsbD_merge _ _ _ _ hL]
      · simp [Warp.pred, hp, hq, Table.get_put, h]

end Sys2Proof.Machine
end

