-- ==== Sys2Proof/Laws/Issue.lean ====
section
/-! SUPPORT. What the shared shapes of instructions do: one lemma per shape, which the laws of single instructions cite
instead of unfolding it. -/
namespace Sys2Proof.Machine

/-! ### Issuing -/

theorem State.issue_admits {s : State} {acc : Accept} {ops : List Opnd} (k : State → Eff) (h : s.Admits acc ops) :
    s.issue acc ops false k = s.finish ((k s).popped (s.popped ops)) := by
  obtain ⟨h1, h2, h3, h4, h5, h6⟩ := h
  have e : ∀ n x, s.finishFrom n x = s := by
    intro n x; cases x <;> simp [State.finishFrom, State.unpop, h6]
  simp [State.issue, State.popped, h1, h2, h3, h4, h5, e]

/-- An effect that is done: the unit goes on after the queue entries have been removed. -/
theorem State.issue_done {s s' : State} {acc : Accept} {ops : List Opnd} {k : State → Eff} (h : s.Admits acc ops)
    (e : k s = .done s') : s.issue acc ops false k = .next (s'.pop (s.popped ops)).retire := by
  rw [State.issue_admits k h, e]; rfl

/-- An illegal instruction takes ILLEGAL_OP before any other check (R22, R73). -/
theorem State.issue_illegal {s : State} {acc : Accept} {ops : List Opnd} {illegal : Bool} (k : State → Eff)
    (h : s.framed acc ops = false ∨ illegal = true ∨ ops.any s.illOp = true) :
    s.issue acc ops illegal k = .next (s.takeTrap .illegalOp s.ir.toNat) := by
  unfold State.issue State.finish
  rcases h with h | h | h <;> simp [h]

/-- A register beyond the allotment takes REG_BOUND (R24). -/
theorem State.issue_bound {s : State} {acc : Accept} {ops : List Opnd} {e : Nat} (k : State → Eff)
    (h1 : s.framed acc ops = true) (h2 : ops.any s.illOp = false) (h3 : ops.findSome? s.boundOp = some e) :
    s.issue acc ops false k = .next (s.takeTrap .regBound e) := by
  simp [State.issue, State.finish, h1, h2, h3]

/-- An instruction whose register line or queue entry is missing issues again later (R25, R27). -/
theorem State.issue_stall {s : State} {acc : Accept} {ops : List Opnd} (k : State → Eff)
    (h1 : s.framed acc ops = true) (h2 : ops.any s.illOp = false) (h3 : ops.findSome? s.boundOp = none)
    (h4 : s.missesLine ops = true ∨ s.opqShort ops = true) : s.issue acc ops false k = .next s := by
  unfold State.issue
  rcases h4 with h4 | h4 <;> simp [h1, h2, h3, h4]

/-! ### Popping, raising -/

theorem State.w_pop {s : State} (hi : s.u.issued = none) (n : Nat) : (s.pop n).w = { s.w with opq := s.w.opq.drop n } := by
  unfold State.pop
  by_cases h : n = 0 <;> simp [h, hi]

theorem State.rest_pop (s : State) (n : Nat) : s.pop n = { s with warps := (s.pop n).warps } := by
  unfold State.pop
  split_ifs <;> rfl

theorem State.warpAt_pop (s : State) (n k : Nat) (h : k ≠ s.cur) : (s.pop n).warpAt k = s.warpAt k := by
  unfold State.pop
  split_ifs
  · rfl
  · rw [State.warpAt_setW, if_neg h]

theorem State.w_raise (s : State) (f : BitVec 5) : (s.raise f).w = s.w := by
  unfold State.raise; split_ifs <;> rfl

theorem State.rest_raise (s : State) (f : BitVec 5) : s.raise f = { s with cores := (s.raise f).cores } := by
  unfold State.raise; split_ifs <;> rfl

theorem State.coreAt_raise (s : State) (f : BitVec 5) (k : Nat) :
    (s.raise f).coreAt k = if k = s.g.core then { s.core with fflags := s.core.fflags ||| f } else s.coreAt k := by
  unfold State.raise
  split_ifs with h1 h2 h2
  · subst h1; subst h2; simp [State.core]
  · rfl
  · subst h2; exact (State.coreAt_setCoreAt s s.g.core s.g.core _).trans (if_pos rfl)
  · exact (State.coreAt_setCoreAt s s.g.core k _).trans (if_neg h2)

/-- A register result leaves the unit as one whose accesses are not under way. -/
theorem State.u_result {s : State} (hi : s.u.issued = none) {w : Warp} (hu : w.units = s.w.units) (f : BitVec 5) :
    ((s.setW w).raise f).u.issued = none := by
  have e : ((s.setW w).raise f).unit = s.unit := by rw [State.rest_raise]; rfl
  unfold State.u at hi ⊢
  rw [State.w_raise, State.w_setW, hu, e]; exact hi

/-- A change of the current warp, flags raised, queue entries removed: the frame of every register result. -/
theorem State.onlyWarp (s : State) (w : Warp) (hw : w.wg = s.w.wg) (f : BitVec 5) (n : Nat) :
    s.OnlyWarp (((s.setW w).raise f).pop n) f := by
  have g : (s.setW w).g = s.g := by unfold State.g; rw [State.w_setW, hw]; rfl
  have hc : ((s.setW w).raise f).cur = s.cur := by rw [State.rest_raise]; rfl
  constructor
  · intro k hk
    rw [State.warpAt_pop _ _ _ (by rw [hc]; exact hk)]
    have : ((s.setW w).raise f).warpAt k = (s.setW w).warpAt k := by unfold State.warpAt; rw [State.rest_raise]
    rw [this, State.warpAt_setW, if_neg hk]
  · intro k hk
    have : (((s.setW w).raise f).pop n).coreAt k = ((s.setW w).raise f).coreAt k := by
      unfold State.coreAt; rw [State.rest_pop]
    rw [this, State.coreAt_raise, g, if_neg hk]; rfl
  · have : (((s.setW w).raise f).pop n).coreAt s.g.core = ((s.setW w).raise f).coreAt s.g.core := by
      unfold State.coreAt; rw [State.rest_pop]
    rw [this, State.coreAt_raise, g, if_pos rfl]
    unfold State.core
    rw [g]; rfl
  · rw [State.rest_pop, State.rest_raise]; rfl

theorem State.w_result {s : State} (hi : s.u.issued = none) {w : Warp} (hu : w.units = s.w.units) (f : BitVec 5) (n : Nat) :
    (((s.setW w).raise f).pop n).w = { w with opq := w.opq.drop n } := by
  rw [State.w_pop (State.u_result hi hu f), State.w_raise, State.w_setW]

theorem State.onlyWarp_pop (s : State) (n : Nat) : s.OnlyWarp (s.pop n) 0 := by
  have z : s.core.fflags ||| (0 : BitVec 5) = s.core.fflags := by simp
  constructor
  · intro j hj; exact State.warpAt_pop _ _ _ hj
  · intro j _; unfold State.coreAt; rw [State.rest_pop]
  · rw [z]; unfold State.coreAt; rw [State.rest_pop]; rfl
  · rw [State.rest_pop]

/-! ### Vector results -/

theorem State.raise_zero (s : State) : s.raise 0 = s := by simp [State.raise]

theorem State.writeA_setW (s : State) (ops : List Opnd) (n : Nat) (f : Nat → W64) :
    s.writeA ops n f = s.setW (if n = 2 then s.w.setPair s.act (s.regAt ops .a) f
      else s.w.setVreg s.act (s.regAt ops .a) (fun L => (f L).setWidth 32)) := by
  unfold State.writeA; split_ifs <;> rfl

/-- What a write of a vector destination amounts to. -/
theorem State.writeA_result {s : State} (hi : s.u.issued = none) (ops : List Opnd) (n : Nat) (hn : n = 1 ∨ n = 2) (f : Nat → W64) (fl : BitVec 5) :
    s.VecResult (((s.writeA ops n f).raise fl).pop (s.popped ops)) ops n (s.regAt ops .a) f fl := by
  rw [State.writeA_setW]
  generalize hw : (if n = 2 then s.w.setPair s.act (s.regAt ops .a) f
      else s.w.setVreg s.act (s.regAt ops .a) (fun L => (f L).setWidth 32)) = w
  have hrest : w = { s.w with vregs := w.vregs } := by subst hw; split_ifs <;> rfl
  have hv : ∀ x L, L < 32 → ((((s.setW w).raise fl).pop (s.popped ops)).w).vreg x L = w.vreg x L := by
    intro x L _; rw [State.w_result hi (by rw [hrest])]; rfl
  constructor
  · intro L hL ha
    unfold Warp.Holds Warp.pair
    rw [hv _ _ hL, hv _ _ hL]
    rcases hn with rfl | rfl
    · simp only [show (1 : Nat) ≠ 2 by decide, if_false] at hw ⊢
      subst hw
      rw [Warp.vreg_setVreg _ _ _ _ _ _ hL, if_pos ⟨rfl, ha⟩]
    · simp only [if_true] at hw ⊢
      subst hw
      exact Warp.pair_setPair _ _ _ _ _ hL ha
  · intro x L hL h
    rw [hv _ _ hL]
    rcases hn with rfl | rfl
    · simp only [show (1 : Nat) ≠ 2 by decide, if_false] at hw
      subst hw
      rw [Warp.vreg_setVreg _ _ _ _ _ _ hL, if_neg]
      rintro ⟨rfl, ha⟩
      rcases h with h | h | h
      · rw [ha] at h; cases h
      · omega
      · omega
    · simp only [if_true] at hw
      subst hw
      rw [Warp.vreg_setPair _ _ _ _ _ _ hL]
      rcases h with h | h | h
      · simp [h]
      · rw [if_neg (by omega), if_neg (by omega)]
      · rw [if_neg (by omega), if_neg (by omega)]
  · rw [State.w_result hi (by rw [hrest])]
    conv_lhs => rw [hrest]
  · exact State.onlyWarp s w (by rw [hrest]) fl _

/-- A vector result computed lane by lane and written at once. -/
theorem State.vmap_spec {s : State} {acc : Accept} {ops : List Opnd} {n : Nat} (k : Consts)
    (f : State → Nat → W64 → W64 → W64 → W64 × BitVec 5) (hn : n = 1 ∨ n = 2) (h : s.Admits acc ops) :
    ∃ u, s.vmap acc ops false k n none f = .next u.retire ∧
      s.VecResult u ops n (s.regAt ops .a)
        (fun L => (f s L (s.valueAt k ops .a L) (s.valueAt k ops .b L) (s.valueAt k ops .c L)).1)
        (flagsOf s.act (fun L => (f s L (s.valueAt k ops .a L) (s.valueAt k ops .b L) (s.valueAt k ops .c L)).2)) := by
  refine ⟨_, ?_, State.writeA_result h.2.2.2.2.2 ops n hn _ _⟩
  unfold State.vmap
  exact State.issue_done h rfl

/-! ### Predicate and scalar results -/

theorem State.vpred_spec {s : State} {acc : Accept} {ops : List Opnd} (k : Consts) (p : BitVec 3)
    (f : State → Nat → W64 → W64 → Bool × BitVec 5) (h : s.Admits acc ops) :
    ∃ u, s.vpred acc ops false k p f = .next u.retire ∧
      s.PredResult u ops p.toNat (fun L => (f s L (s.valueAt k ops .b L) (s.valueAt k ops .c L)).1)
        (flagsOf s.act (fun L => (f s L (s.valueAt k ops .b L) (s.valueAt k ops .c L)).2)) := by
  refine ⟨_, by unfold State.vpred; exact State.issue_done h rfl, ?_⟩
  have hrest : ∀ (a : Lanes) (p : Nat) (m : Lanes), s.w.setPred a p m = { s.w with preds := (s.w.setPred a p m).preds } := by
    intro a p m; unfold Warp.setPred; split_ifs <;> rfl
  constructor
  · intro q L hL
    rw [State.w_result h.2.2.2.2.2 (by rw [hrest])]
    have := Warp.getLsbD_pred_setPred s.w s.act p.toNat
      (Lanes.of (fun L => (f s L (s.valueAt k ops .b L) (s.valueAt k ops .c L)).1)) q L hL
    rw [Lanes.getLsbD_of _ _ hL] at this
    exact this
  · rw [State.w_result h.2.2.2.2.2 (by rw [hrest])]
    conv_lhs => rw [hrest]
  · exact State.onlyWarp s _ (by rw [hrest]) _ _

theorem State.setSreg_setW (s : State) (n : Nat) (v : W64) : s.setSreg n v = s.setW (s.w.setSreg n v) := rfl

theorem State.smap_spec {s : State} {acc : Accept} {ops : List Opnd} (k : Consts)
    (f : State → W64 → W64 → W64 → W64 × BitVec 5) (h : s.Admits acc ops) :
    ∃ u, s.smap acc ops false k f = .next u.retire ∧
      s.ScalResult u ops (s.regAt ops .a) (f s (s.valueAt k ops .a 0) (s.valueAt k ops .b 0) (s.valueAt k ops .c 0)).1
        (if s.act = 0 then 0 else (f s (s.valueAt k ops .a 0) (s.valueAt k ops .b 0) (s.valueAt k ops .c 0)).2) := by
  by_cases ha : s.act = 0
  · refine ⟨s.pop (s.popped ops), by unfold State.smap; exact State.issue_done h (if_pos ha), ?_⟩
    constructor
    · intro m; rw [State.w_pop h.2.2.2.2.2]; simp [ha]; rfl
    · rw [State.w_pop h.2.2.2.2.2]
    · rw [if_pos ha]; exact State.onlyWarp_pop s _
  · refine ⟨_, by unfold State.smap; exact State.issue_done h (if_neg ha), ?_⟩
    rw [State.setSreg_setW, if_neg ha]
    constructor
    · intro m
      rw [State.w_result h.2.2.2.2.2 (by rfl)]
      have := Warp.sreg_setSreg s.w (s.regAt ops .a) m (f s (s.valueAt k ops .a 0) (s.valueAt k ops .b 0) (s.valueAt k ops .c 0)).1
      simp only [ha, ne_eq, not_false_eq_true, and_true]
      exact this
    · rw [State.w_result h.2.2.2.2.2 (by rfl)]; rfl
    · exact State.onlyWarp s (s.w.setSreg _ _) rfl _ _

/-! ### Long-latency results -/

theorem State.pushResult_done {s : State} {la : BitVec 4} {p : Pending} (hf : s.full = false) (hp : p.act = s.act) :
    s.pushResult la p = .done (s.setW { s.w with
      pend := if s.act = 0 then s.w.pend else s.w.pend ++ [{ p with unit := s.unit, left := la.toNat + 1 }] }) ∨
    (s.act = 0 ∧ s.pushResult la p = .done s) := by
  unfold State.pushResult
  by_cases ha : s.act = 0
  · right; rw [hp]; simp [ha]
  · left
    simp only [State.full, ha, ne_eq, not_false_eq_true, decide_true, Bool.true_and] at hf
    rw [hp, if_neg ha, if_neg (by simp [hf]), if_neg ha]

/-- What a result's window amounts to. -/
theorem State.late_result {s : State} {acc : Accept} {ops : List Opnd} {la : BitVec 4} {k : State → Eff} {p : Pending}
    (h : s.Admits acc ops) (hf : s.full = false) (hk : k s = s.pushResult la p) (hp : p.act = s.act) :
    ∃ u, s.issue acc ops false k = .next u.retire ∧ s.LateResult u ops la p := by
  rcases State.pushResult_done (la := la) hf hp with e | ⟨ha, e⟩
  · refine ⟨_, State.issue_done h (hk.trans e), ?_⟩
    have := State.onlyWarp s { s.w with
      pend := if s.act = 0 then s.w.pend else s.w.pend ++ [{ p with unit := s.unit, left := la.toNat + 1 }] } rfl 0 (s.popped ops)
    rw [State.raise_zero] at this
    have hu := State.u_result h.2.2.2.2.2 (w := { s.w with
      pend := if s.act = 0 then s.w.pend else s.w.pend ++ [{ p with unit := s.unit, left := la.toNat + 1 }] }) rfl 0
    rw [State.raise_zero] at hu
    exact ⟨by rw [State.w_pop hu, State.w_setW], this⟩
  · refine ⟨_, State.issue_done h (hk.trans e), ?_, State.onlyWarp_pop s _⟩
    rw [State.w_pop h.2.2.2.2.2, if_pos ha]

theorem State.vmap_late {s : State} {acc : Accept} {ops : List Opnd} {n : Nat} {la : BitVec 4} (k : Consts)
    (f : State → Nat → W64 → W64 → W64 → W64 × BitVec 5) (h : s.Admits acc ops) (hf : s.full = false) :
    ∃ u, s.vmap acc ops false k n (some la) f = .next u.retire ∧
      s.LateResult u ops la (Pending.of s.act
        (let r := fun L => (f s L (s.valueAt k ops .a L) (s.valueAt k ops .b L) (s.valueAt k ops .c L)).1
         let e := s.regAt ops .a
         if n = 2 then [(e, allLanes (fun L => (r L).setWidth 32)), (e + 1, allLanes (fun L => ((r L) >>> 32).setWidth 32))]
         else [(e, allLanes (fun L => (r L).setWidth 32))])
        (lanes32.map (fun L => (f s L (s.valueAt k ops .a L) (s.valueAt k ops .b L) (s.valueAt k ops .c L)).2))) := by
  unfold State.vmap
  exact State.late_result h hf rfl rfl

end Sys2Proof.Machine
end

