-- ==== Sys2Proof/Tests/Slice0.lean ====
section
/-! SUPPORT. Tests of the model's own: ill-formed instructions that the checks refuse, words written out from the encoding
tables of the opcode map, worked examples of the spec, and for every statement with hypotheses states that meet them. -/
namespace Sys2Proof.Tests
open Sys2Proof.Machine

set_option Elab.async false

/-! ### Ill-formed instructions, one for each check (R22, R32, R41 to R49, R139, R145, R146) -/

theorem test_wf_refuses_frames_and_loops :
    [Instr.xidx 0 1 0 2 0 3, .loop 0 5 1, .loop 2 5 3, .getmask 3 4].map Instr.wf = [false, false, false, false] := rfl
theorem test_wf_refuses_lane_operations :
    [Instr.redux 12 4 6, .scanIncl 12 4 6, .scanExcl 15 4 6, .lreord 5 2 4 6, .setp 10 2 4 0 1, .sSetp 15 2 4 0 1].all (fun i => !i.wf) = true := rfl
theorem test_wf_refuses_conversions :
    [Instr.cvt 13 0 0 2 4 6, .cvt 2 0 0 13 4 6, .pack 4 0 4 6, .pack 0 4 4 6, .pack 2 2 4 6, .unpk 8 0 4 6, .unpk 9 2 4 6, .unpk 12 4 4 6,
      .qbx 3 4 6].all (fun i => !i.wf) = true := rfl
theorem test_wf_refuses_wide_shift_counts :
    [Instr.shlImm 0 32 4 6, .shrImm 0 32 4 6, .sarImm 0 63 4 6].all (fun i => !i.wf) = true ∧
    [Instr.shlImm 0 31 4 6, .shrImm 1 32 4 6, .sarImm 1 63 4 6].all Instr.wf = true := ⟨rfl, rfl⟩
theorem test_wf_refuses_float_types :
    [Instr.fadd 0 2 4 6 3, .fsub 0 2 4 6 3, .fmul 0 2 4 6 3, .fma 0 2 4 6 3, .fms 0 2 4 6 3, .fnma 0 2 4 6 3, .fmin 2 4 6 3, .fmax 2 4 6 3,
      .fsign 2 4 6 3, .fclass 4 6 3, .frnd 0 4 6 3, .fsetp 8 2 4 0 1, .fsetp 0 2 4 3 1, .fldx 3 0 2 4 6, .frcp 0 3 4 6, .frsq 0 3 4 6,
      .fsqrt 0 3 4 6, .fexp2 0 3 4 6, .flog2 0 3 4 6, .fsin 0 3 4 6, .fcos 0 3 4 6].all (fun i => !i.wf) = true := rfl
theorem test_wf_refuses_curve_and_system :
    [Instr.ccmp 2 4 6 1, .tret 3, .halt 2, .time 2 4].all (fun i => !i.wf) = true := rfl

/-! ### One word of every instruction, from the opcode map (R20, R21, R41 to R53) -/

theorem test_decode_prefix_and_control :
    ([0x00000D00, 0x00002A81, 0x00006582, 0x0004F803, 0x00062484, 0x0D278185, 0x00038006, 0x100CF406, 0x20160006,
      0x30000006, 0x40000006, 0x50000006, 0x60000006, 0x70000006, 0x86C00006, 0x9B640086, 0xA0200006, 0xB4A02D06,
      0x19400007] : List W32).map (fun w => (decode w).toOption) =
    ([.guard 1 1 2, .imm 85, .xidx 0 3 0 1 0 3, .bra 159, .call 196 9, .loop 105 30 3, .br 14, .calli 51 104,
      .ret 88, .exit, .join, .lbrk, .nop, .region, .wbase 54, .xset 91 16 1, .setpart 1, .getmask 37 90, .regang 202] : List Instr).map some := rfl

theorem test_decode_lanes :
    ([0x0001C248, 0x100100C8, 0x20004348, 0x300189C8, 0x471B5149, 0x1BA4A3C9, 0x604DF649, 0x34F708C9, 0x701300CA,
      0xC01C534B, 0x1005A5CC, 0x677C12CD] : List W32).map (fun w => (decode w).toOption) =
    ([.pollAnd 7 4, .pollOr 4 1, .pollSame 1 6, .pollMask 6 19, .shflIdx 1 56 109 34, .shflUp 0 93 18 71,
      .shflDown 1 2 55 108, .shflXor 0 39 92 17, .redux 7 76 1, .scanIncl 12 113 38, .scanExcl 1 22 75,
      .lreord 6 59 112 37] : List Instr).map some := rfl

theorem test_decode_vector_integer :
    ([0x05780A90, 0x1A015D11, 0x2EAAAF90, 0x3353C211, 0x5E8A6F11, 0x63338190, 0x812FB990, 0x95D8CC11, 0xAA621E90,
      0xBF0B7111, 0xDA41DE11, 0xE010BB90, 0xF019CE11, 0x1ECAF012, 0x63740292, 0x981D5512, 0xECA6A792] : List W32).map (fun w => (decode w).toOption) =
    ([.add 43 96 21 0, .sub 80 5 58 1, .addc 117 42 95 0, .subb 26 79 4 1, .sadd 1 116 41 94 1, .ssub 0 25 78 3 0,
      .mul 9 62 115 0, .mulhS 46 99 24 1, .mulhZ 83 8 61 0, .mad 120 45 98 1, .madh 1 82 7 60 1, .neg 66 119 0,
      .abs 103 28 1, .div 0 1 118 43 96, .rem 1 0 27 80 5, .min 0 1 64 117 42, .max 1 0 101 26 79] : List Instr).map some := rfl

theorem test_decode_vector_logic :
    ([0x04154513, 0x18BE9793, 0x2D47EA13, 0x31F13C93, 0x400D3493, 0x5B23A193, 0x6FCCF413, 0x74760693, 0x891F5913,
      0x901B5113, 0xA004A393, 0xB00DF613, 0xC0170893, 0xD02DB593, 0xE4D6C813, 0xF9605A93, 0x0E096D14, 0x12B2BF94,
      0x275BD214, 0x3BE52494, 0x40011C94, 0x55378994, 0x69C0DC14, 0x7E6A2E94] : List W32).map (fun w => (decode w).toOption) =
    ([.and 32 85 10, .or 69 122 47, .xor 106 31 84, .andn 15 68 121, .not 52 105, .shl 89 14 67, .shr 126 51 104,
      .sar 35 88 13, .rol 72 125 50, .clz 109 34, .ctz 18 71, .popc 55 108, .brev 92 17, .bfxS 1 54 107,
      .bfxZ 38 91 16, .bfi 75 1 53, .and64 112 37 90, .or64 21 74 127, .xor64 58 111 36, .andn64 95 20 73,
      .not64 4 57, .shl64 41 94 19, .shr64 78 3 56, .sar64 115 40 93] : List Instr).map some := rfl

theorem test_decode_vector_logic_2 :
    ([0x83134114, 0x900F7914, 0xA0188B94, 0xB001DE14, 0xC00B3094, 0xDA219D94, 0xEECAF014, 0xF3740294] : List W32).map (fun w => (decode w).toOption) =
    ([.rol64 24 77 2, .clz64 61 114, .ctz64 98 23, .popc64 7 60, .brev64 44 97, .bfxS64 81 6 59, .bfxZ64 118 43 96,
      .bfi64 27 80 5] : List Instr).map some := rfl

theorem test_decode_vector_moves_and_immediates :
    ([0x5557CA15, 0xA9E11C96, 0x7E8A6F17, 0xC3338198, 0x412F8499, 0x90C0C09B, 0x0007A99C, 0x1010FC1C, 0x2D000E9C,
      0x31A0211C, 0x4640339C, 0x5AE0061C, 0x6F8C731C, 0x163D551D, 0x6F6C329E, 0xB415451F, 0x10117D20, 0xC6BA8FA1,
      0xCB43E222, 0xCFED34A3, 0xD4964724, 0xD93F99A5, 0x047606A6, 0x091F5927] : List W32).map (fun w => (decode w).toOption) =
    ([.leaZ64 0 5 42 95 20, .leaS64 1 2 79 4 57, .selB32 0 7 116 41 94, .selB64 1 4 25 78 3, .setp 4 9 62 1 1,
      .plop 9 6 3 1, .movB32 30 83, .movB64 67 120, .moviB32 104 29, .moviS64 13 66, .moviZ64 50 103, .moviHi 87 12,
      .prmb 124 49 102, .cvt 1 0 3 1 117 42, .pack 6 123 48 101, .unpk 11 32 85 10, .qbx 1 69 122,
      .addImm32 1589 106 31, .addImm64 1626 15 68, .andImm 1663 52 105, .orImm 1700 89 14, .xorImm 1737 126 51,
      .shlImm 0 35 88 13, .shrImm 1 8 125 50] : List Instr).map some := rfl

theorem test_decode_vector_moves_and_immediates_2 :
    ([0x15A8ABA7] : List W32).map (fun w => (decode w).toOption) =
    ([.sarImm 0 45 34 87] : List Instr).map some := rfl

theorem test_decode_scalar :
    ([0x0BA4A3A8, 0x104DF629, 0x24F708A8, 0x39805B29, 0x54D6C829, 0x69605AA8, 0x877C12A8, 0x9C056529, 0xA0AEB7A8,
      0xB557CA29, 0xD08E7729, 0xE01D14A8, 0xF0066729, 0x07DCD42B, 0x1C6626AA, 0x210F792B, 0x35B88BAA, 0x401483AA,
      0x5EEB30AA, 0x6394432B, 0x783D95AA, 0x8CC6E82B, 0x9002E02B, 0xA00C32AA] : List W32).map (fun w => (decode w).toOption) =
    ([.sAdd 93 18 71 0, .sSub 2 55 108 1, .sAddc 39 92 17 0, .sSubb 76 1 54 1, .sSadd 1 38 91 16 1,
      .sSsub 0 75 1 53 0, .sMul 59 112 37 0, .sMulhS 96 21 74 1, .sMulhZ 5 58 111 0, .sMad 42 95 20 1,
      .sMadh 1 4 57 110 1, .sNeg 116 41 0, .sAbs 25 78 1, .sAnd 62 115 40 1, .sOr 99 24 77 0, .sXor 8 61 114 1,
      .sAndn 45 98 23 0, .sNot 82 7 0, .sShl 119 44 97 0, .sShr 28 81 6 1, .sSar 65 118 43 0, .sRol 102 27 80 1,
      .sClz 11 64 1, .sCtz 48 101 0] : List Instr).map some := rfl

theorem test_decode_scalar_2 :
    ([0xB015452B, 0xC01E97AA, 0xD3F504AA, 0xE89E572B, 0xFD27A9AA, 0x1F0B712C, 0x63B483AC, 0x985DD62C, 0xECE728AC,
      0x2AE3072D, 0x0011FE2E, 0x1D8010AE, 0x2220232E, 0x36C035AE, 0x4016C82E, 0x50005AAE, 0xA4B687AF] : List W32).map (fun w => (decode w).toOption) =
    ([.sPopc 85 10 1, .sBrev 122 47 0, .sBfxS 31 84 9 0, .sBfxZ 68 121 46 1, .sBfi 105 30 83 0, .sDiv 0 1 120 45 98,
      .sRem 1 0 29 82 7, .sMin 0 1 66 119 44, .sMax 1 0 103 28 81, .sSetp 2 87 12 1 6, .sMov 71 124,
      .sMoviS64 108 33, .sMoviZ64 17 70, .sMoviHi 54 107, .sCvtS64S32 91 16, .sCvtZ64Z32 1 53, .sAddImm 1317 90 15] : List Instr).map some := rfl

theorem test_decode_float :
    ([0x2FED34B4, 0x74964730, 0x993F99B2, 0xDDC8EC32, 0x22723EB5, 0x771B5131, 0x85174931, 0x99A09BB3, 0xAE49EE33,
      0xB005E633, 0xD01C5331, 0x12D2C6B6, 0x1E096D37, 0x62B2BFB7, 0x975BD237, 0xD557CA37, 0xB08E7738, 0xF10A6F39,
      0x413381B9, 0x925CD439, 0xE36626B9, 0x318F7939, 0x81B88BB9, 0xD2C1DE39] : List W32).map (fun w => (decode w).toOption) =
    ([.fadd 2 127 52 105 2, .fsub 3 36 89 14 0, .fmul 1 73 126 51 1, .fma 1 110 35 88 1, .fms 2 19 72 125 2,
      .fnma 3 56 109 34 0, .fmin 40 93 18 0, .fmax 77 2 55 1, .fsign 114 39 92 1, .fclass 23 76 1, .frnd 1 113 38 0,
      .fsetp 1 22 75 1 5, .pfadd 0 1 112 37 90, .pfmul 1 0 21 74 127, .pfma 0 1 58 111 36, .dot4 1 42 95 20,
      .fldx 2 3 4 57 110, .frcp 15 1 41 94, .frsq 4 1 78 3, .fsqrt 9 2 115 40, .fexp2 14 3 24 77, .flog2 3 1 61 114,
      .fsin 8 1 98 23, .fcos 13 2 7 60] : List Instr).map some := rfl

theorem test_decode_float_2 :
    ([0x2EEB30BA, 0x7394433B, 0xC83D95BC] : List W32).map (fun w => (decode w).toOption) =
    ([.fdivF32 2 119 44 97, .fdivF16 7 28 81 6, .fdivBf16 12 65 118 43] : List Instr).map some := rfl

theorem test_decode_curve :
    ([0x06398040, 0x1002E040, 0x21394D40, 0x34154AC0, 0x48BEAF40, 0x5D47D0C0, 0x61F100C0, 0x769A4F40, 0x8B23A1C0,
      0x0FCCF441, 0x147606C1, 0x8FACB3C2] : List W32).map (fun w => (decode w).toOption) =
    ([.cshape 49 102, .czip 0 11 64, .cunz 1 1 101 26, .cadd 32 85 10 1, .csub 69 122 47 0, .ccmp 106 31 4 1,
      .cinbox 15 68 1, .clcp 52 105 30, .ccell 89 14 67, .cnext 126 51 104, .cprev 35 88 13, .csplit 8 125 50 103] : List Instr).map some := rfl

theorem test_decode_memory :
    ([0xD455C650, 0x0251FE51, 0x7D886B52, 0x0B846353, 0x16DAD054, 0x6B6422D5, 0x09605AD6, 0x14B687D7, 0x595FDA58,
      0x075BD259, 0x0BE0005A, 0x1000005A, 0x2537805A, 0x39C0C05A, 0x4E6A005A, 0x5313405A] : List W32).map (fun w => (decode w).toOption) =
    ([.ld 13 34 87 12, .st 18 71 124, .lds 7 108 33 86, .sts 92 17 70, .ldk 1 54 107 32, .sld 6 91 16 69,
      .sst 75 1 53, .atom 1 37 90 15, .atoms 5 74 127 52, .red 58 111 36, .fence 95, .fenceSc, .pref 41 94,
      .clineClean 78 3, .clineInv 115 40, .clineFlush 24 77] : List Instr).map some := rfl

theorem test_decode_barrier :
    ([0x07BC805B, 0x10188BDB, 0x20EF38DB, 0x3000005B, 0x4A2181DB, 0x0ECAF05C] : List W32).map (fun w => (decode w).toOption) =
    ([.binit 61 114, .arrive 98 23, .arrivex 7 60 113, .bsync, .btest 81 6 3, .wait 118 43 96] : List Instr).map some := rfl

theorem test_decode_tile :
    ([0x037400E0, 0x00100061, 0x100000E1, 0x214FC0E1, 0x300BC0E1, 0x4120B9E2, 0x95C0CC63, 0x03D4C464, 0x187E16E4,
      0x201A0064, 0x31B08AE4, 0x400CB3E4, 0x00230065, 0x100018E5, 0x200010E5, 0x0011BDE8, 0x101AD068, 0x200422E8,
      0x300D4068, 0x4B43C068, 0x50000068, 0x60000068, 0x70124068, 0x8DC8EC68] : List W32).map (fun w => (decode w).toOption) =
    ([.mma 27 80 1, .gangset 64, .accz 1, .accwr 10 63 1, .accepi 47 1, .accrd 4 9 2 115, .accrdi 9 46 3 24,
      .crstart 30 83 8, .crcopy 67 120 45, .crhalo 104, .crfeed 13 66 1 1 1, .crstat 50 103, .qput 1 12, .qpop 0 49,
      .qcnt 33, .launch 70 123, .launchq 107 32, .dist 16 69, .fixup 53, .psetp 90 15, .pcancel, .prepeat, .psend 73,
      .qpush 110 35 88] : List Instr).map some := rfl

theorem test_decode_tile_2 :
    ([0x92723EE8, 0xA71B4068, 0xBBA48068, 0x20FB10E9, 0x7B84636A, 0xC0005B6B, 0x14D6C86C, 0x6012C0ED, 0x077C006E,
      0x1018006E, 0x20AEB7EE, 0x300AAFEE, 0x49E11CEE, 0x501D006E, 0x0006676F, 0x17DCD46F, 0x2000006F, 0x30201EEF,
      0x400B406F, 0x5000296F, 0x0EEB30F0, 0xCA219DF1, 0x1ECAF072, 0x637402F3] : List W32).map (fun w => (decode w).toOption) =
    ([.qtake 19 72 125, .lbox 56 109, .dline 93 18, .wlook 2 7 108 33, .wopen 7 92 17 70, .wnext 12 1 54,
      .wcol 1 38 91 16, .wdead 6 75 1, .wnew 59 112, .wdel 96, .wadd 5 58 111, .wrem 42 95, .wcoll 79 4 57,
      .wclose 116, .rlaunch 25 78, .rsplit 62 115 40, .rleaf, .rkids 1 61, .rput 45, .rinfo 82, .smarch 119 44 97,
      .smnext 12 81 6 59, .boxt 1 118 43 96, .trit 6 27 80 5] : List Instr).map some := rfl

theorem test_decode_tile_3 :
    ([0xB03D5574, 0x10A6A7F5, 0x00002AF6, 0xA5F90CF7, 0x03E00078, 0x18800078, 0x2D200078, 0x31C021F8, 0x400001F8,
      0x0B0006F9, 0x0FAC807A] : List W32).map (fun w => (decode w).toOption) =
    ([.rcq 11 1 117 42, .rcqt 1 5 26 79, .rcver 85, .tfilt 10 47 100 25, .trap 31, .tret 68, .halt 105, .time 14 67,
      .preok 3, .csrr 88 13, .csrw 125 50] : List Instr).map some := rfl

/-- Reserved majors, a reserved sub-operation and words with an unused field set are refused, each by its name. -/
theorem test_decode_refuses :
    ([0x00000008, 0x0000007F, 0xC0000006, 0x300000DB] : List W32).map decode =
      [.error .reservedMajor, .error .reservedMajor, .error .reservedSub, .error .unusedField] := rfl

/-! ### Small states -/

/-- One warp of all lanes, alone in its workgroup, 64 registers a lane, memory mapped one to one; scratchpad of one line. -/
def base : State := State.reset.placeCode 4 0
def onW (s : State) (f : Warp → Warp) : State := s.setW (f s.w)
def onU (s : State) (f : IUnit → IUnit) : State := s.setU (f s.u)
def onG (s : State) (f : Workgroup → Workgroup) : State := s.setG (f s.g)
def onL (s : State) (f : Launch → Launch) : State := s.setLaunch s.g.launch (f s.launch)
def onFrame (s : State) (f : Framing) : State := onU s (fun u => { u with frame := f })
/-- Under a GUARD that no lane meets. -/
def idle (s : State) : State := onFrame s { Framing.blank with guard := some ⟨1, false, 1⟩ }
/-- With the constant of an IMM word for the next instruction. -/
def imm (s : State) (v : BitVec 25) : State := onFrame s { Framing.blank with imm := some v }
/-- With scalar registers set. -/
def scal (s : State) (t : Table W64) : State := onW s (fun w => { w with sregs := t })
/-- With the same word in a vector register of every lane. -/
def vec (s : State) (e : Nat) (x : W32) : State := onW s (fun w => { w with vregs := (List.range 32).map (fun L => (32 * e + L, x)) })
/-- With 64-bit words of memory set. -/
def words (s : State) (ws : List (Nat × Nat)) : State := { s with mem := ws.foldl (fun m x => Memory.writeN m x.1 8 x.2) s.mem }
/-- In handler mode. -/
def handler (s : State) : State := onW s (fun w => { w with handler := true })
/-- In a kernel that holds the matrix engine, with 8 KiB of scratchpad. -/
def matrix (s : State) : State := onL s (fun l => { l with matrix := true, lines := 64 })
def pad (s : State) : State := onL s (fun l => { l with lines := 64 })

/-- The test holds of an access that has succeeded. -/
def okB {α : Type} (g : Got α) (f : State → α → Bool) : Bool := match g with
  | .ok t x => f t x
  | _ => false
theorem ok_of {α : Type} {g : Got α} (H : State → α → Prop) [∀ t x, Decidable (H t x)]
    (h : okB g (fun t x => decide (H t x)) = true) : ∃ t x, g = .ok t x ∧ H t x := by
  cases g <;> simp [okB] at h
  exact ⟨_, _, rfl, h⟩
theorem ok_of' {α : Type} {g : Got α} (h : okB g (fun _ _ => true) = true) : ∃ t x, g = .ok t x := by
  cases g <;> simp [okB] at h
  exact ⟨_, _, rfl⟩
def localB (ps : List (Nat × Segs)) (key : Nat) : Bool :=
  ps.all (fun x => x.2.all (fun y => match y.1 with
    | .here _ k => k == key
    | _ => false))
theorem allLocal_of {ps : List (Nat × Segs)} {key : Nat} (h : localB ps key = true) : AllLocal ps key := by
  intro x hx y hy
  simp only [localB, List.all_eq_true] at h
  have := h x hx y hy
  split at this <;> simp_all

/-! ### States that meet the hypotheses of the statements, clause by clause -/

theorem test_witness_DecodeAndEncodeAgree :
    (Instr.sub 2 3 4 0).wf = true ∧ encode (.sub 2 3 4 0) = some 0x1040C210#32 ∧ decode 0x1040C210#32 = .ok (.sub 2 3 4 0) ∧
    (Instr.csrr 127 127).wf = true ∧ encode (.csrr 127 127) = some 0x0FE03FF9#32 := ⟨rfl, rfl, rfl, rfl, rfl⟩

def nextB (o : Host.Outcome State Fault Refusal) : Bool := match o with
  | .next _ => true
  | _ => false
theorem next_of {o : Host.Outcome State Fault Refusal} (h : nextB o = true) : ∃ t, o = .next t := by
  cases o <;> simp [nextB] at h
  exact ⟨_, rfl⟩
def faultB {α : Type} (g : Got α) : Bool := match g with
  | .fault _ _ _ => true
  | _ => false
theorem fault_of {α : Type} {g : Got α} (h : faultB g = true) : ∃ t d n, g = .fault t d n := by
  cases g <;> simp [faultB] at h
  exact ⟨_, _, _, rfl⟩

theorem test_witness_MemoriesStayCanonical : base.MemoriesCanonical ∧ ∃ t, step base = .next t :=
  ⟨by unfold State.MemoriesCanonical; decide +kernel, next_of (by decide +kernel)⟩

/-- NOP at the program counter; the same at an address with no translation; a result whose window has closed. -/
def atNop : State := State.reset.withFetchWord 32 0x60000006
def atHole : State := onU atNop (fun u => { u with pc := 0x80000000 })
def result0 (e : Nat) (v : W32) : Pending := { Pending.of (BitVec.allOnes 32) [(e, lanes32.map (fun _ => v))] [] with left := 0 }
def atResult : State := onW atNop (fun w => { w with pend := [result0 6 5] })

/-- The state after a remote store of its first unit that has not been performed. -/
def posting (s : State) : State :=
  { s with pending := [{ id := 1, host := false, dev := 1, addr := 0, write := some [0], bytes := 1, atomic := none, owner := .unit 1 0, tag := 0,
                         via := none, answer := none }] }

def leafB (w : Walk) : Bool := match w with
  | .leaf _ _ _ => true
  | .fault _ _ => false
theorem due_none {s : State} (h : s.dueGroup = none ∧ s.ripeWait = none ∧ s.expiredWait = none ∧ s.ripeCommit = none ∧ s.ripeLoop = none ∧
    s.ripePacket = none ∧ s.expiredPacket = none ∧ s.dueUnit = none) : s.due = none := by
  simp [State.due, h]
/-- The unit 0 of warp 1 has its turn, by the module itself or by the agenda. -/
structure Quiet (s : State) : Prop where
  off  : s.power ≠ .off
  rec_ : s.power ≠ .recovery
  due  : s.due = none
  turn : s.agenda = [] ∧ s.nextUnit = some (1, 0)
theorem quiet_of {s : State} (h : (decide (s.power ≠ .off) && decide (s.power ≠ .recovery) && s.dueGroup.isNone && s.ripeWait.isNone &&
    s.expiredWait.isNone && s.ripeCommit.isNone && s.ripeLoop.isNone && s.ripePacket.isNone && s.expiredPacket.isNone && s.dueUnit.isNone && s.agenda.isEmpty &&
    decide (s.nextUnit = some (1, 0))) = true) : Quiet s := by
  simp only [Bool.and_eq_true, decide_eq_true_eq, Option.isNone_iff_eq_none, List.isEmpty_iff] at h
  obtain ⟨⟨⟨⟨⟨⟨⟨⟨⟨⟨⟨a, b⟩, c⟩, d⟩, e⟩, f⟩, g⟩, m⟩, n⟩, i⟩, j⟩, k⟩ := h
  exact ⟨a, b, due_none ⟨c, d, e, f, g, m, n, i⟩, j, k⟩
def listed : State := { atNop with agenda := [.issue 1 0] }
theorem test_witness_StepRunsDecodedInstruction :
    (Quiet atResult ∧ closedIndex 0 atResult.w.pend 0 = some 0) ∧
    (Quiet atNop ∧ closedIndex 0 atNop.w.pend 0 = none ∧
      ∃ t word, atNop.fetchWord = .ok t word ∧ decode word = .ok .nop ∧ t.mayWord word = true) ∧
    (State.mayGo { listed with agenda := [] } 1 0 = true ∧ listed.agenda = .issue 1 0 :: [] ∧ listed.power ≠ .off) ∧
    (Quiet (State.reset.withFetchWord 32 0x7F) ∧ ∃ t word, (State.reset.withFetchWord 32 0x7F).fetchWord = .ok t word ∧
      (decode word).toOption = none ∧ t.mayWord word = true) ∧
    (∃ t word, (posting (State.reset.withFetchWord 32 0x1000005A)).fetchWord = .ok t word ∧ t.mayWord word = false) ∧
    (Quiet atHole ∧ closedIndex 0 atHole.w.pend 0 = none ∧ ∃ t d n, atHole.fetchWord = .fault t d n) ∧
    (atNop.w.loops = [] ∧ atNop.tlb = [] ∧ atNop.u.pc.toNat % 4 = 0 ∧ leafB (atNop.walk atNop.g.asid atNop.u.pc.toNat) = true ∧
      placeIn 0x1F 3 atNop.u.pc.toNat = .here 0x10000 0) := by
  refine ⟨⟨quiet_of ?_, ?_⟩, ⟨quiet_of ?_, ?_, ok_of (fun t word => decode word = .ok .nop ∧ t.mayWord word = true) ?_⟩, ⟨?_, ?_, ?_⟩,
    ⟨quiet_of ?_, ok_of (fun t word => (decode word).toOption = none ∧ t.mayWord word = true) ?_⟩,
    ok_of (fun t word => t.mayWord word = false) ?_, ⟨quiet_of ?_, ?_, fault_of ?_⟩, ?_⟩ <;>
    (repeat' apply And.intro) <;> decide +kernel

/-- Prefix words: GUARD, XIDX and IMM in force, and coverage of an earlier GUARD. -/
theorem test_witness_PrefixesAndCompletion :
    (base.u.frame.guard = none ∧ base.u.frame.xidx = none ∧ base.u.frame.imm = none ∧ base.u.cover = none) ∧
    (imm base 5).u.frame.imm ≠ none ∧ (idle base).u.frame.guard ≠ none ∧ (onU base (fun u => { u with cover := some ⟨1, true, 2⟩ })).u.cover ≠ none ∧
    (onFrame base { Framing.blank with xidx := some (some 1, none, none) }).u.frame.xidx ≠ none ∧
    endsLoop base.w.loops base.u.lanes (base.u.pc + 4) = false ∧ base.NoResults ∧
    endsLoop [⟨0, slotPc, slotPc + 4, base.u.lanes, []⟩] base.u.lanes (base.u.pc + 4) = true := by
  refine ⟨?_, ?_, ?_, ?_, ?_, ?_, ?_, ?_⟩ <;> first | (intro p hp; revert p; decide +kernel) | decide +kernel

/-- A register of the window base, an index mark, the fixed operands at both ends of their range, and a constant. -/
theorem test_witness_OperandFields :
    (base.u.issued = none ∧ base.u.frame.imm = none ∧ base.u.mark .b = none ∧ (onFrame base { Framing.blank with xidx := some (none, some 2, none) }).u.mark .b = some 2) ∧
    ((imm base 5).u.frame.imm = some 5 ∧ intConsts.uns = false) ∧
    (base.framed acceptNone [] = true ∧ (imm base 5).framed acceptNone [] = false ∧
      [vd .a 126 1].any base.illOp = true ∧ [vd .a 3 2].any base.illOp = true) ∧
    ([vd .a 63 1].any base.illOp = false ∧ [vd .a 63 1].findSome? base.boundOp = none ∧ [vd .a 64 1].any base.illOp = false ∧
      [vd .a 64 1].findSome? base.boundOp = some 64) ∧
    ((onW base (fun w => { w with evicted := [4] })).missesLine [vd .a 4 1] = true ∧ base.opqShort [vs .b 126 1] = true ∧
      [vs .b 126 1].any base.illOp = false ∧ base.framed acceptAll [vs .b 126 1] = true) := by
  (repeat' apply And.intro) <;> decide +kernel

theorem test_witness_vector_classes :
    base.Admits acceptAll (vvv 1 4 63 0) ∧ base.Admits acceptAll (vvv 2 4 2 62) ∧ base.Admits acceptAll (vvv 1 125 112 63) ∧
    base.Admits acceptGX (vv 1 63 0) ∧ base.Admits acceptGX (vv 2 0 62) ∧ base.Admits acceptAll (vvk 1 63 0 2) ∧ base.Admits acceptAll (vvk 2 63 0 2) ∧
    base.Admits acceptGX [vd .a 0 1, vs .b 63 1, vblock .c 62 2 2] ∧ base.Admits acceptGX [vd .a 0 2, vs .b 2 2, vblock .c 62 2 2] ∧
    base.Admits acceptAll [vd .a 2 2, ss .b 111, vs .c 3 1] ∧ base.Admits acceptAll [vd .a 2 2, vs .b 4 2, vs .c 3 1] ∧
    base.Admits acceptAll [vd .a 63 1] ∧ base.Admits acceptAll [vd .a 62 2] := by
  (repeat' apply And.intro) <;> decide +kernel

theorem test_witness_scalar_and_predicate_classes :
    base.Admits acceptAll (sss 5 111 0) ∧ base.Admits acceptAll (sss 112 127 111) ∧ base.Admits acceptGX (ss2 111 0) ∧
    base.Admits acceptGX [sd .a 4, ss .b 5, sblock .c 110 2] ∧ base.Admits acceptAll [sd .a 4] ∧ base.act ≠ 0 ∧
    (idle base).Admits acceptAll (sss 5 111 0) ∧ (idle base).act = 0 ∧
    base.Admits acceptAll [vs .b 63 1, vs .c 0 1] ∧ base.Admits acceptAll [vs .b 62 2, vs .c 0 2] ∧ base.Admits acceptAll [ss .b 111, ss .c 0] ∧
    base.Admits acceptGX [] := by
  (repeat' apply And.intro) <;> decide +kernel

theorem test_witness_float_classes :
    base.Admits acceptAll (vvv 1 4 63 0) ∧ base.Admits acceptGX (vv 1 63 0) ∧ base.full = false ∧
    base.immWide 0 = false ∧ base.immWide 1 = false ∧ base.immWide 2 = false ∧
    (decodeF f32 0x7F7FFFFF).isNan = false ∧ (decodeF e4m3 0x7E).isNan = false ∧
    (decodeF f16 0x8000).isNan = false ∧ (-3 : Int) < 2 := by
  (repeat' apply And.intro) <;> decide +kernel

theorem test_witness_ConversionInstructions :
    base.Admits acceptGX [vd .a 2 (regsOfType 4), vs .b 4 (regsOfType 12)] ∧ (Instr.pack 0 3 4 6).wf = true ∧ (Instr.unpk 12 3 4 6).wf = true ∧
    base.Admits acceptGX (vv 1 4 6) ∧ base.act ≠ 0 ∧ base.Admits acceptGX [vd .a 62 2, vs .b 4 1] := by
  (repeat' apply And.intro) <;> decide +kernel

/-- A warp with a shape of three axes of five bits; the widest shapes. -/
def shaped (d b : Nat) : State := onW base (fun w => { w with cshape := BitVec.ofNat 16 (16 * b + d) })
theorem test_witness_curve_classes :
    ((shaped 3 5).w.cshape = BitVec.ofNat 16 (16 * 5 + 3) ∧ (shaped 1 64).w.cshape = BitVec.ofNat 16 (16 * 64 + 1) ∧
      (shaped 8 8).w.cshape = BitVec.ofNat 16 (16 * 8 + 8)) ∧
    base.Admits acceptAll [] ∧ (base.imm32 127).toNat = 127 ∧ (base.imm32 8).toNat = 8 ∧
    (shaped 3 5).Admits acceptGX [vd .a 2 2, vblock .b 61 3 1] ∧ (shaped 1 64).Admits acceptGX [vd .a 2 2, vblock .b 62 2 2] ∧
    (shaped 3 5).Admits acceptGX [sd .a 4, sblock .b 109 3] ∧ (shaped 3 5).Admits acceptGX [vd .a 63 1, vkey .b 4] ∧
    (shaped 1 64).Admits acceptGX [vd .a 62 2, vkey .b 4] ∧
    (shaped 3 5).Admits acceptAll (offsetOps 4 6 31) ∧ (shaped 3 5).Admits acceptAll [vkey .b 62, vkey .c 0] ∧
    (shaped 3 5).Admits acceptGX [vkey .b 4, sblock .c 109 3] ∧ (shaped 3 5).Admits acceptAll [vd .a 63 1, vkey .b 4, vkey .c 6] ∧
    (shaped 3 5).Admits acceptAll [vd .a 2 2, vkey .b 4] ∧ (shaped 3 5).Admits acceptGX (boxOps 109 6 62) := by
  (repeat' apply And.intro) <;> decide +kernel
theorem test_base_shape : base.w.cshape = 0 := by decide +kernel
theorem test_witness_shapes : (shaped 3 5).Shaped 3 5 ∧ (shaped 1 64).Shaped 1 64 ∧ (shaped 8 8).Shaped 8 8 ∧ ∀ E G, ¬ base.Shaped E G := by
  refine ⟨⟨by decide +kernel, by omega⟩, ⟨by decide +kernel, by omega⟩, ⟨by decide +kernel, by omega⟩, fun E G ⟨h, a⟩ => ?_⟩
  have : (BitVec.ofNat 16 (16 * G + E)).toNat = 0 := by rw [← h, test_base_shape]; rfl
  have hg : G ≤ 64 := le_trans (Nat.le_mul_of_pos_left G a.1) a.2.2.2
  simp only [BitVec.toNat_ofNat] at this
  omega

/-- CSPLIT's control word: 4 runs, continuation in p1, offset 16; a scratchpad of 8 KiB, and none. -/
def split (off : Nat) : State := pad (scal (shaped 2 3) [(16, 0), (17, BitVec.ofNat 64 (2 ^ 32 + 4 * 2 ^ 24 + off)), (20, 0), (22, 63)])
theorem test_witness_CurveBoxes :
    ((split 16).Admits acceptGX (splitOps 20 16 30) ∧ (split 16).act ≠ 0 ∧ (split 16).w.sreg 17 = BitVec.ofNat 64 (2 ^ 32 + 4 * 2 ^ 24 + 16) ∧
      16 + 16 * (runsFrom ⟨2, 3⟩ 0 63 4 0).1.length ≤ (split 16).spadSize (split 16).g ∧
      (split 16).g.present 16 (16 * (runsFrom ⟨2, 3⟩ 0 63 4 0).1.length) = true ∧ (split 16).w.pend.length < 16) ∧
    ((idle (split 16)).Admits acceptGX (splitOps 20 16 30) ∧ (idle (split 16)).act = 0) ∧
    ((split 8184).Admits acceptGX (splitOps 20 16 30) ∧
      (split 8184).spadSize (split 8184).g < 8184 + 16 * (runsFrom ⟨2, 3⟩ 0 63 4 0).1.length) ∧
    ((split 12).Admits acceptGX (splitOps 20 16 30) ∧ 12 % 8 ≠ 0) := by
  (repeat' apply And.intro) <;> decide +kernel
/-- With a vector pair register of every lane, or of lane L the value f L. -/
def pairs (s : State) (e : Nat) (f : Nat → W64) : State := onW s (fun w => { w with
  vregs := (List.range 32).map (fun L => (32 * e + L, (f L).setWidth 32)) ++ (List.range 32).map (fun L => (32 * (e + 1) + L, (f L >>> 32).setWidth 32)) })
/-- The predicate p1 in the lanes of a mask, and a GUARD of it. -/
def guarded (s : State) (m : Lanes) : State :=
  onFrame (onW s (fun w => { w with preds := [(1, m)] })) { Framing.blank with guard := some ⟨1, false, 1⟩ }
theorem divides_of {s : State} {f : Nat → W64}
    (h : (s.w.divide s.unit s.u.lanes (fun L => if s.act.getLsbD L then ⟨f L, 0⟩ else s.fallDest L)).toOption.isSome = true) : s.Divides f := by
  intro n hn
  rw [hn] at h
  simp [Except.toOption] at h
theorem noResults_of {s : State} (h : s.w.pend.all (fun p => decide (p.unit ≠ s.unit)) = true) : s.NoResults := by
  intro p hp
  simpa using List.all_eq_true.1 h p hp
def errorN (x : Except Nat Warp) : Nat := match x with
  | .error n => n
  | .ok _ => 0

/-- All lanes at one address, half the lanes only, thirty-two addresses, and one lane at a crooked address. -/
theorem test_witness_TransfersOfControl :
    (base.NoResults ∧ base.Admits acceptG [] ∧ base.Admits acceptG [vd .a 30 2] ∧
      base.Divides (fun _ => base.u.pc + 4 * (1#21).signExtend 64)) ∧
    ((guarded base 0xFFFF).Admits acceptG [] ∧ (guarded base 0xFFFF).act ≠ (guarded base 0xFFFF).u.lanes ∧
      (guarded base 0xFFFF).Divides (fun _ => base.u.pc + 4 * (1#21).signExtend 64)) ∧
    ((pairs base 4 (fun _ => 0x20000)).Admits acceptGX [vbase .b 4] ∧ (pairs base 4 (fun _ => 0x20000)).Admits acceptGX [vd .a 6 2, vbase .b 4] ∧
      (pairs base 4 (fun _ => 0x20000)).Admits acceptG [vbase .b 4] ∧
      (∀ L ∈ Lanes.list (pairs base 4 (fun _ => 0x20000)).act, ((pairs base 4 (fun _ => 0x20000)).valueAt intConsts [vbase .b 4] .b L).toNat % 4 = 0)) ∧
    (Lanes.list (pairs base 4 (fun L => BitVec.ofNat 64 (4 * L + L / 5))).act).find? (fun L =>
      decide (((pairs base 4 (fun L => BitVec.ofNat 64 (4 * L + L / 5))).valueAt intConsts [vbase .b 4] .b L).toNat % 4 ≠ 0)) = some 5 ∧
    (let s := pairs base 4 (fun L => BitVec.ofNat 64 (4 * L))
     (∀ L ∈ Lanes.list s.act, (s.valueAt intConsts [vbase .b 4] .b L).toNat % 4 = 0) ∧
     errorN (s.w.divide s.unit s.u.lanes (fun L => if s.act.getLsbD L then ⟨s.valueAt intConsts [vbase .b 4] .b L, 0⟩ else s.fallDest L)) = 32) := by
  refine ⟨⟨noResults_of ?_, ?_, ?_, divides_of ?_⟩, ⟨?_, ?_, divides_of ?_⟩, ⟨?_, ?_, ?_, ?_⟩, ?_, ?_⟩ <;>
    (repeat' apply And.intro) <;> decide +kernel

/-- Two root splits of slice 0, of lanes 0, 1 and 2, 3, which have come to a JOIN, or of which one stands before it. -/
def splits (p : Park) : State := { onW base (fun w => { w with
  units := [(8, { IUnit.blank with lanes := 3, pc := 0x10000, park := p }), (9, { IUnit.blank with lanes := 12, pc := 0x10004, park := .join })] }) with unit := 8 }
/-- A loop of the unit's lanes that ends four words on. -/
def inLoop (p : Park) (pc : W64) (count : W32) : State := onW base (fun w => { w with
  units := [(0, { IUnit.blank with lanes := BitVec.allOnes 32, pc := pc, park := p })],
  loops := [⟨0, 0x10004, 0x10014, BitVec.allOnes 32, []⟩], lcs := [(0, count)] })
/-- A word that is no prefix after the LOOP word, and a count in s5. -/
def atLoop (n : W64) : State := words (scal base [(5, n)]) [(0x10000, 0x6000000600000000), (0x10008, 0x6000000660000006), (0x10010, 0x6000000660000006)]
theorem test_witness_MergingRendezvousAndLoops :
    allJoined (rootsOf (splits .join).w.units 0) = true ∧
    (base.NoResults ∧ base.Admits acceptNone [] ∧ base.unit < 8) ∧ ((splits .ready).NoResults ∧ (splits .ready).Admits acceptNone [] ∧ 8 ≤ (splits .ready).unit) ∧
    (sliceMask base.u.lanes &&& ~~~255#8 = 0 ∧ base.w.units.all (fun x => !clash 255 (sliceMask base.u.lanes) x.2) = true) ∧
    ((atLoop 3).Admits acceptNone [ss .b 5] ∧ (Instr.loop 1 5 2).wf = true ∧ (atLoop 3).w.loops.length < 3 ∧
      ((atLoop 3).valueAt intConsts [ss .b 5] .b 0).setWidth 32 ≠ 0#32 ∧ ((atLoop 0).valueAt intConsts [ss .b 5] .b 0).setWidth 32 = 0#32 ∧
      (atLoop 3).NoResults ∧ (atLoop 3).g.image = none ∧
      ∃ t ws, (atLoop 3).closeWindows.fetchCode (atLoop 3).who ((atLoop 3).u.pc + 4) 5 = .ok t ws ∧ isPrefix (ws.getLastD 0) = false) ∧
    ((inLoop .ready 0x10004 2).Admits acceptG [] ∧ (inLoop .ready 0x10004 2).act ≠ 0 ∧ (inLoop .ready 0x10004 2).NoResults ∧
      ((Lanes.list (inLoop .ready 0x10004 2).act).all (fun L => decide ((innermost (inLoop .ready 0x10004 2).w.loops (1#32 <<< L)).map (·.stop) = some 0x10014)) = true) ∧
      (inLoop .ready 0x10004 2).Divides (fun _ => 0x10014)) := by
  refine ⟨?_, ⟨noResults_of ?_, ?_, ?_⟩, ⟨noResults_of ?_, ?_, ?_⟩, ⟨?_, ?_⟩, ⟨?_, ?_, ?_, ?_, ?_, noResults_of ?_, ?_, ok_of (fun _ (ws : List W32) => isPrefix (ws.getLastD 0) = false) ?_⟩,
    ⟨?_, ?_, noResults_of ?_, ?_, divides_of ?_⟩⟩ <;> (repeat' apply And.intro) <;> decide +kernel

/-- A result of two vector registers, two scalar registers, a predicate and a version, behind one of another destination and behind one
that meets it; a loop whose lanes all wait at its end, with a count above one and with the count one. -/
def wide : Pending := { result0 6 5 with vec := (result0 6 5).vec ++ (result0 7 9).vec, scl := [(4, 1), (5, 2)], pred := some (3, 0xFF), ver := some 7 }
def behind (p : Pending) : State := onW atNop (fun w => { w with pend := [p, wide] })
theorem test_witness_CommitsAndBackEdges :
    ((atResult.warpAt 1).pend[0]? = some (result0 6 5) ∧ (result0 6 5).left = 0 ∧ atResult.onCore (atResult.warpAt 1).wg = true) ∧
    (((behind (result0 8 5)).warpAt 1).pend[1]? = some wide ∧ wide.left = 0 ∧ (behind (result0 8 5)).onCore ((behind (result0 8 5)).warpAt 1).wg = true ∧
      (∀ q ∈ ((behind (result0 8 5)).warpAt 1).pend.take 1, q.meets wide = false)) ∧
    (∃ q ∈ ((behind (result0 7 5)).warpAt 1).pend.take 1, q.meets wide = true) ∧
    (((inLoop .backEdge 0x10014 2).warpAt 1).loops[0]? = some ⟨0, 0x10004, 0x10014, BitVec.allOnes 32, []⟩ ∧
      BitVec.allOnes 32 &&& ((inLoop .backEdge 0x10014 2).warpAt 1).live ≠ 0 ∧
      (∀ L, L < 32 → (BitVec.allOnes 32 &&& ((inLoop .backEdge 0x10014 2).warpAt 1).live).getLsbD L = true →
        ∃ x ∈ ((inLoop .backEdge 0x10014 2).warpAt 1).units, x.2.lanes.getLsbD L = true ∧
          waitsAt ⟨0, 0x10004, 0x10014, BitVec.allOnes 32, []⟩ [] x.2 = true) ∧ ((inLoop .backEdge 0x10014 2).warpAt 1).pend = []) ∧
    1 < (Table.get 0#32 ((inLoop .backEdge 0x10014 2).warpAt 1).lcs 0).toNat ∧ (Table.get 0#32 ((inLoop .backEdge 0x10014 1).warpAt 1).lcs 0).toNat ≤ 1 := by
  (repeat' apply And.intro) <;> decide +kernel

theorem test_witness_WarpRegisterInstructions :
    base.Admits acceptG [] ∧ base.Admits acceptNone [] ∧ (base.Admits acceptI [] ∧ (base.imm32 63).toNat = 63) ∧ base.Admits acceptI [ss .b 111] ∧
    (base.imm32 2).toNat ∈ [2, 4, 8, 16, 32] ∧ (base.imm32 32).toNat ∈ [2, 4, 8, 16, 32] ∧ base.Admits acceptNone [vd .a 63 1] ∧
    (base.Admits acceptNone [sd .a 111] ∧ base.act ≠ 0) ∧ base.Admits acceptI [sd .a 111] ∧ (base.imm32 17).toNat ∈ plainCsrs ∧
    ((imm (handler base) 16).imm32 0x10).toNat ∈ handlerCsrs ∧ (imm (handler base) 16).w.handler = true ∧ (imm (handler base) 16).Admits acceptI [sd .a 4] ∧
    (base.imm32 4).toNat = 4 ∧ base.Admits acceptI [vd .a 4 1] := by
  (repeat' apply And.intro) <;> decide +kernel

/-- s5 holds the value that CSRW writes. -/
def csrw (s : State) (v : W64) : State := scal s [(5, v)]
theorem test_witness_SpecialRegisters :
    ((csrw base 1008).valueAt intConsts [ss .b 5] .b 0 = 1008 ∧ (base.imm32 0).toNat = 0 ∧ (csrw base 1008).Admits acceptI [ss .b 5] ∧ base.w.live ≠ 0) ∧
    (gridOf 0x53).isSome = true ∧ (gridOf 0).isSome = false ∧ (base.imm32 5).toNat = 5 ∧ (base.imm32 11).toNat = 8 + 3 ∧ (base.imm32 14).toNat = 12 + 2 ∧
    ((imm (csrw (handler base) 8) 16).Admits acceptI [ss .b 5] ∧ ((imm (csrw (handler base) 8) 16).imm32 1).toNat = 0x801 ∧
      (imm (csrw (handler base) 8) 16).w.handler = true) ∧
    (∀ e ∈ (handler base).w.entriesUsed, e < 16 + 0) ∧ (base.imm32 4).toNat = 4 ∧ base.Admits acceptI [vblock .b 63 1 1] ∧
    ((imm base 16).imm32 0).toNat = 0x800 ∧ (imm base 16).w.handler = false ∧ (base.imm32 6).toNat ∉ plainCsrs ∧ (base.imm32 6).toNat ∉ handlerCsrs ∧
    (csrw base 1009).valueAt intConsts [ss .b 5] .b 0 = 1009 ∧ (csrw base 3).valueAt intConsts [ss .b 5] .b 0 = 3 := by
  (repeat' apply And.intro) <;> decide +kernel

/-- A kernel with a handler; a warp in handler mode with a trap frame, with and without a region record. -/
def handled : State := onL base (fun l => { l with handler := 0x20000 })
def frame (r : Option RegionRec) : TrapFrame :=
  { unit := 0, after := none, units := [(0, { IUnit.blank with lanes := BitVec.allOnes 32, pc := 0x10000 })], loops := [], wb := 0, part := 32, xregs := [],
    preds := [], high := List.replicate 16 0, pend := [], region := r }
def trapped (r : Option RegionRec) : State := onW (handler handled) (fun w => { w with tframe := some (frame r), tpc := 0x10000, tnext := 0x10004 })
theorem test_witness_TrapsAndReturns :
    (handled.w.handler = false ∧ handled.launch.handler ≠ 0) ∧ ((handler handled).w.handler = true ∧ base.launch.handler = 0) ∧
    ((trapped none).Admits acceptNone [] ∧ (trapped none).w.handler = true ∧ (trapped none).unit < 8 ∧ (trapped none).u.lanes = (trapped none).w.live ∧
      (trapped none).w.tframe = some (frame none) ∧ (trapped none).NoResults ∧ (frame none).high.length = 16 ∧ (frame none).region = none) ∧
    ((trapped (some ⟨0, 3⟩)).w.tframe = some (frame (some ⟨0, 3⟩)) ∧ (trapped (some ⟨0, 3⟩)).Admits acceptNone []) ∧
    (handled.Admits acceptNone [] ∧ 2 < (3#7).toNat ∧ 1 < (2#7).toNat) := by
  refine ⟨?_, ?_, ⟨?_, ?_, ?_, ?_, ?_, noResults_of ?_, ?_, ?_⟩, ?_, ?_⟩ <;> (repeat' apply And.intro) <;> decide +kernel

theorem test_witness_EndingLanes :
    ((guarded base 5).Admits acceptG [] ∧ (guarded base 5).w.handler = false ∧ (∀ L ∈ Lanes.list (guarded base 5).act, ((guarded base 5).w.frameAt L).depth = false) ∧
      (guarded base 5).g.arrived = 0 ∧ (guarded base 5).w.live &&& ~~~ (guarded base 5).act ≠ 0 ∧
      (∀ x ∈ (guarded base 5).w.units, x.2.park ≠ .join) ∧ (guarded base 5).NoResults ∧
      ((guarded base 5).w.divide 0 ((guarded base 5).u.lanes &&& ~~~ (guarded base 5).act) (guarded base 5).fallDest).toOption.isSome = true) ∧
    ((handler base).Admits acceptNone [] ∧ (handler base).w.handler = true ∧ (handler base).Admits acceptG [] ∧ (handler base).act ≠ 0) := by
  refine ⟨⟨?_, ?_, ?_, ?_, ?_, ?_, noResults_of ?_, ?_⟩, ?_⟩ <;> (repeat' apply And.intro) <;> decide +kernel

theorem test_witness_LaneExchanges :
    base.w.part.toNat ∈ [2, 4, 8, 16, 32] ∧ (onW base (fun w => { w with part := 2 })).w.part.toNat ∈ [2, 4, 8, 16, 32] ∧ base.Admits acceptGX [vd .a 63 1] ∧
    base.Admits acceptAll (vvk 1 63 0 2) ∧ base.Admits acceptAll (vvk 2 63 62 2) ∧ base.Admits acceptGX (vv 1 63 0) ∧ base.Admits acceptGX (vv 2 62 0) ∧
    base.Admits acceptGX [vd .a 0 1, vs .b 63 1, vs .c 5 1] ∧ base.Admits acceptGX [vd .a 0 1, vs .b 63 1, vs .c 62 2] := by
  (repeat' apply And.intro) <;> decide +kernel
/-- Lanes at neighbouring words of memory; at offsets of the scratchpad in register 8. -/
def lanes4 : State := pairs base 4 (fun L => BitVec.ofNat 64 (0x20000 + 4 * L))
def offsets4 : State := pad (vec base 8 64)
def leaf (e : Nat) : State := words base [(0x3000, e)]
def own (s : State) : Who := { s.who with own := true }
def otherFault : FaultEntry := { asid := 9, slot := 0, core := 0, unit := 0, level := 1, access := 0, cause := 0, va := 0, waiters := [] }
def fullFaults : State := { base with faults := (List.range' 0 1024).map (fun k => (k, otherFault)) }
theorem find_range' {α : Type} (x : α) : ∀ n s m, s ≤ m → m < s + n → Table.find ((List.range' s n).map (fun k => (k, x))) m = some x := by
  intro n
  induction n with
  | zero => intro s m h1 h2; omega
  | succ n ih =>
    intro s m h1 h2
    simp only [List.range'_succ, List.map_cons, Table.find]
    split
    · rfl
    · exact ih (s + 1) m (by omega) (by omega)
theorem freeFrom_full {α : Type} (t : Table α) (x : α) (hi : Nat) (h : ∀ m < hi, Table.find t m = some x) :
    ∀ k n, n + k ≤ hi → Table.freeFrom t n k = none := by
  intro k
  induction k with
  | zero => intro n _; rfl
  | succ k ih =>
    intro n hn
    simp only [Table.freeFrom, h n (by omega)]
    exact ih (n + 1) (by omega)
theorem test_full_faults : Table.freeFrom fullFaults.faults (1024 * 0) 1024 = none :=
  freeFrom_full _ otherFault 1024 (fun m hm => find_range' _ 1024 0 m (by omega) (by omega)) 1024 0 (by omega)
def oneFault : State := { base with faults := [(5, newFault base.who accRead 0x80000000 0 3)] }
def walkB (w : Walk) : Option (BitVec 3 × BitVec 3) := match w with
  | .fault c l => some (c, l)
  | .leaf _ _ _ => none
theorem walk_of {w : Walk} {c l : BitVec 3} (h : walkB w = some (c, l)) : w = .fault c l := by
  cases w <;> simp [walkB] at h
  obtain ⟨rfl, rfl⟩ := h; rfl
def walkL (w : Walk) : Option (Nat × W64 × Nat) := match w with
  | .fault _ _ => none
  | .leaf a e l => some (a, e, l)
theorem leaf_of {w : Walk} {a l : Nat} {e : W64} (h : walkL w = some (a, e, l)) : w = .leaf a e l := by
  cases w <;> simp [walkL] at h
  obtain ⟨rfl, rfl, rfl⟩ := h; rfl

theorem test_witness_TranslationAndItsFaults :
    (∃ t ps, lanes4.reachLanes lanes4.who accRead (lanes4.globalRuns (lanes4.globalAddr [vd .a 2 1, vbase .b 4] 4) 4) = .ok t ps) ∧
    ((base.phys64 (0x9000 + 8 * (0 / pageSize 5 % 512))).getLsbD 0 = false ∧
      (let e := (words base [(0x9000, 0x11)]).phys64 (0x9000 + 8 * (0 / pageSize 4 % 512)); e.getLsbD 0 = true ∧ e.getLsbD 4 = true) ∧
      (let e := (words base [(0x9000, 0x1000011)]).phys64 (0x9000 + 8 * (0 / pageSize 2 % 512)); e.getLsbD 0 = true ∧ e.getLsbD 4 = true ∧ e.getLsbD 8 = false ∧ bitsOf e 32 24 ≠ 0) ∧
      (let e := (words base [(0x9000, 1)]).phys64 (0x9000 + 8 * (0 / pageSize 1 % 512)); e.getLsbD 0 = true ∧ e.getLsbD 4 = false)) ∧
    (base.tlb = [] ∧ (own base).own = true ∧ base.walk (own base).asid 0x80000000 = .fault 0 3 ∧
      (leaf 0x11).walk (own (leaf 0x11)).asid 0 = .leaf 0x3000 0x11 3 ∧ (leaf 0x13).walk (own (leaf 0x13)).asid 0 = .leaf 0x3000 0x13 3) ∧
    (base.sharedFault (own base).die (own base).asid accRead 0x80000000 = none ∧ Table.freeFrom base.faults (1024 * (own base).die) 1024 = some 0 ∧
      fullFaults.sharedFault (own base).die (own base).asid accRead 0x80000000 = none ∧ (own base).die = 0 ∧
      oneFault.sharedFault (own base).die (own base).asid accRead 0x80000FFF = some 5) := by
  refine ⟨ok_of' ?_, ⟨?_, ?_, ?_, ?_⟩, ⟨?_, ?_, walk_of ?_, leaf_of ?_, leaf_of ?_⟩, ?_⟩ <;> (repeat' apply And.intro) <;> decide +kernel

theorem test_witness_LoadsAndStores :
    (lanes4.Admits acceptAll [vd .a 2 1, vbase .b 4] ∧ lanes4.full = false ∧ loadLegal (lanes4.imm32 4) true true = true ∧ loadLegal (lanes4.imm32 4) false false = true ∧
      loadLegal (lanes4.imm32 12) true true = true ∧ (∀ L ∈ Lanes.list lanes4.act, lanes4.globalAddr [vd .a 2 1, vbase .b 4] 12 L % 4 = 0) ∧
      ∃ t ps, lanes4.reachLanes lanes4.who accRead (lanes4.globalRuns (lanes4.globalAddr [vd .a 2 1, vbase .b 4] (lanes4.imm32 4)) 4) = .ok t ps ∧ t.laneBytes ps ≠ none) ∧
    (offsets4.Admits acceptAll [vd .a 2 1, voff .b 8] ∧ loadLegal (offsets4.imm32 4) true false = true ∧ offsets4.w.frames = [] ∧
      ∃ t ps, offsets4.reachLanes offsets4.who accRead (offsets4.scratchRuns (offsets4.offsetAddr [vd .a 2 1, voff .b 8] 4) 4) = .ok t ps ∧ t.laneBytes ps ≠ none) ∧
    (lanes4.byLane = false ∧ lanes4.u.olds = [] ∧ offsets4.byLane = false ∧ offsets4.u.olds = []) ∧
    (lanes4.Admits acceptAll [vdata .a 2 1, vbase .b 4] ∧ storeLegal (lanes4.imm32 4) true = true ∧ storeLegal (lanes4.imm32 20) true = true ∧
      (∀ L ∈ Lanes.list lanes4.act, lanes4.globalAddr [vdata .a 2 1, vbase .b 4] 20 L % 4 = 0) ∧
      ∃ t ps, lanes4.reachLanes lanes4.who accWrite (lanes4.globalRuns (lanes4.globalAddr [vdata .a 2 1, vbase .b 4] (lanes4.imm32 4)) 4) = .ok t ps ∧
        localB ps 0 = true) ∧
    (offsets4.Admits acceptAll [vdata .a 2 1, voff .b 8] ∧ storeLegal (offsets4.imm32 4) false = true ∧
      ∃ t ps, offsets4.reachLanes offsets4.who accWrite (offsets4.scratchRuns (offsets4.offsetAddr [vdata .a 2 1, voff .b 8] 4) 4) = .ok t ps ∧
        localB ps 0 = true) := by
  refine ⟨⟨?_, ?_, ?_, ?_, ?_, ?_, ok_of (fun t ps => t.laneBytes ps ≠ none) ?_⟩, ⟨?_, ?_, ?_, ok_of (fun t ps => t.laneBytes ps ≠ none) ?_⟩,
    ⟨?_, ?_, ?_, ?_⟩, ⟨?_, ?_, ?_, ?_, ok_of (fun _ ps => localB ps 0 = true) ?_⟩, ⟨?_, ?_, ok_of (fun _ ps => localB ps 0 = true) ?_⟩⟩ <;>
    (repeat' apply And.intro) <;> decide +kernel

/-- At the start of the scratchpad, and at its last word. -/
def offsetsEnd : State := pad (vec base 8 8188)
theorem test_witness_ScratchpadAccesses :
    (offsets4.Admits acceptAll [vd .a 2 1, voff .b 8] ∧ loadLegal (offsets4.imm32 4) true false = true ∧ offsets4.full = false ∧
      ∀ L ∈ Lanes.list offsets4.act, offsets4.offsetAddr [vd .a 2 1, voff .b 8] 4 L % 4 = 0 ∧
        offsets4.offsetAddr [vd .a 2 1, voff .b 8] 4 L + 4 ≤ offsets4.spadSize offsets4.g ∧ offsets4.g.present (offsets4.offsetAddr [vd .a 2 1, voff .b 8] 4 L) 4 = true) ∧
    (offsetsEnd.Admits acceptAll [vdata .a 2 1, voff .b 8] ∧ storeLegal (offsetsEnd.imm32 4) false = true ∧
      ∀ L ∈ Lanes.list offsetsEnd.act, offsetsEnd.offsetAddr [vdata .a 2 1, voff .b 8] 4 L % 4 = 0 ∧
        offsetsEnd.offsetAddr [vdata .a 2 1, voff .b 8] 4 L + 4 ≤ offsetsEnd.spadSize offsetsEnd.g ∧ offsetsEnd.g.present (offsetsEnd.offsetAddr [vdata .a 2 1, voff .b 8] 4 L) 4 = true) ∧
    (offsetsEnd.byLane = false ∧ offsetsEnd.u.olds = [] ∧ offsetsEnd.full = false ∧ offsetsEnd.Admits acceptAll [atomOpnd 0 2, voff .b 8] ∧ atomLegal (offsetsEnd.imm32 0) false = true ∧
      ∀ L ∈ Lanes.list offsetsEnd.act, offsetsEnd.offsetAddr [atomOpnd 0 2, voff .b 8] 0 L % 4 = 0 ∧
        offsetsEnd.offsetAddr [atomOpnd 0 2, voff .b 8] 0 L + 4 ≤ offsetsEnd.spadSize offsetsEnd.g ∧
        offsetsEnd.g.present (offsetsEnd.offsetAddr [atomOpnd 0 2, voff .b 8] 0 L) 4 = true) := by
  (repeat' apply And.intro) <;> decide +kernel

theorem test_witness_AtomicReadModifyWrites :
    (lanes4.Admits acceptAll [atomOpnd 0 2, vbase .b 4] ∧ atomLegal (lanes4.imm32 0) true = true ∧ lanes4.full = false ∧
      (∀ L ∈ Lanes.list lanes4.act, lanes4.globalAddr [atomOpnd 0 2, vbase .b 4] 0 L % 4 = 0) ∧ lanes4.Admits acceptAll [vdata .a 2 1, vbase .b 4] ∧
      redLegal (lanes4.imm32 0) = true ∧
      ∃ t ps, lanes4.reachLanes lanes4.who accAtomic (lanes4.globalRuns (lanes4.globalAddr [atomOpnd 0 2, vbase .b 4] (lanes4.imm32 0)) 4) = .ok t ps ∧
        localB ps 0 = true) ∧
    (4#32).toNat < (5#32).toNat ∧ (5#32).toNat ≤ (5#32).toNat ∧ (4#32 ≠ 0 ∧ (4#32).toNat ≤ (5#32).toNat) := by
  refine ⟨⟨?_, ?_, ?_, ?_, ?_, ?_, ok_of (fun _ ps => localB ps 0 = true) ?_⟩, ?_⟩ <;> (repeat' apply And.intro) <;> decide +kernel

def doneB (e : Eff) : Bool := match e with
  | .done _ => true
  | _ => false
theorem done_of {e : Eff} (h : doneB e = true) : ∃ v, e = .done v := by
  cases e <;> simp [doneB] at h
  exact ⟨_, rfl⟩
theorem test_witness_FencesAndCacheLines :
    (base.Admits acceptI [] ∧ attrOf (base.imm32 3) = 3 ∧ scopeOf (base.imm32 3) ≤ 4 ∧ offOf (base.imm32 3) = 0 ∧ base.u.frame.imm.getD 0 = 0 ∧ base.unperformed = false) ∧
    (lanes4.Admits acceptI [vbase .b 4] ∧ attrOf (lanes4.imm32 1) ≤ 1 ∧ attrOf (lanes4.imm32 0) = 0 ∧ scopeOf (lanes4.imm32 0) = 0 ∧
      (∃ v, lanes4.prefetch (lanes4.lineRuns [vbase .b 4] 0) = .done v) ∧
      (∃ t ps, lanes4.reachLanes lanes4.who accRead (lanes4.lineRuns [vbase .b 4] 0) = .ok t ps) ∧
      ∃ t ps, lanes4.reachLanes lanes4.who accWrite (lanes4.lineRuns [vbase .b 4] 0) = .ok t ps) := by
  refine ⟨?_, ⟨?_, ?_, ?_, ?_, done_of ?_, ok_of' ?_, ok_of' ?_⟩⟩ <;> (repeat' apply And.intro) <;> decide +kernel

/-- A barrier object at the start of the scratchpad, with two arrivals expected, and its lines absent. -/
def barred : State := onG (pad base) (fun g => { g with spad := Memory.writeN [] 0 16 (2 * 2 ^ 72 + 2 * 2 ^ 48) })
/-- Two gangs of the warp. -/
def halves : State := onW base (fun w => { w with units := [(0, { IUnit.blank with lanes := 0xFFFF, pc := 0x10000 }), (4, { IUnit.blank with lanes := 0xFFFF0000, pc := 0x20000 })] })
def hereB (p : Segs) : Bool := match p with
  | [(.here _ _, 16)] => true
  | _ => false
theorem here_of {p : Segs} (h : hereB p = true) : ∃ pa key, p = [(.here pa key, 16)] := by
  unfold hereB at h
  split at h
  · exact ⟨_, _, rfl⟩
  · simp at h
theorem test_witness_BarrierPhases :
    ((BitVec.ofNat 64 (2 ^ 60)).getLsbD 60 = true ∧ (barred.wgAt 1).present 0 16 = true ∧
      (onG barred (fun g => { g with absent := [0] })).g.present 0 16 = false) ∧
    ((0x20000#64).getLsbD 60 = false ∧ ∃ t pa key, base.reach base.who accAtomic [(0x20000, 16)] = .ok t [(.here pa key, 16)]) ∧
    ((BarObj.ofNat (2 * 2 ^ 72 + 2 * 2 ^ 48)).arrivals.toNat - 2 = 0 ∨ (BarObj.ofNat (2 * 2 ^ 72 + 2 * 2 ^ 48)).arrivals.toNat - 1 ≠ 0) ∧
    (base.Admits acceptNone [] ∧ base.act ≠ 0 ∧ base.w.pend = [] ∧ base.liveLanes base.g ≤ base.g.arrived + Lanes.count base.act ∧
      halves.Admits acceptNone [] ∧ halves.act ≠ 0 ∧ halves.g.arrived + Lanes.count halves.act < halves.liveLanes halves.g) := by
  refine ⟨?_, ⟨?_, ?_⟩, ?_, ?_⟩
  · (repeat' apply And.intro) <;> decide +kernel
  · decide +kernel
  · obtain ⟨t, p, h, g⟩ := ok_of (g := base.reach base.who accAtomic [(0x20000, 16)]) (fun _ p => hereB p = true) (by decide +kernel)
    obtain ⟨pa, key, rfl⟩ := here_of g
    exact ⟨t, pa, key, h⟩
  · decide +kernel
  · (repeat' apply And.intro) <;> decide +kernel

/-- A reference to the scratchpad's barrier object in s4, counts in s5. -/
def refs (r n : W64) : State := scal barred [(4, r), (5, n)]
theorem test_witness_BarrierInstructions :
    ((refs (BitVec.ofNat 64 (2 ^ 60)) 2).Admits acceptI [sblock .b 4 1, ss .c 5] ∧ (refs (BitVec.ofNat 64 (2 ^ 60)) 2).Admits acceptNone [sd .a 6, sblock .b 4 1] ∧
      (refs (BitVec.ofNat 64 (2 ^ 60)) 2).Admits acceptI [sd .a 6, sblock .b 4 1, ss .c 5] ∧
      (refs (BitVec.ofNat 64 (2 ^ 60)) 2).valueAt intConsts [sblock .b 4 1, ss .c 5] .b 0 = BitVec.ofNat 64 (2 ^ 60) ∧
      ((2 ^ 60) / 2 ^ 61 = 0 ∧ (2 ^ 60) / 2 ^ 57 % 8 = 0 ∧ (2 ^ 60) % 16 = 0) ∧ 2 ^ 60 % 2 ^ 57 + 16 ≤ barred.spadSize barred.g ∧
      (2#32 ≠ 0 ∧ (2#32).toNat < 2 ^ 24) ∧ (2 ^ 24 ≤ (BitVec.ofNat 32 (2 ^ 24)).toNat) ∧ (8 % 16 ≠ 0)) ∧
    (∃ t o, barred.barrier barred.who barred.w.wg (BitVec.ofNat 64 (2 ^ 60)) none = .ok t o) ∧
    (∃ t o, barred.barrier barred.who barred.w.wg (BitVec.ofNat 64 (2 ^ 60)) (some fun _ => { bytes := 0, phase := 0, expected := 2, arrivals := 2 }) = .ok t o) ∧
    (∃ t o, barred.barrier barred.who barred.w.wg (BitVec.ofNat 64 (2 ^ 60)) (some fun x => x.arrive (Lanes.count barred.act) 0) = .ok t o) := by
  refine ⟨?_, ok_of' ?_, ok_of' ?_, ok_of' ?_⟩ <;> (repeat' apply And.intro) <;> decide +kernel
/-- One condition, that the heartbeat has reached the number n, with the control word ctl in s5. -/
def waiting (ctl n : W64) : State := scal base [(5, ctl), (16, BitVec.ofNat 64 (3 * 2 ^ 61)), (17, n)]
def waitRec (n : W64) : WaitRec := { conds := [(BitVec.ofNat 64 (3 * 2 ^ 61), n)], allOf := false, timeout := 1, start := 0, dst := 4, lines := [], woken := none }
def waited (n : W64) : State := { onU base (fun u => { u with park := .wait (waitRec n) }) with tick := 8 }
theorem test_witness_WaitsAndHeartbeat :
    (∀ n ∈ [0#64, 5#64], let s := waiting 1 n
      s.Admits acceptI [sd .a 4, sblock .b 16 2, ss .c 5] ∧ (s.valueAt (unsConsts true) [ss .c 5] .c 0).toNat = 1 ∧
      condIllegal (BitVec.ofNat 64 (3 * 2 ^ 61), n) = false ∧ condCrooked (s.spadSize s.g) (BitVec.ofNat 64 (3 * 2 ^ 61), n) = false ∧ s.NoResults) ∧
    (∀ n ∈ [0#64, 5#64], let v := (waiting 1 n).parkNext (.wait (waitRec n))
      ∃ t bs, v.evalConds v.waitWho 0 [(BitVec.ofNat 64 (3 * 2 ^ 61), n)] = .ok t bs) ∧
    ((waiting 5 0).Admits acceptI [sd .a 4, sblock .b 16 1, ss .c 5] ∧ 4 < 5 ∧ (waiting 16 0).Admits acceptI [sd .a 4, sblock .b 16 1, ss .c 5] ∧ 16 / 16 % 2 ^ 28 ≠ 0) ∧
    (∀ n ∈ [0#64, 5#64], (waited n).u.park = .wait (waitRec n) ∧ (waited n).running = true ∧ (waited n).waitFaulted = false ∧ (waitRec n).timeout ≠ 0 ∧
      (waitRec n).start + (waitRec n).timeout ≤ (waited n).tick) ∧
    (∀ n ∈ [0#64, 5#64], ∃ t bs, (waited n).evalConds (waited n).waitWho 0 (waitRec n).conds = .ok t bs) ∧
    (∀ x ∈ base.warps, ∀ y ∈ x.2.units, ∀ r, y.2.park ≠ .wait r) := by
  refine ⟨?_, ?_, ?_, ?_, ?_, ?_⟩
  · intro n hn
    rcases List.mem_pair.1 hn with rfl | rfl <;> exact ⟨by decide +kernel, by decide +kernel, by decide +kernel, by decide +kernel, noResults_of (by decide +kernel)⟩
  · intro n hn
    rcases List.mem_pair.1 hn with rfl | rfl <;> exact ok_of' (by decide +kernel)
  · decide +kernel
  · intro n hn
    rcases List.mem_pair.1 hn with rfl | rfl <;> ((repeat' apply And.intro) <;> decide +kernel)
  · intro n hn
    rcases List.mem_pair.1 hn with rfl | rfl <;> exact ok_of' (by decide +kernel)
  · intro x hx y hy r h
    have : ∀ x ∈ base.warps, ∀ y ∈ x.2.units, y.2.park = .ready := by decide +kernel
    rw [this x hx y hy] at h
    cases h

def onEng (s : State) (f : Engine → Engine) : State := onG s (fun g => { g with eng := f g.eng })
/-- A full queue of tile operations; two warps in the workgroup, of which only the first or both live. -/
def fullOps : State := onEng (matrix base) (fun e => { e with ops := List.replicate 8 (.accz 1 0) })
def gangs (list : W64) (both : Bool) : State := onG (scal (matrix base) [(5, list)]) (fun g => { g with nwarps := 2, warps := if both then [1, 1] else [1, 2] })
theorem test_witness_TileInstructions :
    base.launch.matrix = false ∧ (matrix base).launch.matrix = true ∧ (gangs 3 true).launch.matrix = true ∧
    (let s := gangs 3 true
     s.Admits acceptX [sblock .b 5 1] ∧ s.valueAt intConsts [sblock .b 5 1] .b 0 = 3 ∧ Lanes.count (3#64 |>.setWidth 32) = 2 ∧ s.w.index = 0 ∧ s.g.nwarps = 2 ∧
       (3#64).getLsbD 0 = true ∧ ∀ i, 2 ≤ i → (3#64).getLsbD i = false) ∧
    ((gangs 1 true).Admits acceptX [sblock .b 5 1] ∧ Lanes.count (1#64 |>.setWidth 32) < 2) ∧
    ((matrix base).Admits acceptX [] ∧ (matrix base).g.eng.ops.length < 8 ∧ fullOps.Admits acceptX [] ∧ 8 ≤ fullOps.g.eng.ops.length) ∧
    ((matrix base).Admits acceptXI [vs .b 5 1, vblock .c 6 1 1] ∧ fullOps.Admits acceptXI [vs .b 5 1, vblock .c 6 1 1]) ∧
    ((matrix base).Admits acceptAll [vd .a 8 2, vblock .c 6 1 1] ∧ (matrix base).full = false ∧ (matrix base).rdiSeq 0 ≤ (matrix base).g.eng.retired ∧
      (let s := onEng (matrix base) (fun e => { e with lastOp := [(0, 1)] })
       s.g.eng.retired < s.rdiSeq 0 ∧ s.act ≠ 0 ∧ s.Admits acceptAll [vd .a 8 2, vblock .c 6 1 1] ∧ s.full = false)) := by
  refine ⟨?_, ?_, ?_, ⟨?_, ?_, ?_, ?_, ?_, ?_, fun i hi => ?_⟩, ?_⟩
  case refine_10 => 
    obtain ⟨k, rfl⟩ : ∃ k, i = k + 2 := ⟨i - 2, by omega⟩
    simp only [BitVec.getLsbD, BitVec.toNat_ofNat, Nat.testBit_add]
    simp
  all_goals decide +kernel
/-- A gang list in the warp; scalars s4 to s7. -/
def ganged (list : W32) (both : Bool) : State := onG (onW (matrix base) (fun w => { w with gangList := list })) (fun g => { g with nwarps := 2, warps := if both then [1, 1] else [1, 2] })
def block4 (s : State) (a b c d : W64) : State := scal s [(4, a), (5, b), (6, c), (7, d)]
theorem test_witness_MatrixInstructions :
    (∀ s ∈ [ganged 3 false, ganged 3 true, ganged 1 true], s.launch.matrix = true ∧ s.Admits acceptXI [vblock .b 5 1 1] ∧ (s.imm32 1).toNat ≠ 0 ∧ s.unit < 8 ∧
      s.u.lanes = s.w.live ∧ s.w.gangList ≠ 0 ∧ s.g.eng.latches = []) ∧
    (∃ i ∈ Lanes.list (ganged 3 false).w.gangList, (ganged 3 false).indexEnded (ganged 3 false).g i = true) ∧
    ((∀ i ∈ Lanes.list (ganged 3 true).w.gangList, (ganged 3 true).indexEnded (ganged 3 true).g i = false) ∧ 1 ∈ Lanes.list (ganged 3 true).w.gangList ∧ (ganged 3 true).w.index = 0) ∧
    ((∀ i ∈ Lanes.list (ganged 1 true).w.gangList, (ganged 1 true).indexEnded (ganged 1 true).g i = false ∧ i = (ganged 1 true).w.index) ∧
      (∀ L ∈ Lanes.list (ganged 1 true).act, ((ganged 1 true).valueAt intConsts [vblock .b 5 1 1] .b L).setWidth 32 = (0#32)) ∧ envBad 0 = false ∧
      (ganged 1 true).g.eng.ops.length < 8 ∧ (ganged 1 true).act ≠ 0 ∧ (ganged 1 true).w.index < 32) ∧
    (let s := block4 (matrix base) 0x20000 512 0 0
     s.Admits acceptX [sblock .b 4 4] ∧ s.regAt [sblock .b 4 4] .b = 4 ∧ 128 * outSize (s.g.eng.envOf 0) = 512 ∧ s.engineRefBad 0 = false ∧ s.g.eng.ops.length < 8) ∧
    ((block4 (matrix base) 0x20000 508 0 0).Admits acceptX [sblock .b 4 4] ∧ (block4 (matrix base) 0x20002 512 0 0).Admits acceptX [sblock .b 4 4] ∧ 0x20002 % 4 ≠ 0) := by
  refine ⟨?_, ?_, ?_, ?_, ?_, ?_⟩
  · intro s hs
    fin_cases hs <;> ((repeat' apply And.intro) <;> decide +kernel)
  all_goals (repeat' apply And.intro) <;> decide +kernel

/-- Stream n of the core at work with a job; an operation at the head of the engine's queue. -/
def atWork (s : State) (n : Nat) (st : Stream) : State := s.setStream s.g.core n st
def running (j : Job) : Stream := Stream.oneShot 1 j
def headed (op : TileOp) : State := onEng (matrix base) (fun e => { e with ops := [op] })
theorem triple_of {α β γ : Type} {x : α × β × Option γ} (h : x.2.2.isNone = true) : ∃ v k, x = (v, k, none) := by
  obtain ⟨v, k, _ | g⟩ := x <;> simp at h ⊢
theorem test_witness_EngineSteps :
    ((base.wgAt 1).phase = .resident ∧ Table.wf 0#32 (base.wgAt 1).eng.elems = true) ∧
    (let e : Engine := { Engine.blank with fifoA := List.replicate 4096 0, fifoBW := List.replicate 2048 0, fifoBS := List.replicate 128 0 }
     slabA 0 ≤ e.fifoA.length ∧ slabBW 0 ≤ e.fifoBW.length ∧ slabBS 0 ≤ e.fifoBS.length) ∧
    ((headed (.mma 1 3 0 2)).wgAt 1).eng.ops = [.mma 1 3 0 2] ∧ ((headed (.accz 1 3)).wgAt 1).eng.ops = [.accz 1 3] ∧
    (((headed (.accwr 1 3 [(16383, 5), (0, 7), (0, 8)])).wgAt 1).eng.ops = [.accwr 1 3 [(16383, 5), (0, 7), (0, 8)]] ∧
      ∀ x ∈ [(16383, 5#32), (0, 7#32), (0, 8#32)], x.1 < 16384) ∧
    (let s := atWork (headed (.accepi 1 0 0 0x20000 512 0 0 128 (some 2))) 2 (running .epilogue)
     (s.wgAt 1).eng.ops = [.accepi 1 0 0 0x20000 512 0 0 128 (some 2)] ∧ (s.streamAt (s.wgAt 1).core 2).state = .running ∧
     ∃ v k, s.epilogue (s.streamWho (s.wgAt 1).core 2) 1 0 0 0x20000 512 0 0 130 128 = (v, k, none)) := by
  refine ⟨?_, ?_, ?_, ?_, ?_, ?_, ?_, ?_⟩
  · decide +kernel
  · simp only [List.length_replicate]
    decide +kernel
  · decide +kernel
  · decide +kernel
  · decide +kernel
  · decide +kernel
  · decide +kernel
  · exact triple_of (by decide +kernel)
/-- Every stream of the core at work. -/
def busy (s : State) : State := s.setCoreAt s.g.core { s.coreAt s.g.core with streams := (List.range 8).map (fun n => (n, running .epilogue)) }
/-- A control word of two scalars s6, s7, addresses in s4 and s5. -/
def copying (dst src ctl : W64) : State := block4 (pad base) dst src ctl 0
def halo (w o q : W64) : State := onL (block4 (pad base) w o q 0) (fun l => { l with total := 2 })
def feeding (src m : W64) : State := block4 (pad (matrix base)) 0 src m 0
def notBlocked (x : Try) : Bool := match x with
  | .blocked _ => false
  | _ => true
theorem notBlocked_of {x : Try} (h : notBlocked x = true) : ∀ v, x ≠ .blocked v := by
  rintro v rfl
  simp [notBlocked] at h
theorem test_witness_CourierStreams :
    ((copying 0 0x20000 0).Admits acceptXI [sd .a 4, sblock .b 5 1, sblock .c 16 16] ∧ (copying 0 0x20002 0).Admits acceptXI [sd .a 4, sblock .b 5 1, sblock .c 16 16] ∧
      (copying 0 0x20000 0).u.frame.imm = none ∧
      base.freeStream base.g.core (List.range 8) = some 0 ∧ (busy base).freeStream base.g.core (List.range 8) = none ∧ (busy (copying 0 0x20000 0)).act ≠ 0 ∧
      (busy (copying 0 0x20000 0)).Admits acceptXI [sd .a 4, sblock .b 5 1, sblock .c 16 16]) ∧
    ((copying 64 0x20000 8128).Admits acceptXI [sblock .a 4 1, sblock .b 5 1, sblock .c 6 2] ∧ copyCrooked 8192 0 64 0x20000 0 = false ∧
      copyCrooked 8192 8128 64 0x20000 0 = false ∧ copyCrooked 8192 8144 64 0x20000 0 = true ∧ (pad base).spadSize (pad base).g = 8192 ∧
      3 * 2 ^ 30 / 2 ^ 30 = 3 ∧ (copying 64 0x20000 (BitVec.ofNat 64 (3 * 2 ^ 30))).Admits acceptXI [sblock .a 4 1, sblock .b 5 1, sblock .c 6 2]) ∧
    (let q := 4 * 2 ^ 48 + 16 * 2 ^ 32 + 128 * 2 ^ 16 + 64
     (halo 1 0 (BitVec.ofNat 64 q)).Admits acceptX [sblock .b 4 4] ∧ (halo 2 0 (BitVec.ofNat 64 q)).Admits acceptX [sblock .b 4 4] ∧
       (halo 1 0 (BitVec.ofNat 64 q)).launch.total = 2 ∧ 3 * 128 + 16 ≤ (halo 1 0 (BitVec.ofNat 64 q)).spadSize (halo 1 0 (BitVec.ofNat 64 q)).g ∧
       (halo 1 0 (BitVec.ofNat 64 q)).engineRefBad 0 = false) ∧
    ((feeding 0x20000 128).launch.matrix = true ∧ (feeding 0x20000 128).Admits acceptXI [sblock .b 5 1, sblock .c 6 1] ∧ feedIllegal 0 0 128 = false ∧
      feedIllegal 1 1 128 = false ∧ feedIllegal 2 1 128 = true ∧ (feeding 8064 128).spadSize (feeding 8064 128).g = 8064 + 128) ∧
    ((copying 0 7 0).Admits acceptX [sblock .a 16 2, sblock .b 5 1] ∧ (copying 0 8 0).w.sreg 5 = 8) ∧
    (base.Admits acceptXI [vd .a 4 2] ∧ (base.imm32 1).toNat < 2 ∧ base.w.opq.length < regsW 1 ∧ (onW base (fun w => { w with opq := [[], []] })).Admits acceptXI [vd .a 4 2] ∧
      regsW 1 ≤ (onW base (fun w => { w with opq := [[], []] })).w.opq.length ∧ base.Admits acceptX [sd .a 4] ∧ base.act ≠ 0) ∧
    (let st := { running (.copy 0 64 0x20000 256 0 64) with slice := true }
     let s := atWork (pad base) 5 st
     (s.streamAt 0 5).state = .running ∧ s.streamLive 0 5 = true ∧ (s.streamAt 0 5).jobs = [.copy 0 64 0x20000 256 0 64] ∧ (s.streamAt 0 5).owed = 0 ∧
       s.unperformedBy (.stream 0 5) = false ∧ ∃ t bs, s.fetchBytes (s.streamWho 0 5) (0x20000#64 + 64).toNat (min (min (256 - 64) (128 - (64 + 64) % 128)) (65536 - 64 % 65536)) = .ok t bs) ∧
    (let s := atWork (pad base) 5 { running (.copy 0 64 0x20000 256 0 64) with state := .waiting }
     (s.streamAt 0 5).state = .waiting ∧ s.streamLive 0 5 = true ∧ ∀ v, s.tryStream 0 5 ≠ .blocked v) ∧
    (let s := onG (pad base) (fun g => { g with absent := [3, 5] })
     3 ∈ (s.wgAt 1).absent ∧ ∀ j ∈ s.jobsOf 1, 3 ∉ j.lines) := by
  refine ⟨?_, ?_, ?_, ?_, ?_, ?_, ⟨?_, ?_, ?_, ?_, ?_, ok_of' ?_⟩, ⟨?_, ?_, notBlocked_of ?_⟩, ?_⟩ <;> (repeat' apply And.intro) <;> decide +kernel

/-- Stream 5 with 64 bytes to count; with a slice at QPUT 0 s4, its page's translation cached. -/
def owing : State := atWork (pad base) 5 { running (.copy 0 64 0x20000 256 0 64) with owed := 64 }
def slicing : State :=
  let s := words (atWork (pad base) 5 { Stream.oneShot 1 .epilogue with jobs := [], slice := true, warp := 1, pc := 0x30000, sregs := [(4, 64)] }) [(0x30000, 0x00010065)]
  match (s.sliceState 0 5).fetchCode (s.streamWho 0 5) 0x30000 1 with
  | .ok t _ => { s with tlb := t.tlb, mem := t.mem }
  | _ => s
theorem test_witness_CourierStreams_counts_and_slices :
    ((owing.streamAt 0 5).state = .running ∧ owing.streamLive 0 5 = true ∧ (owing.streamAt 0 5).owed ≠ 0 ∧ owing.unperformedBy (.stream 0 5) = false ∧
      ∃ t, owing.countBytes (owing.streamWho 0 5) 1 0 64 = .ok t ()) ∧
    (let st := slicing.streamAt 0 5
     st.state = .running ∧ (slicing.wgAt st.wg).phase = .resident ∧ st.jobs = [] ∧ st.slice = true ∧ st.imm = none ∧ st.loops = [] ∧ st.warp ≠ 0 ∧
       slicing.unperformedBy (.stream 0 5) = false ∧ encode (.qput 0 4) = some 0x00010065 ∧ Table.get 0#64 st.sregs 4 = 64 ∧
       64 + 128 ≤ slicing.spadSize (slicing.wgAt st.wg) ∧ (slicing.wgAt st.wg).present 64 128 = true ∧ (slicing.warpAt st.warp).live ≠ 0 ∧
       (slicing.warpAt st.warp).opq.length < 16) ∧
    (slicing.sliceState 0 5).fetchCode (slicing.streamWho 0 5) (slicing.streamAt 0 5).pc 1 = .ok (slicing.sliceState 0 5) [0x00010065] := by
  refine ⟨⟨?_, ?_, ?_, ?_, ?_⟩, ?_, ?_⟩
  · decide +kernel
  · decide +kernel
  · decide +kernel
  · decide +kernel
  · obtain ⟨t, _, h⟩ := ok_of' (g := owing.countBytes (owing.streamWho 0 5) 1 0 64) (by decide +kernel)
    exact ⟨t, h⟩
  · (repeat' apply And.intro) <;> decide +kernel
  · obtain ⟨t, x, h, rfl, rfl⟩ := ok_of (g := (slicing.sliceState 0 5).fetchCode (slicing.streamWho 0 5) (slicing.streamAt 0 5).pc 1)
      (fun t ws => t = slicing.sliceState 0 5 ∧ ws = [0x00010065#32]) (by decide +kernel)
    exact h

/-- The context has 256 launches that have not ended. -/
def manyLaunches : State := { scal base [(5, 0x20000)] with launches := (List.range' 1 256).map (fun k => (k, { base.launch with phase := .running })) }
def distTiles (v : W64) : State := scal base [(5, v)]
/-- FIXUP of 32 elements, one partial, with its ready word written. -/
def fixing (dest b w : W64) : State := words (block4 base dest b w 0) [(0x20080, 1)]
theorem okB_of {α : Type} {g : Got α} {f : State → α → Bool} (h : okB g f = true) : ∃ t x, g = .ok t x ∧ f t x = true := by
  cases g <;> simp [okB] at h
  exact ⟨_, _, rfl, h⟩
theorem test_witness_LaunchInstructions :
    ((scal base [(5, 0x20000)]).Admits acceptNone [sd .a 4, ss .b 5] ∧ (scal base [(5, 0x20020)]).Admits acceptNone [sd .a 4, ss .b 5] ∧ 0x20020 % 64 ≠ 0 ∧ base.launchesOf base.g.asid < 256 ∧
      256 ≤ manyLaunches.launchesOf manyLaunches.g.asid ∧ manyLaunches.Admits acceptNone [sd .a 4, ss .b 5] ∧
      manyLaunches.valueAt intConsts [sd .a 4, ss .b 5] .b 0 = 0x20000) ∧
    ((distTiles (BitVec.ofNat 64 (4 * 2 ^ 32 + 12))).Admits acceptNone [sblock .a 8 3, ss .b 5] ∧ (distTiles 12).Admits acceptNone [sblock .a 8 3, ss .b 5] ∧
      (distTiles (BitVec.ofNat 64 (5 * 2 ^ 32 + 12))).Admits acceptNone [sblock .a 8 3, ss .b 5] ∧
      12 % 4 = 0 ∧ 12 % 5 ≠ 0 ∧ gridSize base.g.grid = 1) ∧
    (let w := BitVec.ofNat 64 (32 * 2 ^ 32 + 128)
     let s := fixing 0x30000 0x20000 w
     s.Admits acceptNone [sblock .b 4 4] ∧ s.regAt [sblock .b 4 4] .b = 4 ∧ (fixing 0x30004 0x20000 w).Admits acceptNone [sblock .b 4 4] ∧ 0x30004 % 128 ≠ 0 ∧
       (fixing 0x30000 0x20000 128).Admits acceptNone [sblock .b 4 4] ∧ 128 / 2 ^ 32 = 0 ∧ s.unperformedBy s.who.waiter = false ∧
       ∃ t, s.partialsReady 0x20000 128 32 1 0 = .ok t true ∧ ∃ v ps, t.partials 0x20000 128 32 1 0 = .ok v ps ∧
         ∃ x, v.put v.who 0x30000 ((sumPartials ps).flatMap (fun y => valBytes 4 y.toNat)) = .ok x ()) := by
  refine ⟨?_, ?_, ?_, ?_, ?_, ?_, ?_, ?_, ?_, ?_⟩
  · (repeat' apply And.intro) <;> decide +kernel
  · (repeat' apply And.intro) <;> decide +kernel
  · decide +kernel
  · decide +kernel
  · decide +kernel
  · decide +kernel
  · decide +kernel
  · decide +kernel
  · decide +kernel
  · obtain ⟨t, b, h, g⟩ := okB_of (g := (fixing 0x30000 0x20000 (BitVec.ofNat 64 (32 * 2 ^ 32 + 128))).partialsReady 0x20000 128 32 1 0)
      (f := fun t b => b && okB (t.partials 0x20000 128 32 1 0) (fun v ps =>
        okB (v.put v.who 0x30000 ((sumPartials ps).flatMap (fun y => valBytes 4 y.toNat))) (fun _ _ => true))) (by decide +kernel)
    obtain ⟨rfl, g⟩ := (Bool.and_eq_true _ _).mp g
    obtain ⟨v, ps, h', g'⟩ := okB_of g
    obtain ⟨x, _, h''⟩ := ok_of' g'
    exact ⟨t, h, v, ps, h', x, h''⟩
/-- A launch record at 0x20000 of two workgroups, its kernel descriptor at 0x20040, the root RCB at 0x4000. -/
def recorded (grid : Nat) (prologue : Nat) : State :=
  let s := words base [(0x20000, 0x20040), (0x20010, grid), (0x20040, 0x10000), (0x20048, 16), (0x20060, prologue), (0x4010, 2 ^ 40), (0x4020, 31 * 2 ^ 32)]
  (s.setCtx 1 { s.ctxAt 1 with rcb := 0x4000 }).setLaunch 5 { Launch.blank with asid := 1, phase := .submitted, record := 0x20000 }
def twoGroups : Nat := 2 + 2 ^ 16 + 2 ^ 32
/-- The prologue of launch 5 at its first word. -/
def proStart (w : Nat) : State :=
  let s := words (recorded twoGroups 0x30000) [(0x30000, w)]
  s.setLaunch 5 { s.launchAt 5 with phase := .prologue, prologue := 0x30000, params := [(8, 2), (9, 1), (10, 1)] }
def isRun (x : Pro) : Bool := match x with
  | .run l _ => decide (l.ppc = 0)
  | _ => false
def isOn (x : Pro) : Bool := match x with
  | .on _ l => decide (l.ppc = 1)
  | _ => false
def isCancel (x : Pro) : Bool := match x with
  | .cancel l => decide (l.ppc = 0)
  | _ => false
def accepted5 (cohort : Bool) (n : Nat) : State :=
  (recorded twoGroups 0).setLaunch 5 { base.launch with phase := .accepted, cohort := cohort, nwarps := 1, params := [(8, BitVec.ofNat 64 n), (9, 1), (10, 1)] }
def pending : State := onG (base.setCtx 1 { base.ctxAt 1 with slots := 4 }) (fun g => { g with phase := .pending, warps := [] })
def dead : State := onW base (fun w => { w with live := 0, units := [] })
def idleLaunch (again : Bool) : State := { onL (recorded 0 0) (fun l => { l with record := 0x20000, repeats := again }) with wgs := [], warps := [] }
theorem test_witness_LaunchLifecycle :
    (let s := recorded twoGroups 0
     (s.launchAt 5).phase = .submitted ∧ (s.launchAt 5).code = 0 ∧ s.launchParked 5 = false ∧
       okB ((s.readLaunch 5 (s.launchAt 5)).atomic s (.launch 5)) (fun _ x => match x with
         | .ok l => decide (l.prologue = 0) && decide (l.kind = .grid) && decide (l.nwarps = 1)
         | .error _ => false) = true) ∧
    (let s := recorded 0 0
     okB ((s.readLaunch 5 (s.launchAt 5)).atomic s (.launch 5)) (fun _ x => match x with
         | .ok _ => false
         | .error c => decide (c = 2)) = true) ∧
    (∀ x ∈ [(0x30000006, isRun), (0x50000068, isCancel), (0x40610068, isOn)], let s := proStart x.1
      (s.launchAt 5).phase = .prologue ∧ s.launchParked 5 = false ∧ (s.launchAt 5).ppc = 0 ∧
      okB (s.reach (s.frontWho 5) accFetch [(0x30000, 4)]) (fun v p => match v.segBytes (.launch 5) (64 * 0x30000 + 32) p with
        | some bs => x.2 (v.proWord 5 (s.launchAt 5) (BitVec.ofNat 32 (bytesVal bs)))
        | none => false) = true) ∧
    (((accepted5 false 2).launchAt 5).phase = .accepted ∧ ((accepted5 false 2).launchAt 5).code = 0 ∧ ((accepted5 false 2).launchAt 5).cohort = false ∧
      (accepted5 false 2).launchParked 5 = false) ∧
    (let l := (accepted5 true 65535).launchAt 5
     l.cohort = true ∧ l.phase = .accepted ∧ l.code = 0 ∧ l.kind = .grid ∧ l.nwarps = 1 ∧ l.lines = 0 ∧ l.matrix = false) ∧
    (let s := accepted5 true 5
     (List.range 4).any (fun d => decide (s.capacityOf (List.range' (48 * d) 48) 1 0 false <
       (((s.launchAt 5).gridGroups 5).filter (fun x => decide (s.homeDie x = d))).length)) = false) ∧
    (let s := { accepted5 true 5 with withheld := [(0, BitVec.allOnes 64), (1, BitVec.allOnes 64), (2, BitVec.allOnes 64)] }
     (s.launchAt 5).cohort = true ∧ (List.range 4).any (fun d => decide (s.capacityOf (List.range' (48 * d) 48) 1 0 false <
       (((s.launchAt 5).gridGroups 5).filter (fun x => decide (s.homeDie x = d))).length)) = true) ∧
    (let r := pending.lookBudgets (pending.launchAt (pending.wgAt 1).launch)
     let h := r.wgAt 1
     let m := r.launchAt h.launch
     h.phase = .pending ∧ h.parcel = none ∧ h.routine = none ∧ m.ordered = false ∧ m.cohort = false ∧ m.param 12 = 0 ∧
      r.earlierPending h = false ∧ r.unperformedBy h.waiter = false ∧ r.admitted h = true ∧ r.coreFor h = some 0 ∧
      (r.warpSlots 0).length + h.nwarps ≤ 64 ∧ r.cacheUse 0 + h.nwarps * m.alloc ≤ 8192 ∧ (∀ x ∈ r.wgs, ∀ k ∈ x.2.warps, k < r.nextId)) ∧
    ((proStart 0).launchAt 5).pframe = Framing.blank ∧ ((proStart 0).launchAt 5).pcover = none ∧
    (encode (.psetp 3 4) = some 0x40610068 ∧ (4#7).toNat < 32 ∧ psetpBad false 3 9 = false ∧ encode .pcancel = some 0x50000068 ∧
      encode .prepeat = some 0x60000068 ∧ encode .exit = some 0x30000006 ∧ gridBad (2, 1, 1) = false) ∧
    ((dead.wgAt 1).phase = .resident ∧ (∀ k ∈ (dead.wgAt 1).warps, (dead.warpAt k).live = 0) ∧ dead.storesOut (dead.wgAt 1) = false) ∧
    (((idleLaunch true).launchAt 1).phase = .running ∧ ((idleLaunch true).launchAt 1).repeats = true ∧ (idleLaunch true).familyBusy 1 = false ∧
      (idleLaunch true).launchParked 1 = false ∧ (idleLaunch false).launchOut 1 = false ∧
      let s := (idleLaunch false).setLaunch 1 { (idleLaunch false).launchAt 1 with phase := .storing, runs := ((idleLaunch false).launchAt 1).runs + 1 }
      okB ((s.writeVal (s.frontWho 1) 0x20038 8 (2 ^ 32)).atomic s (.launch 1)) (fun v _ =>
        let s2 := v.setLaunch 1 { (idleLaunch false).launchAt 1 with phase := .arriving, runs := ((idleLaunch false).launchAt 1).runs + 1 }
        !s2.launchOut 1 && okB ((s2.arriveOnce (s2.frontWho 1) 0 0).atomic s2 (.launch 1)) (fun _ _ => true)) = true) ∧
    (let s := { onG (onL (recorded 0 0) (fun l => { l with rcbs := [0x4000] })) (fun g => { g with since := 0, spent := 5 }) with
                  tick := 500, budgets := [(2 ^ 64 + 0x4000, ⟨1, 0, false⟩)] }
     s.wgs = [(1, s.wgAt 1)] ∧ (s.wgAt 1).phase = .resident ∧ (s.launchAt (s.wgAt 1).launch).rcbs = [0x4000] ∧ (s.launchAt (s.wgAt 1).launch).asid = 1 ∧
       s.faults = [] ∧ 250 ≤ (s.wgAt 1).spent + (s.wgAt 1).nwarps * (s.tick - (s.wgAt 1).since) ∧
       s.pending = [] ∧ okB (s.reach (engineWho 1 0 9 0 0 (.charge (2 ^ 64 + 0x4000))) accAtomic [(0x4008, 8)]) (fun v p =>
         (v.segBytes (.charge (2 ^ 64 + 0x4000)) 0 p).isSome && (match p with
           | [(.here _ _, 8)] => true
           | _ => false)) = true) := by
  refine ⟨?_, ?_, ?_, ?_, ?_, ?_, ?_, ?_, ?_, ?_, ?_, ?_, ?_, ?_⟩
  · (repeat' apply And.intro) <;> decide +kernel
  · decide +kernel
  · intro x hx
    simp only [List.mem_cons, List.not_mem_nil, or_false] at hx
    rcases hx with rfl | rfl | rfl <;> ((repeat' apply And.intro) <;> decide +kernel)
  all_goals (repeat' apply And.intro) <;> decide +kernel
/-- A parcel record or a stage queue header at 0x20000; scalars s4 to s7. -/
def parcelAt (entry : Nat) (flags : Nat) : State := words (block4 (pad base) 0x20000 1 0x20000 64) [(0x20000, entry), (0x20020, flags)]
/-- A stage queue of 16 entries of 16 bytes at 0x21000, with four entries committed, or full. -/
def stageQ (n h off : W64) (tail : Nat) : State :=
  words (block4 (pad base) n h off (BitVec.ofNat 64 (2 * 2 ^ 32 + 64))) [(0x20000, 0x21000), (0x20008, 16 + 16 * 2 ^ 32 + 4 * 2 ^ 48), (0x20020, tail), (0x20028, tail)]
def isPushed (x : Push) : Bool := match x with
  | .claimed 4 [] => true
  | _ => false
def isShort (x : Push) : Bool := match x with
  | .short => true
  | _ => false
def onQueue (s : State) (q : Nat) (f : Queue → Queue) : State := s.setQueue q (f (s.queueAt q))
/-- Queue 3 of context 1, ring of 16 packets at 0x22000, reports at 0x23000. -/
def queued (s : State) : State := s.setQueue 3 { Queue.blank with desc := [0x22000, 1 + 4 * 2 ^ 16, 0x23000, 0], latch := 4, state := .active }
def tasked (b c : W64) : State := { scal (queued base) [(4, b), (5, c)] with deadlines := [(7, { Deadline.blank with owner := 1 })] }
theorem test_witness_QueueInstructions :
    ((parcelAt 0x10000 1).Admits acceptNone [ss .b 4] ∧ (scal base [(4, 0x20020)]).Admits acceptNone [ss .b 4] ∧ 0x20020 % 64 ≠ 0 ∧
      okB ((parcelAt 0x10000 1).fetchWords (parcelAt 0x10000 1).who 0x20000 8) (fun t v =>
        !parcelCrooked v && !parcelIllegal v && decide ((t.coreAt 0).parcels.length < 256)) = true ∧
      okB ((parcelAt 0x10002 1).fetchWords (parcelAt 0x10002 1).who 0x20000 8) (fun _ v => parcelCrooked v) = true ∧
      okB ((parcelAt 0x10000 2).fetchWords (parcelAt 0x10000 2).who 0x20000 8) (fun _ v => !parcelCrooked v && parcelIllegal v) = true) ∧
    ((stageQ 4 0x20000 64 4).Admits acceptNone [ss .a 4, ss .b 5, ss .c 6] ∧ (stageQ 0 0x20000 64 4).Admits acceptNone [ss .a 4, ss .b 5, ss .c 6] ∧
      (stageQ 65535 0x20000 8 4).Admits acceptNone [ss .a 4, ss .b 5, ss .c 6] ∧
      okB ((stageQ 4 0x20000 64 4).pushClaim 0x20000 4 64) (fun _ x => isPushed x) = true ∧
      okB ((stageQ 4 0x20000 64 16).pushClaim 0x20000 4 64) (fun _ x => isShort x) = true ∧ (stageQ 4 0x20000 64 4).unperformedBy (stageQ 4 0x20000 64 4).who.waiter = false ∧
      okB ((stageQ 4 0x20000 64 4).pushClaim 0x20000 4 64) (fun t _ =>
        let p := t.forget base.who.waiter
        let q := (p.setLaunch p.g.launch { p.launch with reserved := [] }).atPush (.claimed 0x20000 4 4)
        okB ((q.pushCommit 0x20000 4 4).atomic q q.who.waiter) (fun _ b => b)) = true) ∧
    ((stageQ 4 0x20000 64 4).Admits acceptNone [sblock .a 8 2, ss .b 5, ss .c 7] ∧ (stageQ 4 0x20000 64 4).Admits acceptNone [sblock .a 8 2, ss .b 5, ss .c 4] ∧
      okB ((stageQ 4 0x20000 64 4).takeEntries 0x20000 2 64) (fun _ x => match x with
        | .took n first bs => decide (n = 2) && decide (first = 0) && decide (bs.length = 32)
        | _ => false) = true) ∧
    ((tasked 3 9).Admits acceptNone [ss .b 4, ss .c 5] ∧ (tasked 3 9).windowDenies (tasked 3 9).who = false ∧ ((tasked 3 9).queueAt 3).asid = (tasked 3 9).g.asid ∧
      (tasked 4 9).Admits acceptNone [ss .b 4, ss .c 5] ∧ ((tasked 4 9).queueAt 4).asid ≠ (tasked 4 9).g.asid ∧
      (tasked (BitVec.ofNat 64 (2 ^ 32 + 7)) 9).Admits acceptNone [ss .b 4, ss .c 5] ∧ ((tasked 0 0).deadlineAt 7).owner.toNat = (tasked 0 0).g.asid ∧
      ((tasked 0 0).deadlineAt 8).owner.toNat ≠ (tasked 0 0).g.asid) := by
  (repeat' apply And.intro) <;> decide +kernel

/-- Queue 3 in a state; 32 active queues of a lower class, or of a rank whose tenure is over. -/
def inState (st : QueueState) : State := onQueue (queued base) 3 (fun x => { x with state := st })
def crowded : State :=
  (inState .waiting).setQueue 3 { (inState .waiting).queueAt 3 with state := .waiting } |> fun s =>
    { s with queues := (3, s.queueAt 3) :: (List.range' 10 32).map (fun k => (k, { Queue.blank with desc := [0, 1 + 2 * 2 ^ 21, 0, 0], state := .active, since := 0 })) }
theorem test_witness_QueueStates :
    (((queued base).queueAt 4).state = .disabled ∧ ((inState .stopped).queueAt 3).state = .stopped ∧ ((inState .stopped).queueAt 3).readPtr.toNat < ((inState .stopped).queueAt 3).latch.toNat) ∧
    (((inState .waiting).queueAt 3).state = .waiting ∧ (inState .waiting).restarting = false ∧ ((inState .waiting).queuesIn .active).length < 32 ∧
      ∀ y ∈ (inState .waiting).queuesIn .waiting, (inState .waiting).ranksAbove y (3, (inState .waiting).queueAt 3) = false) ∧
    ((crowded.queueAt 41).state = .active ∧ crowded.restarting = false ∧ 32 ≤ (crowded.queuesIn .active).length ∧ crowded.lowest 41 = true ∧
      (crowded.queueAt 41).waiting = none ∧ (crowded.queueAt 41).started = none ∧ (crowded.queueAt 41).owePtr = false ∧ crowded.queueParked 41 = false ∧
      ∃ y ∈ crowded.queuesIn .waiting, crowded.evicts (crowded.queueAt 41) y.2 = true) ∧
    (((queued base).queueAt 3).since + 250000 ≤ { queued base with tick := 250000 }.tick) ∧
    ({ inState .idle with restarting := true }.restarting = true ∧ ((inState .idle).queueAt 3).readPtr.toNat < ((inState .idle).queueAt 3).latch.toNat ∧ 3 ∈ (inState .idle).queues.map (·.1)) ∧
    ({ tasked 0 0 with aperture := some (1, 0) }.aperture = some (1, 0) ∧ ({ tasked 0 0 with aperture := some (1, 0) }.deadlineAt 7).owner.toNat = 1 ∧
      ({ tasked 0 0 with aperture := some (1, 0) }.deadlineAt 8).owner.toNat ≠ 1) ∧
    (let d : Deadline := { Deadline.blank with stamp := 3, guard := 3 }
     (d.stamp.toNat ≤ base.tick / 64 + d.guard.toNat ∧ base.tick / 64 < d.stamp.toNat) ∧ ¬ Deadline.blank.stamp.toNat > base.tick / 64) ∧
    (((queued base).queueAt 3).state = .active ∧ ((queued base).queueAt 3).ahead.length < 16 ∧ ((queued base).queueAt 3).barred = false ∧
      (queued base).queueFree 3 = true ∧ ((queued base).queueAt 3).nextAddr = some 0x22000 ∧
      ((queued base).queueAt 3).readRing < ((queued base).queueAt 3).latch.toNat ∧
      okB (((queued base).partBytes ((queued base).queueWho 3) 0x22000 64).atomic (queued base) (.queue 3)) (fun _ bs => decide (bs.length = 64)) = true) := by
  (repeat' apply And.intro) <;> decide +kernel
/-- A packet with these words at the head of queue 3, read from the ring, with called buffers that it stands in. -/
def fetched (ws : List W64) (before : List (W64 × Nat)) : Fetched := { addr := 0x22000, words := (ws ++ List.replicate 8 0).take 8, ring := 0, before := before, closes := 0 }
def packet (s : State) (ws : List W64) (before : List (W64 × Nat)) : State :=
  onQueue (words (queued s) [(0x22000, (ws.getD 0 0).toNat)]) 3 (fun x => { x with ahead := [fetched ws before] })
def atIssueB (s : State) (q type : Nat) (f : Fetched) (g : State → Bool) : Bool :=
  decide ((s.queueAt q).state = .active) && s.queueFree q && decide ((s.queueAt q).ahead = [f]) &&
  decide (f.ring < (s.queueAt q).latch.toNat) && decide ((s.queueAt q).latch ≠ (s.queueAt q).readPtr) &&
  !packetBad f.words && decide (packetType f.words = type) && !packetFlag f.words 0 &&
  okB ((match (s.queueAt q).started with
    | some _ => Got.ok s f
    | none => s.rereadHead q f).atomic s (.queue q)) (fun t f1 => decide (f1 = f) && !t.unperformedBy (.queue q) && g t)
theorem atIssue_of {s : State} {q type : Nat} {f : Fetched} {g : State → Bool} (h : atIssueB s q type f g = true) :
    ∃ t, s.AtIssue t q type f [] ∧ g t = true := by
  simp only [atIssueB, Bool.and_eq_true, decide_eq_true_eq, Bool.not_eq_true'] at h
  obtain ⟨⟨⟨⟨⟨⟨⟨⟨h1, h2⟩, h3⟩, h4⟩, h5⟩, h6⟩, h7⟩, h8⟩, h9⟩ := h
  obtain ⟨t, f1, e, hf⟩ := okB_of h9
  simp only [Bool.and_eq_true, decide_eq_true_eq, Bool.not_eq_true'] at hf
  obtain ⟨⟨rfl, hc⟩, hg⟩ := hf
  exact ⟨t, ⟨h1, h2, h3, h4, h5, e, hc, h6, h7, fun h => by simp [h8] at h⟩, hg⟩
/-- A parcel's record at 0x20000 and its kernel descriptor at 0x20040, a root RCB; a pipeline of one stage at 0x24000; a world. -/
def furnished : State :=
  let s := words base [(0x20000, 0x10000), (0x20040, 0x10000), (0x20048, 16), (0x4010, 2 ^ 40), (0x4020, 31 * 2 ^ 32), (0x24000, 1), (0x24008, 0x20140),
    (0x20140, 0x20180), (0x20150, 1 + 2 ^ 24 * 0)]
  { s.setCtx 1 { s.ctxAt 1 with rcb := 0x4000 } with deadlines := [(7, { Deadline.blank with owner := 1 })] }
theorem test_witness_Packets :
    (∃ t, (packet base [0] []).AtIssue t 3 0 (fetched [0] []) [] ∧ true = true) ∧
    (∃ t, (packet base [4] []).AtIssue t 3 4 (fetched [4] []) [] ∧ true = true) ∧
    (∃ t, (packet base [3, 0x25000, 2] []).AtIssue t 3 3 (fetched [3, 0x25000, 2] []) [] ∧ true = true) ∧
    (let b : List (W64 × Nat) := [(0, 1), (0, 1), (0, 1), (0, 1)]
     ∃ t, (packet base [3, 0x25000, 2] b).AtIssue t 3 3 (fetched [3, 0x25000, 2] b) [] ∧ decide (4 ≤ b.length) = true) ∧
    (∃ t, (packet base [1, 0x20000] []).AtIssue t 3 1 (fetched [1, 0x20000] []) [] ∧ (decide ((t.queueAt 3).started = none) && decide (t.launchesOf (t.queueAt 3).asid < 256)) = true) ∧
    (let ws : List W64 := [5, BitVec.ofNat 64 (2 ^ 61 + 0x20000), 0, 4]
     (∃ t, (packet base ws []).AtIssue t 3 5 (fetched ws []) [] ∧ okB (t.packetCond 3 (fetched ws [])) (fun _ b => b) = true) ∧
     let s := { onQueue (packet base ws []) 3 (fun x => { x with waiting := some 0 }) with tick := 4 }
     (s.queueAt 3).state = .active ∧ s.ctxRuns (s.queueAt 3).asid = true ∧ (s.queueAt 3).waiting = some 0 ∧ packetType (fetched ws []).words = 5 ∧
       (fetched ws []).w 3 ≠ 0 ∧ 0 + ((fetched ws []).w 3).toNat ≤ s.tick) ∧
    (let ws : List W64 := [6, 0x26000, 9]
     ∃ t, (packet base ws []).AtIssue t 3 6 (fetched ws []) [] ∧ okB (t.writeVal (t.queueWho 3) 0x26000 8 9) (fun _ _ => true) = true) ∧
    (let ws : List W64 := [7, 0x26000, 9]
     ∃ t, (packet base ws []).AtIssue t 3 7 (fetched ws []) [] ∧ okB (t.barrier (t.queueWho 3) 0 0x26000 (some fun y => y.arrive 1 9)) (fun _ _ => true) = true) ∧
    (let ws : List W64 := [10, BitVec.ofNat 64 (2 ^ 32 + 7), 100]
     ∃ t, (packet furnished ws []).AtIssue t 3 10 (fetched ws []) [] ∧ (!t.dlineBad (t.queueAt 3).asid (BitVec.ofNat 64 (2 ^ 32 + 7))) = true) ∧
    (let ws : List W64 := [2, 0x20000, 0x20040, 0]
     ∃ t, (packet furnished ws []).AtIssue t 3 2 (fetched ws []) [] ∧
       okB (t.partBytes (t.queueWho 3) 0x20000 64) (fun v bs => okB (v.partBytes (t.queueWho 3) 0x20040 64) (fun w ks =>
         okB (w.resolveRcb (t.queueWho 3) ((t.queueAt 3).desc.getD 3 0)) (fun y z => decide (y.packetCore = some 0) && (z.any (fun z => !z.noMem)) &&
           !parcelCrooked (words64 8 bs) && !parcelIllegal (words64 8 bs) && !kernelBad (y.ctxAt 1).perLane (words64 8 ks)))) = true) ∧
    (let ws : List W64 := [9, 0x24000]
     ∃ t, (packet furnished ws []).AtIssue t 3 9 (fetched ws []) [] ∧
       (decide (t.pipes.length < 8) && okB (t.pipeline (t.queueWho 3) 0x24000) (fun _ x => x.isSome)) = true) := by
  refine ⟨atIssue_of (g := fun _ => true) ?_, atIssue_of (g := fun _ => true) ?_, atIssue_of (g := fun _ => true) ?_, atIssue_of (g := fun _ => true) ?_,
    atIssue_of ?_, ⟨atIssue_of ?_, ?_⟩, atIssue_of ?_, atIssue_of ?_, atIssue_of ?_, atIssue_of ?_, atIssue_of ?_⟩ <;> decide +kernel
/-! Reading a world's descriptor by its first 18 words, where no listed cell lies in the rest of its page. -/

theorem loadBytes_append (s : State) (key : Nat) : ∀ m n pa, s.loadBytes pa key (m + n) = s.loadBytes pa key m ++ s.loadBytes (pa + m) key n := by
  intro m
  induction m with
  | zero => intro n pa; simp [State.loadBytes]
  | succ m ih =>
    intro n pa
    rw [Nat.succ_add, State.loadBytes, ih, State.loadBytes, List.cons_append, Nat.add_assoc, Nat.add_comm 1 m]
theorem loadBytes_zeros (s : State) (key : Nat) : ∀ n pa, (∀ k < n, s.loadByte (pa + k) key = 0) → s.loadBytes pa key n = List.replicate n 0 := by
  intro n
  induction n with
  | zero => intro pa _; rfl
  | succ n ih =>
    intro pa h
    rw [State.loadBytes, List.replicate_succ, ih (pa + 1) (fun k hk => by rw [Nat.add_assoc, Nat.add_comm 1 k]; exact h (k + 1) (by omega))]
    rw [show s.loadByte pa key = 0 from h 0 (by omega)]
def emptyIn (s : State) (key lo n : Nat) : Bool :=
  s.mem.all (fun c => decide (c.1 < lo) || decide (lo + n ≤ c.1)) && decide (s.keyOf = []) && decide (s.keyIn key = 0)
theorem get_unlisted {α : Type} (x : α) : ∀ (t : Table α) (a : Nat), (∀ c ∈ t, c.1 ≠ a) → Table.get x t a = x := by
  intro t a h
  induction t with
  | nil => rfl
  | cons c r ih => rw [Table.get, if_neg (h c (by simp)), ih (fun c hc => h c (by simp [hc]))]
theorem words64_zeros : ∀ n, words64 n (List.replicate (8 * n) 0) = List.replicate n 0 := by
  intro n
  induction n with
  | zero => rfl
  | succ n ih =>
    rw [words64, show 8 * (n + 1) = 8 + 8 * n from by omega, List.replicate_add, List.take_left' (by simp), List.drop_left' (by simp), ih, List.replicate_succ]
    congr 1
theorem words64_append : ∀ m n (xs ys : List Byte), xs.length = 8 * m → words64 (m + n) (xs ++ ys) = words64 m xs ++ words64 n ys := by
  intro m
  induction m with
  | zero => intro n xs ys h; simp at h; subst h; simp [words64]
  | succ m ih =>
    intro n xs ys h
    rw [Nat.succ_add, words64, words64, List.take_append_of_le_length (by omega), List.drop_append_of_le_length (by omega),
      ih n _ ys (by simp; omega), List.cons_append]
theorem loadBytes_length (s : State) (key : Nat) : ∀ n pa, (s.loadBytes pa key n).length = n := by
  intro n
  induction n with
  | zero => intro pa; rfl
  | succ n ih => intro pa; simp [State.loadBytes, ih]
theorem page_words {s : State} {key pa : Nat} (h : emptyIn s key (pa + 144) 3952 = true) :
    words64 512 (s.loadBytes pa key 4096) = words64 18 (s.loadBytes pa key 144) ++ List.replicate 494 0 := by
  simp only [emptyIn, Bool.and_eq_true, decide_eq_true_eq, List.all_eq_true, Bool.or_eq_true] at h
  obtain ⟨⟨hm, hk⟩, hi⟩ := h
  have hz : s.loadBytes (pa + 144) key 3952 = List.replicate 3952 0 := by
    apply loadBytes_zeros
    intro k hk'
    have hb : s.blockKey ((pa + 144 + k) / 64) = 0 := by rw [State.blockKey, hk]; rfl
    simp only [State.loadByte, hb, hi, if_true]
    exact get_unlisted _ _ _ (fun c hc he => by have := hm c hc; omega)
  rw [show (4096 : Nat) = 144 + 3952 from rfl, loadBytes_append, hz, show (512 : Nat) = 18 + 494 from rfl,
    words64_append 18 494 _ _ (loadBytes_length s key 144 pa), show (3952 : Nat) = 8 * 494 from rfl, words64_zeros]
theorem getD_append_zeros (xs : List Nat) (n i : Nat) : (xs ++ List.replicate n 0).getD i 0 = xs.getD i 0 := by
  rw [List.getD_eq_getElem?_getD, List.getD_eq_getElem?_getD, List.getElem?_append]
  split
  · rfl
  · rename_i h
    rw [List.getElem?_eq_none (by omega : xs.length ≤ i), List.getElem?_replicate]
    split <;> rfl
theorem words64_length : ∀ n xs, (words64 n xs).length = n := by
  intro n
  induction n with
  | zero => intro xs; rfl
  | succ n ih => intro xs; simp [words64, ih]
theorem desc_append (a w : Nat) (xs : List Nat) (n : Nat) (hl : xs.length = 18) :
    descBad a w (xs ++ List.replicate n 0) = descBad a w xs ∧ descOf a w (xs ++ List.replicate n 0) = descOf a w xs := by
  constructor
  · simp only [descBad, getD_append_zeros]
    congr 1
    rw [List.drop_left' hl, List.drop_of_length_le (by omega)]
    simp
  · simp only [descOf, getD_append_zeros]
/-- A world can be read, and a test holds of the state after it and the world's descriptor. -/
def worldB (s : State) (who : Who) (w : Nat) (g : State → WorldDesc → Bool) : Bool :=
  okB (s.readVal who ((s.ctxAt who.asid).worlds.toNat + 8 * w) 8) (fun t1 a => decide (a ≠ 0) &&
    okB (t1.reach who accRead [(a, 4096)]) (fun t2 p => match p with
      | [(.here pa key, 4096)] =>
        let v := (words64 18 (t2.loadBytes pa key 144)).map BitVec.toNat
        emptyIn t2 key (pa + 144) 3952 && !descBad a w v && g t2 (descOf a w v)
      | _ => false))
theorem world_of {s : State} {who : Who} {w : Nat} {g : State → WorldDesc → Bool} (h : worldB s who w g = true) :
    ∃ t d, s.worldDesc who w = .ok t (.world d) ∧ g t d = true := by
  obtain ⟨t1, a, h1, h⟩ := okB_of h
  simp only [Bool.and_eq_true, decide_eq_true_eq] at h
  obtain ⟨ha, h⟩ := h
  obtain ⟨t2, p, h2, h⟩ := okB_of h
  split at h
  · rename_i pa key
    simp only [Bool.and_eq_true, Bool.not_eq_true'] at h
    obtain ⟨⟨he, hb⟩, hg⟩ := h
    refine ⟨t2, _, ?_, hg⟩
    have hd := desc_append a w ((words64 18 (t2.loadBytes pa key 144)).map BitVec.toNat) 494 (by simp [words64_length])
    have hw : (words64 512 (t2.loadBytes pa key 4096)).map BitVec.toNat =
        (words64 18 (t2.loadBytes pa key 144)).map BitVec.toNat ++ List.replicate 494 0 := by
      rw [page_words he, List.map_append, List.map_replicate]; rfl
    simp only [State.worldDesc, h1, Got.bind, ha, if_false, State.partBytes, h2, State.segBytes, Option.map_some, List.append_nil, hw, hd.1, hd.2, hb, Bool.false_eq_true, if_false]
  · simp at h
/-- World 0 of context 1 at 0x4000, with one type, one bundle and one slot, all its tables at address 0; one of its 16 cursors open, or all. -/
def peopled (strict out : Nat) (open_ : List Nat) (s : State) : State :=
  words { s with ctxs := Table.set s.ctxs 1 { s.ctxAt 1 with worlds := 0x10000 } }
    ([(0x8000, 4096 * strict), (0x8018, 1), (0x8028, 1), (0x8038, 1), (0x8060, out), (0x8070, 1), (0x8080, 0x20000), (0x10000, 0x8000)] ++ open_.map (fun k => (0x20000 + 512 * k, 1)))
def folk : State := peopled 0 32 [3] base
def asQuery (s : State) : State := onL s (fun l => { l with kind := .query })
/-- A handle of world 0 with a mark that its slot has not, in every lane. -/
def strangers (strict : Nat) : State := pairs (guarded (peopled strict 32 [] base) 1) 4 (fun _ => 0x100000000)
def looked (x : Ans (List (Nat × W64 × Bool))) : Option Trap := match x with
  | .val _ => none
  | .trap t _ => some t
def opened (x : Option (Option (WorldDesc × Query × Nat × Cursor))) : Nat := match x with
  | none => 0
  | some none => 1
  | some (some _) => 2
theorem test_witness_WorldLooks :
    (base.Admits acceptGX [vd .a 2 2, vbase .b 4] ∧ base.full = false ∧
      okB ((base.looks (fun L => (base.valueAt intConsts [vd .a 2 2, vbase .b 4] .b L).toNat) (Lanes.list base.act)).atomic base base.who.waiter)
        (fun _ x => (looked x).isNone) = true) ∧
    ((strangers 1).Admits acceptGX [vd .a 2 2, vbase .b 4] ∧ Lanes.list (strangers 1).act = [0] ∧
      (strangers 1).valueAt intConsts [vd .a 2 2, vbase .b 4] .b 0 = 0x100000000) ∧
    (∃ t d, (strangers 1).worldDesc (strangers 1).who (handleWorld 0x100000000) = .ok t (.world d) ∧
      (d.strict && okB (t.slotAt t.who d (handleSlot 0x100000000)) (fun _ e => decide (e.mark ≠ handleMark 0x100000000)) && decide (handleSlot 0x100000000 < d.cap) &&
        decide (d.cap ≤ handleSlot 0x100000001)) = true) ∧
    okB (folk.worldDesc folk.who 3) (fun _ x => match x with
      | .undefined => true
      | _ => false) = true := by
  refine ⟨?_, ?_, world_of ?_, ?_⟩ <;> (repeat' apply And.intro) <;> decide +kernel
/-- A workgroup of a query whose first lane posts, into an outbox in host memory. -/
def poster : State := guarded (asQuery (words folk [(0x3010, 2 ^ 60 + 0x1DF), (0x8058, 0x80000000)])) 1
theorem test_witness_WorldInstructions :
    (folk.Admits acceptAll [sd .a 8, ss .b 4] ∧ folk.full = false ∧ folk.act ≠ 0 ∧ refWorld (folk.valueAt intConsts [sd .a 8, ss .b 4] .b 0) = 0 ∧
      (scal folk [(4, 0x30001)]).Admits acceptAll [sd .a 8, ss .b 4] ∧ refWorld 0x30001 = 3) ∧
    (∃ t d, folk.worldDesc folk.who 0 = .ok t (.world d) ∧ (decide (refBundle 0 < d.nbundles) && decide (d.nbundles ≤ refBundle 1) && decide ((folk.imm32 0).toNat < d.ntypes) &&
      okB (t.readVal t.who (d.bundles + 8) 8) (fun v cols => okB (v.readVal v.who cols 8) (fun _ _ => true))) = true) ∧
    (folk.Admits acceptGX [sblock .a 8 2, ss .b 4] ∧ (scal folk [(4, 256)]).Admits acceptGX [sblock .a 8 2, ss .b 4] ∧
      (scal folk [(4, 256)]).valueAt intConsts [sblock .a 8 2, ss .b 4] .b 0 = 256) ∧
    (folk.openRows 0 = 256 ∧ okB (folk.openCursor folk.who 1 256) (fun _ x => decide (opened x = 0)) = true) ∧
    (folk.Admits acceptGX [sblock .a 8 3, ss .b 4] ∧ (scal folk [(4, 4096)]).Admits acceptGX [sblock .a 8 3, ss .b 4] ∧
      folk.Admits acceptGX [ss .b 4] ∧ folk.Admits acceptAll [sd .a 8, ss .b 4, ss .c 5]) ∧
    (∃ t d, folk.worldDesc folk.who (3 / 16) = .ok t (.world d) ∧ (okB (t.cursorAt t.who d (2 % 16)) (fun v c => !c.open_ &&
        okB (v.putCursor v.who { c with open_ := false, list := [] }) (fun _ _ => true)) &&
      okB (t.cursorAt t.who d (3 % 16)) (fun v c => c.open_ && okB (v.queryAt v.who c.query) (fun x q => match q with
        | some q => okB (x.nextRange x.who d q (d.nbundles + 1) c) (fun y r => okB (y.putCursor y.who r.1) (fun _ _ => true))
        | none => false))) = true) ∧
    (base.launch.kind ≠ .query ∧ (asQuery folk).launch.kind = .query ∧ (asQuery folk).g.parcel = none ∧
      (asQuery folk).Admits acceptAll [postReg .b 4 1, postReg .c 6 2] ∧ (asQuery folk).Admits acceptGX [postReg .b 4 2] ∧
      (asQuery folk).Admits acceptAll [vs .a 3 1, postReg .b 4 2, postReg .c 6 2] ∧ (asQuery folk).Admits acceptGX [vs .a 3 1, postReg .b 4 2] ∧
      (∀ L, L < 32 → (asQuery folk).act.getLsbD L = true → ((asQuery folk).valueAt intConsts [postReg .b 4 1, postReg .c 6 2] .c L).toNat % 8 = 0)) ∧
    (∃ t d, poster.worldDesc poster.who 0 = .ok t (.world d) ∧ (decide (d.posted + Lanes.count poster.act ≤ d.outCap) && decide (poster.act ≠ 0) &&
      !t.officeDenies poster.who 0 && okB (t.postAll 1 d ((Lanes.list poster.act).map (fun L =>
        ({ rank := 0, launch := 0, index := L, seq := 0, kind := .wdel, target := 0, typ := 0, addr := 0 } : Post)))) (fun _ _ => true)) = true) ∧
    (globalRef 0 = true ∧ globalRef 8 = false ∧ ¬ (folk.launch.kind = .query ∧ folk.launch.world = 0)) := by
  refine ⟨?_, world_of ?_, ?_, ?_, ?_, world_of ?_, ?_, world_of ?_, ?_⟩ <;> (repeat' apply And.intro) <;> decide +kernel
/-- A queue whose packet has started something, and what that has come to. -/
def startedAt (s : State) (ws : List W64) (n : Nat) : State := onQueue (packet s ws []) 3 (fun x => { x with started := some n })
def piped : State := { base with pipes := [(5, { queue := 3, asid := 1, record := 0x24000, ended := true })] }
theorem test_witness_PacketsThatWait :
    (∃ t, (startedAt base [1, 0x20000] 1).AtIssue t 3 1 (fetched [1, 0x20000] []) [] ∧
      (decide ((t.queueAt 3).started = some 1) && decide ((t.launchAt 1).phase ≠ .submitted)) = true) ∧
    (∃ t, (startedAt folk [8, 0] 0).AtIssue t 3 8 (fetched [8, 0] []) [] ∧
      (decide ((t.queueAt 3).started = some 0) && decide (0 ≤ (t.worldAt (t.queueAt 3).asid 0).ended)) = true) ∧
    (∃ t, (packet folk [8, 0] []).AtIssue t 3 8 (fetched [8, 0] []) [] ∧ (decide ((t.queueAt 3).started = none) &&
      worldB t (t.queueWho 3) 0 (fun v _ => !v.officeDenies (v.queueWho 3) 0)) = true) ∧
    (∃ t, (startedAt piped [9, 0x24000] 5).AtIssue t 3 9 (fetched [9, 0x24000] []) [] ∧
      (decide ((t.queueAt 3).started = some 5) && (match Table.find t.pipes 5 with
        | some y => y.ended
        | none => false)) = true) := by
  refine ⟨atIssue_of ?_, atIssue_of ?_, atIssue_of ?_, atIssue_of ?_⟩ <;> decide +kernel
/-- A cursor can be opened and written, or all cursors of the world are open. -/
def openB (s : State) (who : Who) (q rows : Nat) (all : Bool) : Bool :=
  okB (s.queryAt who q) (fun t1 x => match x with
    | none => false
    | some x => worldB t1 who x.world (fun t2 d => okB (t2.closedCursor who d (List.range 16)) (fun t3 k => match k with
      | none => all
      | some (_, c) => !all && okB (t3.putCursor who
        { c with open_ := true, opened := d.coll, query := q, next := 0, bundle := 0, fwd := false, done := false, rows := rows, list := [] }) (fun _ _ => true))))
theorem open_of {s : State} {who : Who} {q rows : Nat} {all : Bool} (h : openB s who q rows all = true) :
    ∃ t x, s.openCursor who q rows = .ok t (some x) ∧ x.isNone = all ∧ ∀ y, x = some y → ∃ v, t.putCursor who y.2.2.2 = .ok v () := by
  obtain ⟨t1, x, h1, h⟩ := okB_of h
  split at h
  · simp at h
  · rename_i x
    obtain ⟨t2, d, h2, h⟩ := world_of h
    obtain ⟨t3, k, h3, h⟩ := okB_of h
    split at h
    · exact ⟨t3, none, by simp only [State.openCursor, h1, h2, h3, Got.bind], by simp [← h], by simp⟩
    · rename_i k c
      simp only [Bool.and_eq_true, Bool.not_eq_true'] at h
      obtain ⟨ha, h⟩ := h
      obtain ⟨t4, _, h4⟩ := ok_of' h
      exact ⟨t3, some (d, x, k,
        { c with open_ := true, opened := d.coll, query := q, next := 0, bundle := 0, fwd := false, done := false, rows := rows, list := [] }),
        by simp only [State.openCursor, h1, h2, h3, Got.bind], by simp [ha], by rintro _ ⟨⟩; exact ⟨t4, h4⟩⟩
theorem test_witness_WorldCursors :
    (∃ t x, folk.openCursor folk.who 0 256 = .ok t (some x) ∧ x.isNone = false ∧ ∀ y, x = some y → ∃ v, t.putCursor folk.who y.2.2.2 = .ok v ()) ∧
    (∃ t x, (peopled 0 32 (List.range 16) base).openCursor base.who 0 256 = .ok t (some x) ∧ x.isNone = true ∧
      ∀ y, x = some y → ∃ v, t.putCursor base.who y.2.2.2 = .ok v ()) := ⟨open_of (by decide +kernel), open_of (by decide +kernel)⟩

/-- The world's state in the office: requests, posts, and bundles to compact. -/
def office (s : State) (rs : List W64) (ps : List Post) (cs : List Nat) : State := s.setWorld 1 0 { WorldState.blank with requests := rs, requested := rs.length, posts := ps, compact := cs }
/-- Three rows of which the second is a tombstone; one bundle with its slot column at 0x30000. -/
def rowed (count : Nat) (tomb : Nat) : State := office (words folk [(0x8020, 0x18000), (0x18010, 0x19000), (0x18018, count), (0x19000, tomb * 0xFFFFFFFF)]) [] [] [0]
def desc0 : WorldDesc := descOf 0x8000 0 [0, 0, 0, 1, 0x18000, 1, 0x18100, 2, 0, 0, 0, 0, 32, 0, 1, 0, 0x20000, 0]
def coll0 (gone : List Nat) : Collecting := { desc := desc0, gone := gone }
def post0 (k : PostKind) (target typ : Nat) : Post := { rank := 0, launch := 0, index := 0, seq := 0, kind := k, target := BitVec.ofNat 64 target, typ := BitVec.ofNat 32 typ, addr := 0x30000 }
/-- Slot 0 is that of row 0 of bundle 0, with a mark. -/
def slotted (mark : Nat) : State := words folk [(0x18000, 0x18080), (0x18008, 0x18180), (0x18010, 0x19000), (0x18018, 1), (0x18020, 1), (0x18080, 1), (0x18100, mark + 2 ^ 24), (0x18180, 0x1A000)]
def actB (s : State) (p : Post) (g : State → Slot → Bundle → Bool) : Bool :=
  okB (s.currentSlot (officeWho 1 0 0) desc0 p.target.toNat) (fun t o => match o with
    | none => false
    | some e => okB (t.bundleAt (officeWho 1 0 0) desc0 e.bundle) (fun v b => g v e b))
def workB (s : State) (done : Bool) : Bool := worldB s (officeWho 1 0 0) 0 (fun t d => okB (t.compactIn (officeWho 1 0 0) d 0) (fun t b => decide (b.1 = done) &&
  (!done || worldB t (officeWho 1 0 0) 0 (fun _ _ => true))))
theorem work_of {s : State} {done : Bool} (h : workB s done = true) : ∃ t n, s.compactStep 1 0 0 = .ok t (done, n) ∧ (done = true → ∃ v r, t.compactEnd 1 0 = .ok v r) := by
  obtain ⟨t, d, h1, h⟩ := world_of h
  obtain ⟨t2, b, h2, h⟩ := okB_of h
  simp only [Bool.and_eq_true, decide_eq_true_eq, Bool.or_eq_true, Bool.not_eq_true'] at h
  obtain ⟨rfl, h⟩ := h
  refine ⟨t2, if d.cbar = 0 then 0 else b.2, by simp only [State.compactStep, h1, Got.bind, h2], fun hb => ?_⟩
  obtain ⟨t3, d3, h3, _⟩ := world_of (h.resolve_left (by simp [hb]))
  exact ⟨t3, d3.cbar, by simp only [State.compactEnd, h3, Got.bind]⟩
theorem collection_of {s : State} (h : worldB s (officeWho 1 0 0) 0 (fun t d => okB (t.collect (officeWho 1 0 0) d (t.worldAt 1 0)) (fun _ _ => true)) = true) :
    ∃ t n, s.collectionOf 1 0 = .ok t n := by
  obtain ⟨t, d, h1, h⟩ := world_of h
  obtain ⟨t2, _, h2⟩ := ok_of' h
  exact ⟨t2, d.nbundles, by simp only [State.collectionOf, h1, Got.bind, h2]⟩
theorem unpaused_of {s : State} (hw : (s.worldAt 1 0).work ≠ .collect)
    (h : worldB s (officeWho 1 0 0) 0 (fun t d => okB (t.bundleAt (officeWho 1 0 0) d 0) (fun _ b => !s.writersOf 1 0 b.set)) = true) :
    s.compactPaused 1 0 0 = false := by
  obtain ⟨t, d, h1, h⟩ := world_of h
  obtain ⟨t2, b, h2, h⟩ := okB_of h
  simp only [State.compactPaused, hw, decide_false, Bool.false_or, h1, Got.bind, h2]
  simpa using h
theorem test_witness_WorldEvents :
    (let s := office folk [0] [] []
     (s.worldAt 1 0).requests = [0] ∧ s.phaseBusy 1 0 = false ∧ s.officeParked 1 0 = false) ∧
    (∃ t n, (office folk [0] [] []).collectionOf 1 0 = .ok t n) ∧
    (let s := folk.setWorld 1 0 { WorldState.blank with owed := [0] }
     (s.worldAt 1 0).owed = [0] ∧ s.officeParked 1 0 = false ∧ s.unperformedBy (.office 1 0) = false ∧ okB (s.arriveOnce (officeWho 1 0 0) 0 0) (fun _ _ => true) = true) ∧
    ((folk.worldAt 1 0).requests = [] ∧ (folk.worldAt 1 0).owed = []) ∧
    (let d := { desc0 with quar := 1 }
     okB ((words folk [(0, 0x200000000)]).slotAt (officeWho 1 0 0) { d with slots := 0x18100 } 0) (fun _ e => decide (¬ (e.state = 2 ∧ (e.num + d.quar) % 2 ^ 32 = (d.coll + 1) % 2 ^ 32))) = true ∧
     okB ((words folk [(0x18100, 2 * 2 ^ 24)]).slotAt (officeWho 1 0 0) { d with slots := 0x18100 } 0) (fun t e => decide (e.state = 2 ∧ (e.num + d.quar) % 2 ^ 32 = (d.coll + 1) % 2 ^ 32) &&
       okB (t.putSlot (officeWho 1 0 0) { d with slots := 0x18100 } 0 { e with state := 0 }) (fun a _ => okB (a.writeVal (officeWho 1 0 0) (d.free + 4 * (d.tail % d.cap)) 4 0) (fun b _ =>
         okB (b.writeVal (officeWho 1 0 0) (d.addr + 0x50) 8 (d.tail + 1)) (fun _ _ => true)))) = true) ∧
    (∀ reason ∈ [1, 2, 3, 4, 7], okB (folk.writeVal (officeWho 1 0 0) (desc0.log + 32 * (desc0.written % desc0.logCap)) 32 (logEntry (desc0.coll + 1) (post0 .wdel 0 0) reason))
      (fun t _ => okB (t.writeVal (officeWho 1 0 0) (desc0.addr + 0x78) 8 (desc0.written + 1)) (fun _ _ => true)) = true) ∧
    (refWorld (post0 .wnew 0x10000 0).target ≠ desc0.num ∧ refWorld (post0 .wnew 1 0).target = desc0.num ∧ desc0.nbundles ≤ refBundle (post0 .wnew 1 0).target ∧
      refBundle (post0 .wnew 0 0).target < desc0.nbundles ∧ desc0.tail = desc0.head ∧ handleWorld (post0 .wdel (2 ^ 56) 0).target.toNat ≠ desc0.num ∧
      handleWorld (post0 .wdel 5 0).target.toNat = desc0.num ∧ (post0 .wdel 5 0).target.toNat ∈ (coll0 [5]).gone ∧ desc0.cap ≤ handleSlot (post0 .wdel 5 0).target.toNat) ∧
    (∀ m ∈ [0, 0xFFFFFF], actB (slotted m) (post0 .wdel (2 ^ 32 * m) 0) (fun v e bn =>
      okB (v.writeVal (officeWho 1 0 0) (bn.slotCol + 4 * e.row) 4 0xFFFFFFFF) (fun s1 _ => okB (s1.writeVal (officeWho 1 0 0) (bn.addr + 24) 4 bn.count) (fun s2 _ =>
        okB (s2.writeVal (officeWho 1 0 0) (bn.addr + 32) 4 (bn.live - 1)) (fun s3 _ => okB (s3.putSlot (officeWho 1 0 0) desc0 0 { e with state := 3 }) (fun _ _ => decide (e.mark = m)))))) = true) ∧
    actB (slotted 0) (post0 .wadd 0 0) (fun v e bn => bn.set.testBit 0 && okB (v.putValue (officeWho 1 0 0) desc0 bn 0 e.row 0x30000) (fun _ _ => true)) = true ∧
    actB { slotted 0 with mem := Memory.write (slotted 0).mem 0x18080 2 } (post0 .wrem 0 0) (fun _ _ bn => !bn.set.testBit 0) = true ∧
    (∀ c ∈ [(2, 1, false), (1, 0, true)], let s := rowed c.1 c.2.1
      (s.worldAt 1 0).compact = [0] ∧ s.officeParked 1 0 = false ∧ s.compactPaused 1 0 0 = false ∧
        ∃ t n, s.compactStep 1 0 0 = .ok t (c.2.2, n) ∧ (c.2.2 = true → ∃ v r, t.compactEnd 1 0 = .ok v r)) := by
  refine ⟨?_, collection_of ?_, ?_, ?_, ?_, ?_, ?_, ?_, ?_, ?_, ?_⟩
  · (repeat' apply And.intro) <;> decide +kernel
  · decide +kernel
  · (repeat' apply And.intro) <;> decide +kernel
  · (repeat' apply And.intro) <;> decide +kernel
  · (repeat' apply And.intro) <;> decide +kernel
  · decide +kernel
  · (repeat' apply And.intro) <;> decide +kernel
  · decide +kernel
  · decide +kernel
  · decide +kernel
  · intro c hc
    rcases List.mem_pair.1 hc with rfl | rfl <;> exact ⟨by decide +kernel, by decide +kernel, unpaused_of (by decide +kernel) (by decide +kernel), work_of (by decide +kernel)⟩
/-- A parcel of launch 1 in the queue of core 0; a completed parcel whose counter at 0x26000 is n, with a successor at 0x26040. -/
def parcels0 : State := (base.setCtx 1 { base.ctxAt 1 with slots := 4 }).setCoreAt 0 { base.coreAt 0 with parcels := [⟨1, 1, 0x20000, [0x10000, 0, 0, 0, 0, 0, 0, 0]⟩] }
def completed (counter : W64) (n : Nat) : State :=
  onG (words base [(0x26000, n), (0x26008, 0x26040), (0x26040, 0x10000)]) (fun g => { g with phase := .done, parcel := some [0x10000, 0, 0, counter, 0, 0, 0, 0] })
/-- Pipeline 9 of one stage, whose queue has four entries or none. -/
def staged (n : Nat) : State :=
  { words (stageQ 0 0 0 n) [(0x24000, 1), (0x24008, 0x24100), (0x24100, 0x20000), (0x24108, 0x27000), (0x24110, 4)] with
    pipes := [(9, { queue := 3, asid := 1, record := 0x24000, ended := false })] }
def stageEnded : State := { (staged 4) with launches := Table.set (staged 4).launches 5 { Launch.blank with asid := 1, kind := .stage 9 0, phase := .ended, ranges := [(0x20000, 0, 4)] } }
theorem test_witness_ParcelsAndStages :
    ((parcels0.coreAt 0).parcels ≠ [] ∧ parcels0.admitted (parcels0.parcelGroup ⟨1, 1, 0x20000, [0x10000, 0, 0, 0, 0, 0, 0, 0]⟩) = true ∧
      parcels0.roomOn 0 (parcels0.launchAt 1) = true ∧ (parcels0.warpSlots 0).length + (parcels0.launchAt 1).nwarps ≤ 64) ∧
    (((completed 0 0).wgAt 1).phase = .done ∧ (completed 0 0).faults.any (fun x => x.2.waiters.contains (.parcel 1)) = false ∧
      okB (((completed 0x26000 2).countDown ((completed 0x26000 2).parcelWho 1) 0x26000).atomic (completed 0x26000 2) (.parcel 1)) (fun _ x => x.isNone) = true ∧
      okB (((completed 0x26000 1).countDown ((completed 0x26000 1).parcelWho 1) 0x26000).atomic (completed 0x26000 1) (.parcel 1))
        (fun t x => x.isSome && decide ((t.coreAt 0).parcels.length < 256)) = true) ∧
    ((⟨0, 5, 1, 2⟩ : ParcelMove) ∈ { parcels0 with moves := [⟨0, 5, 1, 2⟩] }.moves ∧ 0 ≠ 5) ∧
    (∀ n ∈ [0, 4], (staged n).pipeParked 9 = false ∧ (staged n).ctxRuns 1 = true ∧
      okB (((staged n).managePipe 9 { queue := 3, asid := 1, record := 0x24000, ended := false }).atomic (staged n) (.pipeline 9)) (fun _ b => decide (b = decide (n = 0))) = true) ∧
    ((stageEnded.launchAt 5).phase = .ended ∧ (stageEnded.launchAt 5).ranges ≠ [] ∧ { stageEnded with pipes := [] }.pipeParked 9 = false ∧
      okB ({ stageEnded with pipes := [] }.settleStage 5 9) (fun v _ => (Table.find v.pipes 9).isNone) = true) := by
  refine ⟨?_, ?_, ?_, ?_, ?_⟩
  pick_goal 4
  · intro n hn
    rcases List.mem_pair.1 hn with rfl | rfl <;> ((repeat' apply And.intro) <;> decide +kernel)
  all_goals (repeat' apply And.intro) <;> decide +kernel

/-- Lane 0 on a frame of object 7 in a routine; its descriptor at 0x28000 has frames of 8 bytes, fanout 2, depth 4 and a stack of 64 bytes. -/
def recDesc : List (Nat × Nat) :=
  [(0x28000, 0x10000), (0x28008, 0x10000), (0x28010, 0x10000), (0x28018, 0x28100), (0x28020, 8 + 2 ^ 13 + 4 * 2 ^ 16 + 2 * 2 ^ 32), (0x28028, 64),
   (0x28030, 0x29000), (0x28038, 4096), (0x28040, 0x2A000), (0x28048, 0x2A008), (0x28100, 0x10000), (0x28108, 16), (0x4010, 2 ^ 40), (0x4020, 31 * 2 ^ 32)]
def recWords : List W64 := ([0x10000, 0x10000, 0x10000, 0x28100, BitVec.ofNat 64 (8 + 2 ^ 13 + 4 * 2 ^ 16 + 2 * 2 ^ 32), 64, 0x29000, 4096, 0x2A000, 0x2A008] ++ List.replicate 22 0).take 32
def object (p : RecPhase) : RecObj :=
  { die := 0, asid := 1, seq := 0, desc := 0x28000, words := recWords, phase := p, arena := 1, made := 1, levels := [0, 1, 1], base := some base.launch, dead := false, ends := [],
    launch := some 5, frames := [], queue := none }
def ofObject (p : RecPhase) : State :=
  let s := words base recDesc
  ((s.setCtx 1 { s.ctxAt 1 with rcb := 0x4000, pool := 0x3000000 }).setObj 7 (object p)).setLaunch 5 { base.launch with kind := .routine 7, phase := .ended }
def frame0 (r : Nat) : LaneFrame := { LaneFrame.blank with obj := 7, routine := r }
def inFrame (f : LaneFrame) : State := onL (onW (guarded (ofObject (.divide 0)) 1) (fun w => { w with frames := [(0, f)] })) (fun l => { l with kind := .routine 7, scratch := 128 })
def plainFrame (f : LaneFrame) : State := onFrame (onU (onW (inFrame f) (fun w => { w with live := 1 })) (fun u => { u with lanes := 1 })) Framing.blank
theorem test_witness_RecursionInstructions :
    ((plainFrame (frame0 0)).inRoutine = true ∧ base.inRoutine = false ∧ (scal base [(5, 0x28000)]).Admits acceptNone [sd .a 4, ss .b 5] ∧
      (scal base [(5, 0x28080)]).Admits acceptNone [sd .a 4, ss .b 5] ∧ 0x28080 % 256 ≠ 0 ∧ base.objsOn 0 < 4 ∧
      4 ≤ { base with objs := (List.range 4).map (fun k => (k, object .start)) }.objsOn 0) ∧
    (base.notRoutine [0] = true ∧ (plainFrame (frame0 0)).notRoutine [0] = false ∧ (plainFrame (frame0 0)).act ≠ 0 ∧
      (plainFrame (frame0 0)).Admits acceptI [vd .a 2 1, voff .b 4]) ∧
    (let s := plainFrame (frame0 0)
     s.splitTrap (s.objAt 7) (fun _ => 0) = none ∧ s.splitTrap (s.objAt 7) (fun _ => 2) = some (.misalign, 0) ∧
       okB (s.reachLanes s.who accRead (s.scratchRuns (fun _ => 0) 8)) (fun t ps => (t.laneBytes ps).isSome) = true) ∧
    ((plainFrame { frame0 0 with leaf := true }).splitTrap (object .start) (fun _ => 0)).isSome = true ∧
    ((plainFrame (frame0 0)).Admits acceptNone [] ∧ (Lanes.list (plainFrame { frame0 0 with made := [[1]] }).act).any (fun L => !((plainFrame { frame0 0 with made := [[1]] }).w.frameAt L).made.isEmpty) = true ∧
      (Lanes.list (plainFrame (frame0 0)).act).any (fun L => !((plainFrame (frame0 0)).w.frameAt L).made.isEmpty) = false) ∧
    ((plainFrame (frame0 2)).Admits acceptNone [vd .a 2 2] ∧ (plainFrame (frame0 2)).notRoutine [2] = false ∧ (plainFrame (frame0 1)).Admits acceptNone [vdata .b 4 2] ∧
      (plainFrame (frame0 1)).notRoutine [1, 2] = false ∧ (plainFrame (frame0 1)).Admits acceptNone [vd .a 2 1] ∧ (plainFrame (frame0 1)).notRoutine [0, 1, 2] = false ∧
      base.notRoutine [2] = true ∧ base.notRoutine [1, 2] = true ∧ base.notRoutine [0, 1, 2] = true) := by
  (repeat' apply And.intro) <;> decide +kernel
/-- The ends of an object: its status store and its arrival. -/
def endsB (a : State) : Bool :=
  let e := a.forget (.recursion 7)
  okB ((e.recFinal 7).atomic e (.recursion 7)) (fun p _ => okB ((p.recFinal 7).atomic p (.recursion 7)) (fun _ _ => true))
def isOkB {α β : Type} (x : Except α β) : Bool := match x with
  | .ok _ => true
  | .error _ => false
def baseB (s : State) (g : State → Launch → Bool) : Bool :=
  okB (s.recBase (recWho (object .start) 7) 0x28100) (fun v r => match r with
    | .ok b => g v b
    | .error _ => false)
/-- The object as its routine launches find it. -/
def furnishedObj (b : Launch) : RecObj := { object .start with words := recWords, base := some b, arena := 1, levels := [0, 1] }
def runsNext (x : Next) : Bool := match x with
  | .run _ _ => true
  | .finish => false
theorem test_witness_RecursionEngine :
    (((ofObject .start).objAt 7).phase = .start ∧ ((ofObject .start).objAt 7).dead = false ∧ (ofObject .start).recParked 7 = false ∧ (ofObject .start).ctxRuns 1 = true ∧
      (ofObject .start).unperformedBy (.recursion 7) = false ∧
      okB ((ofObject .start).recRead 7 (object .start)) (fun t r => isOkB r && baseB t (fun v b => okB (v.recRoot 7 (furnishedObj b)) (fun x _ => baseB x (fun _ _ => true)))) = true ∧
      okB ((words (ofObject .start) [(0x28020, 0)]).recRead 7 (object .start)) (fun t r => !isOkB r && endsB ((t.setObj 7 (object .start)).recStop 7 2 0)) = true) ∧
    (∀ p ∈ [RecPhase.divide 0, .base 0, .depth 1, .combine 0, .combine 1], ((ofObject p).objAt 7).launch = some 5 ∧ ((ofObject p).launchAt 5).phase = .ended ∧
      ((ofObject p).launchAt 5).code = 0 ∧ (ofObject p).recParked 7 = false ∧
      okB ((ofObject p).recNext 7 (object p) ((ofObject p).framesOf 5 [])) (fun t x => (runsNext x.2 && baseB t (fun _ _ => true)) ||
        okB (t.rootResult 7 x.1) (fun v _ => endsB ((v.setObj 7 { x.1 with launch := none }).recStop 7 1 0))) = true) ∧
    (∀ p ∈ [RecPhase.divide 0, .depth 1, .combine 1], okB ((ofObject p).recNext 7 (object p) []) (fun _ x => runsNext x.2) = true) ∧
    okB ((ofObject (.combine 1)).putResults (recWho (object (.combine 1)) 7) recWords []) (fun t _ =>
      okB (t.framesWith (recWho (object (.combine 1)) 7) recWords true [0]) (fun _ _ => true)) = true ∧
    (((object .start).level 1).length = 0 ∧ (({ object .start with levels := [0, 1, 2] } : RecObj).level 1).length ≠ 0 ∧ recTarget recWords ≠ 0) ∧
    ((frame0 0).made = [] ∧ ({ frame0 0 with made := [[1]] } : LaneFrame).made = [[1]] ∧ (frame0 1).stack = [] ∧
      (let e : DepthEntry := { bytes := [], level := 0, child := 0, kids := [[1], [2]], results := [] }
       e.results.length + 1 < e.kids.length ∧ ({ e with results := [4] } : DepthEntry).kids.length ≤ ({ e with results := [4] } : DepthEntry).results.length + 1)) := by
  refine ⟨?_, ?_, ?_, ?_, ?_, ?_⟩
  · (repeat' apply And.intro) <;> decide +kernel
  · intro p hp
    fin_cases hp <;> ((repeat' apply And.intro) <;> decide +kernel)
  all_goals decide +kernel
def crooked4 : State := pairs base 4 (fun L => BitVec.ofNat 64 (0x20000 + 4 * L))
def atNode : State := pairs (guarded base 0x80000001) 4 (fun _ => 0x20000)
theorem vals_of {g : Got (Ans (List (Nat × Option (List W32))))} (h : okB g (fun _ x => match x with
    | .val _ => true
    | _ => false) = true) : ∃ t v, g = .ok t (.val v) := by
  obtain ⟨t, x, e, h⟩ := okB_of h
  cases x with
  | val v => exact ⟨t, v, e⟩
  | trap _ _ => simp at h
/-- A ray along the diagonal from the origin, and one along the third axis from (1/4, 1/4, 0). -/
def diagonal : List Nat := [0, 0, 0, 0x3F800000, 0x3F800000, 0x3F800000, 0, 0x40800000]
def axis : List Nat := [0x3E800000, 0x3E800000, 0, 0, 0, 0x3F800000, 0, 0x40800000]
theorem test_witness_RayAndTextureInstructions :
    (∀ n ∈ [128, 16, 64], crooked4.crookedLane (crooked4.renderAddr [vaddr 4] 4) n = some 1) ∧
    (crooked4.Admits acceptAll [vblock .a 8 8 1, vblock .b 16 8 1, vaddr 4] ∧ crooked4.Admits acceptAll [vblock .a 8 5 1, vblock .b 16 8 1, vaddr 4] ∧
      crooked4.Admits acceptAll [vblock .a 8 4 1, vblock .b 16 3 1, vaddr 4] ∧ atNode.full = false ∧
      atNode.Admits acceptAll [vblock .a 8 8 1, vblock .b 16 8 1, vaddr 4] ∧ atNode.Admits acceptAll [vblock .a 8 5 1, vblock .b 16 8 1, vaddr 4] ∧
      atNode.Admits acceptAll [vblock .a 8 4 1, vblock .b 16 3 1, vaddr 4] ∧ Lanes.list atNode.act = [0, 31]) ∧
    (∀ L ∈ [0, 31], atNode.renderAddr [vaddr 4] 4 L % 128 = 0) ∧
    (∃ t vals, (atNode.eachLane (fun s L => (s.partBytes (s.renderWho 4) (s.renderAddr [vaddr 4] 4 L) 128).bind (fun s bs =>
      .ok s (.val (some (boxResult (s.laneWords 16 8 L) (words32N bs 28)))))) (Lanes.list atNode.act)).atomic atNode atNode.who.waiter = .ok t (.val vals)) ∧
    (∃ t vals, (atNode.eachLane (fun s L => (s.partBytes (s.renderWho 4) (s.renderAddr [vaddr 4] 4 L) 48).bind (fun s bs =>
      .ok s (.val (triTake (s.laneWords 16 8 L) (s.laneWords 8 5 L) (words32N bs 11))))) (Lanes.list atNode.act)).atomic atNode atNode.who.waiter = .ok t (.val vals)) ∧
    (∃ t vals, (atNode.eachLane (fun s L => (s.partBytes (s.renderWho 3) (s.renderAddr [vaddr 4] 4 L) 16).bind (fun s bs =>
      let t := textureOf (bytesVal (bs.take 8)) (bytesVal (bs.drop 8))
      let x := s.laneWords 16 3 L
      if t.fmt = 3 then .ok s (.trap .illegalOp s.ir.toNat)
      else (s.filterLane t (x.getD 0 0) (x.getD 1 0) (x.getD 2 0)).bind (fun s r => .ok s (.val (some (r.map (BitVec.ofNat 32))))))) (Lanes.list atNode.act)).atomic
        atNode atNode.who.waiter = .ok t (.val vals)) ∧
    (boxHit diagonal [0, 0, 0] [0x3F800000, 0x3F800000, 0x3F800000] = some 0 ∧ (∀ i < 4, boxHit diagonal (((List.replicate 28 0x3F800000).drop (6 * i)).take 3) ((List.replicate 3 0)) = none)) ∧
    (triHit axis [0, 0, 0x3F800000, 0x3F800000, 0, 0x3F800000, 0, 0x3F800000, 0x3F800000] = some (0x3F800000, 0x3E800000, 0x3E800000) ∧ triHit axis (List.replicate 9 0) = none ∧
      spLt 0x3F800000 0x40000000 = true ∧ spLt 0x3F800000 0x3F800000 = false ∧ eqV (sp 0x3F800000) (sp 0x3E800000) = false) := by
  refine ⟨?_, ?_, ?_, vals_of ?_, vals_of ?_, vals_of ?_, ?_, ?_⟩ <;> (try (repeat' apply And.intro)) <;> decide +kernel

/-- A march descriptor at 0x20000 with a step of 1 and a queue at 0; a queue of two records with a sample, or none. -/
def marchDesc : List (Nat × Nat) := [(0x20008, 4 * 2 ^ 16), (0x20010, 0x3F800000 + 2 ^ 32 * 0x3F800000), (0x20018, 10 * 256), (0x20040, 1)]
def queueHead (s : State) (tail rays : Nat) : State := onG (pad s) (fun g => { g with spad := Memory.writeN [] 0 16 (2 + 2 ^ 64 * tail + 2 ^ 96 * rays) })
def marching (bad : Nat) : State := queueHead (pairs (guarded (words base (marchDesc ++ [(0x20028, bad)])) 1) 4 (fun _ => 0x20000)) 0 0
def marchWords : List W64 := [0, 4 * 2 ^ 16, BitVec.ofNat 64 (0x3F800000 + 2 ^ 32 * 0x3F800000), 10 * 256, 0, 0, 0, 0, 1, 0, 0, 0, 0, 0, 0, 0]
/-- A ray from the middle along the first axis, of length 1 or 0; in a grid whose one cell is set, or clear. -/
def ray (len : W32) : Ray := { wg := 1, desc := 0x20000, words := marchWords, vals := [0x3F000000, 0x3F000000, 0x3F000000, 0x3F800000, 0, 0, 0, len], t := 0, n := 0, tag := 0, held := none }
def flying (len : W32) (cell tail : Nat) : State :=
  let s := queueHead (words base [(0, cell)]) tail 1
  s.setCoreAt 0 { s.coreAt 0 with rays := [(3, ray len)] }
def turned (x : Option (Option Ray)) : Nat := match x with
  | none => 0
  | some none => 1
  | some (some _) => 2
theorem test_witness_RayMarching :
    ((marching 0).Admits acceptAll [vd .a 2 1, vblock .b 16 8 1, vaddr 4] ∧ Lanes.list (marching 0).act = [0] ∧ (marching 0).renderAddr [vd .a 2 1, vblock .b 16 8 1, vaddr 4] 4 0 = 0x20000 ∧
      (∀ bad ∈ [0, 1], let s := marching bad
        okB ((s.eachLane (fun s L => (s.partBytes (s.renderWho 3) 0x20000 128).bind (fun s bs =>
          if marchBad (words64 16 bs) then .ok s (.trap .illegalOp s.ir.toNat)
          else if s.queueOut (marchQueue (words64 16 bs)) then .ok s (.trap .misalign L)
          else .ok s (Ans.val (words64 16 bs)))) (Lanes.list s.act)).atomic s s.who.waiter) (fun _ x => match x with
            | .val _ => decide (bad = 0)
            | .trap _ _ => decide (bad = 1)) = true) ∧
      (marching 0).core.rays.length + Lanes.count (marching 0).act ≤ 1024 ∧ (marching 0).g.present 0 128 = true ∧
      (onG (marching 0) (fun g => { g with absent := [0] })).g.present 0 128 = false) ∧
    (∀ x ∈ [(0, 1), (1, 1), (0, 0)], let s := scal (queueHead base x.1 x.2) [(5, 0)]
      s.Admits acceptAll [sblock .a 8 3, ss .b 5] ∧ (s.imm32 2).toNat ≠ 0 ∧ s.act ≠ 0 ∧ 0 + 128 ≤ s.spadSize s.g ∧ s.full = false ∧ s.g.present 0 128 = true ∧
        s.u.frame.imm.isSome = false ∧ (s.g.header 0 2 + 2 ^ 32 - (s.g.header 0 1 + (s.core.queueOf 1 0).batch) % 2 ^ 32) % 2 ^ 32 = x.1 ∧ s.g.header 0 3 = x.2) ∧
    ((scal (pad base) [(5, 64)]).Admits acceptAll [sblock .a 8 3, ss .b 5] ∧ (scal (pad base) [(5, BitVec.ofNat 64 (2 ^ 19))]).Admits acceptAll [sblock .a 8 3, ss .b 5]) ∧
    (∀ x ∈ [(0x3F800000#32, 1, 0), (0x3F800000, 0, 0), (0x3F800000, 1, 2), (0, 1, 0)], let s := flying x.1 x.2.1 x.2.2
      Table.find (s.coreAt 0).rays 3 = some (ray x.1) ∧ (s.wgAt 1).phase = .resident ∧ (ray x.1).held = none ∧
        okB ((s.marchTurn 0 3 (ray x.1)).atomic s (.ray 0 3)) (fun _ y => decide (turned y = if x.1 = 0 then 1 else if x.2.2 = 2 then 0 else 2)) = true) ∧
    (spLt (ray 0).t.toNat ((ray 0).vals.getD 7 0).toNat = false ∧ spLt (ray 0x3F800000).t.toNat ((ray 0x3F800000).vals.getD 7 0).toNat = true) ∧
    (∀ cell ∈ [0, 1], let s := flying 0x3F800000 cell 0
      okB (s.skipLevel (s.rayWho 0 3 1) marchWords (fun _ => 0)) (fun _ m => decide (m.isNone = decide (cell = 1))) = true) := by
  refine ⟨⟨?_, ?_, ?_, ?_, ?_, ?_, ?_⟩, ?_, ?_, ?_, ?_, ?_⟩
  pick_goal 8
  · intro x hx
    fin_cases hx <;> ((repeat' apply And.intro) <;> decide +kernel)
  pick_goal 9
  · intro x hx
    fin_cases hx <;> ((repeat' apply And.intro) <;> decide +kernel)
  all_goals decide +kernel
/-- A network of one input and one output, owned by context 1; with a batch of samples in a ring at 0x100000 of 1024 places. -/
def netWords (flags : Nat) : List W64 := [BitVec.ofNat 64 (1 + 2 ^ 9 + flags + 2 ^ 32), 0x80000, 0x81000, 0x100000, 1024, 0, 0, 0, 0, 0, 0, 0, 0, 0, 0, 0]
def net0 : NetSlot := { NetSlot.blank with desc := 0x82000, words := netWords 0, half0 := [0, 0], half1 := [0, 0] }
def bound (n : NetSlot) : State := { base with nets := [(2, n)] }
/-- A descriptor at physical address 0x82000, with one input or none. -/
def described (inputs : Nat) : State := words base [(0x82000, inputs + 2 ^ 9 + 2 ^ 32), (0x82008, 0x80000), (0x82010, 0x81000), (0x82018, 0x100000), (0x82020, 1024)]
def fullRing : NetSlot := { net0 with words := netWords 0x4000, tail := 1024 }
/-- With lanes 0 and 31 only. -/
def asking : State := { guarded base 0x80000001 with nets := [(2, net0)] }
theorem test_witness_RadianceQueries :
    ((base.slotNumber 2).bind base.netOf).isNone = true ∧ (asking.slotNumber 2).bind asking.netOf = some net0 ∧ netIn net0.words = 1 ∧ netOut net0.words = 1 ∧
      asking.Admits acceptAll [vblock .a 8 1 1, vblock .b 16 1 1] ∧ asking.full = false ∧ asking.unperformedBy asking.who.waiter = false ∧ asking.Admits acceptAll [vblock .a 8 1 1, vblock .b 16 2 1] ∧
    okB (asking.postSamples 2 (asking.laneWords 16 1) (asking.laneWords 17 1) (Lanes.list asking.act)) (fun _ _ => true) = true ∧
    base.Admits acceptGX [vd .a 63 1] ∧ net0.place = some 0 ∧ fullRing.place = none ∧ netOrdered net0.words = false ∧ net0.tail - net0.head < netCapacity net0.words ∧
      netCapacity fullRing.words ≤ fullRing.tail - fullRing.head := by
  refine ⟨?_, ?_, ?_, ?_, ?_, ?_, ?_, ?_, ?_, ?_, ?_, ?_, ?_, ?_, ?_⟩ <;> decide +kernel
theorem test_witness_WeightsAndTraining :
    (0x82001#64).toNat % 128 ≠ 0 ∧
    (∀ x ∈ [(0, true), (1, false)], let s := described x.1
      netBad ((List.range 16).map (fun i => s.phys64 ((0x82000#64).toNat + 8 * i))) = x.2) ∧
    ((described 1).trainerParked 0 = false ∧ okB (((described 1).partBytes (trainerWho 1 0 2) 0x80000 (4 * netSize (netWords 0))).atomic (described 1) (.trainer 0 2)) (fun _ _ => true) = true) ∧
    (Table.find (bound fullRing).settleNets.nets 2 = some fullRing ∧ netTraining fullRing.words = true ∧ fullRing.ready = false ∧ (bound fullRing).settleNets.trainerParked 0 = false ∧
      fullRing.batch.isSome = true) ∧
    (Table.find ((bound net0).settleNets.bindAll 0).nets 2 = some net0 ∧ netTraining net0.words = false) ∧
    (Table.find (bound { net0 with ready := true }).nets 2 = some { net0 with ready := true } ∧ (bound { net0 with ready := true }).trainerParked 0 = false) := by
  refine ⟨?_, ?_, ⟨?_, ?_⟩, ⟨?_, ?_, ?_, ?_, ?_⟩, ⟨?_, ?_⟩, ?_, ?_⟩ <;> decide +kernel
/-- A training step's reads and writes, with the gradient of its samples given; its batch is one ring place over and over. -/
def trainB (s : State) (who : Who) (n : NetSlot) (p : Nat) (x : List Nat × List Nat) (g : List Nat) : Bool :=
  let v := n.words
  okB (s.partBytes who (ringAt v p) 144) (fun s1 bs => decide (((words32N bs 36).take (netIn v), ((words32N bs 36).drop 32).take (netOut v)) = x) &&
    okB (s1.partBytes who (ringAt v p) 144) (fun s0 bs0 => decide (s0 = s1) && decide (bs0 = bs)) &&
    okB (s1.partBytes who (v.getD 1 0).toNat (4 * netSize v)) (fun s2 wb => okB (s2.partBytes who (v.getD 2 0).toNat (8 * netSize v)) (fun s3 ab =>
      let new := List.zipWith (fun (x : Nat × Nat × Nat) g => (adamOf v n.step).update x.1 x.2.1 x.2.2 g)
        ((words32N wb (netSize v)).zip (pairsOf (words32N ab (2 * netSize v)))) g
      okB (s3.put who (v.getD 1 0).toNat (bytes32 (new.map (·.1)))) (fun s4 _ =>
        okB (s4.put who (v.getD 2 0).toNat (bytes32 (new.flatMap (fun x => [x.2.1, x.2.2])))) (fun _ _ => true)))))
theorem same_samples {s s1 : State} {who : Who} {v : List W64} {p : Nat} {bs : List Byte} (h0 : s.partBytes who (ringAt v p) 144 = .ok s1 bs)
    (h1 : s1.partBytes who (ringAt v p) 144 = .ok s1 bs) (n : Nat) : s.readSamples who v (List.replicate (n + 1) p) =
      .ok s1 (List.replicate (n + 1) ((words32N bs 36).take (netIn v), ((words32N bs 36).drop 32).take (netOut v))) := by
  induction n generalizing s with
  | zero => simp [State.readSamples, h0, Got.bind]
  | succ n ih => rw [List.replicate_succ, State.readSamples, h0]; simp only [Got.bind]; rw [ih h1]; rfl
theorem train_of {s : State} {who : Who} {n : NetSlot} {p k : Nat} {x : List Nat × List Nat} {g : List Nat}
    (hg : batchGrad n.words n.live (List.replicate (k + 1) x) = g) (h : trainB s who n p x g = true) :
    ∃ t ws, s.trainSlot who n (List.replicate (k + 1) p) = .ok t ws := by
  obtain ⟨s1, bs, h1, h⟩ := okB_of h
  simp only [Bool.and_eq_true, decide_eq_true_eq] at h
  obtain ⟨⟨hx, h0⟩, ha⟩ := h
  obtain ⟨s0, bs0, e0, h0⟩ := okB_of h0
  simp only [Bool.and_eq_true, decide_eq_true_eq] at h0
  rw [h0.1, h0.2] at e0
  obtain ⟨s2, wb, h2, hb⟩ := okB_of ha
  obtain ⟨s3, ab, h3, hc⟩ := okB_of hb
  obtain ⟨s4, _, h4, hd⟩ := okB_of hc
  obtain ⟨s5, _, h5⟩ := ok_of' hd
  have hs := same_samples h1 e0 k
  rw [hx] at hs
  subst hg
  refine ⟨s5, ?ws, ?h⟩
  case h =>
  unfold State.trainSlot
  dsimp only
  rw [hs]
  dsimp only [Got.bind]
  rw [h2]
  dsimp only
  rw [h3]
  dsimp only at h4 h5 ⊢
  rw [h4]
  dsimp only
  rw [h5]
/-- The gradient of equal samples without error. -/
theorem still_gradient (n : Nat) : batchGrad (netWords 0x6000) [0, 0] (List.replicate (n + 1) ([0], [0])) = [0, 0] := by
  have h : sampleGrad (netWords 0x6000) [0, 0] [0] [0] = [0, 0] := by decide +kernel
  have hf : ∀ n, (List.replicate n [0, 0]).foldl (fun acc g => List.zipWith spAdd acc g) [0, 0] = [0, 0] := by
    intro n
    induction n with
    | zero => rfl
    | succ n ih => rw [List.replicate_succ, List.foldl_cons, show List.zipWith spAdd [0, 0] [0, 0] = [0, 0] by decide +kernel, ih]
  unfold batchGrad
  rw [List.map_replicate, h, List.replicate_succ]
  dsimp only
  rw [hf]
  decide +kernel
theorem atomic_of {α : Type} {s t : State} {w : Waiter} {g : Got α} {a : α} (hu : s.unperformedBy w = false) (h : g = .ok t a) :
    g.atomic s w = .ok (t.forget w) a := by
  subst h
  simp [Got.atomic, hu]
/-- An ordered slot with a batch of one place over and over. -/
def steady : NetSlot := { net0 with words := netWords 0x6000, carry := List.replicate 1024 0 }
/-- The trainer of die 0 once its slot 2 has a full batch. -/
def trainee : State := { base with nets := [(2, steady)] }.settleNets.bindAll 0
theorem test_witness_TrainingStep :
    (Table.find trainee.nets 2 = some steady ∧ netTraining steady.words = true ∧ steady.ready = false ∧ trainee.trainerParked 0 = false ∧
      steady.batch = some (List.replicate 1024 0) ∧ (∀ k < 2, trainee.batchOf 0 k = none)) ∧
    ∃ t ws, (trainee.trainSlot (trainerWho (netOwner steady.words) 0 2) steady (List.replicate (1023 + 1) 0)).atomic trainee (.trainer 0 2) = .ok t ws := by
  have hg : batchGrad steady.words steady.live (List.replicate (1023 + 1) ([0], [0])) = [0, 0] := by
    rw [show steady.words = netWords 0x6000 from rfl, show steady.live = [0, 0] from rfl]
    exact still_gradient 1023
  obtain ⟨t, ws, h⟩ := train_of (s := trainee) (who := trainerWho (netOwner steady.words) 0 2) (p := 0) hg (by decide +kernel)
  refine ⟨?_, _, _, atomic_of (by decide +kernel) h⟩
  (repeat' apply And.intro) <;> decide +kernel
/-- The workgroup with image slot 1, in a phase. -/
def phased (p : Phase) (pre : Bool) : State := onG (base.setCtx 1 { base.ctxAt 1 with slots := 4, pool := 0x3000000 }) (fun g => { g with phase := p, preempt := pre, image := some 1 })
/-- An access of unit 0 of warp 1 to the host or to device 9; with accesses left to perform; with a port in a state and routes for device 9. -/
def asks (host : Bool) (w : Option (List Byte)) (x : Option (BitVec 4 × W64 × W64)) (via : Option Nat) : Access :=
  { id := 7, host := host, dev := 9, addr := 0x100, write := w, bytes := 8, atomic := x, owner := .unit 1 0, tag := 0, via := via, answer := none }
def ported (st : PortState) (n : Nat) (route : BitVec 4) : State :=
  { base with ports := [(2, { Port.blank with state := st, credits := n })], routes := [(9, route)], devid := 5, conns := [(9, (1, 3))] }
def leftOver (route : BitVec 4) (a : Access) : State := { ported .up 3 route with pending := [a] }
def missing : State := onW (phased .resident false) (fun w => { w with evicted := [4, 6] })
/-- Beside a workgroup that is switched out, with warp 10. -/
def besides (s : State) : State := (s.setWg 9 { s.g with phase := .switchedOut, warps := [10], image := some 2 }).setWarp 10 { s.w with wg := 9, evicted := [] }
/-- The line's bytes can be read, and then a line of warp 1 may be given up and its bytes written. -/
def fillB (s : State) (k x : Nat) : Bool :=
  okB ((s.partBytes (s.poolWho (s.wgAt (s.warpAt 1).wg)) (s.lineAddr (s.warpAt 1) 4) 128).atomic s (.other 1)) (fun t _ =>
    !decide (8192 ≤ t.cacheUse 0) && t.evictable 0 false (k, x) && okB (t.putLines k [x]) (fun _ _ => true))
theorem test_witness_AccessesLeftToPerform :
    ((missing.wgAt (missing.warpAt 1).wg).phase = .resident ∧ 4 ∈ (missing.warpAt 1).evicted ∧ 5 ∉ (missing.warpAt 1).evicted ∧ fillB (besides missing) 10 5 = true ∧
      ((besides missing).wgAt ((besides missing).warpAt 1).wg).phase = .resident ∧ 4 ∈ ((besides missing).warpAt 1).evicted) ∧
    (base.walk 1 0x80000000 = .fault 0 3 ∧ base.walk 1 0 = .leaf 0x3000 0x1F 3 ∧ denies 0x1F (BitVec.ofNat 2 1) = none ∧
      (leaf 0x11).walk 1 0 = .leaf 0x3000 0x11 3 ∧ (denies 0x11 (BitVec.ofNat 2 1)).isSome = true) ∧
    (∀ a ∈ [asks true (some [1]) none none, asks true none none none, asks true none (some (8, 1, 2)) none, asks false (some [1, 2]) none none],
      (leftOver 2 a).pending[0]? = some a ∧ a.via = none ∧ (leftOver 2 a).sentBefore 0 a.owner = false) ∧
    (asks true none none (some 16)).via.isSome = true ∧
    ((asks true none (some (8, 1, 2)) none).bytes = 8 ∧ ((asks false (some [1, 2]) none none).write.getD []).length ≤ 64) ∧
    (let s := leftOver 2 (asks false none none none)
     (s.routeOf 9).toNat = 2 ∧ (s.portAt 2).usable = true ∧ (s.portAt 2).queue = [] ∧ (s.portAt 2).credits ≠ 0) ∧
    (((leftOver 12 (asks false none none none)).routeOf 9).toNat = 12 ∧ (asks false none none none).overEther = true ∧
      Table.find (leftOver 12 (asks false none none none)).conns (9#18).toNat = some (1, 3)) ∧
    (((leftOver 3 (asks false none none none)).portAt 3).usable = false ∧ 12 < ((leftOver 15 (asks false none none none)).routeOf 9).toNat) := by
  refine ⟨⟨?_, ?_, ?_, ?_, ?_, ?_⟩, ⟨walk_of ?_, leaf_of ?_, ?_, leaf_of ?_, ?_⟩, ?_, ?_, ⟨?_, ?_⟩, ⟨?_, ?_, ?_, ?_⟩, ⟨?_, ?_, ?_⟩, ⟨?_, ?_⟩⟩ <;> decide +kernel
/-- Work of a higher class waits. -/
def outranked : State :=
  let s := phased .resident false
  let s1 := s.setLaunch 8 { base.launch with cls := 0 }
  onL (s1.setWg 9 { s.g with launch := 8, phase := .pending, warps := [], image := none }) (fun l => { l with cls := 2 })
theorem test_witness_PreemptionAndResumption :
    (let s := phased .resident true
     (s.wgAt 1).phase = .resident ∧ (s.wgAt 1).warps.any (fun k => decide ((s.warpAt k).live ≠ 0)) = true ∧ (s.wgAt 1).preempt = true ∧ s.midGroup (s.wgAt 1) = false) ∧
    ((outranked.wgAt 1).preempt = false ∧ outranked.outranked (outranked.wgAt 1) = true ∧ (outranked.launchAt (outranked.wgAt 1).launch).cohort = false ∧
      outranked.midGroup (outranked.wgAt 1) = false) ∧
    ((phased .resident false).outranked ((phased .resident false).wgAt 1) = false) ∧
    (let s := phased .leaving false
     (s.wgAt 1).phase = .leaving ∧ s.drained 1 = true ∧ (s.wgAt 1).image = some 1 ∧ (s.ctxAt 1).state ≠ .frozen) ∧
    (let s := (phased .switchedOut false).lookBudgets ((phased .switchedOut false).launchAt 1)
     s.mayResume (s.wgAt 1) = true ∧ s.resumeCore (s.wgAt 1) = some 0 ∧ (s.wgAt 1).core = 0 ∧ (s.launchAt (s.wgAt 1).launch).cohort = false ∧
       okB (s.imageReads 1) (fun _ _ => true) = true ∧ (∀ k ∈ (s.wgAt 1).warps, ∀ x ∈ (s.warpAt k).units, x.2.park = .ready)) ∧
    (let r := { phased .switchedOut false with withheld := [(0, BitVec.allOnes 64), (1, BitVec.allOnes 64), (2, BitVec.allOnes 64)] }
     let s := r.lookBudgets (r.launchAt 1)
     s.mayResume (s.wgAt 1) = true ∧ s.resumeCore (s.wgAt 1) = none) ∧
    (let s := (phased .leaving false).lookBudgets ((phased .leaving false).launchAt 1)
     s.mayResume (s.wgAt 1) = false) := by
  (repeat' apply And.intro) <;> decide +kernel
/-- Context 1 in a state, its workgroup in a phase; with the fault-buffer entry that unit 0 waits on; with a command in hand. -/
def inCtx (c : CtxState) (p : Phase) : State := (phased p false).setCtx 1 { (phased p false).ctxAt 1 with state := c, slots := 4 }
def parkedOn : State :=
  { base with faults := [(5, { asid := 1, slot := 0, core := 0, unit := 0, level := 3, access := accRead, cause := 0, va := 0x80000000, waiters := [.unit 1 0] })] }
def busyWith (code : Nat) (ops : List W64) : State := { base with commands := [(code, ops, none)] }
theorem test_witness_ContextCommands :
    ((recordOf 1 [1] 0).length = 8 ∧ (busyWith 2 [7]).commands = [(2, [7], none)] ∧
      (∀ y ∈ [(1, [3]), (2, [3]), (3, [3]), (4, [3]), (5, [3, 0, 0]), (8, [3, 1])], (y.1, List.map (BitVec.ofNat 64) y.2, none) ∉ (busyWith 2 [7]).commands)) ∧
    (base.commands = [] ∧ (base.ctxAt 2).state = .free ∧ Table.find { base with ctxTable := [(2, [2 + 2 ^ 16, 0x1000])] }.ctxTable 2 = some [2 + 2 ^ 16, 0x1000] ∧
      ((2 + 2 ^ 16 : W64)).toNat = 2 + 2 ^ 16 ∧ (base.ctxAt 1).state = .running) ∧
    ((inCtx .frozen .switchedOut).occupied 1 = false ∧ (inCtx .frozen .resident).occupied 1 = true ∧ ((inCtx .frozen .resident).ctxAt 1).state = .frozen) ∧
    (∀ y ∈ (inCtx .running .pending).wgs, y.2.asid = 1 → y.2.phase ≠ .resident ∧ y.2.phase ≠ .leaving ∧ y.2.phase ≠ .switchedOut) ∧
    ((∃ y ∈ base.wgs, y.2.asid = 1 ∧ y.2.phase = .resident) ∧ ∀ y ∈ base.wgs, y.2.asid = 1 → y.2.phase ≠ .switchedOut) ∧
    (let s := { inCtx .frozen .done with launches := [] }
     (s.ctxAt 1).state = .frozen ∧ s.occupied 1 = false ∧ ∀ y ∈ s.launches, y.2.asid ≠ 1) ∧
    (base.unperformedOf 1 = false ∧ Table.find base.faults 5 = none) ∧
    ((∃ e, Table.find parkedOn.faults (1024 * 0 + 5) = some e ∧ e.waiters = [.unit 1 0]) ∧ (∀ y ∈ parkedOn.wgs, y.2.streams = [])) ∧
    ((phased .resident false).wgs.find? (fun y => decide (y.2.asid = 1) && decide (y.2.image = some 1) && decide (y.2.phase ≠ .done))).isSome = true ∧
    ((phased .switchedOut false).wgs.find? (fun y => decide (y.2.asid = 1) && decide (y.2.image = some 1) && decide (y.2.phase ≠ .done))).isSome = true ∧
    (base.wgs.find? (fun y => decide (y.2.asid = 1) && decide (y.2.image = some 3) && decide (y.2.phase ≠ .done))) = none ∧
    (base.deviceReg 0 0xC1E = some 0 ∧ base.deviceReg 0 0xC20 = none ∧ base.hbmDenied mapMaster accWrite 0x20000 340 = false ∧
      base.hbmDenied mapMaster accRead 0x20000 48 = false) := by
  refine ⟨⟨?_, ?_, ?_⟩, ⟨?_, ?_, ?_, ?_, ?_⟩, ⟨?_, ?_, ?_⟩, ?_, ⟨?_, ?_⟩, ⟨?_, ?_, ?_⟩, ⟨?_, ?_⟩, ⟨⟨_, rfl, ?_⟩, ?_⟩, ?_, ?_, ?_, ⟨?_, ?_, ?_, ?_⟩⟩ <;> decide +kernel

/-- A flit from device 9 for device 5. -/
def flit (k : BitVec 4) : Flit := { dest := 5, src := 9, kind := k, seq := 0, credits := 1, crc := 0 }
def up : State := ported .up 3 2
def moving (ph : MigPhase) : State := { up with migrations := [(1, { dev := 9, phase := ph, frames := [(0x40000, 4096)], copied := [], since := 0 })] }
theorem test_witness_PortsAndFlits :
    (((ported .down 0 2).portAt 2).state = .down ∧ ((ported .training 0 2).portAt 2).state = .training ∧ ((ported .fenced 0 2).portAt 2).state = .fenced ∧
      (∀ n, 2 ≤ n → n - 1 < n ∧ n ≤ 2 * (n - 1))) ∧
    ((up.portAt 2).state = .up ∧ (up.portAt 2).usable = true ∧ (up.portAt 2).queue = [] ∧ 0 < (up.portAt 2).credits ∧ ((ported .up 0 2).portAt 2).credits = 0 ∧
      (∀ a ∈ up.pending, a.inFlight 2 = false) ∧ up.commands = []) ∧
    ((flit 1).seq = (up.portAt 2).expect ∧ (flit 1).dest = up.devid ∧ (flit 1).dest ≠ base.devid ∧
      up.outsideDenied (portTarget 2) (peerMaster 9) accRead 0x40000 8 = false ∧ up.outsideDenied (portTarget 2) (peerMaster 9) accWrite 0x40000 8 = false ∧
      up.outsideDenied (portTarget 2) (peerMaster 9) accAtomic 0x40000 8 = false ∧ up.movedFrame 0x40000 = none ∧ atomicKnown 14 false = true ∧
      atomicKnown 11 true = true ∧ up.outsideDenied (portTarget 2) (peerMaster 9) accRead (2 ^ 40) 8 = true ∧ (up.portAt 3).usable = false) ∧
    ((moving .forwarding).movedFrame 0x40000).isSome = true ∧ ((moving .done).movedFrame 0x40000).isSome = true ∧
    (let a := asks false none none (some 2)
     { up with pending := [a] }.pending = [a] ∧ a.id = 7 ∧ a.owner ≠ .host ∧ (∀ x y, a.owner ≠ .ether x y) ∧ a.via = some 2 ∧ ({ flit 4 with credits := 0 } : Flit).credits = 0) ∧
    ((asks true none none (some 16)).via = some 16 ∧ (asks false none none (some 12)).via = some 12 ∧ up.ckpt = none) ∧
    (∀ x ∈ (moving .copying).migrations, x.2.phase ≠ .cutover) ∧
    (∃ g, (moving .cutover).migrations = [(1, g)] ∧ g.phase = .cutover ∧ g.dev = (flit 7).src) := by
  refine ⟨⟨?_, ?_, ?_, fun n h => by omega⟩, ⟨?_, ?_, ?_, ?_, ?_, ?_, ?_⟩, ⟨?_, ?_, ?_, ?_, ?_, ?_, ?_, ?_, ?_, ?_, ?_⟩, ?_, ?_,
    ⟨rfl, rfl, ?_, fun x y h => by simp [asks] at h, rfl, rfl⟩, ⟨rfl, rfl, ?_⟩, ?_, ⟨_, rfl, ?_, ?_⟩⟩ <;> decide +kernel

def open_ (x : W64) : State := { base with aperture := some (1, x) }
/-- The aperture gives one run in local memory. -/
def placedB (s : State) (kind : BitVec 2) (offset n pa : Nat) : Bool := match s.aperturePlaces kind offset n with
  | some (t, [(.here a _, m)]) => decide (a = pa) && decide (m = n) && (t.movedFrame pa).isNone
  | _ => false
theorem placed_of {s : State} {kind : BitVec 2} {offset n pa : Nat} (h : placedB s kind offset n pa = true) :
    ∃ t k, s.aperturePlaces kind offset n = some (t, [(.here pa k, n)]) ∧ t.movedFrame pa = none := by
  unfold placedB at h
  split at h
  · rename_i t a k m e
    simp only [Bool.and_eq_true, decide_eq_true_eq, Option.isNone_iff_eq_none] at h
    obtain ⟨⟨rfl, rfl⟩, hm⟩ := h
    exact ⟨t, k, e, hm⟩
  · simp at h
theorem test_witness_HostAndEthernet :
    ((open_ 0x40000000).aperturePlaces accRead 0x1000 8 = none ∧ base.aperturePlaces accWrite 0 8 = none ∧ base.aperture = none) ∧
    (∀ kind ∈ [accRead, accWrite, accAtomic], ∃ t k, (open_ 0).aperturePlaces kind 0x20000 8 = some (t, [(.here 0x20000 k, 8)]) ∧ t.movedFrame 0x20000 = none) ∧
    (tokenOf [] = none ∧ base.movedFrame 0x20000 = none) ∧
    (base.outsideDenied (etherTarget 1) (etherMaster 1) accWrite 0x20000 8 = false ∧ base.outsideDenied (etherTarget 1) (etherMaster 1) accRead 0x20000 8 = false ∧
      base.outsideDenied (etherTarget 1) (etherMaster 1) accAtomic 0x20000 8 = false ∧
      (∀ kind ∈ [accRead, accWrite, accAtomic], base.outsideDenied (etherTarget 1) (etherMaster 1) kind (2 ^ 40) 8 = true)) := by
  refine ⟨⟨Option.isNone_iff_eq_none.1 ?_, Option.isNone_iff_eq_none.1 ?_, ?_⟩, ?_, ⟨?_, ?_⟩, ⟨?_, ?_, ?_, ?_⟩⟩
  pick_goal 4
  · intro kind h
    apply placed_of
    revert kind
    decide +kernel
  all_goals decide +kernel

/-- A slice record in control complex memory: words, and the member list at 0x100; its slices, with the collector or a member, at a tick. -/
def sliceRecord (n asid res : Nat) (me : Nat) : State :=
  let ws := [(0, 7), (8, 100), (16, 200), (24, 0x100), (32, n), (40, asid), (56, res), (0x100, if me = 0 then 5 else 9), (0x104, 5)]
  { up with ctlMem := ws.foldl (fun m x => Memory.writeN m x.1 4 x.2) [] }
def slice (me : Nat) (tokens : List Nat) (d : Option GangToken) (r : Option Nat) : Slice :=
  { asid := 1, start := 0, quantum := 200, members := [5, 9], me := me, tokens := tokens, decision := d, running := r, outcome := 0, record := 0 }
def sliced (x : Slice) (tick : Nat) : State := { up with slices := [(7, x)], tick := tick }
theorem test_witness_GangSlices :
    (let s := sliceRecord 2 1 0 1
     s.commands = [] ∧ Memory.readN s.ctlMem 32 8 = 2 ∧ Memory.readN s.ctlMem 40 8 < 4096 ∧ Memory.readN s.ctlMem 56 8 = 0 ∧
       (s.ctxAt (Memory.readN s.ctlMem 40 8)).state = .running ∧ BitVec.ofNat 18 (Memory.readN s.ctlMem (Memory.readN s.ctlMem 24 8) 4) ≠ s.devid ∧
       BitVec.ofNat 18 (Memory.readN s.ctlMem (Memory.readN s.ctlMem 24 8 + 4) 4) = s.devid ∧ (s.routeOf 9).toNat < 12) ∧
    (Memory.readN (sliceRecord 1 1 0 1).ctlMem 32 8 < 2 ∧ 4096 ≤ Memory.readN (sliceRecord 2 4096 0 1).ctlMem 40 8 ∧ Memory.readN (sliceRecord 2 1 1 1).ctlMem 56 8 ≠ 0 ∧
      ((sliceRecord 2 3 0 1).ctxAt (Memory.readN (sliceRecord 2 3 0 1).ctlMem 40 8)).state = .free) ∧
    ((up.portAt 2).usable = true ∧ (flit 5).kind = 5 ∧ (flit 5).seq = (up.portAt 2).expect ∧ (up.portAt 2).queue = [] ∧ (flit 5).dest = up.devid) ∧
    (let x := slice 1 [] none none
     Table.find (sliced x 250000).slices 7 = some x ∧ x.me ≠ 0 ∧ x.decision = none ∧ x.outcome = 0 ∧ (sliced x 250000).tick ≤ x.start + 250000 ∧
       x.start + 250000 ≤ (sliced x 250000).tick ∧ x.start + 250000 < (sliced x 250001).tick) ∧
    (let x := slice 0 [0] none none
     Table.find (sliced x 125000).slices 7 = some x ∧ x.me = 0 ∧ x.decision = none ∧ x.outcome = 0 ∧ (sliced x 125000).tick ≤ x.start + 125000 ∧
       x.start + 125000 ≤ (sliced x 125000).tick ∧ 1 < x.members.length ∧ 1 ∉ x.tokens ∧ (∀ j < 1, j ∈ x.tokens) ∧
       (∀ j < x.members.length, j ≠ 1 → j ∈ x.tokens) ∧ x.members = [(sliced x 0).devid, 9]) ∧
    (let x := slice 0 [] none none
     0 < x.members.length ∧ 0 ∉ x.tokens ∧ ∃ j < x.members.length, j ≠ 0 ∧ j ∉ x.tokens) ∧
    (let x := slice 1 [] (some .go) none
     Table.find (sliced x 0).slices 7 = some x ∧ x.outcome = 0 ∧ x.running = none ∧ x.start ≤ (sliced x 0).tick ∧ (sliced x 0).slices = [(7, x)]) ∧
    (let x := slice 1 [] (some .go) (some 0)
     Table.find (sliced x 200).slices 7 = some x ∧ 0 + x.quantum ≤ (sliced x 200).tick ∧ (sliced x 199).tick < 0 + x.quantum) := by
  (repeat' apply And.intro) <;> decide +kernel

/-- A context being moved, with one frame of one page. -/
def migrating (ph : MigPhase) (copied : List Nat) (tick : Nat) : State :=
  { onG up (fun g => { g with phase := .switchedOut }) with
    migrations := [(1, { dev := 9, phase := ph, frames := [(0x40000, 4096)], copied := copied, since := 0 })], tick := tick }
/-- A checkpoint's descriptor: the low 4 MiB of physical memory; and the engine at a stage, with pages left, frames written and writes unacknowledged. -/
def described4 (width : Nat) : State := { base with ctlMem := [(0, 2 ^ 16), (16, 0x400000), (24, width)].foldl (fun m x => Memory.writeN m x.1 8 x.2) [] }
def cut0 (pages : List CutPage) (frames : List (Nat × Nat × Nat)) (stage : Nat) (unacked : List Nat) (failed : Bool) : Checkpoint :=
  { asid := 0, phys := true, base := 0, bytes := 0x400000, width := 1, qp := 3, slotBase := 0, key := 0, number := 1, pages := pages, copied := [],
    frames := frames, next := 2 ^ 23, ref := 0, stage := stage, unacked := unacked, failed := failed, owed := 0 }
def cutting (c : Checkpoint) : State := { base with ckpt := some c }
theorem test_witness_MigrationAndCheckpoints :
    (base.commands = [] ∧ Table.find base.migrations 1 = none ∧ (base.ctxAt 2).state ≠ .running ∧ (base.ctxAt 1).state = .running ∧
      (∀ y ∈ base.wgs, y.2.asid = 1 → y.2.phase ≠ .switchedOut)) ∧
    (let s := migrating .copying [] 0
     ∃ m, Table.find s.migrations 1 = some m ∧ m.phase = .copying ∧ s.occupied 1 = false ∧ m.has 64 = true ∧ 64 ∉ m.copied ∧ m.copiedAll = false ∧ m.has 65 = false) ∧
    (∃ m, Table.find (migrating .copying [64] 0).migrations 1 = some m ∧ m.copiedAll = true) ∧
    (∃ m, Table.find (migrating .forwarding [64] 25000000).migrations 1 = some m ∧ m.phase = .forwarding ∧ m.since + 25000000 ≤ (migrating .forwarding [64] 25000000).tick ∧
      (migrating .forwarding [64] 24999999).tick < m.since + 25000000) ∧
    (base.ckpt = none ∧ ckptBad (fun j => Memory.readN (described4 4).ctlMem (8 * j) 8) = true ∧
      ckptBad (fun j => Memory.readN (described4 1).ctlMem (8 * j) 8) = false) ∧
    (let p : CutPage := ⟨0, some 0, none, none⟩
     let q : CutPage := ⟨1, some 1, none, none⟩
     (∀ c ∈ [cut0 [p, q] [] 0 [4] false, cut0 [p, q] [] 1 [] false, cut0 [p, ⟨1024, some 1, none, none⟩] [] 1 [] false],
       c.pages.headD q = p ∧ c.failed = false ∧ (cutting c).ckptParked = false ∧ (∀ y ∈ c.pages.tail, y.number ≠ p.number) ∧ (∀ y ∈ c.pages, y.away = none) ∧ c.owes = false) ∧
     (∃ bs, (cutting (cut0 [p, q] [] 0 [4] false)).cutHere 0 none = some bs) ∧
     (∃ y ∈ [q], y.number / 1024 = p.number / 1024) ∧ (∀ y ∈ [(⟨1024, some 1, none, none⟩ : CutPage)], y.number / 1024 ≠ p.number / 1024) ∧
     (∀ k < (cut0 [p, q] [] 0 [4] false).bytes / 2 ^ 22, (cut0 [p, q] [] 0 [4] false).chunkReady k = false)) ∧
    ((cut0 [] [(0, 2 ^ 23, 9)] 1 [] false).frames.length = (cut0 [] [(0, 2 ^ 23, 9)] 1 [] false).bytes / 2 ^ 22 ∧
      (cutting (cut0 [] [] 2 [4] false)).ckpt = some (cut0 [] [] 2 [4] false) ∧ (cutting (cut0 [] [] 2 [4] false)).pending = []) ∧
    (let s := { cutting (cut0 [] [] 3 [] false) with commands := [(14, [0, 0], none)] }
     s.commands = [(14, [0, 0], none)] ∧ s.ckptParked = false ∧ s.pending = [] ∧ (cut0 [] [] 3 [] true).failed = true ∧ (cut0 [] [] 3 [] false).ref = 0) := by
  refine ⟨?_, ⟨_, rfl, ?_⟩, ⟨_, rfl, ?_⟩, ⟨_, rfl, ?_⟩, ?_, ⟨?_, ⟨_, rfl⟩, ?_⟩, ?_, ?_⟩ <;> (repeat' apply And.intro) <;> decide +kernel

def powered (p : Power) (hot : Bool) : State := { base with power := p, throttled := hot }
theorem bad_flash (s : State) (a limit : Nat) (h : s.flash = []) (n : Nat) (ns : List Nat) : s.runChain limit (n :: ns) a = (s, some n) := by
  have h4 : Memory.readN ([] : Memory) a 4 ≠ 0x4B4C5541 := by
    intro h
    have h0 : ∀ k x, Memory.readN ([] : Memory) x k = 0 := by
      intro k
      induction k with
      | zero => intro x; rfl
      | succ k ih => intro x; simp [Memory.readN, ih, Memory.read, Table.get, Memory.unlisted]
    rw [h0] at h
    exact absurd h (by decide)
  have hb : stageGood s.flash a limit n = false := by
    rw [h]
    simp [stageGood, h4]
  simp [State.runChain, hb]
theorem test_witness_BringUp :
    ((powered .run false).power ≠ .off ∧ (powered .off false).power = .off) ∧
    (∃ t, (({ (powered .off false).unpowered with power := .boot }.extendMeas 0 Config.romDigest).runChain imageBytes flashStages 0) = (t, some 2) ∧
      t.runChain (2 * imageBytes) flashStages imageBytes = (t, some 2)) ∧
    stageGood ([] : Memory) 0 imageBytes 2 = false ∧
    ((powered .throttled true).power = .throttled ∧ (powered .throttled true).throttled = true ∧ (2100 : Nat) ≤ (2120 : BitVec 16).toNat ∧
      ¬ 2150 < (2150 : BitVec 16).toNat ∧ (105 : Byte).toNat < 115) ∧
    (∃ l, Table.find base.launches 1 = some l) ∧
    (∀ k ∈ [0, 15], let s := { base with eccHits := List.replicate k (0, 0) }
      (s.eccHits.filter (fun x => decide (s.tick < x.2 + 250000000) && decide (x.1 = 192 * 0 + 0))).length = k) := by
  refine ⟨⟨?_, ?_⟩, ⟨_, bad_flash _ _ _ ?_ _ _, bad_flash _ _ _ ?_ _ _⟩, ?_, ⟨?_, ?_, ?_, ?_, ?_⟩, ?_, ?_⟩
  · decide +kernel
  · decide +kernel
  · rfl
  · rfl
  · decide +kernel
  all_goals first | decide +kernel | exact ⟨_, rfl⟩
/-! ### States that meet the hypotheses of clauses about accesses in a trap frame, remote pages and what is performed later -/

/-- A warp in handler mode, its handler at a BSYNC, with a unit in its trap frame that stands at a NOP as an access that has been issued does. -/
def framedNop : State := { onW (onL atNop (fun l => { l with handler := 0x20000 })) (fun w => { w with
  handler := true, units := [(0, { IUnit.blank with lanes := BitVec.allOnes 32, pc := 0x20000, park := .bsync })],
  tframe := some { unit := 0, after := none, loops := [], wb := 0, part := 32, xregs := [], preds := [], high := List.replicate 16 0, pend := [], region := none,
                   units := [(0, { IUnit.blank with lanes := BitVec.allOnes 32, pc := atNop.u.pc, issued := some ⟨BitVec.allOnes 32, 0, [], [], [], [], none⟩ })] } }) with
  agenda := [.issue 1 1024] }
theorem test_witness_StepRunsDecodedInstruction_in_a_frame :
    framedNop.power ≠ .off ∧ framedNop.power ≠ .recovery ∧ framedNop.due = none ∧ framedNop.agenda = [.issue 1 1024] ∧
    State.mayGo { framedNop with agenda := [] } 1 1024 = true ∧
    (let s1 := { framedNop with agenda := [], cur := 1, unit := 1024, byLane := State.anyWait { framedNop with agenda := [] } }
     let z := { s1.setW s1.w.swapFrame with unit := 1024 - 1024 }
     ∃ t word, z.fetchWord = .ok t word ∧ t.mayWord word = true ∧ decode word = .ok .nop) := by
  refine ⟨?_, ?_, due_none ?_, ?_, ?_, ok_of (fun t word => t.mayWord word = true ∧ decode word = .ok .nop) ?_⟩ <;> (repeat' apply And.intro) <;> decide +kernel

/-- With an uncommitted result of the unit; behind one of another unit that writes the same register. -/
def owingOne : State := onW base (fun w => { w with pend := [{ result0 6 5 with left := 3 }] })
def owingTwo : State := onW base (fun w => { w with pend := [{ result0 6 5 with unit := 4, left := 3 }, { result0 6 5 with left := 3 }] })
theorem test_witness_TransfersOfControl_with_results :
    (∀ s ∈ [owingOne, owingTwo], s.Admits acceptG [] ∧ s.w.pend.any (fun p => decide (p.unit = s.unit)) = true) ∧
    owingOne.w.mayClose owingOne.unit = true ∧ owingTwo.w.mayClose owingTwo.unit = false ∧
    owingOne.Divides (fun _ => base.u.pc + 4 * (1#21).signExtend 64) ∧ owingTwo.Divides (fun _ => base.u.pc + 4 * (1#21).signExtend 64) := by
  refine ⟨?_, ?_, ?_, divides_of ?_, divides_of ?_⟩
  · intro s hs
    rcases List.mem_pair.1 hs with rfl | rfl <;> ((repeat' apply And.intro) <;> decide +kernel)
  all_goals decide +kernel

/-- A split whose two children have come to a JOIN; two gangs of the warp, of which one waits at a REGANG of all slices. -/
def family : Warp := { base.w with units :=
  [(8, { IUnit.blank with lanes := 0, pc := 0x10000, park := .parent }), (9, { IUnit.blank with lanes := 1, pc := 0x10004, park := .join, root := false, parent := 8 }),
   (10, { IUnit.blank with lanes := 2, pc := 0x10008, park := .join, root := false, parent := 8 })] }
def meeting : State := onW base (fun w => { w with units :=
  [(0, { IUnit.blank with lanes := 0xFFFF, pc := 0x10000 }), (4, { IUnit.blank with lanes := 0xFFFF0000, pc := 0x20000, park := .regang 255 })] })
theorem test_witness_MergingRendezvousAndLoops_children_and_gangs :
    (let kids := family.units.filter (fun x => 8 ≤ x.1 && !x.2.root && x.2.parent = 8)
     ((Table.find family.units 8).map (·.park)) = some .parent ∧ kids ≠ [] ∧ ∀ x ∈ kids, x.2.park = .join) ∧
    (meeting.NoResults ∧ meeting.Admits acceptNone [] ∧ (meeting.w.units.map (·.1)).Nodup ∧ meeting.unit < 8 ∧ sliceMask meeting.u.lanes &&& ~~~255#8 = 0 ∧
      (meeting.w.units.all (fun x => decide (x.1 < 8) && decide (x.2.park ≠ .parent) && (match x.2.park with
        | .regang n => decide (n = 255)
        | _ => true)) = true) ∧
      ∀ L, L < 32 → meeting.w.live.getLsbD L = true → (255#8).getLsbD (L / 4) = true →
        meeting.u.lanes.getLsbD L = true ∨ ∃ x ∈ meeting.w.units, x.2.park = .regang 255 ∧ x.2.lanes.getLsbD L = true) := by
  refine ⟨?_, noResults_of ?_, ?_, ?_, ?_, ?_, ?_, ?_⟩ <;> (repeat' apply And.intro) <;> decide +kernel

theorem test_witness_WarpRegisterInstructions_csrr :
    (base.imm32 17).toNat ∈ base.plainRegisters.map (·.1) ∧ (base.imm32 0).toNat ∈ base.plainRegisters.map (·.1) ∧ base.Admits acceptI [sd .a 111] ∧
    ((imm (handler base) 16).imm32 0x10).toNat ∈ (imm (handler base) 16).handlerRegisters.map (·.1) ∧ (imm (handler base) 16).w.handler = true ∧
    (imm (handler base) 16).Admits acceptI [sd .a 4] := by
  (repeat' apply And.intro) <;> decide +kernel

theorem test_witness_TrapsAndReturns_submitted_and_split :
    (let s := handled.setLaunch 5 { Launch.blank with asid := 1, phase := .submitted }
     ∃ x ∈ s.launches, x.2.asid = s.g.asid ∧ x.2.phase = .submitted) ∧
    ((trapped (some ⟨9, 3⟩)).w.tframe = some (frame (some ⟨9, 3⟩)) ∧ (trapped (some ⟨9, 3⟩)).Admits acceptNone [] ∧ (3#32) &&& (trapped none).w.live ≠ 0) := by
  (repeat' apply And.intro) <;> decide +kernel

def xlatedB (r : State × Xlate) : Bool := match r.2 with
  | .ok _ => true
  | _ => false
theorem xlated_of {r : State × Xlate} (h : xlatedB r = true) : ∃ t p, r = (t, .ok p) := by
  obtain ⟨t, _ | _ | _ | _⟩ := r <;> simp_all [xlatedB]
theorem test_witness_TranslationAndItsFaults_page : ∃ t p, base.xlatePage base.who accWrite 0x20000 4 = (t, .ok p) := xlated_of (by decide +kernel)

/-- The second gibibyte of context 1 is memory of device 9; a lane at its start and lanes in local memory, one by one. -/
def remote (s : State) : State := words s [(0x3008, 0x11F + 2 ^ 42 * 9)]
def far (m : Lanes) (n : Nat) : State := { remote (pairs (guarded base m) 4 (fun L => if L < n then BitVec.ofNat 64 (0x40000000 + 4 * L) else BitVec.ofNat 64 (0x20000 + 4 * L))) with byLane := true }
def oneKeyB (ps : List (Nat × Segs)) (key : Nat) : Bool :=
  ps.all (fun x => x.2.all (fun y => match y.1 with
    | .here _ k => k == key
    | .away _ _ _ => true))
theorem oneKey_of {ps : List (Nat × Segs)} {key : Nat} (h : oneKeyB ps key = true) : OneKey ps key := by
  intro x hx y hy
  simp only [oneKeyB, List.all_eq_true] at h
  have := h x hx y hy
  split at this <;> simp_all
theorem okey {g : Got (List (Nat × Segs))} {key n : Nat} (h : okB g (fun _ ps => oneKeyB ps key && decide (ps.length = n)) = true) :
    ∃ t ps, g = .ok t ps ∧ OneKey ps key ∧ ps.length = n := by
  obtain ⟨t, ps, e, h⟩ := ok_of (g := g) (fun _ ps => (oneKeyB ps key && decide (ps.length = n)) = true) (by simpa using h)
  simp only [Bool.and_eq_true, decide_eq_true_eq] at h
  exact ⟨t, ps, e, oneKey_of h.1, h.2⟩
theorem test_witness_LoadsAndStores_remote_and_lane_by_lane :
    (∀ s ∈ [far 3 1, far 1 1], s.byLane = true ∧ s.u.olds = [] ∧ s.framed acceptAll [vdata .a 2 1, vbase .b 4] = true ∧
      [vdata .a 2 1, vbase .b 4].any s.illOp = false ∧ [vdata .a 2 1, vbase .b 4].findSome? s.boundOp = none ∧ s.missesLine [vdata .a 2 1, vbase .b 4] = false ∧
      s.opqShort [vdata .a 2 1, vbase .b 4] = false ∧ storeLegal (s.imm32 4) true = true) ∧
    (∃ t ps, (far 3 1).reachLanes (far 3 1).who accWrite ((far 3 1).globalRuns ((far 3 1).globalAddr [vdata .a 2 1, vbase .b 4] ((far 3 1).imm32 4)) 4) = .ok t ps ∧
      OneKey ps 0 ∧ ps.length = 2) ∧
    (∃ t ps, (far 1 1).reachLanes (far 1 1).who accWrite ((far 1 1).globalRuns ((far 1 1).globalAddr [vdata .a 2 1, vbase .b 4] ((far 1 1).imm32 4)) 4) = .ok t ps ∧
      OneKey ps 0 ∧ ps.length = 1) ∧
    (let s := { pad (vec (guarded base 1) 8 64) with byLane := true }
     s.framed acceptAll [vdata .a 2 1, voff .b 8] = true ∧ storeLegal (s.imm32 4) false = true ∧
       ∃ t ps, s.reachLanes s.who accWrite (s.scratchRuns (s.offsetAddr [vdata .a 2 1, voff .b 8] 4) 4) = .ok t ps ∧ OneKey ps 0 ∧ ps.length = 1) := by
  refine ⟨?_, okey ?_, okey ?_, ?_, ?_, okey ?_⟩
  · intro s hs
    rcases List.mem_pair.1 hs with rfl | rfl <;> ((repeat' apply And.intro) <;> decide +kernel)
  all_goals decide +kernel

theorem test_witness_CurveBoxes_absent_line :
    (let s := onG (split 16) (fun g => { g with absent := [0] })
     s.Admits acceptGX (splitOps 20 16 30) ∧ s.act ≠ 0 ∧ (runsFrom ⟨2, 3⟩ 0 63 4 0).1 ≠ [] ∧
       s.g.present 16 (16 * (runsFrom ⟨2, 3⟩ 0 63 4 0).1.length) = false ∧ 16 + 16 * (runsFrom ⟨2, 3⟩ 0 63 4 0).1.length ≤ s.spadSize s.g) ∧
    112 ≤ (112#7).toNat ∧ (split 16).framed acceptGX (splitOps 20 16 112) = true := by
  (repeat' apply And.intro) <;> decide +kernel

/-- The warp's read of a barrier object of device 9 has been answered. -/
def answeredObj : State :=
  { remote base with pending := [{ id := 1, host := false, dev := 9, addr := 0, write := none, bytes := 16, atomic := none, owner := .unit 1 0,
                                   tag := objectTag, via := some 2, answer := some (List.replicate 16 0) }] }
def awayB (p : Segs) : Bool := match p with
  | [(.away _ _ _, 16)] => true
  | _ => false
theorem away_of {p : Segs} (h : awayB p = true) : ∃ x d pa, p = [(.away x d pa, 16)] := by
  unfold awayB at h
  split at h
  · exact ⟨_, _, _, rfl⟩
  · simp at h
theorem test_witness_BarrierPhases_remote :
    (0x40000000#64).getLsbD 60 = false ∧ ∃ t x d pa, answeredObj.reach answeredObj.who accAtomic [(0x40000000, 16)] = .ok t [(.away x d pa, 16)] ∧
      t.objectBusy answeredObj.who.waiter [(.away x d pa, 16)] = false ∧ (t.answer answeredObj.who.waiter objectTag).isSome = true := by
  refine ⟨by decide +kernel, ?_⟩
  obtain ⟨t, p, h, g⟩ := ok_of (g := answeredObj.reach answeredObj.who accAtomic [(0x40000000, 16)]) (fun t p => awayB p = true ∧
    t.objectBusy answeredObj.who.waiter p = false ∧ (t.answer answeredObj.who.waiter objectTag).isSome = true) (by decide +kernel)
  obtain ⟨x, d, pa, rfl⟩ := away_of g.1
  exact ⟨t, x, d, pa, h, g.2⟩

/-- A unit whose combination has held between two writes. -/
def woke : State := onU base (fun u => { u with park := .wait { waitRec 5 with woken := some 1 } })
theorem test_witness_WaitsAndHeartbeat_woken :
    woke.u.park = .wait { waitRec 5 with woken := some 1 } ∧ woke.running = true ∧ woke.waitFaulted = false ∧ base.queues = [] ∧
    (waited 5).u.park = .wait (waitRec 5) ∧ (waitRec 5).woken = none := by
  (repeat' apply And.intro) <;> decide +kernel

/-- The gang list of both warps, warp 2 at the latch of tile 0 with an envelope in its lanes; the arriving warp's envelope in register 5; a
latch of another list; in a kernel with a handler. -/
def voting (mine yours list : W32) (tile : Nat) : State :=
  let s := onL (onG (onW (matrix (vec base 5 mine)) (fun w => { w with gangList := 3 })) (fun g => { g with nwarps := 2, warps := [1, 2] })) (fun l => { l with handler := 0x20000 })
  let s := s.setWarp 2 { s.w with index := 1 }
  let x : Arrival := { warp := 2, index := 1, unit := 0, word := 0, vals := lanes32.map (fun L => (L, yours)) }
  onEng s (fun e => { e with latches := [(tile, { list := list, steps := 1, arrivals := [x] })] })
def arrivalsOf (s : State) : List Arrival := ((Table.find s.g.eng.latches 0).map (·.arrivals)).getD [] ++
  [{ warp := s.cur, index := s.w.index, unit := s.unit, word := s.ir,
     vals := (Lanes.list s.act).map (fun L => (L, (s.valueAt intConsts [vblock .b 5 1 1] .b L).setWidth 32)) }]
def votesOf (s : State) : List (Nat × W32) := (arrivalsOf s).flatMap (fun x => x.vals.map (fun y => (32 * x.index + y.1, y.2)))
def oddB (s : State) (x : Nat × Latch) : Bool := if x.1 = 0 then decide (x.2.list ≠ s.w.gangList ∨ x.2.steps ≠ 1) else x.2.list.getLsbD s.w.index
theorem test_witness_MatrixInstructions_votes :
    (∀ s ∈ [voting 1 2 3 0, voting 0xFFFFFFFF 0xFFFFFFFF 3 0, voting 1 2 1 0, voting 1 2 3 1], s.launch.matrix = true ∧ s.launch.handler ≠ 0 ∧ s.w.handler = false ∧ s.w.live ≠ 0 ∧
      s.Admits acceptXI [vblock .b 5 1 1] ∧ (s.imm32 1).toNat = 1 ∧ s.unit < 8 ∧ s.u.lanes = s.w.live ∧ s.w.gangList ≠ 0 ∧
      ((s.g.eng.latches.flatMap (fun x => x.2.arrivals)).map (·.warp)).Nodup ∧
      ∀ x ∈ s.g.eng.latches.flatMap (fun x => x.2.arrivals), x.warp ≠ s.cur ∧ (s.warpAt x.warp).wg = s.w.wg ∧ (s.warpAt x.warp).handler = false ∧ (s.warpAt x.warp).live ≠ 0) ∧
    (∀ s ∈ [voting 1 2 3 0, voting 0xFFFFFFFF 0xFFFFFFFF 3 0], s.g.eng.latches.all (fun x => !oddB s x) = true ∧
      (∀ i ∈ Lanes.list s.w.gangList, s.indexEnded s.g i = false ∧ ∃ x ∈ arrivalsOf s, x.index = i) ∧ ((arrivalsOf s).map (·.index)).Nodup ∧
      ∀ x ∈ arrivalsOf s, x.index < 32 ∧ x.vals ≠ [] ∧ (x.vals.map (·.1)).Pairwise (· < ·) ∧ ∀ y ∈ x.vals, y.1 < 32) ∧
    ((0, 1#32) ∈ votesOf (voting 1 2 3 0) ∧ (∀ v ∈ votesOf (voting 1 2 3 0), 0 ≤ v.1) ∧ (32, 2#32) ∈ votesOf (voting 1 2 3 0) ∧
      ∀ v ∈ votesOf (voting 1 2 3 0), v.2 ≠ 1 → 32 ≤ v.1) ∧
    ((∀ v ∈ votesOf (voting 0xFFFFFFFF 0xFFFFFFFF 3 0), v.2 = 0xFFFFFFFF) ∧ envBad 0xFFFFFFFF = true) ∧
    (∀ s ∈ [voting 1 2 1 0, voting 1 2 3 1], (s.g.eng.latches.filter (oddB s)).length = 1) ∧
    (let s := onEng (ganged 1 true) (fun e => { e with ops := List.replicate 8 (.accz 1 0) })
     s.Admits acceptXI [vblock .b 5 1 1] ∧ 8 ≤ s.g.eng.ops.length ∧ s.act ≠ 0) ∧
    (let s := onEng (block4 (matrix base) 0x20000 512 0 0) (fun e => { e with ops := List.replicate 8 (.accz 1 0) })
     s.Admits acceptX [sblock .b 4 4] ∧ 8 ≤ s.g.eng.ops.length) := by
  refine ⟨?_, ?_, ?_, ?_, ?_, ?_, ?_⟩
  · intro s hs
    fin_cases hs <;> ((repeat' apply And.intro) <;> decide +kernel)
  · intro s hs
    rcases List.mem_pair.1 hs with rfl | rfl <;> ((repeat' apply And.intro) <;> decide +kernel)
  pick_goal 3
  · intro s hs
    rcases List.mem_pair.1 hs with rfl | rfl <;> decide +kernel
  all_goals (repeat' apply And.intro) <;> decide +kernel

/-- The prologue's first word loads from an unmapped address; a launch whose workgroup has gone with a remote store not performed; a core-time
word of device 9 that has been read, and its charge answered with a value. -/
def proHeld : State := (proStart 0x008102D0).setLaunch 5 { (proStart 0x008102D0).launchAt 5 with pregs := [(4, 0x80000000)] }
def chargeKey : Nat := 2 ^ 64 + 0x40000000
def charging (answers : List (List Byte)) : State :=
  let a : Access := { id := 1, host := false, dev := 9, addr := 8, write := none, bytes := 8, atomic := none, owner := .charge chargeKey, tag := 0, via := some 2,
                      answer := some [5, 0, 0, 0, 0, 0, 0, 0] }
  { remote base with pending := a :: answers.map (fun bs => { a with id := 2, atomic := some (9, 5, 4), tag := 1, answer := some bs }) }
def farWord (s : State) (g : State → Bool) : Bool :=
  okB (s.reach (engineWho 1 0 9 0 0 (.charge chargeKey)) accAtomic [(chargeKey % 2 ^ 64 + 8, 8)]) (fun v p => (match p with
    | [(.away _ _ _, 8)] => true
    | _ => false) && decide (v.segBytes (.charge chargeKey) 0 p = some [5, 0, 0, 0, 0, 0, 0, 0]) && g v)
theorem test_witness_LaunchLifecycle_prologues_and_remote_words :
    (let s := recorded twoGroups 0x30000
     (s.launchAt 5).phase = .submitted ∧ (s.launchAt 5).code = 0 ∧ s.launchParked 5 = false ∧
       okB ((s.readLaunch 5 (s.launchAt 5)).atomic s (.launch 5)) (fun _ x => match x with
         | .ok l => decide (l.prologue ≠ 0)
         | .error _ => false) = true) ∧
    ((proHeld.launchAt 5).phase = .prologue ∧ (proHeld.launchAt 5).ppc < 64 ∧ ((proStart 0).launchAt 5).repeats = false) ∧
    okB (proHeld.reach (proHeld.frontWho 5) accFetch [(0x30000, 4)]) (fun v p => match v.segBytes (.launch 5) (64 * 0x30000 + 32) p with
      | some bs => (match v.proWord 5 (proHeld.launchAt 5) (BitVec.ofNat 32 (bytesVal bs)) with
        | .held _ => true
        | _ => false)
      | none => false) = true ∧
    (let s := onL (posting dead) (fun l => { l with phase := .storing })
     (s.launchAt 1).phase = .storing ∧ s.launchParked 1 = false ∧ s.launchOut 1 = true) ∧
    farWord (charging []) (fun v => (v.answer (.charge chargeKey) 1).isNone) = true ∧
    farWord (charging [[5, 0, 0, 0, 0, 0, 0, 0]]) (fun v => decide (v.answer (.charge chargeKey) 1 = some [5, 0, 0, 0, 0, 0, 0, 0])) = true ∧
    farWord (charging [[7, 0, 0, 0, 0, 0, 0, 0]]) (fun v => decide (v.answer (.charge chargeKey) 1 = some [7, 0, 0, 0, 0, 0, 0, 0])) = true := by
  (repeat' apply And.intro) <;> decide +kernel

def isNumFrom (q : Int) : FVal → Bool
  | .num _ _ e => decide (q ≤ e)
  | _ => false
theorem num_of {q : Int} {v : FVal} (h : isNumFrom q v = true) : v.Num q := by
  cases v <;> simp_all [isNumFrom, FVal.Num]
/-- O17: numbers and special operands in the formats, with exponents that the clauses take: the sum and product of 1.5 and -1, the root of
1.5 at exponent -150 and its reciprocal with 2^400, the integer and power of two 2.0. -/
theorem test_witness_RoundingOfValues_numbers :
    f32 ∈ [f32, f16, bf16, e4m3, e5m2] ∧ (decodeF f32 0x3FC00000).Num f32.qmin ∧ (decodeF f32 0xBF800000).Num (-30) ∧
    (decodeF f32 0x3FC00000).Num (2 * -150) ∧ (decodeF f32 0x3FC00000).Num (-2 * -150 - 400) ∧ (-150 : Int) ≤ f32.qmin ∧
    (decodeF f16 0x3C00).Num (-149) ∧ (decodeF f32 0x40000000).Num (-23) :=
  ⟨by simp, num_of (by decide +kernel), num_of (by decide +kernel), num_of (by decide +kernel), num_of (by decide +kernel),
    by decide +kernel, num_of (by decide +kernel), num_of (by decide +kernel)⟩
theorem test_witness_RoundingOfValues :
    (0x3F800000 < 2 ^ f32.width ∧ (decodeF f32 0x3F800000).isNan = false) ∧
    ((decodeF f32 0x3FC00000).isZero = false ∧ (decodeF f32 0x3FC00000).neg = false) ∧
    Sys2Proof.Machine.scaled (-23) (decodeF f32 0x40000000) = 2 * 2 ^ 23 ∧ (5 : Byte) ≠ 0xFF ∧
    (∀ x ∈ [0x3F80, 0x4000, 0], x < 2 ^ bf16.width ∧ (decodeF bf16 x).isNan = false ∧ (decodeF bf16 x).isInf = false) ∧
    ((decodeF f32 0x7FC00000).isNan ∧ (decodeF f32 0x7F800001).isSig ∧ (decodeF f32 0x7F800000).isInf ∧ (decodeF f32 0x80000000).isZero ∧
      (decodeF f32 0xBF800000).neg) := by
  decide +kernel

/-- O46: a WAIT packet whose condition cannot be read; one that is ripe; and at its time-out one that is not, and one that is. -/
def waitWs (w1 : W64) : List W64 := [5, w1, 0, 4]
def waitingPacket (w1 : W64) : State := { onQueue (packet base (waitWs w1) []) 3 (fun x => { x with waiting := some 0 }) with tick := 4 }
theorem test_witness_Packets_that_time_out :
    (∃ t, (packet base (waitWs (BitVec.ofNat 64 (2 ^ 61 + 0x20000))) []).AtIssue t 3 5 (fetched (waitWs (BitVec.ofNat 64 (2 ^ 61 + 0x20000))) []) [] ∧
      okB ((t.heldAtIssue 3).packetCond 3 (fetched (waitWs (BitVec.ofNat 64 (2 ^ 61 + 0x20000))) [])) (fun _ b => b) = true) ∧
    (∃ t, (packet base (waitWs (BitVec.ofNat 64 (2 ^ 61 + 0x80000000))) []).AtIssue t 3 5 (fetched (waitWs (BitVec.ofNat 64 (2 ^ 61 + 0x80000000))) []) [] ∧
      faultB ((t.heldAtIssue 3).packetCond 3 (fetched (waitWs (BitVec.ofNat 64 (2 ^ 61 + 0x80000000))) [])) = true) ∧
    (let s := waitingPacket (BitVec.ofNat 64 (2 ^ 61 + 0x20000))
     s.packetExpired 3 = true ∧ s.packetRipe 3 = true) ∧
    (let s := waitingPacket (BitVec.ofNat 64 (2 ^ 61 + 2 ^ 57 + 0x20000))
     s.packetExpired 3 = true ∧ s.packetRipe 3 = false) := by
  refine ⟨atIssue_of ?_, atIssue_of ?_, ?_, ?_⟩ <;> decide +kernel

/-- O48: five bytes that a compaction has written are still to be subtracted on the object at 0x30000. O49: an object whose domain base is read
first; objects whose domain has ended, in each phase that sees it; one whose routine launch ended with code 7. -/
def counted : State := (words folk [(0x8088, 0x30000)]).setWorld 1 0 { WorldState.blank with moved := 5 }
theorem bytes_of {s : State} (h : worldB s (officeWho 1 0 0) 0 (fun t d => decide (d.cbar ≠ 0) && okB (t.countBytes (officeWho 1 0 0) 0 d.cbar 5) (fun _ _ => true)) = true) :
    ∃ t ref v, s.compactEnd 1 0 = .ok t ref ∧ ref ≠ 0 ∧ t.countBytes (officeWho 1 0 0) 0 ref 5 = .ok v () := by
  obtain ⟨t, d, h1, h⟩ := world_of h
  simp only [Bool.and_eq_true, decide_eq_true_eq] at h
  obtain ⟨v, _, h2⟩ := ok_of' h.2
  exact ⟨t, d.cbar, v, by simp only [State.compactEnd, h1, Got.bind], h.1, h2⟩
theorem test_witness_WorldEvents_bytes :
    (counted.officeParked 1 0 = false ∧ counted.unperformedBy (.office 1 0) = false ∧ (counted.worldAt 1 0).moved = 5) ∧
    ∃ t ref v, counted.compactEnd 1 0 = .ok t ref ∧ ref ≠ 0 ∧ t.countBytes (officeWho 1 0 0) 0 ref 5 = .ok v () :=
  ⟨by decide +kernel, bytes_of (by decide +kernel)⟩
def lostObj (p : RecPhase) : State := (ofObject p).setObj 7 { object p with dead := true }
theorem test_witness_RecursionEngine_domains :
    (((ofObject .start).objAt 7).ends = [] ∧
      okB ((ofObject .start).recRead 7 (object .start)) (fun t r => isOkB r && okB (t.recDomainBase (recWho (object .start) 7) 0x28100) (fun t1 _ =>
        baseB t1 (fun v b => okB (v.recRoot 7 (furnishedObj b)) (fun x _ => baseB x (fun _ _ => true))))) = true) ∧
    (∀ p ∈ [RecPhase.start, .ending 1 0, .arriving 2 0, .divide 0], ((lostObj p).objAt 7).dead = true ∧ ((lostObj p).objAt 7).phase = p ∧
      ((lostObj p).launchAt (((lostObj p).objAt 7).launch.getD 0)).phase = .ended) ∧
    (let s := (ofObject (.base 0)).setLaunch 5 { (ofObject (.base 0)).launchAt 5 with code := 7 }
     (s.objAt 7).phase = .base 0 ∧ (s.launchAt ((s.objAt 7).launch.getD 0)).phase = .ended ∧ (s.launchAt ((s.objAt 7).launch.getD 0)).code = 7 ∧
       s.recParked 7 = false) := by
  (repeat' apply And.intro) <;> decide +kernel

/-- O51: a core whose sampling unit is full; a header line that is absent; a ray whose grid is not mapped. -/
def manyRays : State := let s := marching 0; s.setCoreAt 0 { s.coreAt 0 with rays := (List.range 1024).map (fun k => (k, ray 0)) }
def lostRay : Ray := { ray 0x3F800000 with words := marchWords.set 0 0x80000000 }
def astray : State := let s := flying 0x3F800000 1 0; s.setCoreAt 0 { s.coreAt 0 with rays := [(3, lostRay)] }
theorem test_witness_RayMarching_waits :
    ¬ (manyRays.core.rays.length + Lanes.count manyRays.act ≤ 1024) ∧
    (let s := onG (marching 0) (fun g => { g with absent := [0] })
     s.core.rays.length + Lanes.count s.act ≤ 1024 ∧ s.act.getLsbD 0 = true ∧ s.g.present (marchQueue marchWords) 128 = false) ∧
    (Table.find (astray.coreAt 0).rays 3 = some lostRay ∧ (astray.wgAt 1).phase = .resident ∧ lostRay.held = none ∧
      faultB ((astray.marchTurn 0 3 lostRay).atomic astray (.ray 0 3)) = true) := by
  (repeat' apply And.intro) <;> decide +kernel

/-- O53: a write to a page of device 9 that a checkpoint has yet to copy, and a write to an object of device 9 while its update is under way. -/
def awayCut : Checkpoint := { cut0 [{ number := 0, page := none, key := none, away := some (false, 9, 0) }] [] 0 [] false with phys := false }
def heldOver (n : Nat) (tag : Nat) (via : Option Nat) : State :=
  { leftOver 2 (asks false (some [1, 2]) none none) with
    pending := [asks false (some [1, 2]) none none, { asks false none none via with bytes := n, owner := .queue 3, tag := tag }] }
theorem test_witness_AccessesLeftToPerform_held :
    (let s := { leftOver 2 (asks false (some [1, 2]) none none) with ckpt := some awayCut }
     s.heldByCut (asks false (some [1, 2]) none none) = true ∧ awayCut.failed = false ∧
       (asks false (some [1, 2]) none none).addr / 4096 = 0 ∧ s.heldByCut (asks false none none none) = false) ∧
    ((heldOver 16 objectTag (some 2)).heldByObject (asks false (some [1, 2]) none none) = true ∧
      (heldOver 16 0 (some 2)).heldByObject (asks false (some [1, 2]) none none) = false ∧
      (leftOver 2 (asks false (some [1, 2]) none none)).heldByCut (asks false (some [1, 2]) none none) = false) := by
  (repeat' apply And.intro) <;> decide +kernel
/-- O55: no ray or stream waits on the entry; operands outside the map. -/
theorem test_witness_ContextCommands_cancel_and_map :
    ((∀ y ∈ parkedOn.cores, (∀ z ∈ y.2.streams, z.2.state ≠ .parked 0 5) ∧ ∀ z ∈ y.2.rays, z.2.held ≠ some (0, 5)) ∧
      ∀ y ∈ parkedOn.wgs, (∀ z ∈ y.2.streams, z.2.state ≠ .parked 0 5) ∧ ∀ z ∈ y.2.rays, z.held ≠ some (0, 5)) ∧
    (2 ^ 40 < 2 ^ 45 + 8 ∧ inMap (2 ^ 45) 8 = false ∧ inMap (2 ^ 45) 48 = false ∧ 0xC1E < 0x10000800000) := by
  decide +kernel
/-- O56: a flit with its CRC, and one with another; a refusal of what was asked; a forwarded flit in flight; a request that a move's destination does
not take. -/
def checked (k : BitVec 4) (data : List Byte) : Flit := { flit k with crc := crcOf (flit k) (data.take 64) }
def forwarded (o : Outgoing) : State := { up with ports := [(2, { up.portAt 2 with flight := [o] })] }
theorem test_witness_PortsAndFlits_checked :
    (∀ k data, (checked k data).crc = crcOf (checked k data) (data.take 64)) ∧
    (∀ k data, ({ checked k data with crc := (checked k data).crc + 1 } : Flit).crc ≠
      crcOf { checked k data with crc := (checked k data).crc + 1 } (data.take 64)) ∧
    (∀ data, ∀ k ∈ [1, 2, 3, 4, 6, 7], (checked k data).kind = k ∧ (checked k data).seq = (up.portAt 2).expect ∧ (checked k data).dest = up.devid) ∧
    ((up.portAt 2).expect ≠ 1 ∧ (moving .forwarding).carries 9 none 8 = true ∧ (moving .forwarding).routeOf 9 ≠ 12 ∧
      ({ moving .forwarding with routes := [(9, 3)] }.carries 9 none 8 = false)) ∧
    (let o := (asks false (some [1, 2]) none none).transfer 7
     (forwarded { o with head := { o.head with kind := 6 } }).portAt 2 = { up.portAt 2 with flight := [{ o with head := { o.head with kind := 6 } }] } ∧
       o.head.src ≠ up.devid) ∧
    (∀ x y z, (asks false none none (some 2)).owner ≠ .peer x y z) ∧ (asks false none none (some 2)).via.isSome = true := by
  refine ⟨fun _ _ => rfl, fun k data h => ?_, fun data k hk => ?_, ?_, ?_, fun x y z h => by simp [asks] at h, rfl⟩
  · have e : crcOf { checked k data with crc := (checked k data).crc + 1 } (data.take 64) = (checked k data).crc := rfl
    rw [e] at h
    have : ∀ c : Byte, c + 1 ≠ c := by decide
    exact this _ h
  · exact ⟨rfl, rfl, rfl⟩
  all_goals decide +kernel
/-- O57: a host write to a remote page that is not performed, and none. -/
theorem test_witness_HostAndEthernet_waits :
    { base with pending := [{ asks false (some [1]) none (some 2) with owner := .host }] }.hostWaits = true ∧ base.hostWaits = false := by
  (repeat' apply And.intro) <;> decide +kernel

/-- O58: a decision kept before the member's own GANGSLICE, and none; a token's flit with its CRC at a device without the slice. -/
def toldOf (x : Option (GangToken × Nat)) : State := { sliceRecord 2 1 0 1 with told := (x.map (fun y => [(7, y)])).getD [] }
theorem test_witness_GangSlices_told :
    (let s := toldOf (some (.forfeit 1, 50))
     Memory.readN s.ctlMem 0 8 = 7 ∧ Table.find s.told 7 = some (.forfeit 1, 50) ∧ 50 ≤ Memory.readN s.ctlMem 8 8 + 250000 ∧ Table.find s.slices 7 = none) ∧
    Table.find (toldOf none).told (Memory.readN (toldOf none).ctlMem 0 8) = none ∧
    (∀ t, (checked 5 (tokenBytes 7 t)).crc = crcOf (checked 5 (tokenBytes 7 t)) ((tokenBytes 7 t).take 64)) ∧ ∀ j, GangToken.go ≠ .ready j := by
  refine ⟨?_, ?_, fun _ => rfl, fun j h => by cases h⟩
  · (repeat' apply And.intro) <;> decide +kernel
  · decide +kernel
/-- O59: a checkpoint that still owes its object the bytes of an acknowledged write, and one whose next page was remote at the cut. -/
def owes8 : Checkpoint := { cut0 [⟨0, some 0, none, none⟩] [] 1 [] false with ref := 0x20000, owed := 8, asid := 1 }
def inStore : State := { cutting (cut0 [] [] 2 [4] false) with store := [{ id := 4, qp := 3, key := 0, addr := 0, data := [1, 2] }] }
def cutAway (answers : List (List Byte)) : State :=
  { up with ckpt := some awayCut, pending := answers.map (fun bs => { asks false none none (some 2) with
      addr := 0, bytes := 4096, owner := .checkpoint, tag := 0, answer := some bs }) }
theorem test_witness_MigrationAndCheckpoints_owed_and_away :
    (let s := cutting owes8
     owes8.ref ≠ 0 ∧ owes8.owed ≠ 0 ∧ s.ckptParked = false ∧ s.unperformedBy .checkpoint = false ∧ owes8.owes = true ∧
       okB (s.countBytes (ckptWho owes8.asid) 0 owes8.ref owes8.owed) (fun t _ => decide (t.ckpt = some owes8)) = true) ∧
    ((inStore.store.find? (fun x => x.id = 4)).isSome = true ∧ inStore.pending = []) ∧
    ((migrating .copying [] 0).carries 9 none 4096 = true ∧ { migrating .copying [] 0 with routes := [(9, 3)] }.carries 9 none 4096 = false) ∧
    (awayCut.failed = false ∧ (cutAway []).ckptParked = false ∧ awayCut.owes = false ∧ ((cutAway []).nextCut awayCut).isSome = true ∧
      (cutAway []).placeDenied (ckptWho awayCut.asid) accRead (.away false 9 0) = false ∧
      (cutAway []).segBytes .checkpoint (64 * awayCut.base) [(.away false 9 0, 4096)] = none) := by
  (repeat' apply And.intro) <;> decide +kernel
theorem test_witness_MigrationAndCheckpoints_answered :
    ((cutAway [[5]]).segBytes .checkpoint (64 * awayCut.base) [(.away false 9 0, 4096)]).isSome = true := by
  decide +kernel
/-- O60: a plug-in's region, accesses inside and outside it, and its tenant's contexts. -/
def plugged : State := { base with plugins := [(3, { base := 0x1000, size := 64, contexts := [1] })] }
theorem test_witness_BringUp_plugins :
    Table.find plugged.plugins 3 = some { base := 0x1000, size := 64, contexts := [1] } ∧ 3 ∉ plugged.stopped ∧
    (0x1000 + 64 < 0x103C + ((none : Option (List Byte)).map List.length).getD 8 ∧ 0xFF8 < 0x1000) ∧
    (0x1000 ≤ 0x1038 ∧ 0x1038 + (List.replicate 8 (0 : Byte)).length ≤ 0x1000 + 64) ∧ 1 ∈ [1] ∧ 2 ∉ [1] := by
  decide +kernel

end Sys2Proof.Tests
end

section
/-! Tables: a listed value is what a read with a default gives, and keys that are machine words. -/
namespace Sys2Proof

theorem Table.get_of_find {α : Type} {d x : α} {t : Table α} {k : Nat} (h : Table.find t k = some x) : Table.get d t k = x := by
  induction t with
  | nil => cases h
  | cons p t ih =>
    obtain ⟨j, v⟩ := p
    simp only [Table.find, Table.get] at h ⊢
    split_ifs at h ⊢ with e
    · exact Option.some.inj h
    · exact ih h

/-- A route after a write of the route table: 18-bit device ids are its keys. -/
theorem Table.get_put_toNat {w : Nat} {α : Type} [DecidableEq α] (d : α) (t : Table α) (a b : BitVec w) (x : α) :
    Table.get d (Table.put d t a.toNat x) b.toNat = if b = a then x else Table.get d t b.toNat := by
  rw [Table.get_put]; simp only [BitVec.toNat_inj]

/-- What a read with a default gives is the default, or is listed. -/
theorem Table.get_eq_default_or_mem {α : Type} (d : α) (t : Table α) (n : Nat) : Table.get d t n = d ∨ (n, Table.get d t n) ∈ t := by
  induction t with
  | nil => exact .inl rfl
  | cons p t ih =>
    obtain ⟨k, v⟩ := p
    simp only [Table.get]
    split_ifs with e
    · exact .inr (e ▸ List.mem_cons_self)
    · exact ih.imp id (List.mem_cons_of_mem _)

end Sys2Proof
end

section
/-! The state at module reset (R9, R309, R339). -/
namespace Sys2Proof.Machine

/-- The measurement registers, six words each (R309). -/
theorem State.deviceReg_measurement (s : State) (die : Nat) {n : Nat} (lo : 0xC40 ≤ n) (hi : n < 0xC58) :
    s.deviceReg die n = some ((Table.get 0#384 s.meas ((n - 0xC40) / 6) >>> (64 * ((n - 0xC40) % 6))).setWidth 64) := by
  simp only [State.deviceReg]
  rw [if_neg (by omega), if_neg (by omega), if_pos ⟨lo, hi⟩]

/-- Settles O3: nothing is listed in any table at reset, and every register reads its default. -/
theorem stateAtReset : Obligations.StateAtReset := by
  unfold Obligations.StateAtReset
  refine ⟨rfl, rfl, fun n hn die => ?_, fun _ => rfl, fun _ => rfl, fun _ => rfl, fun _ => rfl, rfl, rfl, rfl⟩
  rcases hn with rfl | rfl | rfl | rfl | rfl | rfl | rfl | rfl | rfl | ⟨lo, hi⟩
  iterate 9 · rfl
  · rw [State.deviceReg_measurement _ _ lo (by omega)]
    simp [State.reset]

end Sys2Proof.Machine
end

section
/-! Bring-up: the boot chain, power, plug-ins, the tables of the control complex and soft errors (R334 to R341). -/
namespace Sys2Proof.Machine

/-! ### Measurement registers and the boot chain (R334, R335) -/

/-- Extending a register writes that register alone. -/
theorem State.meas_extendMeas (s : State) (n i : Nat) (d : BitVec 384) :
    Table.get 0#384 (s.extendMeas n d).meas i =
      if i = n then sha384 (digestBytes (Table.get 0#384 s.meas n) ++ digestBytes d) else Table.get 0#384 s.meas i :=
  Table.get_put _ _ _ _ _

/-- What the checks of an accepted stage establish of the flash. -/
theorem stageGood_checks {f : Memory} {a limit stage : Nat} (h : stageGood f a limit stage = true) :
    Config.fusedVersion ≤ Memory.readN f (a + 8) 4 ∧ sha384 (Memory.readBytes f (a + 256) (stageLength f a)) = stageDigest f a ∧
      ecdsaValid Config.publicKey (Memory.readBytes f a 0x50) (Memory.readBytes f (a + 0x50) 96) = true := by
  simp only [stageGood, Bool.and_eq_true, decide_eq_true_eq] at h
  obtain ⟨⟨⟨_, signed⟩, hashed⟩, fused⟩ := h
  exact ⟨fused, hashed, signed⟩

theorem State.runChain_cons_bad {s : State} {a limit st : Nat} (rest : List Nat) (h : stageGood s.flash a limit st = false) :
    s.runChain limit (st :: rest) a = (s, some st) := by
  simp [State.runChain, h]

theorem State.runChain_cons_good {s : State} {a limit st : Nat} (rest : List Nat) (h : stageGood s.flash a limit st = true) :
    s.runChain limit (st :: rest) a =
      ((s.extendMeas (measureOf st) (stageDigest s.flash a)).loadStage a st).runChain limit rest (a + 256 + stageLength s.flash a) := by
  simp [State.runChain, h]

/-- Copy A starts. -/
theorem State.bootModule_first {s t : State} (h : State.runChain (State.extendMeas { s.unpowered with power := .boot } 0 Config.romDigest)
      imageBytes flashStages 0 = (t, none)) : s.bootModule = { t with power := .run } := by
  simp only [State.bootModule, h]

/-- Copy B starts, after copy A has failed. -/
theorem State.bootModule_second {s t u : State} {k : Nat}
    (ha : State.runChain (State.extendMeas { s.unpowered with power := .boot } 0 Config.romDigest) imageBytes flashStages 0 = (t, some k))
    (hb : t.runChain (2 * imageBytes) flashStages imageBytes = (u, none)) : s.bootModule = { u with power := .run } := by
  simp only [State.bootModule, ha, hb]

/-- Neither copy starts. -/
theorem State.bootModule_recovery {s t u : State} {k i : Nat}
    (ha : State.runChain (State.extendMeas { s.unpowered with power := .boot } 0 Config.romDigest) imageBytes flashStages 0 = (t, some k))
    (hb : t.runChain (2 * imageBytes) flashStages imageBytes = (u, some i)) :
    s.bootModule = { u with power := .recovery, bootstat := BitVec.ofNat 8 i } := by
  simp only [State.bootModule, ha, hb]

theorem exec_powerOn_off {s : State} (h : s.power = .off) : exec .powerOn s = .next s.bootModule := if_pos h
theorem exec_powerOn_on {s : State} (h : s.power ≠ .off) : exec .powerOn s = .next s := if_neg h

/-! ### Power (R340) -/

theorem stillOver_eq (was : Bool) (watts : Nat) :
    stillOver was watts = decide (2150 < watts ∨ (was = true ∧ 2100 ≤ watts)) := by
  cases was <;> simp [stillOver]

theorem exec_powerCheck_off {s : State} (w : BitVec 16) (c : Byte) (h : s.power = .off) : exec (.powerCheck w c) s = .next s := if_pos h

/-- At 115 degrees the module switches off. -/
theorem exec_powerCheck_hot {s : State} (w : BitVec 16) {c : Byte} (h : s.power ≠ .off) (hc : 115 ≤ c.toNat) :
    exec (.powerCheck w c) s = .next s.unpowered := (if_neg h).trans (if_pos hc)

/-- A check of a module that runs. -/
theorem exec_powerCheck_run {s : State} (w : BitVec 16) {c : Byte} (h : s.power = .run ∨ s.power = .throttled) (hc : c.toNat < 115) :
    exec (.powerCheck w c) s = .next
      { s with watts := w, temp := c, overPower := stillOver s.overPower w.toNat,
               throttled := stillOver s.overPower w.toNat || decide (105 ≤ c.toNat),
               power := if stillOver s.overPower w.toNat || decide (105 ≤ c.toNat) then .throttled else .run } := by
  have hoff : s.power ≠ .off := by rcases h with h | h <;> simp [h]
  have hcool : ¬ 115 ≤ c.toNat := by omega
  simp only [exec, execPowerCheck, if_neg hoff, if_neg hcool, if_pos h]

/-! ### Plug-ins (R336) -/

/-- The region of a plug-in does not hold an access that begins below it or ends above it. -/
theorem Plugin.covers_eq_false_iff (p : Plugin) (a n : Nat) : p.covers a n = false ↔ a < p.base ∨ p.base + p.size < a + n := by
  simp only [Plugin.covers, Bool.and_eq_false_iff, decide_eq_false_iff_not, not_le]

theorem Plugin.covers_of_le {p : Plugin} {a n : Nat} (lo : p.base ≤ a) (hi : a + n ≤ p.base + p.size) : p.covers a n = true := by
  simp [Plugin.covers, lo, hi]

section
variable {s : State} {n : Nat} {p : Plugin} (found : Table.find s.plugins n = some p)
include found

theorem State.pluginPolicy_other {asid : Nat} (y : List W64) (h : asid ∉ p.contexts) : s.pluginPolicy n asid y = s := by
  simp [State.pluginPolicy, found, h]

variable (runs : n ∉ s.stopped)
include runs

/-- An access outside the region stops the plug-in and is not made. -/
theorem State.pluginAccess_outside {a m : Nat} {w : Option (List Byte)} (h : p.covers a ((w.map List.length).getD m) = false) :
    s.pluginAccess n a m w = { s with stopped := s.stopped ++ [n] } := by
  simp [State.pluginAccess, found, runs, h, State.next, execPluginFault]

/-- A write inside the region is made. -/
theorem State.pluginAccess_write {a m : Nat} {bs : List Byte} (h : p.covers a bs.length = true) :
    s.pluginAccess n a m (some bs) = { s with ctlMem := Memory.writeBytes s.ctlMem a bs } := by
  simp [State.pluginAccess, found, runs, h]

theorem State.pluginPolicy_own {asid : Nat} (y : List W64) (h : asid ∈ p.contexts) :
    s.pluginPolicy n asid y = { s with policies := Table.set s.policies asid y } := by
  simp [State.pluginPolicy, found, runs, h]

end

/-- A fault lists the plug-in as stopped, and nothing else. -/
theorem mem_stopped_after_fault (l : List Nat) (n k : Nat) :
    (k ∈ if l.contains n then l else l ++ [n]) ↔ k ∈ l ∨ k = n := by
  by_cases h : n ∈ l
  · rw [if_pos (by simpa using h)]
    exact ⟨.inl, fun x => x.elim id (fun e => e ▸ h)⟩
  · rw [if_neg (by simpa using h)]; simp

/-! ### Tables of the control complex (R7, R178, R323, R336) -/

/-- The application cores write neither registers nor flash. -/
theorem State.mapStore_app {s : State} {a : Nat} (bs : List Byte) (h : registerBase ≤ a) : s.mapStore .app a bs = none := by
  have hbm : ¬ a + bs.length ≤ 2 ^ 40 := by unfold registerBase at h; omega
  have window : ¬ a < registerBase := by omega
  simp only [State.mapStore, if_neg hbm, if_neg window, true_or, if_true, reduceCtorEq, if_false, ite_self]

/-- A key of the access tables names one target and one master. -/
theorem accessKey_inj {n m x y : Nat} (hm : m < 2 ^ 20) (hy : y < 2 ^ 20) : 2 ^ 20 * x + y = 2 ^ 20 * n + m ↔ x = n ∧ y = m := by omega

theorem exec_accessTableWrite {s : State} {n m : Nat} (e : AccessEntry) (hn : n < 2 ^ 20) (hm : m < 2 ^ 20) :
    exec (.accessTableWrite n m e) s = .next { s with access := Table.put 0#2 s.access (2 ^ 20 * n + m) e.rights,
                                                      portKeys := Table.put 0 s.portKeys (2 ^ 20 * n + m) (e.key % 512) } :=
  if_pos ⟨hn, hm⟩

theorem exec_keyTableWrite {s : State} {n : Nat} (key : BitVec 512) (h : n < 512) :
    exec (.keyTableWrite n key) s = .next { s with keys := Table.set s.keys n key } := if_pos h
theorem exec_withheldWrite {s : State} {n : Nat} (v : W64) (h : n < 3) : exec (.withheldWrite n v) s = .next (s.setWithheld n v) := if_pos h

/-! ### Soft errors (R341) -/

/-- A core is withheld beside those that are. -/
theorem State.withheldCore_withholdCore (s : State) (core k : Nat) :
    (s.withholdCore core).withheldCore k = (decide (k = core) || s.withheldCore k) := by
  show (Table.get 0#64 (Table.put 0#64 s.withheld (core / 64) _) (k / 64)).getLsbD (k % 64) = _
  rw [Table.get_put, State.withheldCore]
  by_cases hw : k / 64 = core / 64
  · have bit : (1#64 <<< (core % 64)).getLsbD (k % 64) = decide (k = core) := by
      have same : k = core ↔ k % 64 = core % 64 := by omega
      have inside : core % 64 < 64 := Nat.mod_lt _ (by decide)
      rw [← BitVec.twoPow_eq, BitVec.getLsbD_twoPow]
      simp only [same, inside, decide_true, Bool.true_and, eq_comm]
    rw [if_pos hw, BitVec.getLsbD_or, bit, hw, Bool.or_comm]
  · have : k ≠ core := fun e => hw (e ▸ rfl)
    simp [hw, this]

/-- The workgroups of a core that is withheld are to leave it. -/
theorem State.preempt_withholdCore {s : State} {core : Nat} {y : Nat × Workgroup} (hy : y ∈ (s.withholdCore core).wgs)
    (resident : y.2.phase = .resident) (there : y.2.core = core) : y.2.preempt = true := by
  simp only [State.withholdCore, State.askLeave, List.mem_map] at hy
  obtain ⟨x, _, rfl⟩ := hy
  split at resident
  · rename_i h; rw [if_pos h]
  · rename_i h
    simp only [h, Bool.false_eq_true, if_false] at there
    simp [resident, there] at h

/-- The recent corrections of a place, with the one that is made now. -/
theorem length_hits (hits : List (Nat × Nat)) (tick place : Nat) :
    (((hits.filter (fun x => decide (tick < x.2 + secondTicks))) ++ [(place, tick)]).filter (fun x => x.1 = place)).length =
      (hits.filter (fun x => decide (tick < x.2 + secondTicks) && decide (x.1 = place))).length + 1 := by
  simp [List.filter_filter, Bool.and_comm]

/-- A correction at no core is counted. -/
theorem exec_eccCorrected_outside {s : State} {core : Nat} (location : Nat) (h : 192 ≤ core) :
    exec (.eccCorrected core location) s = .next { s with eccfix := s.eccfix + 1 } := if_pos h

section
variable {s : State} {core location : Nat} (h : core < 192)
include h

/-- The corrections of the last second that are kept for a core's location. -/
theorem length_hits_of_core : (((s.eccHits.filter (fun x => decide (s.tick < x.2 + secondTicks))) ++
      [(192 * location + core % 192, s.tick)]).filter (fun x => x.1 = 192 * location + core % 192)).length =
    (s.eccHits.filter (fun x => decide (s.tick < x.2 + 250000000) && decide (x.1 = 192 * location + core))).length + 1 := by
  rw [length_hits, Nat.mod_eq_of_lt h]; rfl

/-- A correction that is not the sixteenth is counted. -/
theorem exec_eccCorrected_few
    (few : (s.eccHits.filter (fun x => decide (s.tick < x.2 + 250000000) && decide (x.1 = 192 * location + core))).length < 15) :
    ∃ u, exec (.eccCorrected core location) s = .next u ∧ u = { s with eccfix := s.eccfix + 1, eccHits := u.eccHits } := by
  refine ⟨_, (if_neg (by omega)).trans (if_neg ?_), rfl⟩
  rw [length_hits_of_core h]; omega

/-- The sixteenth withholds the core. -/
theorem exec_eccCorrected_many
    (many : 15 ≤ (s.eccHits.filter (fun x => decide (s.tick < x.2 + 250000000) && decide (x.1 = 192 * location + core))).length) :
    ∃ hits, exec (.eccCorrected core location) s =
      .next (State.withholdCore { s with eccfix := s.eccfix + 1, eccHits := hits } core) := by
  refine ⟨_, (if_neg (by omega)).trans (if_pos ?_)⟩
  rw [length_hits_of_core h]; omega

end

/-- An uncorrectable error that a launch's access met ends its fault domain. -/
theorem exec_eccUncorrectable_launch {s : State} {id : Nat} {l : Launch} (h : Table.find s.launches id = some l) :
    exec (.eccUncorrectable false (some id)) s = .next (State.endDomain { s with eccbad := s.eccbad + 1 } l.asid l.domain) := by
  have hl : State.launchAt { s with eccbad := s.eccbad + 1 } id = l := Table.get_of_find h
  simp only [exec, execEccUncorrectable, hl, h, Option.isSome_some, Bool.false_eq_true, if_false, if_true]

/-- Power is lost at a reset of the module, whatever it was. -/
theorem State.bootModule_setPower (s : State) (p : Power) : State.bootModule { s with power := p } = s.bootModule := by
  have e : State.unpowered { s with power := p } = s.unpowered := rfl
  simp only [State.bootModule, e]

/-- An uncorrectable error that the control complex met resets the module. -/
theorem exec_eccUncorrectable_control (s : State) (id : Option Nat) :
    exec (.eccUncorrectable true id) s = exec .powerOn { s with power := .off } := by
  rw [exec_powerOn_off (s := { s with power := .off }) rfl, State.bootModule_setPower]; rfl

/-- Settles O60: each clause is what the step of its name does, by the lemmas above. -/
theorem bringUp : Obligations.BringUp := by
  unfold Obligations.BringUp
  intro s watts celsius n m core id location kid key rights dev route v l bs image d tenant
  refine ⟨exec_powerOn_on, fun off => ⟨fun t h => ?_, fun t k h => ⟨fun u hu => ?_, fun u i hu => ?_⟩⟩,
    fun a limit st rest => ⟨State.runChain_cons_bad rest, fun h => ?_⟩, by decide, fun i => State.meas_extendMeas s n i d,
    ⟨(State.meas_extendMeas s 1 1 _).trans (if_pos rfl), Table.find_set_same _ _ _⟩,
    fun r found runs => ⟨fun w h => State.pluginAccess_outside found runs ((Plugin.covers_eq_false_iff _ _ _).2 h),
      fun lo hi => State.pluginAccess_write found runs (Plugin.covers_of_le lo hi),
      fun y => ⟨State.pluginPolicy_other found y, State.pluginPolicy_own found runs y⟩⟩,
    rfl, exec_powerCheck_off watts celsius, fun run cool => ?_, exec_powerCheck_hot watts,
    exec_eccCorrected_outside location, fun hcore => ⟨exec_eccCorrected_few hcore, fun many => ?_⟩,
    exec_eccUncorrectable_launch, exec_eccUncorrectable_control s none, rfl, ⟨_, rfl, fun k => mem_stopped_after_fault _ _ _, rfl⟩, State.mapStore_app bs,
    fun hn => ⟨_, exec_keyTableWrite key hn, fun k => Table.find_set _ _ _ _, rfl⟩, rfl,
    fun hn hm => ⟨_, exec_accessTableWrite _ hn hm, rfl, fun kind => ?_, Table.get_put_same _ _ _ _, fun x y kind _ hy ne => ?_⟩,
    ⟨_, rfl, fun d => Table.get_put_toNat _ _ _ _ _, rfl⟩, rfl,
    fun hn => ⟨_, exec_withheldWrite v hn, fun k => Table.get_put _ _ _ _ _, rfl⟩⟩
  · rw [exec_powerOn_off off, State.bootModule_first h]
  · rw [exec_powerOn_off off, State.bootModule_second h hu]
  · rw [exec_powerOn_off off, State.bootModule_recovery h hu]
  · obtain ⟨fused, hashed, signed⟩ := stageGood_checks h
    exact ⟨fused, hashed, signed, State.runChain_cons_good rest h⟩
  · rw [exec_powerCheck_run watts run cool, stillOver_eq]
  · obtain ⟨hits, e⟩ := exec_eccCorrected_many hcore many
    exact ⟨_, e, rfl, State.withheldCore_withholdCore _ core, fun y hy => State.preempt_withholdCore hy, rfl⟩
  · simp only [State.tableDenies, Table.get_put_same, Bool.decide_or]
  · have other : 2 ^ 20 * x + y ≠ 2 ^ 20 * n + m := by rw [Ne, accessKey_inj hm hy]; omega
    simp only [State.tableDenies, State.portKey, Table.get_put, if_neg other, and_self]

end Sys2Proof.Machine
end

section
/-! The frame of an access: what translating, reading and writing memory leave unchanged (R166 to R178). -/
namespace Sys2Proof.Machine

/-- An access changes memory, what is cached and noted of it, faults taken and remote requests made, and what a checkpoint copies
first: nothing else of the module. -/
def State.Accessed (s t : State) : Prop :=
  t = { s with mem := t.mem, keyOf := t.keyOf, dirty := t.dirty, tlb := t.tlb, faults := t.faults, pending := t.pending,
               ckpt := t.ckpt, store := t.store, nextId := t.nextId, freeCount := t.freeCount }

theorem State.Accessed.refl (s : State) : s.Accessed s := rfl

theorem State.Accessed.trans {s t u : State} (h : s.Accessed t) (h' : t.Accessed u) : s.Accessed u := by
  unfold State.Accessed at h h' ⊢
  rw [h] at h'
  exact h'

/-- Steps that are accesses, made in turn. -/
theorem State.Accessed.foldl {α : Type} {f : State → α → State} (h : ∀ (s : State) (x : α), s.Accessed (f s x)) (s : State) (l : List α) :
    s.Accessed (l.foldl f s) := by
  induction l generalizing s with
  | nil => exact .refl s
  | cons x l ih => exact (h s x).trans (ih (f s x))

/-! ### Stores to local HBM -/

theorem State.accessed_touch (s : State) (b : Nat) : s.Accessed (s.touch b) := by
  unfold State.touch; split_ifs <;> rfl

theorem State.accessed_storeByte (s : State) (pa key : Nat) (b : Byte) : s.Accessed (s.storeByte pa key b) := by
  refine (s.accessed_touch (pa / 64)).trans ?_
  unfold State.storeByte
  split_ifs <;> rfl

theorem State.accessed_putBytesAt (s : State) (pa key : Nat) (bs : List Byte) : s.Accessed (s.putBytesAt pa key bs) := by
  induction bs generalizing s pa with
  | nil => exact .refl s
  | cons b bs ih => exact (s.accessed_storeByte pa key b).trans (ih _ _)

theorem State.accessed_emitFrames (s : State) (ks : List Nat) : s.Accessed (s.emitFrames ks) := by
  induction ks generalizing s with
  | nil => exact .refl s
  | cons k ks ih =>
    unfold State.emitFrames
    split
    · exact .refl s
    · refine State.Accessed.trans ?_ (ih _)
      split_ifs <;> rfl

theorem State.accessed_copyCut (s : State) (p : CutPage) : s.Accessed (s.copyCut p) := by
  unfold State.copyCut
  split
  · split
    · refine State.Accessed.trans ?_ (State.accessed_emitFrames _ _)
      rfl
    · rfl
  · exact .refl s

theorem State.accessed_copyFirst (s : State) (pa n : Nat) : s.Accessed (s.copyFirst pa n) := by
  unfold State.copyFirst
  split
  · exact .refl s
  · split_ifs
    · exact .refl s
    · exact State.Accessed.foldl State.accessed_copyCut _ _

theorem State.accessed_storeBytes (s : State) (pa key : Nat) (bs : List Byte) : s.Accessed (s.storeBytes pa key bs) :=
  (s.accessed_copyFirst _ _).trans (State.accessed_putBytesAt _ _ _ _)

/-! ### Translation -/

theorem State.accessed_lookup (s : State) (asid va : Nat) : s.Accessed (s.lookup asid va).1 := by
  simp only [State.lookup]
  split
  · exact .refl s
  · split_ifs <;> rfl

theorem State.accessed_useLeaf (s : State) (asid va : Nat) (kind : BitVec 2) (a : Nat) (e : W64) (level : Nat) :
    s.Accessed (s.useLeaf asid va kind a e level) := by
  have copied := (s.accessed_copyFirst a 8).trans (State.accessed_touch _ (a / 64))
  simp only [State.useLeaf]
  split_ifs
  · exact .refl s
  · exact copied.trans rfl
  · rfl
  · exact copied.trans rfl

theorem State.accessed_xlatePage (s : State) (w : Who) (kind : BitVec 2) (va n : Nat) : s.Accessed (s.xlatePage w kind va n).1 := by
  unfold State.xlatePage
  split_ifs
  · exact .refl s
  · have looked := s.accessed_lookup w.asid va
    split
    · rename_i h; rw [h] at looked; exact looked
    · rename_i h; rw [h] at looked
      split
      · exact looked
      · simp only; split_ifs <;> exact looked.trans (State.accessed_useLeaf _ _ _ _ _ _ _)

theorem State.accessed_xlate (s : State) (w : Who) (kind : BitVec 2) (va n fuel : Nat) : s.Accessed (s.xlate w kind va n fuel).1 := by
  induction fuel generalizing s va n with
  | zero => exact .refl s
  | succ fuel ih =>
    have first := s.accessed_xlatePage w kind va (min n (4096 - va % 4096))
    simp only [State.xlate]
    split
    · rename_i s1 p h
      rw [h] at first
      have rest := first.trans (ih s1 (va + min n (4096 - va % 4096)) (n - min n (4096 - va % 4096)))
      split_ifs
      · exact first
      · split
        · rename_i h; rw [h] at rest; exact rest
        · exact rest
    · exact first

theorem State.accessed_xlateRuns (s : State) (w : Who) (kind : BitVec 2) (runs : List (Nat × Nat)) :
    s.Accessed (s.xlateRuns w kind runs).1 := by
  induction runs generalizing s with
  | nil => exact .refl s
  | cons r rs ih =>
    obtain ⟨va, n⟩ := r
    have first := s.accessed_xlate w kind va n (pagesFor n)
    simp only [State.xlateRuns]
    split
    · rename_i s1 p h
      rw [h] at first
      have rest := first.trans (ih s1)
      split
      · rename_i h; rw [h] at rest; exact rest
      · exact rest
    · exact first

theorem State.accessed_takeFault (s : State) (w : Who) (kind : BitVec 2) (va : Nat) (c l : BitVec 3) :
    s.Accessed (s.takeFault w kind va c l).state := by
  unfold State.takeFault
  split
  · rfl
  · split <;> rfl

theorem State.accessed_reach (s : State) (w : Who) (kind : BitVec 2) (runs : List (Nat × Nat)) :
    s.Accessed (s.reach w kind runs).state := by
  have translated := s.accessed_xlateRuns w kind runs
  unfold State.reach
  split <;> rename_i h <;> rw [h] at translated
  · exact translated
  · exact translated.trans (State.accessed_takeFault _ _ _ _ _ _)
  · exact translated

/-! ### Remote requests -/

theorem State.accessed_ask (s : State) (o : Waiter) (tag : Nat) (p : Segs) : s.Accessed (s.ask o tag p) := by
  induction p generalizing s tag with
  | nil => exact .refl s
  | cons x p ih =>
    obtain ⟨pl, n⟩ := x
    cases pl with
    | here pa key => exact ih s _
    | away h d pa =>
      refine State.Accessed.trans ?_ (ih _ _)
      split_ifs <;> rfl

theorem State.accessed_storeSegs (s : State) (o : Waiter) (p : Segs) (bs : List Byte) : s.Accessed (s.storeSegs o p bs) := by
  induction p generalizing s bs with
  | nil => exact .refl s
  | cons x p ih =>
    obtain ⟨pl, n⟩ := x
    cases pl with
    | here pa key => exact (State.accessed_storeBytes _ _ _ _).trans (ih _ _)
    | away h d pa =>
      refine State.Accessed.trans ?_ (ih _ _)
      rfl

/-! ### Attempts -/

/-- What holds of the state an attempt leaves, and is kept by what is done with its value, holds of the state that both leave. -/
theorem Got.state_bind {α β : Type} {P : State → Prop} {g : Got α} {f : State → α → Got β} (h : P g.state)
    (hf : ∀ s a, P s → P (f s a).state) : P (g.bind f).state := by
  cases g with
  | ok s a => exact hf s a h
  | fault s d i => exact h
  | full s => exact h
  | denied s => exact h
  | wait s => exact h

theorem Got.state_known {α : Type} (g : Got α) (f : α → Bool) : (g.known f).state = g.state := by
  cases g <;> rfl

/-- What reads of translated places have in common: a function of their bytes, or the requests for those that are not there. -/
def State.gather {α : Type} (s : State) (o : Waiter) (tag : Nat) (f : List Byte → α) (p : Segs) : Got α :=
  match s.segBytes o tag p with
  | some bs => .ok s (f bs)
  | none => .wait (s.ask o tag p)

theorem State.accessed_gather {α : Type} (s : State) (o : Waiter) (tag : Nat) (f : List Byte → α) (p : Segs) :
    s.Accessed (s.gather o tag f p).state := by
  unfold State.gather
  split
  · exact .refl s
  · exact s.accessed_ask o tag p

/-- A read reaches its places and gathers their bytes. -/
theorem State.accessed_reach_gather {α : Type} (s : State) (w : Who) (kind : BitVec 2) (runs : List (Nat × Nat)) (tag : Nat)
    (f : List Byte → α) : s.Accessed ((s.reach w kind runs).bind (fun s1 p => s1.gather w.waiter tag f p)).state :=
  Got.state_bind (s.accessed_reach w kind runs) (fun s1 _ h => h.trans (s1.accessed_gather _ _ _ _))

theorem State.partBytes_eq (s : State) (w : Who) (va n : Nat) :
    s.partBytes w va n = (s.reach w accRead [(va, n)]).bind (fun s1 p => s1.gather w.waiter (64 * va) (fun bs => bs) p) := by
  unfold State.partBytes
  cases s.reach w accRead [(va, n)] with
  | ok s1 p =>
    cases bytes : s1.segBytes w.waiter (64 * va) p <;> simp only [Got.bind, State.gather, bytes]
  | _ => rfl

theorem State.accessed_partBytes (s : State) (w : Who) (va n : Nat) : s.Accessed (s.partBytes w va n).state := by
  rw [State.partBytes_eq]; exact s.accessed_reach_gather _ _ _ _ _

theorem State.accessed_readVal (s : State) (w : Who) (va n : Nat) : s.Accessed (s.readVal w va n).state :=
  Got.state_bind (s.accessed_partBytes w va n) (fun _ _ h => h)

theorem State.putBytes_eq (s : State) (w : Who) (va : Nat) (bs : List Byte) :
    s.putBytes w va bs = (s.reach w accWrite [(va, bs.length)]).bind (fun s1 p => .ok (s1.storeSegs w.waiter p bs) ()) := by
  unfold State.putBytes
  cases s.reach w accWrite [(va, bs.length)] <;> rfl

theorem State.accessed_putBytes (s : State) (w : Who) (va : Nat) (bs : List Byte) : s.Accessed (s.putBytes w va bs).state := by
  rw [State.putBytes_eq]
  exact Got.state_bind (s.accessed_reach _ _ _) (fun s1 p h => h.trans (s1.accessed_storeSegs _ _ _))

/-! ### Barrier objects and the conditions of a WAIT (R147, R160) -/

/-- An object in global memory is read as its 16 bytes. -/
theorem State.readObject_global (s : State) (w : Who) (wg : Nat) {r : W64} (tag : Nat) (h : refSpad r = false) :
    s.readObject w wg r tag = (s.reach w accAtomic [(refAddr r, 16)]).bind
      (fun s1 p => s1.gather w.waiter tag (fun bs => BarObj.ofNat (bytesVal bs)) p) := by
  simp only [State.readObject, h, Bool.false_eq_true, if_false]
  cases s.reach w accAtomic [(refAddr r, 16)] with
  | ok s1 p =>
    cases bytes : s1.segBytes w.waiter tag p <;> simp only [Got.bind, State.gather, bytes]
  | _ => rfl

theorem State.accessed_readObject (s : State) (w : Who) (wg : Nat) (r : W64) (tag : Nat) : s.Accessed (s.readObject w wg r tag).state := by
  cases h : refSpad r with
  | false => rw [s.readObject_global w wg tag h]; exact s.accessed_reach_gather _ _ _ _ _
  | true =>
    simp only [State.readObject, h, if_true]
    split_ifs <;> exact .refl s

theorem State.condWord_global (s : State) (w : Who) (i : Nat) {d : W64} (h : refSpad d = false) :
    s.condWord w i d = (s.reach w accRead [(refAddr d, 8)]).bind (fun s1 p => s1.gather w.waiter (64 * i) bytes64 p) := by
  simp only [State.condWord, h, Bool.false_eq_true, if_false]
  cases s.reach w accRead [(refAddr d, 8)] with
  | ok s1 p =>
    cases bytes : s1.segBytes w.waiter (64 * i) p <;> simp only [Got.bind, State.gather, bytes]
  | _ => rfl

theorem State.accessed_condWord (s : State) (w : Who) (i : Nat) (d : W64) : s.Accessed (s.condWord w i d).state := by
  cases h : refSpad d with
  | false => rw [s.condWord_global w i h]; exact s.accessed_reach_gather _ _ _ _ _
  | true =>
    simp only [State.condWord, h, if_true]
    split_ifs <;> exact .refl s

theorem State.accessed_evalCond (s : State) (w : Who) (i : Nat) (x : W64 × W64) : s.Accessed (s.evalCond w i x).state := by
  unfold State.evalCond
  split
  · rw [Got.state_known]; exact s.accessed_readObject _ _ _ _
  · rw [Got.state_known]; exact s.accessed_condWord _ _ _
  · exact .refl s
  · exact .refl s

theorem State.accessed_evalConds (s : State) (w : Who) (i : Nat) (cs : List (W64 × W64)) : s.Accessed (s.evalConds w i cs).state := by
  induction cs generalizing s i with
  | nil => exact .refl s
  | cons x xs ih =>
    exact Got.state_bind (s.accessed_evalCond w i x) (fun s1 b h => Got.state_bind (h.trans (ih s1 (i + 1))) (fun _ _ h => h))

theorem State.accessed_forget (s : State) (o : Waiter) : s.Accessed (s.forget o) := rfl
theorem State.accessed_dropAsked (s : State) (o : Waiter) : s.Accessed (s.dropAsked o) := rfl
theorem State.accessed_unwait (s : State) (o : Waiter) : s.Accessed (s.unwait o) := rfl

/-! ### What an access leaves alone: the warps, and which unit issues -/

section
variable {s t : State} (h : s.Accessed t)
include h

theorem State.Accessed.warps : t.warps = s.warps := by rw [h]
theorem State.Accessed.cur : t.cur = s.cur := by rw [h]
theorem State.Accessed.unit : t.unit = s.unit := by rw [h]
theorem State.Accessed.w : t.w = s.w := by unfold State.w State.warpAt; rw [h.warps, h.cur]
theorem State.Accessed.u : t.u = s.u := by unfold State.u; rw [h.w, h.unit]

end

end Sys2Proof.Machine
end

section
/-! What HEARTBEAT_TICK sets, kept by every evaluation of a WAIT and every action of a queue's packet (R9, R187, R249). -/
namespace Sys2Proof.Machine

/-! ### The clock and the streams that are raised by it -/

/-- What the heartbeat sets: the reference counter, and the deadline streams. -/
def State.clock (s : State) : Nat × Table Deadline := (s.tick, s.deadlines)

theorem State.Accessed.clock {s t : State} (h : s.Accessed t) : t.clock = s.clock := by unfold State.clock; rw [h]

/-! ### Ends of fault domains -/

theorem State.clock_removeWgs (s : State) (ks : List Nat) : (s.removeWgs ks).clock = s.clock := by
  induction ks generalizing s with
  | nil => rfl
  | cons k ks ih => exact (ih _).trans rfl

theorem State.clock_endDomain (s : State) (asid : Nat) (d : BitVec 16) : (s.endDomain asid d).clock = s.clock :=
  State.clock_removeWgs (s.dropParcels _) _

/-! ### WAITs -/

theorem State.clock_asUnit {f : State → State} (hf : ∀ s, (f s).clock = s.clock) (s : State) (w k : Nat) :
    (s.asUnit w k f).clock = s.clock := hf { s with cur := w, unit := k }

theorem State.clock_evaluate (s : State) (r : WaitRec) : (s.evaluate r).clock = s.clock := by
  have evaluated := s.accessed_evalConds s.waitWho 0 r.conds
  unfold State.evaluate
  split
  · rfl
  · split
    · rename_i s1 bs h
      rw [h] at evaluated
      split_ifs <;> exact evaluated.clock
    · rename_i s1 h
      rw [h] at evaluated
      exact (State.clock_endDomain _ _ _).trans evaluated.clock
    · exact evaluated.clock

/-- What WAIT_WAKE, and an evaluation of all WAITs, does as one unit: it evaluates the WAIT at which the unit waits, if it may. -/
def State.reevaluate (s : State) : State :=
  match s.u.park with
  | .wait r => if s.running && !s.waitFaulted then s.evaluate r else s
  | _ => s

theorem State.evaluateAll_cons (s : State) (w k : Nat) (us : List (Nat × Nat)) :
    s.evaluateAll ((w, k) :: us) = (s.asUnit w k State.reevaluate).evaluateAll us := rfl

theorem exec_waitWake (s : State) (w k : Nat) : exec (.waitWake w k) s = .next (s.asUnit w k State.reevaluate) := rfl

theorem State.reevaluate_of_wait {s : State} {r : WaitRec} (hp : s.u.park = .wait r) (hr : s.running = true) (hf : s.waitFaulted = false) :
    s.reevaluate = s.evaluate r := by
  simp [State.reevaluate, hp, hr, hf]

theorem State.reevaluate_of_ne {s : State} (hp : ∀ r, s.u.park ≠ .wait r) : s.reevaluate = s := by
  unfold State.reevaluate
  split
  · rename_i r e; exact absurd e (hp r)
  · rfl

theorem State.clock_reevaluate (s : State) : s.reevaluate.clock = s.clock := by
  unfold State.reevaluate
  split
  · split_ifs
    · exact s.clock_evaluate _
    · rfl
  · rfl

theorem State.clock_evaluateAll (s : State) (us : List (Nat × Nat)) : (s.evaluateAll us).clock = s.clock := by
  induction us generalizing s with
  | nil => rfl
  | cons x us ih => exact (ih _).trans (State.clock_asUnit State.clock_reevaluate s _ _)

theorem State.clock_noteWaits (s : State) (us : List (Nat × Nat)) : (s.noteWaits us).clock = s.clock := by
  induction us generalizing s with
  | nil => rfl
  | cons x us ih =>
    refine (ih _).trans (State.clock_asUnit (fun s => ?_) s _ _)
    split
    · split
      · split_ifs <;> rfl
      · rfl
    · rfl

/-! ### Accesses of a queue -/

theorem State.clock_writeVal (s : State) (w : Who) (va n v : Nat) : (s.writeVal w va n v).state.clock = s.clock := by
  refine Got.state_bind (P := fun t => t.clock = s.clock) (s.accessed_putBytes w va _).clock (fun s1 _ h => ?_)
  show (if s1.anyWait then s1.noteWaits s1.allUnits else s1).clock = _
  split_ifs
  · exact (s1.clock_noteWaits _).trans h
  · exact h

/-- An action of several accesses leaves the clock as its accesses do. -/
theorem Got.clock_atomic {α : Type} {s : State} (w : Waiter) {g : Got α} (h : g.state.clock = s.clock) : (g.atomic s w).state.clock = s.clock := by
  unfold Got.atomic
  split_ifs
  · rfl
  · cases g with
    | ok s1 a => exact h
    | _ => rfl

/-- The value of an action is that of its accesses. -/
theorem Got.of_atomic_eq_ok {α : Type} {s s1 : State} {w : Waiter} {g : Got α} {a : α} (h : g.atomic s w = .ok s1 a) :
    ∃ s2, g = .ok s2 a := by
  unfold Got.atomic at h
  split_ifs at h
  cases g with
  | ok s2 b => injection h with _ e; exact ⟨s2, by rw [e]⟩
  | _ => cases h

theorem Got.of_bind_eq_ok {α β : Type} {g : Got α} {f : State → α → Got β} {s : State} {b : β} (h : g.bind f = .ok s b) :
    ∃ s1 a, g = .ok s1 a ∧ f s1 a = .ok s b := by
  cases g with
  | ok s1 a => exact ⟨s1, a, rfl, h⟩
  | _ => cases h

theorem State.clock_reportOne (s : State) (q off : Nat) (v : W64) (paid : Queue → Queue) : (s.reportOne q off v paid).clock = s.clock := by
  have written := Got.clock_atomic (.queue q) (s.clock_writeVal (s.queueWho q) ((s.queueAt q).word 2 + off) 8 v.toNat)
  simp only [State.reportOne]
  split
  · rename_i h; rw [h] at written; exact written
  · rename_i h; rw [h] at written; exact written
  · rename_i h; rw [h] at written; exact written
  · exact written

theorem State.clock_report (s : State) (q : Nat) : (s.report q).clock = s.clock := by
  simp only [State.report]
  generalize hp : (if (s.queueAt q).owePtr && !s.queueParked q then s.reportOne q 0 (s.queueAt q).readPtr (fun x => { x with owePtr := false })
    else s) = s1
  have pointer : s1.clock = s.clock := by
    rw [← hp]
    split
    · exact s.clock_reportOne _ _ _ _
    · rfl
  split
  · exact (State.clock_reportOne _ _ _ _ _).trans pointer
  · exact pointer

theorem State.clock_settleQueue (s : State) (q : Nat) : (s.settleQueue q).clock = s.clock := by
  unfold State.settleQueue; split_ifs <;> rfl

theorem State.clock_stopQueue (s : State) (q ring code : Nat) : (s.stopQueue q ring code).clock = s.clock :=
  State.clock_report _ q

theorem State.clock_packetIssued (s : State) (q : Nat) : (s.packetIssued q).clock = s.clock := by
  simp only [State.packetIssued]
  split
  · rfl
  · exact (State.clock_settleQueue _ q).trans (State.clock_report _ q)

theorem State.clock_endRoot (s : State) (asid : Nat) : (s.endRoot asid).clock = s.clock := s.clock_endDomain _ _

theorem State.clock_parcelFailed (s : State) (q : Nat) (va : Option Nat) : (s.parcelFailed q va).clock = s.clock := by
  unfold State.parcelFailed
  extract_lets
  split
  · rfl
  · extract_lets
    split_ifs
    · exact (State.clock_packetIssued _ q).trans (s.clock_endRoot _)
    · exact State.clock_packetIssued _ q

theorem State.clock_ownFailed (s : State) (q t : Nat) (va : Option Nat) : (s.ownFailed q t va).clock = s.clock := by
  simp only [State.ownFailed]
  split_ifs
  · exact (State.clock_stopQueue _ q _ _).trans (s.clock_packetIssued q)
  · exact s.clock_parcelFailed q va
  · exact (State.clock_packetIssued _ q).trans (s.clock_endRoot _)

/-- What follows an action of a queue keeps the clock where the action and each way to go on do. -/
theorem State.clock_queueEnd {α : Type} {s : State} (q : Nat) (hold : QueueHold) {denied : State → State} {g : Got α} {f : State → α → State}
    (hg : g.state.clock = s.clock) (hd : ∀ s1, (denied s1).clock = s1.clock)
    (hf : ∀ s1 s2 a, g = .ok s1 a → s2.clock = s.clock → (f s2 a).clock = s.clock) : (s.queueEnd q hold denied g f).clock = s.clock := by
  have made := Got.clock_atomic (.queue q) hg
  unfold State.queueEnd
  split
  · rename_i s1 a h
    obtain ⟨s2, e⟩ := Got.of_atomic_eq_ok h
    rw [h] at made
    exact hf s2 s1 a e made
  · rename_i h; rw [h] at made; exact made
  · rename_i h; rw [h] at made; exact (hd _).trans made
  · exact made

/-! ### Packets -/

theorem State.clock_readAhead (s : State) (q : Nat) (a : W64) : (s.readAhead q a).state.clock = s.clock :=
  Got.state_bind (P := fun t => t.clock = s.clock) (s.accessed_partBytes _ _ _).clock (fun _ _ h => h)

theorem State.clock_rereadHead (s : State) (q : Nat) (f : Fetched) : (s.rereadHead q f).state.clock = s.clock := by
  refine Got.state_bind (P := fun t => t.clock = s.clock) (s.accessed_partBytes _ _ _).clock (fun s1 bs h => ?_)
  split_ifs
  · exact h
  · exact Got.state_bind (P := fun t => t.clock = s.clock) ((State.clock_readAhead _ q _).trans h) (fun _ _ h => h)

/-- The state that a packet's action hands on. -/
def Issue.state : Issue → State
  | .issued s => s
  | .hold s => s
  | .stop s _ => s

/-- A packet keeps the clock where its action does. -/
theorem State.clock_tryPacket (s : State) (q t : Nat) {act : State → Fetched → Got Issue}
    (hact : ∀ s f, (act s f).state.clock = s.clock) (hr : ∀ s f s1 r, act s f = .ok s1 r → r.state.clock = s.clock) :
    (s.tryPacket q t act).clock = s.clock := by
  have settled : ((s.report q).settleQueue q).clock = s.clock := (State.clock_settleQueue _ q).trans (s.clock_report q)
  simp only [State.tryPacket]
  generalize (s.report q).settleQueue q = z at settled ⊢
  rw [← settled]
  split
  · rfl
  rename_i f0 _ _
  split
  · rfl
  have reread : (if (z.queueAt q).started.isSome then Got.ok z f0 else z.rereadHead q f0).state.clock = z.clock := by
    split
    · rfl
    · exact z.clock_rereadHead q f0
  refine State.clock_queueEnd q .reread reread (fun s1 => s1.clock_stopQueue q _ _) (fun _ s1 f _ h1 => ?_)
  split
  · exact (s1.clock_stopQueue q _ _).trans h1
  split
  · exact h1
  split
  · exact h1
  generalize hs : (if t = 5 then s1.heldAtIssue q else s1) = s2
  have h2 : s2.clock = z.clock := by
    rw [← hs]
    split <;> exact h1
  rw [← h2]
  refine State.clock_queueEnd q _ (hact s2 f) (fun s3 => s3.clock_ownFailed q t none) (fun s4 s3 r e _ => ?_)
  have handed := hr s2 f s4 r e
  cases r with
  | issued s5 => exact (State.clock_packetIssued _ q).trans handed
  | hold s5 => exact handed
  | stop s5 code => exact (State.clock_stopQueue _ q _ _).trans handed

theorem State.accessed_packetCond (s : State) (q : Nat) (f : Fetched) : s.Accessed (s.packetCond q f).state := by
  simp only [State.packetCond]
  split
  · exact Got.state_bind (Got.state_bind (s.accessed_readObject _ _ _ _) (fun _ _ h => h.trans (State.accessed_forget _ _))) (fun _ _ h => h)
  · exact Got.state_bind (s.accessed_readVal _ _ _) (fun _ _ h => h)

theorem State.clock_waitPacket (s : State) (q : Nat) : (s.waitPacket q).clock = s.clock := by
  refine s.clock_tryPacket q 5 (fun s f => State.Accessed.clock ?_) (fun s f s1 r e => ?_)
  · exact Got.state_bind (P := s.Accessed) (s.accessed_packetCond q f) (fun _ _ h => h)
  have evaluated := s.accessed_packetCond q f
  obtain ⟨s2, b, hc, hr⟩ := Got.of_bind_eq_ok e
  rw [hc] at evaluated
  injection hr with _ hr
  subst hr
  split <;> exact evaluated.clock

theorem State.clock_waitPackets (s : State) (qs : List Nat) : (s.waitPackets qs).clock = s.clock := by
  induction qs generalizing s with
  | nil => rfl
  | cons q qs ih =>
    refine (ih _).trans ?_
    split
    · exact s.clock_waitPacket q
    · rfl

/-! ### The heartbeat (R9, R187, R249) -/

/-- A module in which no unit waits at a WAIT. -/
def State.NoWait (s : State) : Prop := ∀ x ∈ s.warps, ∀ y ∈ x.2.units, ∀ r, y.2.park ≠ .wait r

/-- No unit that can be named waits at a WAIT: one that is not listed is blank. -/
theorem State.NoWait.park_ne {s : State} (h : s.NoWait) (w k : Nat) (r : WaitRec) :
    (Table.get IUnit.blank (s.warpAt w).units k).park ≠ .wait r := by
  have blank : IUnit.blank.park ≠ .wait r := fun e => by cases e
  rcases Table.get_eq_default_or_mem Warp.blank s.warps w with hw | hw
  · rw [State.warpAt, hw]; exact blank
  · rcases Table.get_eq_default_or_mem IUnit.blank (s.warpAt w).units k with hk | hk
    · rw [hk]; exact blank
    · exact h _ hw _ hk r

theorem State.NoWait.evaluateAll {s : State} (h : s.NoWait) (us : List (Nat × Nat)) : s.evaluateAll us = s := by
  induction us with
  | nil => rfl
  | cons x us ih =>
    obtain ⟨w, k⟩ := x
    have idle : s.asUnit w k State.reevaluate = s := by
      have unmoved := State.reevaluate_of_ne (s := { s with cur := w, unit := k }) (fun r => h.park_ne w k r)
      rw [State.asUnit, unmoved]
    rw [State.evaluateAll_cons, idle, ih]

theorem State.waitPackets_of_none {s : State} {qs : List Nat} (h : ∀ q ∈ qs, (s.queueAt q).atWait = false) : s.waitPackets qs = s := by
  induction qs with
  | nil => rfl
  | cons q qs ih =>
    rw [State.waitPackets, h q List.mem_cons_self, if_neg Bool.false_ne_true, ih (fun q' hq => h q' (List.mem_cons_of_mem _ hq))]

theorem restAt_ne_wait (ls : List LoopRec) (m : Lanes) (pc : W64) (r : WaitRec) : restAt ls m pc ≠ .wait r := by
  unfold restAt; split_ifs <;> simp

/-- A unit that passes its fence goes on, and does not come to wait at a WAIT. -/
theorem passFence_ne_wait {ls : List LoopRec} {h : Nat} {u : IUnit} {r : WaitRec} (hu : u.park ≠ .wait r) : (passFence ls h u).park ≠ .wait r := by
  unfold passFence
  split
  · split_ifs
    · exact restAt_ne_wait _ _ _ _
    · exact hu
  · exact hu

theorem passFence_fenceSc {ls : List LoopRec} {h k : Nat} {u : IUnit} (hu : u.park = .fenceSc k) :
    passFence ls h u = if k ≤ h then { u with park := restAt ls u.lanes u.pc } else u := by
  simp only [passFence, hu]

/-- The module at a heartbeat, before the WAITs are evaluated: the counter, the streams and the fences. -/
def State.beaten (s : State) : State :=
  { s with tick := (s.tick / 64 + 1) * 64, deadlines := s.deadlines.map (fun x => (x.1, x.2.refresh (s.tick / 64 + 1))),
           warps := s.warps.map (fun x => (x.1, x.2.passFence (s.tick / 64 + 1))) }

theorem exec_heartbeatTick (s : State) :
    exec .heartbeatTick s = .next ((s.beaten.evaluateAll s.beaten.allUnits).waitPackets (s.beaten.queues.map (·.1))) := by
  simp only [exec, execHeartbeatTick, State.passFences, State.beaten, State.hbeat, Nat.mul_div_cancel _ (show 0 < 64 by decide)]

/-- Units that pass a fence do not come to wait at a WAIT. -/
theorem State.NoWait.beaten {s : State} (h : s.NoWait) : s.beaten.NoWait := by
  intro x hx y hy r
  obtain ⟨x0, hx0, rfl⟩ := List.mem_map.1 hx
  obtain ⟨y0, hy0, rfl⟩ := List.mem_map.1 hy
  exact passFence_ne_wait (h x0 hx0 y0 hy0 r)

theorem heartbeat : Heartbeat := by
  intro s
  have clock : ((s.beaten.evaluateAll s.beaten.allUnits).waitPackets (s.beaten.queues.map (·.1))).clock = s.beaten.clock :=
    (State.clock_waitPackets _ _).trans (State.clock_evaluateAll _ _)
  obtain ⟨tick, deadlines⟩ := Prod.mk.injEq .. ▸ clock
  refine ⟨_, exec_heartbeatTick s, tick, deadlines, fun units queues => ?_⟩
  have still : (s.beaten.evaluateAll s.beaten.allUnits).waitPackets (s.beaten.queues.map (·.1)) = s.beaten := by
    rw [(State.NoWait.beaten units).evaluateAll]
    refine State.waitPackets_of_none (fun q hq => ?_)
    obtain ⟨x, hx, rfl⟩ := List.mem_map.1 hq
    exact queues x hx
  rw [still]
  exact ⟨rfl, rfl, fun ls u k hu => passFence_fenceSc hu⟩

end Sys2Proof.Machine
end

section
/-! WAIT, its wake and its time-out (R159 to R161). -/
namespace Sys2Proof.Machine

/-! ### A unit without results before which the windows end (R35, R36) -/

theorem State.NoResults.mayClose {s : State} (h : s.NoResults) : s.w.mayClose s.unit = true := by
  simp only [Warp.mayClose, List.all_eq_true]
  intro i _
  split
  · rename_i p hp
    simp [h p (List.mem_of_getElem? hp)]
  · rfl

/-- Nothing commits: the warp stays as it is. -/
theorem State.NoResults.closeWindows {s : State} (h : s.NoResults) : s.closeWindows = s.setW s.w := by
  have mine : s.w.pend.filter (fun p => decide (p.unit = s.unit)) = [] :=
    List.filter_eq_nil_iff.2 (fun p hp => by simpa using h p hp)
  have rest : s.w.pend.filter (fun p => decide (p.unit ≠ s.unit)) = s.w.pend :=
    List.filter_eq_self.2 (fun p hp => by simpa using h p hp)
  rw [State.closeWindows, if_pos h.mayClose]
  simp only [mine, rest, State.commitAll]

theorem State.NoResults.closed {s : State} (h : s.NoResults) (f : State → Host.Outcome State Fault Refusal) :
    s.closed f = f s.closeWindows := by
  rw [State.closed, if_pos h.mayClose]

/-! ### Operands depend on the unit, its warp, its workgroup and its launch -/

/-- Two states in which the issuing unit stands alike. -/
structure State.SameIssue (s t : State) : Prop where
  w : t.w = s.w
  u : t.u = s.u
  g : t.g = s.g
  launch : t.launch = s.launch

theorem State.sameIssue_closeWindows {s : State} (h : s.NoResults) : s.SameIssue s.closeWindows := by
  rw [h.closeWindows]
  have w : (s.setW s.w).w = s.w := State.w_setW _ _
  have g : (s.setW s.w).g = s.g := by unfold State.g; rw [w]; rfl
  exact ⟨w, by unfold State.u; rw [w]; rfl, g, by unfold State.launch; rw [g]; rfl⟩

section
variable {s t : State} (h : s.SameIssue t)
include h

theorem State.SameIssue.given : t.given = s.given := by unfold State.given; rw [h.u, h.w]
theorem State.SameIssue.immediate : t.immediate = s.immediate := by funext o; unfold State.immediate; rw [h.u]
theorem State.SameIssue.effective : t.effective = s.effective := by funext o; unfold State.effective; rw [h.u, h.given]
theorem State.SameIssue.illOp : t.illOp = s.illOp := by
  funext o; unfold State.illOp; rw [h.immediate, h.u, h.effective]
theorem State.SameIssue.boundOp : t.boundOp = s.boundOp := by
  funext o; unfold State.boundOp State.allot; rw [h.immediate, h.effective, h.launch]
theorem State.SameIssue.framed (acc : Accept) (ops : List Opnd) : t.framed acc ops = s.framed acc ops := by
  unfold State.framed State.marksOk; rw [h.u]
theorem State.SameIssue.missesLine (ops : List Opnd) : t.missesLine ops = s.missesLine ops := by
  unfold State.missesLine State.linesOfOp; rw [h.immediate, h.effective, h.w]
theorem State.SameIssue.pops : t.pops = s.pops := by funext o; unfold State.pops; rw [h.immediate]
theorem State.SameIssue.skip : t.skip = s.skip := by funext ops o; unfold State.skip; rw [h.pops]
theorem State.SameIssue.opqShort (ops : List Opnd) : t.opqShort ops = s.opqShort ops := by
  unfold State.opqShort State.needs; rw [h.immediate, h.given, h.skip]
theorem State.SameIssue.fixedScalar : t.fixedScalar = s.fixedScalar := by funext f; unfold State.fixedScalar; rw [h.g, h.w]
theorem State.SameIssue.fixedVector : t.fixedVector = s.fixedVector := by
  funext k f n i L; unfold State.fixedVector; rw [h.given, h.w, h.g]
theorem State.SameIssue.value : t.value = s.value := by
  funext k ops o L
  unfold State.value State.imm32
  rw [h.immediate, h.u, h.fixedScalar, h.given, h.effective, h.fixedVector, h.skip]
theorem State.SameIssue.valueAt (k : Consts) (ops : List Opnd) (p : Pos) (L : Nat) : t.valueAt k ops p L = s.valueAt k ops p L := by
  unfold State.valueAt; rw [h.value]
theorem State.SameIssue.regAt (ops : List Opnd) (p : Pos) : t.regAt ops p = s.regAt ops p := by
  unfold State.regAt; rw [h.effective]

theorem State.SameIssue.admits {acc : Accept} {ops : List Opnd} (ha : s.Admits acc ops) : t.Admits acc ops := by
  unfold State.Admits
  rw [h.framed, h.illOp, h.boundOp, h.missesLine, h.opqShort, h.u]
  exact ha

end

/-! ### What an evaluation of a WAIT does (R161) -/

theorem WaitRec.holds_iff (r : WaitRec) (bs : List (Option Bool)) :
    r.holds bs = true ↔ if r.allOf then ∀ x ∈ bs, x = some true else ∃ x ∈ bs, x = some true := by
  unfold WaitRec.holds
  cases r.allOf <;> simp

/-- From s to t the current unit has gone on from its WAIT with the bits of its result. -/
structure State.Woken (s t : State) (r : WaitRec) (bits : Nat) : Prop where
  cur  : t.cur = s.cur
  unit : t.unit = s.unit
  u    : t.u = { s.u with park := restAt s.w.loops s.u.lanes s.u.pc }
  dst  : t.w.sreg r.dst = BitVec.ofNat 64 bits

/-- From s to t the current unit waits, with the lines of its words noted as they stand. -/
structure State.Waits (s t : State) (r : WaitRec) : Prop where
  cur   : t.cur = s.cur
  unit  : t.unit = s.unit
  u     : ∃ ls, t.u = { s.u with park := .wait { r with lines := ls } } ∧ ∀ y ∈ ls, y.2 = Memory.readBytes t.mem (128 * y.1) 128
  sregs : t.w.sregs = s.w.sregs

theorem State.woken_wakeWait (s : State) (r : WaitRec) (bits : Nat) : s.Woken (s.wakeWait r bits) r bits := by
  have hw : (s.setSreg r.dst (BitVec.ofNat 64 bits)).w = s.w.setSreg r.dst (BitVec.ofNat 64 bits) := State.w_setSreg _ _ _
  have hu : (s.setSreg r.dst (BitVec.ofNat 64 bits)).u = s.u := by unfold State.u; rw [hw]; rfl
  have asked := State.accessed_dropAsked ((s.setSreg r.dst (BitVec.ofNat 64 bits)).setU
    { s.u with park := restAt s.w.loops s.u.lanes s.u.pc }) (.waitWord s.cur (s.setSreg r.dst (BitVec.ofNat 64 bits)).me)
  have e : s.wakeWait r bits = ((s.setSreg r.dst (BitVec.ofNat 64 bits)).setU
      { s.u with park := restAt s.w.loops s.u.lanes s.u.pc }).dropAsked (.waitWord s.cur (s.setSreg r.dst (BitVec.ofNat 64 bits)).me) := by
    simp only [State.wakeWait, hu, hw]; rfl
  rw [e]
  refine ⟨rfl, rfl, asked.u.trans (State.u_setU _ _), ?_⟩
  rw [asked.w, State.w_setU, hw]
  exact (Warp.sreg_setSreg s.w r.dst r.dst _).trans (if_pos rfl)

theorem State.mem_wakeWait (s : State) (r : WaitRec) (bits : Nat) : (s.wakeWait r bits).mem = s.mem := rfl

/-- A line that is noted is one of local HBM as it stands. -/
theorem State.lineOf_stands {s : State} {x : W64 × W64} {y : Nat × List Byte} (h : y ∈ s.lineOf x) :
    y.2 = Memory.readBytes s.mem (128 * y.1) 128 := by
  unfold State.lineOf at h
  split at h
  · cases h
  · split at h
    · rw [List.mem_singleton.1 h, Nat.mul_comm]
    · cases h

theorem State.waits_note (s : State) (r : WaitRec) : s.Waits (s.note r) r := by
  refine ⟨rfl, rfl, ⟨_, State.u_setU _ _, fun y hy => ?_⟩, ?_⟩
  · obtain ⟨x, _, hx⟩ := List.mem_flatMap.1 hy
    exact (State.lineOf_stands hx).trans rfl
  · rw [State.note, State.w_setU]

/-- An access before the unit wakes, or notes its lines, leaves the unit and its warp as they were. -/
theorem State.Accessed.woken {s s1 t : State} {r : WaitRec} {bits : Nat} (h : s.Accessed s1) (hw : s1.Woken t r bits) : s.Woken t r bits :=
  ⟨hw.cur.trans h.cur, hw.unit.trans h.unit, by rw [hw.u, h.u, h.w], hw.dst⟩
theorem State.Accessed.waits {s s1 t : State} {r : WaitRec} (h : s.Accessed s1) (hw : s1.Waits t r) : s.Waits t r :=
  ⟨hw.cur.trans h.cur, hw.unit.trans h.unit, by rw [← h.u]; exact hw.u, hw.sregs.trans (by rw [h.w])⟩

section
variable {s t : State} {r : WaitRec} {bs : List (Option Bool)} (fresh : r.woken = none) (evaluated : s.evalConds s.waitWho 0 r.conds = .ok t bs)
include fresh evaluated

/-- An evaluation whose combination holds wakes the unit with the bits of its conditions. -/
theorem State.evaluate_holds (h : r.holds bs = true) : s.Woken (s.evaluate r) r (boolBits bs) := by
  have access := s.accessed_evalConds s.waitWho 0 r.conds
  rw [evaluated] at access
  have e : s.evaluate r = t.wakeWait r (boolBits bs) := by simp only [State.evaluate, fresh, evaluated, h, if_true]
  rw [e]
  exact access.woken (t.woken_wakeWait r _)

/-- One whose combination does not hold leaves it waiting. -/
theorem State.evaluate_waits (h : r.holds bs = false) : s.Waits (s.evaluate r) r := by
  have access := s.accessed_evalConds s.waitWho 0 r.conds
  rw [evaluated] at access
  have e : s.evaluate r = (if bs.all Option.isSome then t.forget (.waitWord t.cur t.me) else t).note r := by
    simp only [State.evaluate, fresh, evaluated, h, Bool.false_eq_true, if_false]
  rw [e]
  refine State.Accessed.waits (State.Accessed.trans access ?_) (State.waits_note _ r)
  split_ifs <;> rfl

end

/-- One of a unit whose combination has held before wakes it with the bits of then. -/
theorem State.evaluate_woken (s : State) {r : WaitRec} {bits : Nat} (h : r.woken = some bits) : s.evaluate r = s.wakeWait r bits := by
  simp only [State.evaluate, h]

/-! ### WAIT (R159 to R161) -/

/-- The control word of a WAIT. -/
def State.waitControl (s : State) (c : BitVec 7) : W64 := s.valueAt (unsConsts true) [ss .c c] .c 0

/-- A control word that names no conditions or more than four, or has an unused bit set. -/
def waitControlBad (v : W64) : Bool := decide (v.toNat % 8 = 0) || decide (4 < v.toNat % 8) || decide (v.toNat / 16 % 2 ^ 28 ≠ 0)

theorem waitControlBad_iff (v : W64) : waitControlBad v = true ↔ v.toNat % 8 = 0 ∨ 4 < v.toNat % 8 ∨ v.toNat / 16 % 2 ^ 28 ≠ 0 := by
  simp only [waitControlBad, Bool.or_eq_true, decide_eq_true_eq, or_assoc]

/-- The record of a WAIT as its control and its operands say. -/
def State.waitRec (s : State) (c b a : BitVec 7) : WaitRec :=
  let ctl := s.waitControl c
  let n := ctl.toNat % 8
  let ops := [sd .a a, sblock .b b (2 * n), ss .c c]
  let e := s.regAt ops .b
  { conds := (List.range n).map (fun i => (s.w.sreg (e + 2 * i), s.w.sreg (e + 2 * i + 1))), allOf := ctl.getLsbD 3,
    timeout := ctl.toNat / 2 ^ 32, start := s.tick, dst := s.regAt ops .a, lines := [], woken := none }

section
variable {s : State} {c b a : BitVec 7} (quiet : s.NoResults)
include quiet

/-- WAIT with valid control and conditions passes its unit and evaluates the conditions. -/
theorem exec_wait (admitted : s.Admits acceptI [sd .a a, sblock .b b (2 * ((s.waitControl c).toNat % 8)), ss .c c])
    (valid : waitControlBad (s.waitControl c) = false) (legal : (s.waitRec c b a).conds.any condIllegal = false)
    (straight : (s.waitRec c b a).conds.any (condCrooked (s.spadSize s.g)) = false) :
    exec (.wait c b a) s =
      .next ((s.closeWindows.parkNext (.wait (s.waitRec c b a))).evaluate (s.waitRec c b a)) := by
  have same := State.sameIssue_closeWindows quiet
  have tick : s.closeWindows.tick = s.tick := by rw [quiet.closeWindows]; rfl
  have size : s.closeWindows.spadSize s.g = s.spadSize s.g := by rw [quiet.closeWindows]; rfl
  unfold State.waitControl at admitted valid
  unfold waitControlBad at valid
  simp only [State.waitRec, State.waitControl] at legal straight
  rw [show exec (.wait c b a) s = execWait c b a s from rfl, execWait, quiet.closed]
  simp only [same.valueAt, valid, Bool.and_false, Bool.false_eq_true, if_false]
  rw [State.issue_admits _ (same.admits admitted)]
  simp only [same.regAt, same.w, same.g, size, tick, legal, straight, Bool.false_eq_true, if_false]
  rfl

/-- Invalid control raises ILLEGAL_OP. -/
theorem exec_wait_illegal (admitted : s.Admits acceptI [sd .a a, sblock .b b 1, ss .c c])
    (bad : waitControlBad (s.waitControl c) = true) :
    exec (.wait c b a) s = .next (s.closeWindows.takeTrap .illegalOp s.ir.toNat) := by
  have same := State.sameIssue_closeWindows quiet
  have ir : s.closeWindows.ir = s.ir := by rw [quiet.closeWindows]; rfl
  have inBounds : [sd .a a, sblock .b b 1, ss .c c].all (fun o => (s.boundOp o).isNone) = true := by
    obtain ⟨_, _, bounds, _⟩ := admitted
    simpa only [List.all_eq_true, Option.isNone_iff_eq_none, List.findSome?_eq_none_iff] using bounds
  unfold waitControlBad State.waitControl at bad
  rw [show exec (.wait c b a) s = execWait c b a s from rfl, execWait, quiet.closed]
  simp only [same.valueAt, same.boundOp, bad, if_true, inBounds, Bool.and_true]
  rw [State.issue_illegal _ (.inr (.inl rfl)), ir]

end

/-- What one unit does for another leaves the turn where it was. -/
theorem State.warpAt_asUnit {s : State} {w k : Nat} {f : State → State} (hc : (f { s with cur := w, unit := k }).cur = w) :
    (s.asUnit w k f).warpAt w = (f { s with cur := w, unit := k }).w := by
  unfold State.w; rw [hc]; rfl

theorem State.unitAt_asUnit {s : State} {w k : Nat} {f : State → State} (hc : (f { s with cur := w, unit := k }).cur = w)
    (hk : (f { s with cur := w, unit := k }).unit = k) :
    Table.get IUnit.blank ((s.asUnit w k f).warpAt w).units k = (f { s with cur := w, unit := k }).u := by
  rw [State.warpAt_asUnit hc]; unfold State.u; rw [hk]

/-- WAIT_TIMEOUT as one unit. -/
def State.timeOut (s : State) : State :=
  match s.u.park with
  | .wait r =>
    if s.running && s.timedOut r then
      (s.unwait (.waitWord s.cur s.me)).wakeWait r (16 + boolBits (s.seen r))
    else s
  | _ => s

theorem exec_waitTimeout (s : State) (w k : Nat) : exec (.waitTimeout w k) s = .next (s.asUnit w k State.timeOut) := rfl

theorem State.timeOut_of_timedOut {s : State} {r : WaitRec} (hp : s.u.park = .wait r) (hr : s.running = true) (ht : s.timedOut r = true) :
    s.timeOut = (s.unwait (.waitWord s.cur s.me)).wakeWait r (16 + boolBits (s.seen r)) := by
  simp only [State.timeOut, hp, hr, ht, Bool.and_self, if_true]

section
variable {s : State} {w k : Nat} {f : State → State} {r : WaitRec}

/-- A unit that wakes in another's turn. -/
theorem State.Woken.inTurn {bits : Nat} (h : State.Woken { s with cur := w, unit := k } (f { s with cur := w, unit := k }) r bits) :
    (Table.get IUnit.blank ((s.asUnit w k f).warpAt w).units k).park =
        restAt (State.w { s with cur := w, unit := k }).loops (State.u { s with cur := w, unit := k }).lanes (State.u { s with cur := w, unit := k }).pc ∧
      ((s.asUnit w k f).warpAt w).sreg r.dst = BitVec.ofNat 64 bits := by
  rw [State.unitAt_asUnit h.cur h.unit, State.warpAt_asUnit h.cur, h.u]
  exact ⟨rfl, h.dst⟩

/-- A unit that waits on after another's turn. -/
theorem State.Waits.inTurn (h : State.Waits { s with cur := w, unit := k } (f { s with cur := w, unit := k }) r) :
    (∃ ls, (Table.get IUnit.blank ((s.asUnit w k f).warpAt w).units k).park = .wait { r with lines := ls } ∧
        ∀ y ∈ ls, y.2 = Memory.readBytes (s.asUnit w k f).mem (128 * y.1) 128) ∧
      ((s.asUnit w k f).warpAt w).sregs = (State.w { s with cur := w, unit := k }).sregs := by
  rw [State.unitAt_asUnit h.cur h.unit, State.warpAt_asUnit h.cur]
  obtain ⟨ls, hu, stands⟩ := h.u
  exact ⟨⟨ls, by rw [hu], stands⟩, h.sregs⟩

end

/-- WAIT and its wakes, each as its evaluation decides. -/
theorem waitAndWake : WaitAndWake := by
  intro s t c b a bs w k r ctl n ops e conds rec0 lined v here met
  refine ⟨fun admitted lo hi zero legal straight evaluated quiet => ?_,
    fun admitted bad quiet => exec_wait_illegal quiet admitted ((waitControlBad_iff _).2 bad),
    fun parked runs unfaulted fresh evaluated => ?_, fun bits parked runs unfaulted woken => ?_, fun parked runs timed reached => ?_⟩
  · have same := State.sameIssue_closeWindows quiet
    have passed : v.u = s.passed (.wait rec0) := (State.u_setU _ _).trans (by rw [same.u]; rfl)
    have loops : v.w.loops = s.w.loops := by rw [← same.w, show v.w = _ from State.w_setU _ _]
    have sregs : v.w.sregs = s.w.sregs := by rw [← same.w, show v.w = _ from State.w_setU _ _]
    have valid : waitControlBad (s.waitControl c) = false := by
      refine Bool.eq_false_iff.2 (fun bad => ?_)
      rcases (waitControlBad_iff _).1 bad with none | many | unused
      · exact absurd none (by show ¬ n = 0; omega)
      · exact absurd many (by show ¬ 4 < n; omega)
      · exact unused zero
    refine ⟨_, exec_wait quiet admitted valid legal straight, ?_⟩
    by_cases holds : rec0.holds bs = true
    · have wakes : v.Woken (v.evaluate rec0) rec0 (boolBits bs) := State.evaluate_holds rfl evaluated holds
      have u := wakes.u
      rw [passed, loops] at u
      exact ⟨congrArg IUnit.pc u, fun _ => ⟨congrArg IUnit.park u, wakes.dst⟩,
        fun unmet => absurd ((WaitRec.holds_iff _ _).1 holds) unmet⟩
    · have waits : v.Waits (v.evaluate rec0) rec0 := State.evaluate_waits rfl evaluated (Bool.eq_false_iff.2 holds)
      obtain ⟨ls, u, stands⟩ := waits.u
      rw [passed] at u
      exact ⟨congrArg IUnit.pc u, fun hmet => absurd ((WaitRec.holds_iff _ _).2 hmet) holds,
        fun _ => ⟨⟨ls, congrArg IUnit.park u, stands⟩, waits.sregs.trans sregs⟩⟩
  · have turn : here.reevaluate = here.evaluate r := State.reevaluate_of_wait parked runs unfaulted
    refine ⟨_, exec_waitWake s w k, rfl, rfl, fun hmet => ?_, fun unmet => ?_⟩
    · exact State.Woken.inTurn (turn ▸ State.evaluate_holds fresh evaluated ((WaitRec.holds_iff _ _).2 hmet))
    · have unheld : r.holds bs = false := Bool.eq_false_iff.2 (fun holds => unmet ((WaitRec.holds_iff _ _).1 holds))
      exact State.Waits.inTurn (turn ▸ State.evaluate_waits fresh evaluated unheld)
  · have turn : here.reevaluate = here.wakeWait r bits :=
      (State.reevaluate_of_wait parked runs unfaulted).trans (State.evaluate_woken here woken)
    obtain ⟨rests, result⟩ := State.Woken.inTurn (s := s) (turn ▸ here.woken_wakeWait r bits)
    have mem : here.reevaluate.mem = here.mem := by rw [turn, State.mem_wakeWait]
    exact ⟨_, exec_waitWake s w k, rfl, rfl, rests, result, mem⟩
  · have expired : here.timedOut r = true := by simp only [State.timedOut, Bool.and_eq_true, decide_eq_true_eq]; exact ⟨timed, reached⟩
    have turn := State.timeOut_of_timedOut parked runs expired
    have wakes := (here.accessed_unwait (.waitWord here.cur here.me)).woken (State.woken_wakeWait _ r (16 + boolBits (here.seen r)))
    obtain ⟨rests, result⟩ := State.Woken.inTurn (s := s) (f := State.timeOut) (turn ▸ wakes)
    have mem : here.timeOut.mem = here.mem := by rw [turn, State.mem_wakeWait]; rfl
    exact ⟨_, exec_waitTimeout s w k, rfl, rfl, rests, result, mem⟩

/-- Settles O37: an evaluation is an access, so it leaves its unit as the record of the WAIT says, and leaves the clock to the
heartbeat. -/
theorem waitsAndHeartbeat : Obligations.WaitsAndHeartbeat := ⟨waitAndWake, heartbeat⟩

end Sys2Proof.Machine
end

section
/-! CVT, PACK, UNPK and QBX (R60, R64, R87 to R89). -/
namespace Sys2Proof.Machine

/-- Bits added above the low eight and a byte below them: an OR of the two is their sum (R89's head word). -/
theorem ofNat_or_byte (n : Nat) (c : Byte) : BitVec.ofNat 32 (256 * n) ||| c.setWidth 32 = BitVec.ofNat 32 (256 * n + c.toNat) := by
  have low : c.toNat < 2 ^ 8 := c.isLt
  have sum : 2 ^ 8 * n ||| c.toNat = 2 ^ 8 * n + c.toNat := (Nat.two_pow_add_eq_or_of_lt low n).symm
  rw [show c.setWidth 32 = BitVec.ofNat 32 c.toNat from (BitVec.ofNat_toNat 32 c).symm, ← BitVec.ofNat_or]
  exact congrArg _ sum

/-- A conversion is legal where both type codes name a type (R43, R87). -/
theorem cvt_wf {d y : BitVec 4} (x : BitVec 1) (r : BitVec 2) (b a : BitVec 7) (hd : d.toNat ≤ 12) (hy : y.toNat ≤ 12) :
    (Instr.cvt d x r y b a).wf = true := by
  simp [Instr.wf, hd, hy]

theorem qbx_wf {f : BitVec 4} (b a : BitVec 7) (h : f.toNat ≤ 2) : (Instr.qbx f b a).wf = true := by
  simp [Instr.wf, h]

/-- A lane-by-lane instruction of a vector destination, once it is legal: its lane function is what is written (R30, R58). -/
theorem State.vecCaseF_of_vmap {s : State} {i : Instr} {acc : Accept} {ops : List Opnd} {k : Consts} {n : Nat} {illegal : Bool}
    {f : Nat → W64 → W64 → W64 → W64} {g : Nat → W64 → W64 → W64 → BitVec 5} (F : State → Nat → W64 → W64 → W64 → W64 × BitVec 5)
    (runs : exec i s = s.vmap acc ops illegal k n none F) (legal : illegal = false) (hn : n = 1 ∨ n = 2)
    (lane : ∀ t L A B C, F t L A B C = (f L A B C, g L A B C)) : s.VecCaseF i acc ops k n f g := by
  intro admitted
  subst legal
  obtain ⟨u, next, result⟩ := State.vmap_spec k F hn admitted
  simp only [lane] at result
  exact ⟨u, runs.trans next, result⟩

theorem regsOfType_eq (t : Nat) : regsOfType t = 1 ∨ regsOfType t = 2 := by
  unfold regsOfType
  split
  · exact .inr rfl
  · exact .inl rfl

/-! ### QBX (R64, R89) -/

/-- The block that QBX quantizes: the lanes of ACT, and zeros in the others. -/
def State.qbxBlock (s : State) (f : BitVec 4) (b a : BitVec 7) : Block :=
  quantize (lanes32.map (fun L => if s.act.getLsbD L then
      decodeF (typeFmt (qbxType f)) ((s.valueAt (constsOf (qbxType f)) [vd .a a 2, vs .b b 1] .b L).toNat % 2 ^ typeBits (qbxType f))
    else .num false 0 0))

/-- The pair that a lane holds of a block: its mantissa, and above it the code and the saturation count. -/
def Block.lane (q : Block) (L : Nat) : W64 := BitVec.ofNat 32 (256 * q.sats + q.code.toNat) ++ BitVec.ofInt 32 (q.mants.getD L 0)

def Block.flags (q : Block) : BitVec 5 := if q.bad then NV else (if q.exact then 0 else NX) ||| (if 0 < q.sats then OF else 0)

theorem exec_qbx (f : BitVec 4) (b a : BitVec 7) (s : State) :
    exec (.qbx f b a) s = s.issue acceptGX [vd .a a 2, vs .b b 1] (!(Instr.qbx f b a).wf) (fun s =>
      if s.act = 0 then .done s
      else .done ((s.writeA [vd .a a 2, vs .b b 1] 2 (s.qbxBlock f b a).lane).raise (s.qbxBlock f b a).flags)) := by
  have flags (q : Block) : (if q.bad then NV else flagIf (!q.exact) NX ||| flagIf (decide (0 < q.sats)) OF) = q.flags := by
    unfold Block.flags flagIf
    cases q.exact <;> simp
  show execQbx f b a s = _
  unfold execQbx
  simp only [flags, ofNat_or_byte]
  rfl

theorem State.qbx_spec {s : State} {f : BitVec 4} {b a : BitVec 7} (hf : f.toNat ≤ 2) (active : s.act ≠ 0)
    (admitted : s.Admits acceptGX [vd .a a 2, vs .b b 1]) :
    s.Completes (.qbx f b a) (fun u => s.VecResult u [vd .a a 2, vs .b b 1] 2 (s.regAt [vd .a a 2, vs .b b 1] .a)
      (s.qbxBlock f b a).lane (s.qbxBlock f b a).flags) := by
  have ⟨_, _, _, _, _, fresh⟩ := admitted
  have result := State.writeA_result fresh [vd .a a 2, vs .b b 1] 2 (.inr rfl) (s.qbxBlock f b a).lane (s.qbxBlock f b a).flags
  refine ⟨_, ?_, result⟩
  rw [exec_qbx, qbx_wf b a hf, Bool.not_true]
  exact State.issue_done admitted (if_neg active)

/-- Settles O13, each instruction by what its lane function writes. -/
theorem conversionInstructions : Obligations.ConversionInstructions := by
  intro s d y t f x r c b a
  refine ⟨fun hd hy => ?_, fun legal => ?_, fun legal => ?_, fun hf active admitted => ?_⟩
  · have runs : exec (.cvt d x r y b a) s = execCvt d x r y b a s := rfl
    exact State.vecCaseF_of_vmap _ runs (by rw [cvt_wf x r b a hd hy]; rfl) (regsOfType_eq _) (fun _ _ _ _ _ => rfl)
  · have runs : exec (.pack t c b a) s = execPack t c b a s := rfl
    exact State.vecCaseF_of_vmap _ runs (by rw [legal]; rfl) (.inl rfl) (fun _ _ _ _ _ => rfl)
  · have runs : exec (.unpk t c b a) s = execUnpk t c b a s := rfl
    refine State.vecCaseF_of_vmap _ runs (by rw [legal]; rfl) (.inl rfl) (fun _ _ _ B _ => ?_)
    simp only [BitVec.toNat_ushiftRight, Nat.shiftRight_eq_div_pow]
  · exact State.qbx_spec hf active admitted

end Sys2Proof.Machine
end

section
/-! Spans of sparse tables: reading and replacing the values at consecutive keys. -/
namespace Sys2Proof

variable {α : Type}

theorem Table.get_eq_find (d : α) (t : Table α) (n : Nat) : Table.get d t n = (Table.find t n).getD d := by
  induction t with
  | nil => rfl
  | cons p t ih =>
    simp only [Table.get, Table.find]
    split_ifs
    · rfl
    · exact ih

theorem Table.mem_of_find {t : Table α} {n : Nat} {x : α} (h : Table.find t n = some x) : (n, x) ∈ t := by
  induction t with
  | nil => cases h
  | cons p t ih =>
    rw [Table.find] at h
    split_ifs at h with hk
    · cases h; subst hk; exact List.mem_cons_self
    · exact List.mem_cons_of_mem _ (ih h)

theorem Table.find_append (t u : Table α) (n : Nat) : Table.find (t ++ u) n = (Table.find t n).or (Table.find u n) := by
  induction t with
  | nil => rfl
  | cons p t ih =>
    simp only [List.cons_append, Table.find]
    split_ifs
    · rfl
    · exact ih

theorem Table.find_filter (p : Nat → Bool) (t : Table α) (n : Nat) :
    Table.find (t.filter (fun x => p x.1)) n = if p n then Table.find t n else none := by
  induction t with
  | nil => simp
  | cons x t ih =>
    obtain ⟨k, v⟩ := x
    by_cases hk : k = n
    · subst hk
      cases hp : p k <;> simp [Table.find, hp, ih]
    · cases hp : p k <;> simp [Table.find, hp, ih, hk]

theorem Table.get_filter (d : α) (p : Nat → Bool) (t : Table α) (n : Nat) :
    Table.get d (t.filter (fun x => p x.1)) n = if p n then Table.get d t n else d := by
  rw [Table.get_eq_find, Table.find_filter, Table.get_eq_find]
  split_ifs <;> rfl

/-- The canonical form: keys in strictly rising order from `lo` on. -/
theorem Table.risingFrom_iff {t : Table α} {lo : Nat} :
    Table.risingFrom lo t = true ↔ (∀ x ∈ t, lo ≤ x.1) ∧ t.Pairwise (fun x y => x.1 < y.1) := by
  induction t generalizing lo with
  | nil => simp [Table.risingFrom]
  | cons p t ih =>
    simp only [Table.risingFrom, Bool.and_eq_true, decide_eq_true_eq, ih, List.mem_cons, forall_eq_or_imp, List.pairwise_cons,
      Nat.succ_le_iff]
    constructor
    · rintro ⟨first, above, rest⟩
      exact ⟨⟨first, fun x hx => by have := above x hx; omega⟩, above, rest⟩
    · rintro ⟨⟨first, -⟩, above, rest⟩
      exact ⟨first, above, rest⟩

theorem Table.wf_iff [DecidableEq α] {d : α} {t : Table α} :
    Table.wf d t = true ↔ t.Pairwise (fun x y => x.1 < y.1) ∧ ∀ x ∈ t, x.2 ≠ d := by
  simp [Table.wf, Table.risingFrom_iff]

theorem Table.wf_filter [DecidableEq α] {d : α} {t : Table α} (p : Nat × α → Bool) (w : Table.wf d t = true) :
    Table.wf d (t.filter p) = true := by
  obtain ⟨rising, listed⟩ := Table.wf_iff.1 w
  exact Table.wf_iff.2 ⟨rising.filter p, fun x hx => listed x (List.mem_of_mem_filter hx)⟩

/-! ### Reading a span -/

theorem Table.find_of_lt {t : Table α} {lo n : Nat} (h : n < lo) (rising : Table.risingFrom lo t = true) : Table.find t n = none := by
  induction t generalizing lo with
  | nil => rfl
  | cons p t ih =>
    simp only [Table.risingFrom, Bool.and_eq_true, decide_eq_true_eq] at rising
    obtain ⟨first, rest⟩ := rising
    rw [Table.find, if_neg (by omega)]
    exact ih (by omega) rest

theorem Table.expand_eq_map (d : α) (k n : Nat) (t : Table α) (rising : Table.risingFrom n t = true) :
    Table.expand d k n t = (List.range' n k).map (Table.get d t) := by
  induction k generalizing n t with
  | zero => simp [Table.expand]
  | succ k ih =>
    cases t with
    | nil => simp [Table.expand, List.range'_succ, ih (n + 1) [] rfl, Table.get]
    | cons p t =>
      obtain ⟨a, v⟩ := p
      have ⟨first, rest⟩ := (Bool.and_eq_true _ _).mp rising
      rw [decide_eq_true_eq] at first
      by_cases ha : a = n
      · subst ha
        have tail : (List.range' (a + 1) k).map (Table.get d t) = (List.range' (a + 1) k).map (Table.get d ((a, v) :: t)) := by
          refine List.map_congr_left (fun m hm => ?_)
          rw [List.mem_range'_1] at hm
          rw [Table.get, if_neg (by omega)]
        simp only [Table.expand, if_true, ih _ t rest, tail, List.range'_succ, List.map_cons, Table.get]
      · have later : Table.risingFrom (n + 1) ((a, v) :: t) = true := by
          simp only [Table.risingFrom, Bool.and_eq_true, decide_eq_true_eq]
          exact ⟨by omega, rest⟩
        have here : Table.get d ((a, v) :: t) n = d := by
          rw [Table.get_eq_find, Table.find_of_lt (Nat.lt_succ_self n) later]; rfl
        rw [Table.expand, if_neg ha, ih _ _ later, List.range'_succ, List.map_cons, here]

/-- A span lists what reads of its keys give. -/
theorem Table.span_eq_map [DecidableEq α] {d : α} {t : Table α} (n k : Nat) (w : Table.wf d t = true) :
    Table.span d t n k = (List.range' n k).map (Table.get d t) := by
  obtain ⟨rising, -⟩ := Table.wf_iff.1 w
  have kept : Table.risingFrom n (t.filter (fun x => decide (n ≤ x.1) && decide (x.1 < n + k))) = true :=
    Table.risingFrom_iff.2 ⟨fun x hx => by have := List.of_mem_filter hx; simp at this; exact this.1, rising.filter _⟩
  unfold Table.span
  rw [Table.expand_eq_map d k n _ kept]
  refine List.map_congr_left (fun m hm => ?_)
  rw [List.mem_range'_1] at hm
  rw [Table.get_filter d (fun m => decide (n ≤ m) && decide (m < n + k)), if_pos (by simpa using hm)]

/-! ### Replacing a span -/

theorem Table.get_compress [DecidableEq α] (d : α) (n m : Nat) (xs : List α) :
    Table.get d (Table.compress d n xs) m = if n ≤ m then xs.getD (m - n) d else d := by
  induction xs generalizing n with
  | nil => simp [Table.compress]
  | cons x xs ih =>
    have next := ih (n + 1)
    rcases Nat.lt_trichotomy m n with h | rfl | h
    · rw [if_neg (by omega)] at next ⊢
      simp only [Table.compress]
      split_ifs
      · exact next
      · rw [Table.get, if_neg (by omega)]; exact next
    · rw [if_neg (by omega)] at next
      simp only [Table.compress, le_refl, if_true, Nat.sub_self, List.getD_cons_zero]
      split_ifs with hx
      · rw [hx]; exact next
      · simp [Table.get]
    · rw [if_pos (by omega)] at next ⊢
      rw [show m - n = m - (n + 1) + 1 by omega, List.getD_cons_succ, ← next]
      simp only [Table.compress]
      split_ifs
      · rfl
      · rw [Table.get, if_neg (by omega)]

theorem Table.mem_compress [DecidableEq α] {d : α} {n : Nat} {xs : List α} {x : Nat × α} (h : x ∈ Table.compress d n xs) :
    n ≤ x.1 ∧ x.1 < n + xs.length ∧ x.2 ≠ d := by
  induction xs generalizing n with
  | nil => simp [Table.compress] at h
  | cons y ys ih =>
    simp only [Table.compress] at h
    split_ifs at h with hy
    · obtain ⟨low, high, ne⟩ := ih h
      exact ⟨by omega, by rw [List.length_cons]; omega, ne⟩
    · rcases List.mem_cons.1 h with rfl | h
      · exact ⟨le_refl _, by simp, hy⟩
      · obtain ⟨low, high, ne⟩ := ih h
        exact ⟨by omega, by rw [List.length_cons]; omega, ne⟩

theorem Table.pairwise_compress [DecidableEq α] (d : α) (n : Nat) (xs : List α) :
    (Table.compress d n xs).Pairwise (fun x y => x.1 < y.1) := by
  induction xs generalizing n with
  | nil => exact .nil
  | cons y ys ih =>
    simp only [Table.compress]
    split_ifs
    · exact ih _
    · exact List.pairwise_cons.2 ⟨fun x hx => (Table.mem_compress hx).1, ih _⟩

/-- Reading after a span has been replaced. -/
theorem Table.get_setSpan [DecidableEq α] (d : α) (t : Table α) (n m : Nat) (xs : List α) :
    Table.get d (Table.setSpan d t n xs) m = if n ≤ m ∧ m < n + xs.length then xs.getD (m - n) d else Table.get d t m := by
  have middle := Table.get_compress d n m xs
  rw [Table.get_eq_find] at middle
  rw [Table.get_eq_find, Table.setSpan, Table.find_append, Table.find_append,
    Table.find_filter (fun m => decide (m < n)), Table.find_filter (fun m => decide (n + xs.length ≤ m)), Table.get_eq_find]
  have absent (out : m < n ∨ n + xs.length ≤ m) : Table.find (Table.compress d n xs) m = none := by
    cases found : Table.find (Table.compress d n xs) m with
    | none => rfl
    | some y =>
      exfalso
      obtain ⟨_, _, _⟩ := Table.mem_compress (Table.mem_of_find found)
      omega
  by_cases low : m < n
  · simp [low, absent (.inl low), Nat.not_le.2 low, show ¬ n + xs.length ≤ m by omega]
  · by_cases high : n + xs.length ≤ m
    · simp [low, high, absent (.inr high), show ¬ m < n + xs.length by omega]
    · rw [if_pos (by omega)] at middle
      simp [low, high, show n ≤ m by omega, show m < n + xs.length by omega, middle]

theorem Table.wf_setSpan [DecidableEq α] {d : α} {t : Table α} (n : Nat) (xs : List α) (w : Table.wf d t = true) :
    Table.wf d (Table.setSpan d t n xs) = true := by
  obtain ⟨rising, listed⟩ := Table.wf_iff.1 w
  have below {x : Nat × α} (h : x ∈ t.filter (fun x => decide (x.1 < n))) : x.1 < n := by simpa using (List.mem_filter.1 h).2
  have above {x : Nat × α} (h : x ∈ t.filter (fun x => decide (n + xs.length ≤ x.1))) : n + xs.length ≤ x.1 := by
    simpa using (List.mem_filter.1 h).2
  refine Table.wf_iff.2 ⟨?_, fun x hx => ?_⟩
  · refine List.pairwise_append.2 ⟨List.pairwise_append.2 ⟨rising.filter _, Table.pairwise_compress d n xs, ?_⟩, rising.filter _, ?_⟩
    · intro x hx y hy
      have := below hx
      have := (Table.mem_compress hy).1
      omega
    · intro x hx y hy
      have := above hy
      rcases List.mem_append.1 hx with hx | hx
      · have := below hx; omega
      · have := Table.mem_compress hx; omega
  · rcases List.mem_append.1 hx with hx | hx
    · rcases List.mem_append.1 hx with hx | hx
      · exact listed x (List.mem_of_mem_filter hx)
      · exact (Table.mem_compress hx).2.2
    · exact listed x (List.mem_of_mem_filter hx)

end Sys2Proof
end

section
/-! K steps and the clearing and writing of tiles (R66 to R68, R192, R199, R200). -/
namespace Sys2Proof.Machine

/-! ### Lists cut into pieces -/

theorem pieces_eq_map {α : Type} (n k : Nat) (l : List α) :
    pieces n k l = (List.range k).map (fun i => (l.drop (n * i)).take n) := by
  induction k generalizing l with
  | zero => rfl
  | succ k ih =>
    rw [pieces, ih, List.range_succ_eq_map, List.map_cons, List.map_map, Nat.mul_zero, List.drop_zero]
    refine congrArg _ (List.map_congr_left (fun i _ => ?_))
    simp only [Function.comp_apply, List.drop_drop, Nat.mul_succ]
    rw [Nat.add_comm]

theorem length_pieces {α : Type} (n k : Nat) (l : List α) : (pieces n k l).length = k := by simp [pieces_eq_map]

theorem eq_map_getD {α : Type} (l : List α) (d : α) : l = (List.range l.length).map (fun i => l.getD i d) := by
  refine List.ext_getElem (by simp) (fun i h _ => ?_)
  rw [List.getElem_map, List.getElem_range, List.getElem_eq_getD d]

/-- Rows of b values one after the other: place k lies in row k / b. -/
theorem flatten_rows {β : Type} (a b : Nat) (f : Nat → Nat → β) :
    ((List.range a).map (fun i => (List.range b).map (f i))).flatten = (List.range (a * b)).map (fun k => f (k / b) (k % b)) := by
  rcases Nat.eq_zero_or_pos b with rfl | hb
  · simp
  induction a with
  | zero => simp
  | succ a ih =>
    rw [List.range_succ, List.map_append, List.flatten_append, ih, Nat.succ_mul, List.range_add, List.map_append, List.map_map]
    congr 1
    simp only [List.map_cons, List.map_nil, List.flatten_cons, List.flatten_nil, List.append_nil]
    refine List.map_congr_left (fun j hj => ?_)
    have inRow := List.mem_range.1 hj
    rw [Function.comp_apply, Nat.mul_comm a b, Nat.mul_add_div hb, Nat.div_eq_of_lt inRow, Nat.mul_add_mod, Nat.mod_eq_of_lt inRow, Nat.add_zero]

/-- The rows of a span of a table. -/
theorem pieces_span {α : Type} [DecidableEq α] {d : α} {t : Table α} (n a b : Nat) (w : Table.wf d t = true) :
    pieces b a (Table.span d t n (a * b)) = (List.range a).map (fun i => (List.range b).map (fun j => Table.get d t (n + (b * i + j)))) := by
  rw [pieces_eq_map, Table.span_eq_map n (a * b) w]
  refine List.map_congr_left (fun i hi => ?_)
  have inside : b * i + b ≤ a * b := by
    rw [← Nat.mul_succ, Nat.mul_comm a b]
    exact Nat.mul_le_mul_left b (List.mem_range.1 hi)
  rw [← List.map_drop, ← List.map_take, List.drop_range', List.take_range'_of_length_ge (by omega), List.range'_eq_map_range, List.map_map]
  refine List.map_congr_left (fun j _ => ?_)
  simp [Nat.add_assoc]

/-! ### The elements of a K step -/

theorem stepRow_eq_zipWith (sat : Bool) (as : List FVal) (cs : List W32) (ks : List (List Int × Byte × Int)) :
    stepRow sat as cs ks = List.zipWith (stepElem sat as) cs ks := by
  induction cs generalizing ks with
  | nil => rfl
  | cons c cs ih => cases ks <;> simp [stepRow, ih]

theorem stepRows_eq_zipWith (sat : Bool) (cols : List (List Int × Byte × Int)) (as : List (List FVal)) (cs : List (List W32)) :
    stepRows sat cols as cs = (List.zipWith (fun a c => List.zipWith (stepElem sat a) c cols) as cs).flatten := by
  induction as generalizing cs with
  | nil => rfl
  | cons a as ih => cases cs <;> simp [stepRows, stepRow_eq_zipWith, ih]

theorem zipWith_map_range {β γ δ : Type} (f : β → γ → δ) (n : Nat) (g : Nat → β) (h : Nat → γ) :
    List.zipWith f ((List.range n).map g) ((List.range n).map h) = (List.range n).map (fun i => f (g i) (h i)) := by
  rw [List.zipWith_map, List.zipWith_self]

/-- A step over a whole tile: element by element, row after row. -/
theorem stepRows_tile (sat : Bool) {cols : List (List Int × Byte × Int)} {rows : List (List FVal)} (hc : cols.length = 128)
    (hr : rows.length = 128) (old : Nat → Nat → W32) :
    stepRows sat cols rows ((List.range 128).map (fun i => (List.range 128).map (old i))) =
      ((List.range 128).map (fun i => (List.range 128).map (fun j =>
        stepElem sat (rows.getD i []) (old i j) (cols.getD j ([], 0, 0))))).flatten := by
  have allRows := eq_map_getD rows []
  have allCols := eq_map_getD cols ([], 0, 0)
  rw [hr] at allRows
  rw [hc] at allCols
  have row (a : List FVal) (c : Nat → W32) : List.zipWith (stepElem sat a) ((List.range 128).map c) cols =
      (List.range 128).map (fun j => stepElem sat a (c j) (cols.getD j ([], 0, 0))) := by
    conv_lhs => rw [allCols, zipWith_map_range]
  rw [stepRows_eq_zipWith]
  conv_lhs => rw [allRows, zipWith_map_range]
  simp only [row]

theorem length_rowsA (env : W32) (bs : List Byte) : (rowsA env bs).length = 128 := by
  simp only [rowsA, List.length_map, length_pieces]

theorem length_colsB {env : W32} {bw bs : List Byte} (h : bs.length = slabBS env) : (colsB env bw bs).length = 128 := by
  simp only [colsB, List.length_map, List.length_zip, length_pieces]
  by_cases scaled : envScale env = 0
  · rw [if_pos scaled, h, slabBS, if_pos scaled, Nat.min_self]
  · rw [if_neg scaled, List.length_replicate, Nat.min_self]

/-! ### K_STEP (R192, R199) -/

/-- The elements that a K step gives a tile, with their counts. -/
def Engine.stepped (e : Engine) (t : Nat) (env : W32) (i j : Nat) : W32 × Nat × Nat :=
  stepElem (envSat env) ((rowsA env (e.fifoA.take (slabA env))).getD i []) (e.elem t (128 * i + j))
    ((colsB env (e.fifoBW.take (slabBW env)) (e.fifoBS.take (slabBS env))).getD j ([], 0, 0))

/-- The sum of a count over a tile. -/
def tileTotal (f : Nat → Nat → Nat) : Nat := ((List.range 128).map (fun i => ((List.range 128).map (f i)).sum)).sum

section
variable {e : Engine} {t : Nat} {env : W32} (ready : slabBS env ≤ e.fifoBS.length) (w : Table.wf 0#32 e.elems = true)
include ready w

theorem Engine.kStep_rows :
    stepRows (envSat env) (colsB env (e.fifoBW.take (slabBW env)) (e.fifoBS.take (slabBS env)))
        (rowsA env (e.fifoA.take (slabA env))) (pieces 128 128 (Table.span 0#32 e.elems (16384 * t) 16384)) =
      ((List.range 128).map (fun i => (List.range 128).map (e.stepped t env i))).flatten := by
  have codes : (e.fifoBS.take (slabBS env)).length = slabBS env := by rw [List.length_take, min_eq_left ready]
  rw [pieces_span (16384 * t) 128 128 w]
  exact stepRows_tile _ (length_colsB codes) (length_rowsA _ _) (fun i j => e.elem t (128 * i + j))

theorem Engine.kStep_eq : e.kStep t env = { e with
    elems := Table.setSpan 0#32 e.elems (16384 * t) ((List.range 16384).map (fun k => (e.stepped t env (k / 128) (k % 128)).1)),
    steps := Table.put 0#32 e.steps t (Table.get 0#32 e.steps t + 1),
    counts := Table.put 0#32 e.counts t (countAfter (Table.get 0#32 e.counts t)
      (tileTotal (fun i j => (e.stepped t env i j).2.1)) (tileTotal (fun i j => (e.stepped t env i j).2.2))),
    envs := Table.put 0#32 e.envs t env,
    fifoA := e.fifoA.drop (slabA env), fifoBW := e.fifoBW.drop (slabBW env), fifoBS := e.fifoBS.drop (slabBS env) } := by
  unfold Engine.kStep
  simp only [Engine.kStep_rows ready w, List.map_flatten, List.map_map, List.sum_flatten, Function.comp_def,
    flatten_rows 128 128 (fun i j => (e.stepped t env i j).1), tileTotal]

theorem Engine.elem_kStep {i j : Nat} (hi : i < 128) (hj : j < 128) :
    (e.kStep t env).elem t (128 * i + j) = (e.stepped t env i j).1 := by
  rw [Engine.kStep_eq ready w]
  simp only [Engine.elem, Table.get_setSpan, List.length_map, List.length_range]
  rw [if_pos (by omega), Nat.add_sub_cancel_left, List.getD_eq_getElem _ _ (by simp; omega), List.getElem_map, List.getElem_range,
    Nat.mul_add_div (by omega), Nat.div_eq_of_lt hj, Nat.mul_add_mod, Nat.mod_eq_of_lt hj, Nat.add_zero]

theorem Engine.elem_kStep_of_ne {m x : Nat} (hm : m ≠ t) (hx : x < 16384) : (e.kStep t env).elem m x = e.elem m x := by
  rw [Engine.kStep_eq ready w]
  simp only [Engine.elem, Table.get_setSpan, List.length_map, List.length_range]
  rw [if_neg (by omega)]

end

/-- Only the engine of a workgroup has changed. -/
theorem State.onlyGroup_setEng (s : State) (wg : Nat) (e : Engine) : s.OnlyGroup (s.setEng wg e) wg { s.wgAt wg with eng := e } := by
  refine ⟨?_, fun k hk => ?_, rfl⟩
  · exact (State.wgAt_setWg ..).trans (if_pos rfl)
  · exact (State.wgAt_setWg ..).trans (if_neg hk)

theorem State.eng_setEng (s : State) (wg : Nat) (e : Engine) : ((s.setEng wg e).wgAt wg).eng = e := by
  rw [(s.onlyGroup_setEng wg e).1]

theorem exec_kStep {s : State} {wg q t left : Nat} {env : W32} {r : List TileOp} (resident : (s.wgAt wg).phase = .resident)
    (head : (s.wgAt wg).eng.ops = .mma q t env left :: r) (hA : slabA env ≤ (s.wgAt wg).eng.fifoA.length)
    (hW : slabBW env ≤ (s.wgAt wg).eng.fifoBW.length) (hS : slabBS env ≤ (s.wgAt wg).eng.fifoBS.length) :
    exec (.kStep wg) s = .next (s.setEng wg (if left ≤ 1 then retired ((s.wgAt wg).eng.kStep t env) q r
      else { (s.wgAt wg).eng.kStep t env with ops := .mma q t env (left - 1) :: r })) := by
  have ops : ((s.wgAt wg).eng.kStep t env).ops = .mma q t env left :: r := head
  have retires : ((s.wgAt wg).eng.kStep t env).retireHead = retired ((s.wgAt wg).eng.kStep t env) q r := by
    rw [Engine.retireHead, ops]; rfl
  have goes : (s.engineOn wg && (s.wgAt wg).eng.slabsReady env) = true := by
    simp [State.engineOn, Engine.slabsReady, resident, hA, hW, hS]
  show execKStep wg s = _
  simp only [execKStep, head, goes, if_true, retires]

/-- What a K step leaves of the engine, field by field (R67, R68, R190, R192, R199). -/
theorem kStep_result {e : Engine} {q t left : Nat} {env : W32} {r : List TileOp} (ready : slabBS env ≤ e.fifoBS.length)
    (w : Table.wf 0#32 e.elems = true) :
    let f := if left ≤ 1 then retired (e.kStep t env) q r else { e.kStep t env with ops := .mma q t env (left - 1) :: r }
    Table.wf 0#32 f.elems = true ∧
    (∀ i j, i < 128 → j < 128 → f.elem t (128 * i + j) = (e.stepped t env i j).1) ∧
    (∀ m x, m ≠ t → x < 16384 → f.elem m x = e.elem m x) ∧
    (∀ m, Table.get 0#32 f.steps m = Table.get 0#32 e.steps m + if m = t then 1 else 0) ∧
    (∀ m, Table.get 0#32 f.counts m = if m = t then countAfter (Table.get 0#32 e.counts t)
      (tileTotal (fun i j => (e.stepped t env i j).2.1)) (tileTotal (fun i j => (e.stepped t env i j).2.2)) else Table.get 0#32 e.counts m) ∧
    (∀ m, Table.get 0#32 f.envs m = if m = t then env else Table.get 0#32 e.envs m) ∧
    f.fifoA = e.fifoA.drop (slabA env) ∧ f.fifoBW = e.fifoBW.drop (slabBW env) ∧ f.fifoBS = e.fifoBS.drop (slabBS env) ∧
    (if left ≤ 1 then f.ops = r ∧ f.retired = q else f.ops = .mma q t env (left - 1) :: r ∧ f.retired = e.retired) := by
  intro f
  obtain ⟨ops, seq, hf, done⟩ : ∃ ops seq, f = { e.kStep t env with ops := ops, retired := seq } ∧
      (if left ≤ 1 then ops = r ∧ seq = q else ops = .mma q t env (left - 1) :: r ∧ seq = e.retired) := by
    by_cases last : left ≤ 1
    · exact ⟨r, q, if_pos last, by rw [if_pos last]; exact ⟨rfl, rfl⟩⟩
    · exact ⟨_, e.retired, if_neg last, by rw [if_neg last]; exact ⟨rfl, rfl⟩⟩
  rw [hf]
  have fields := Engine.kStep_eq (t := t) ready w
  refine ⟨?_, fun i j hi hj => Engine.elem_kStep ready w hi hj, fun m x hm hx => Engine.elem_kStep_of_ne ready w hm hx, fun m => ?_, fun m => ?_,
    fun m => ?_, rfl, rfl, rfl, done⟩
  · simp only [fields]; exact Table.wf_setSpan _ _ w
  · simp only [fields, Table.get_put]
    split_ifs with hm
    · rw [hm]
    · exact (BitVec.add_zero _).symm
  · simp only [fields, Table.get_put]
  · simp only [fields, Table.get_put]

/-! ### ACCZ_APPLY and ACCWR_APPLY (R200) -/

theorem exec_acczApply {s : State} {wg q t : Nat} {r : List TileOp} (resident : (s.wgAt wg).phase = .resident)
    (head : (s.wgAt wg).eng.ops = .accz q t :: r) :
    exec (.acczApply wg) s = .next (s.setEng wg { retired (s.wgAt wg).eng q r with
      elems := (s.wgAt wg).eng.elems.filter (fun x => x.1 / 16384 ≠ t), steps := Table.erase (s.wgAt wg).eng.steps t,
      counts := Table.erase (s.wgAt wg).eng.counts t, envs := Table.erase (s.wgAt wg).eng.envs t }) := by
  have retires : (s.wgAt wg).eng.retireHead = retired (s.wgAt wg).eng q r := by rw [Engine.retireHead, head]; rfl
  have goes : s.engineOn wg = true := by simp [State.engineOn, resident]
  show execAcczApply wg s = _
  simp only [execAcczApply, head, goes, if_true, retires]

theorem exec_accwrApply {s : State} {wg q t : Nat} {es : List (Nat × W32)} {r : List TileOp} (resident : (s.wgAt wg).phase = .resident)
    (head : (s.wgAt wg).eng.ops = .accwr q t es :: r) :
    exec (.accwrApply wg) s =
      .next (s.setEng wg { retired (s.wgAt wg).eng q r with elems := putElems (s.wgAt wg).eng.elems t es }) := by
  have retires : (s.wgAt wg).eng.retireHead = retired (s.wgAt wg).eng q r := by rw [Engine.retireHead, head]; rfl
  have goes : s.engineOn wg = true := by simp [State.engineOn, resident]
  show execAccwrApply wg s = _
  simp only [execAccwrApply, head, goes, if_true, retires]

theorem wf_putElems {t : Table W32} (tile : Nat) (es : List (Nat × W32)) (w : Table.wf 0#32 t = true) :
    Table.wf 0#32 (putElems t tile es) = true := by
  induction es generalizing t with
  | nil => exact w
  | cons x es ih => exact ih (Table.wf_put _ _ w)

/-- Of the values written to one element the last stands. -/
theorem get_putElems (t : Table W32) (tile m : Nat) (es : List (Nat × W32)) :
    Table.get 0#32 (putElems t tile es) m =
      ((es.reverse.find? (fun y => 16384 * tile + y.1 = m)).map (·.2)).getD (Table.get 0#32 t m) := by
  induction es generalizing t with
  | nil => rfl
  | cons x es ih =>
    obtain ⟨i, v⟩ := x
    rw [putElems, ih, List.reverse_cons, List.find?_append, Table.get_put]
    cases es.reverse.find? (fun y => decide (16384 * tile + y.1 = m)) with
    | some y => rfl
    | none =>
      by_cases hm : 16384 * tile + i = m
      · simp [hm]
      · simp [hm, Ne.symm hm]

/-! ### The epilogue (R202) -/

/-- The engine of a workgroup stands as it was. -/
def State.SameEng (wg : Nat) (s t : State) : Prop := (t.wgAt wg).eng = (s.wgAt wg).eng

theorem State.SameEng.trans {wg : Nat} {s t u : State} (h : s.SameEng wg t) (h' : t.SameEng wg u) : s.SameEng wg u := Eq.trans h' h

theorem State.Accessed.sameEng {s t : State} (h : s.Accessed t) (wg : Nat) : s.SameEng wg t := by
  unfold State.SameEng State.wgAt
  rw [h]

theorem State.sameEng_noteWaits (wg : Nat) (s : State) (us : List (Nat × Nat)) : s.SameEng wg (s.noteWaits us) := by
  induction us generalizing s with
  | nil => rfl
  | cons x us ih =>
    obtain ⟨k, n⟩ := x
    refine State.SameEng.trans ?_ (ih _)
    have one (s : State) : s.SameEng wg (match s.u.park with
      | .wait c => (match s.peek c with
        | some bs => if s.running && !s.waitFaulted && c.woken.isNone && c.holds bs then
            s.setU { s.u with park := .wait { c with woken := some (boolBits bs) } } else s
        | none => s)
      | _ => s) := by
      split
      · split
        · split_ifs <;> rfl
        · rfl
      · rfl
    exact one { s with cur := k, unit := n }

theorem State.sameEng_put (wg : Nat) (s : State) (w : Who) (va : Nat) (bs : List Byte) : s.SameEng wg (s.put w va bs).state := by
  refine Got.state_bind ((s.accessed_putBytes w va bs).sameEng wg) (fun s1 _ h => h.trans ?_)
  simp only [Got.state]
  split_ifs
  · exact s1.sameEng_noteWaits wg _
  · rfl

theorem State.accessed_fetchBytes (s : State) (w : Who) (va n : Nat) : s.Accessed (s.fetchBytes w va n).state := by
  have gathers : s.fetchBytes w va n = ((s.reach w accRead [(va, n)]).bind
      (fun s1 p => s1.gather w.waiter 0 (fun bs => bs) p)).bind (fun s2 bs => .ok (s2.forget w.waiter) bs) := by
    unfold State.fetchBytes
    cases s.reach w accRead [(va, n)] with
    | ok s1 p => cases bytes : s1.segBytes w.waiter 0 p <;> simp only [Got.bind, State.gather, bytes]
    | _ => rfl
  rw [gathers]
  exact Got.state_bind (s.accessed_reach_gather _ _ _ _ _) (fun s2 _ h => h.trans (s2.accessed_forget _))

theorem State.accessed_biasRow (s : State) (w : Who) (bias : W64) : s.Accessed (s.biasRow w bias).state := by
  unfold State.biasRow
  split_ifs
  · exact .refl s
  · exact Got.state_bind (s.accessed_fetchBytes w _ _) (fun _ _ h => h)

theorem State.sameEng_setWg_spad (wg : Nat) (s : State) (k : Nat) (m : Memory) : s.SameEng wg (s.setWg k { s.wgAt k with spad := m }) := by
  unfold State.SameEng
  rw [State.wgAt_setWg]
  split_ifs with h
  · rw [h]
  · rfl

theorem State.sameEng_updateObject (wg : Nat) (s : State) (w : Who) (k : Nat) (r : W64) (f : BarObj → BarObj) :
    s.SameEng wg (s.updateObject w k r f).state := by
  have reached := (s.accessed_reach w accAtomic [(refAddr r, 16)]).sameEng wg
  unfold State.updateObject
  split_ifs
  · dsimp only
    split_ifs
    · rfl
    · exact s.sameEng_setWg_spad wg k _
  · split <;> rename_i h <;> rw [h] at reached
    · split_ifs
      · exact reached
      · split
        · exact reached.trans ((State.accessed_ask _ _ _ _).sameEng wg)
        · split
          · exact reached
          · exact reached.trans ((State.accessed_storeSegs _ _ _ _).sameEng wg)
    all_goals exact reached

theorem State.sameEng_countBytes (wg : Nat) (s : State) (w : Who) (k : Nat) (r : W64) (n : Nat) :
    s.SameEng wg (s.countBytes w k r n).state := by
  unfold State.countBytes
  split_ifs
  · rfl
  · have updated := s.sameEng_updateObject wg w k r (fun o => o.landed n)
    rw [State.barrier]
    exact Got.state_bind (P := s.SameEng wg) updated (fun _ _ h => h)

/-- One write of an epilogue: a row, the count word, or the bytes counted at the end. -/
def State.epiloguePiece (s : State) (w : Who) (wg t : Nat) (env : W32) (dest : W64) (pitch : W32) (bias ref : W64) (row : Nat) : Got Unit :=
  let e := (s.wgAt wg).eng
  let at_ := fun (off : Nat) => (dest + BitVec.ofNat 64 off).toNat
  if row < 128 then
    (s.biasRow w bias).bind (fun s b =>
      s.put w (at_ (row * pitch.toNat)) (epilogueRow env (Table.span 0#32 e.elems (16384 * t + 128 * row) 128) b))
  else if row = 128 then
    s.put w (at_ (127 * pitch.toNat + 128 * outSize env)) (valBytes 4 (Table.get 0#32 e.counts t).toNat)
  else if s.unperformedBy w.waiter then .wait s else if ref = 0 then .ok s () else s.countBytes w wg ref (16384 * outSize env + 4)

theorem State.sameEng_epiloguePiece (s : State) (w : Who) (wg t : Nat) (env : W32) (dest : W64) (pitch : W32) (bias ref : W64) (row : Nat) :
    s.SameEng wg (s.epiloguePiece w wg t env dest pitch bias ref row).state := by
  unfold State.epiloguePiece
  dsimp only
  split_ifs
  · exact Got.state_bind ((s.accessed_biasRow w bias).sameEng wg) (fun s1 _ h => h.trans (s1.sameEng_put wg w _ _))
  · exact s.sameEng_put wg w _ _
  · rfl
  · rfl
  · exact s.sameEng_countBytes wg w _ _ _

/-- However far an epilogue comes, its own queue stands. -/
theorem State.sameEng_epilogue (s : State) (w : Who) (wg t : Nat) (env : W32) (dest : W64) (pitch : W32) (bias ref : W64) (fuel row : Nat) :
    s.SameEng wg (s.epilogue w wg t env dest pitch bias ref fuel row).1 := by
  induction fuel generalizing s row with
  | zero => rfl
  | succ fuel ih =>
    have piece := s.sameEng_epiloguePiece w wg t env dest pitch bias ref row
    unfold State.epilogue
    dsimp only
    split
    · rename_i s1 _ h
      change s.epiloguePiece w wg t env dest pitch bias ref row = _ at h
      rw [h] at piece
      exact State.SameEng.trans piece (ih s1 (row + 1))
    · exact piece

/-- An epilogue that comes to its end retires, and its stream is free (R202, R203). -/
theorem exec_accepiApply {s v : State} {wg q t row n k : Nat} {env : W32} {dest : W64} {pitch : W32} {bias ref : W64} {str : Option Nat}
    {r : List TileOp} (resident : (s.wgAt wg).phase = .resident)
    (head : (s.wgAt wg).eng.ops = .accepi q t env dest pitch bias ref row str :: r)
    (free : str.orElse (fun _ => s.freeStream (s.wgAt wg).core [0, 1, 2, 3]) = some n) :
    let s1 := if str.isSome then s else (s.dropAsked (.stream (s.wgAt wg).core n)).setStream (s.wgAt wg).core n (Stream.oneShot wg .epilogue)
    (s1.streamAt (s.wgAt wg).core n).state = .running →
    s1.epilogue (s1.streamWho (s.wgAt wg).core n) wg t env dest pitch bias ref (130 - row) row = (v, k, none) →
    ∃ st : Stream, exec (.accepiApply wg) s = .next ((v.setStream (s.wgAt wg).core n st.freed).setEng wg (v.wgAt wg).eng.retireHead) := by
  intro s1 running ends
  have bound : (if str.isSome then s else s.bindStream (s.wgAt wg).core n (Stream.oneShot wg .epilogue)) = s1 := rfl
  have same : s1.wgAt wg = s.wgAt wg := by
    rw [← bound]
    split_ifs <;> rfl
  have goes : (!s1.engineOn wg && !(str.isSome && decide ((s.wgAt wg).phase = .done)) || decide ((s1.streamAt (s.wgAt wg).core n).state ≠ .running)) = false := by
    simp [State.engineOn, same, resident, running]
  have runs : exec (.accepiApply wg) s = execAccepiApply wg s := rfl
  simp only [execAccepiApply, head, free, bound, goes, Bool.false_eq_true, if_false, ends] at runs
  exact ⟨_, runs⟩

theorem State.streamAt_setStream (s : State) (core n m : Nat) (st : Stream) :
    (s.setStream core n st).streamAt core m = if m = n then st else s.streamAt core m := by
  simp only [State.setStream, State.streamAt, State.coreAt_setCoreAt, if_true, Table.get_set]

/-- Settles O40, operation by operation: a K step over the whole tile at once, ACCZ and ACCWR on the table of elements, and an
epilogue, whose writes leave the queue standing. -/
theorem engineSteps : Obligations.EngineSteps := by
  intro s wg q t left env r es g e rows cols cell total resident w
  refine ⟨fun head hA hW hS => ?_, fun head => ?_, fun head inside => ?_, ?_⟩
  · refine ⟨_, exec_kStep resident head hA hW hS, ?_⟩
    have only := s.onlyGroup_setEng wg (if left ≤ 1 then retired (e.kStep t env) q r else { e.kStep t env with ops := .mma q t env (left - 1) :: r })
    have result := kStep_result (q := q) (t := t) (left := left) (r := r) hS w
    simp only [State.eng_setEng]
    obtain ⟨elems, tile, others, steps, counts, envs, a, bw, bs, head⟩ := result
    exact ⟨elems, tile, others, steps, counts, envs, a, bw, bs, head, only⟩
  · refine ⟨_, exec_acczApply resident head, ?_⟩
    simp only [State.eng_setEng]
    have read (m x : Nat) := Table.get_filter 0#32 (fun k => decide (k / 16384 ≠ t)) e.elems (16384 * m + x)
    refine ⟨Table.wf_filter _ w, fun x hx => ?_, fun m x hm hx => ?_, ?_, ?_, ?_, rfl, rfl, s.onlyGroup_setEng wg _⟩
    · refine (read t x).trans (if_neg ?_)
      simp only [decide_eq_true_eq]; omega
    · refine (read m x).trans (if_pos ?_)
      simp only [decide_eq_true_eq]; omega
    all_goals exact (Table.get_erase ..).trans (if_pos rfl)
  · refine ⟨_, exec_accwrApply resident head, ?_⟩
    simp only [State.eng_setEng]
    refine ⟨wf_putElems t es w, fun x hx => ?_, fun m x hm hx => ?_, s.onlyGroup_setEng wg _⟩
    · refine (get_putElems e.elems t (16384 * t + x) es).trans ?_
      simp only [Nat.add_left_cancel_iff]
      rfl
    · refine (get_putElems e.elems t (16384 * m + x) es).trans ?_
      have untouched : es.reverse.find? (fun y => decide (16384 * t + y.1 = 16384 * m + x)) = none := by
        refine List.find?_eq_none.2 (fun y hy => ?_)
        have := inside y (List.mem_reverse.1 hy)
        simp only [decide_eq_true_eq]; omega
      rw [untouched]
      rfl
  · intro dest pitch bias ref row str n v k head free s1 running ends
    obtain ⟨st, runs⟩ := exec_accepiApply resident head free running ends
    have kept : (v.wgAt wg).eng.ops = .accepi q t env dest pitch bias ref row str :: r := by
      have walk := s1.sameEng_epilogue (s1.streamWho g.core n) wg t env dest pitch bias ref (130 - row) row
      rw [ends] at walk
      have start : s1.wgAt wg = s.wgAt wg := by simp only [s1]; split_ifs <;> rfl
      rw [walk, start, head]
    refine ⟨_, runs, ?_, ?_, rfl⟩
    · rw [State.eng_setEng, Engine.retireHead, kept]
      rfl
    · refine (congrArg Stream.state (State.streamAt_setStream ..)).trans ?_
      rw [if_pos rfl]
      rfl

end Sys2Proof.Machine
end

section
/-! The finite values of a format (R55, R56): the patterns without their sign, in the order of their magnitudes. -/
namespace Sys2Proof.Machine

/-- Widths large enough that a format has normal numbers of more than one exponent: what the five formats share. -/
structure Fmt.Sized (f : Fmt) : Prop where
  exps : 2 ≤ f.ew
  frac : 2 ≤ f.mw

theorem sized_of_mem {f : Fmt} (h : f ∈ [f32, f16, bf16, e4m3, e5m2]) : f.Sized := by
  fin_cases h <;> exact ⟨by decide, by decide⟩

/-! ### Magnitudes -/

/-- The exponent of a pattern's last place above that of the subnormals, and its significand. -/
def Fmt.place (f : Fmt) (a : Nat) : Nat := a / 2 ^ f.mw - 1
def Fmt.digits (f : Fmt) (a : Nat) : Nat := if a / 2 ^ f.mw = 0 then a % 2 ^ f.mw else 2 ^ f.mw + a % 2 ^ f.mw

/-- The magnitude of a pattern without sign, in units of 2^qmin. -/
def Fmt.mag (f : Fmt) (a : Nat) : Nat := f.digits a * 2 ^ f.place a

section
variable {f : Fmt}

/-- A significand k with j places: also where k is one above its greatest value, which is the least of the next exponent. -/
theorem mag_of_digits {j k : Nat} (top : k ≤ 2 ^ (f.mw + 1)) (normal : j = 0 ∨ 2 ^ f.mw ≤ k) :
    f.mag (j * 2 ^ f.mw + k) = k * 2 ^ j := by
  have pos : 0 < 2 ^ f.mw := Nat.two_pow_pos _
  have double : 2 ^ (f.mw + 1) = 2 * 2 ^ f.mw := by rw [pow_succ, Nat.mul_comm]
  unfold Fmt.mag Fmt.digits Fmt.place
  generalize 2 ^ f.mw = u at *
  have shifted (i c : Nat) (hc : c < u) : (i * u + c) / u = i ∧ (i * u + c) % u = c := by
    rw [Nat.mul_comm i u]
    exact ⟨by rw [Nat.mul_add_div pos, Nat.div_eq_of_lt hc, Nat.add_zero], by rw [Nat.mul_add_mod, Nat.mod_eq_of_lt hc]⟩
  rcases Nat.lt_or_ge k u with small | large
  · obtain rfl : j = 0 := by omega
    obtain ⟨quot, rest⟩ := shifted 0 k small
    rw [quot, rest, if_pos rfl, Nat.zero_sub]
  · rcases Nat.lt_or_ge k (2 * u) with inside | full
    · obtain ⟨quot, rest⟩ := shifted (j + 1) (k - u) (by omega)
      rw [show j * u + k = (j + 1) * u + (k - u) by rw [Nat.succ_mul]; omega, quot, rest, if_neg (Nat.succ_ne_zero j),
        Nat.add_sub_cancel, Nat.add_sub_cancel' large]
    · obtain ⟨quot, rest⟩ := shifted (j + 2) 0 pos
      have twice : k = 2 * u := by omega
      rw [show j * u + k = (j + 2) * u + 0 by rw [twice]; ring, quot, rest, if_neg (by omega), twice, show j + 2 - 1 = j + 1 by omega]
      ring

theorem place_digits (a : Nat) : f.place a * 2 ^ f.mw + f.digits a = a := by
  have split := Nat.div_add_mod a (2 ^ f.mw)
  unfold Fmt.place Fmt.digits
  split_ifs with h
  · rw [h] at split ⊢; simpa using split
  · obtain ⟨i, hi⟩ := Nat.exists_eq_succ_of_ne_zero h
    rw [hi] at split ⊢
    calc i * 2 ^ f.mw + (2 ^ f.mw + a % 2 ^ f.mw) = 2 ^ f.mw * (i + 1) + a % 2 ^ f.mw := by ring
      _ = a := split

theorem digits_lt (a : Nat) : f.digits a < 2 ^ (f.mw + 1) := by
  have rest : a % 2 ^ f.mw < 2 ^ f.mw := Nat.mod_lt _ (Nat.two_pow_pos _)
  unfold Fmt.digits
  rw [pow_succ]
  split_ifs <;> omega

theorem place_eq_zero_or (a : Nat) : f.place a = 0 ∨ 2 ^ f.mw ≤ f.digits a := by
  unfold Fmt.place Fmt.digits
  split_ifs with h
  · exact .inl (by rw [h])
  · exact .inr (Nat.le_add_right _ _)

/-- The next pattern is one unit of its last place greater. -/
theorem mag_succ (a : Nat) : f.mag (a + 1) = f.mag a + 2 ^ f.place a := by
  have next : f.mag (f.place a * 2 ^ f.mw + (f.digits a + 1)) = (f.digits a + 1) * 2 ^ f.place a :=
    mag_of_digits (digits_lt a) ((place_eq_zero_or a).imp_right (by omega))
  rw [← Nat.add_assoc, place_digits] at next
  rw [next, Fmt.mag, Nat.succ_mul]

theorem strictMono_mag : StrictMono f.mag :=
  strictMono_nat_of_lt_succ (fun a => by rw [mag_succ]; exact Nat.lt_add_of_pos_right (Nat.two_pow_pos _))

@[simp] theorem mag_zero : f.mag 0 = 0 := by simp [Fmt.mag, Fmt.digits]

end

/-! ### Patterns -/

/-- The pattern of a sign and a magnitude. -/
def Fmt.pattern (f : Fmt) (neg : Bool) (a : Nat) : Nat := a + if neg then f.signBit else 0

section
variable {f : Fmt}

theorem two_pow_width : 2 ^ f.width = 2 * f.signBit := by
  rw [Fmt.width, Fmt.signBit, Nat.add_assoc, Nat.add_comm, pow_succ, Nat.mul_comm]

theorem signBit_eq : f.signBit = 2 ^ f.ew * 2 ^ f.mw := pow_add ..

theorem signBit_pos : 0 < f.signBit := Nat.two_pow_pos _

theorem testBit_sign (x : Nat) : x.testBit (f.ew + f.mw) = decide (x / f.signBit % 2 = 1) := Nat.testBit_eq_decide_div_mod_eq

theorem pattern_lt {neg : Bool} {a : Nat} (h : a < f.signBit) : f.pattern neg a < 2 ^ f.width := by
  rw [two_pow_width, Fmt.pattern]
  split_ifs <;> omega

theorem pattern_mod {neg : Bool} {a : Nat} (h : a < f.signBit) : f.pattern neg a % f.signBit = a := by
  cases neg <;> simp [Fmt.pattern, Nat.mod_eq_of_lt h]

theorem testBit_pattern {neg : Bool} {a : Nat} (h : a < f.signBit) : (f.pattern neg a).testBit (f.ew + f.mw) = neg := by
  rw [testBit_sign, Fmt.pattern]
  cases neg
  · simp [Nat.div_eq_of_lt h]
  · simp [Nat.add_div_right _ signBit_pos, Nat.div_eq_of_lt h]

/-- Every word of the format's width is the pattern of its sign and its magnitude. -/
theorem pattern_of_lt {x : Nat} (h : x < 2 ^ f.width) : f.pattern (x.testBit (f.ew + f.mw)) (x % f.signBit) = x := by
  rw [two_pow_width] at h
  have quotient : x / f.signBit < 2 := Nat.div_lt_of_lt_mul (by omega)
  have split := Nat.div_add_mod x f.signBit
  rw [testBit_sign, Fmt.pattern]
  rcases Nat.lt_succ_iff_lt_or_eq.1 quotient with low | high
  · have zero : x / f.signBit = 0 := Nat.lt_one_iff.1 low
    rw [zero] at split ⊢; simpa using split
  · rw [high] at split ⊢; simpa [Nat.add_comm] using split

theorem maxFin_lt : f.maxFin < f.signBit := by
  have e : 0 < 2 ^ f.ew := Nat.two_pow_pos _
  have m : 0 < 2 ^ f.mw := Nat.two_pow_pos _
  unfold Fmt.maxFin
  split_ifs
  · rw [signBit_eq, Nat.sub_one_mul]
    have := Nat.mul_pos e m
    omega
  · have := signBit_pos (f := f)
    rw [Fmt.signBit] at this ⊢
    omega

/-- The least normal number is finite. -/
theorem two_pow_mw_le_maxFin (h : f.Sized) : 2 ^ f.mw ≤ f.maxFin := by
  have e : 2 ^ 2 ≤ 2 ^ f.ew := Nat.pow_le_pow_right (by omega) h.exps
  have m : 2 ^ 2 ≤ 2 ^ f.mw := Nat.pow_le_pow_right (by omega) h.frac
  unfold Fmt.maxFin
  split_ifs
  · have := Nat.mul_le_mul_right (2 ^ f.mw) (show 3 ≤ 2 ^ f.ew - 1 by omega)
    omega
  · have := Nat.mul_le_mul_right (2 ^ f.mw) e
    rw [pow_add]
    omega

theorem field_mod (x : Nat) : x % f.signBit / 2 ^ f.mw = x / 2 ^ f.mw % 2 ^ f.ew ∧ x % f.signBit % 2 ^ f.mw = x % 2 ^ f.mw := by
  rw [signBit_eq]
  exact ⟨by rw [Nat.mul_comm, Nat.mod_mul_right_div_self], Nat.mod_mul_left_mod ..⟩

theorem maxFin_eq : f.maxFin = if f.ieee then 2 ^ f.ew * 2 ^ f.mw - 2 ^ f.mw - 1 else 2 ^ f.ew * 2 ^ f.mw - 2 := by
  rw [Fmt.maxFin, Nat.sub_one_mul, pow_add]

/-- The fields of a magnitude, for the greatest exponent: its fraction is what lies above the exponent's first pattern. -/
theorem top_field_iff {a : Nat} (below : a < f.signBit) :
    a / 2 ^ f.mw = 2 ^ f.ew - 1 ↔ 2 ^ f.ew * 2 ^ f.mw - 2 ^ f.mw ≤ a := by
  have pos : 0 < 2 ^ f.mw := Nat.two_pow_pos _
  rw [signBit_eq, Nat.mul_comm] at below
  have bound : a / 2 ^ f.mw < 2 ^ f.ew := Nat.div_lt_of_lt_mul below
  rw [← Nat.sub_one_mul, ← Nat.le_div_iff_mul_le pos]
  omega

theorem top_fraction {a : Nat} (top : a / 2 ^ f.mw = 2 ^ f.ew - 1) : a = 2 ^ f.ew * 2 ^ f.mw - 2 ^ f.mw + a % 2 ^ f.mw := by
  have split := Nat.div_add_mod a (2 ^ f.mw)
  rw [top, Nat.mul_comm, Nat.sub_one_mul] at split
  exact split.symm

/-- A magnitude up to the greatest is a number. -/
theorem decodeF_of_le (h : f.Sized) {x : Nat} (finite : x % f.signBit ≤ f.maxFin) :
    decodeF f x = .num (x.testBit (f.ew + f.mw)) (f.digits (x % f.signBit)) (f.qmin + f.place (x % f.signBit)) := by
  obtain ⟨expField, fracField⟩ := field_mod (f := f) x
  have below : x % f.signBit < f.signBit := Nat.mod_lt _ signBit_pos
  have exps : 2 ^ 2 ≤ 2 ^ f.ew := Nat.pow_le_pow_right (by omega) h.exps
  have frac : 2 ^ 2 ≤ 2 ^ f.mw := Nat.pow_le_pow_right (by omega) h.frac
  have large : 4 * 2 ^ f.mw ≤ 2 ^ f.ew * 2 ^ f.mw := Nat.mul_le_mul_right _ exps
  unfold decodeF Fmt.digits Fmt.place
  simp only [← expField, ← fracField]
  rw [maxFin_eq] at finite
  generalize x % f.signBit = a at *
  by_cases top : a / 2 ^ f.mw = 2 ^ f.ew - 1
  · have last := top_fraction top
    cases ieee : f.ieee
    · simp only [ieee, Bool.false_eq_true, if_false] at finite
      have fraction : a % 2 ^ f.mw ≠ 2 ^ f.mw - 1 := by omega
      have normal : 2 ^ f.ew - 1 ≠ 0 := by omega
      simp only [top, fraction, normal, decide_true, decide_false, Bool.and_false, Bool.false_and, Bool.false_eq_true, if_false]
      congr 1; omega
    · simp only [ieee, if_true] at finite
      omega
  · simp only [top, decide_false, Bool.and_false, Bool.false_and, Bool.false_eq_true, if_false]
    split_ifs with zero
    · simp [zero]
    · congr 1; omega

/-- A magnitude beyond the greatest is infinite or NaN. -/
theorem decodeF_of_lt (h : f.Sized) {x : Nat} (beyond : f.maxFin < x % f.signBit) :
    (decodeF f x).isNan = true ∨ (decodeF f x).isInf = true := by
  obtain ⟨expField, fracField⟩ := field_mod (f := f) x
  have below : x % f.signBit < f.signBit := Nat.mod_lt _ signBit_pos
  have frac : 2 ^ 2 ≤ 2 ^ f.mw := Nat.pow_le_pow_right (by omega) h.frac
  have large : 2 ^ f.mw ≤ 2 ^ f.ew * 2 ^ f.mw := Nat.le_mul_of_pos_left _ (Nat.two_pow_pos _)
  have bound := below
  unfold decodeF
  simp only [← expField, ← fracField]
  rw [maxFin_eq] at beyond
  generalize x % f.signBit = a at *
  rw [signBit_eq] at bound
  have top : a / 2 ^ f.mw = 2 ^ f.ew - 1 := (top_field_iff below).2 (by split_ifs at beyond <;> omega)
  have last := top_fraction top
  cases ieee : f.ieee
  · simp only [ieee, Bool.false_eq_true, if_false] at beyond
    have ones : a % 2 ^ f.mw = 2 ^ f.mw - 1 := by omega
    simp [top, ones, FVal.isNan]
  · simp only [top, decide_true, Bool.and_self, if_true]
    split_ifs <;> simp [FVal.isNan, FVal.isInf]

theorem finite_iff (h : f.Sized) {x : Nat} : f.Finite x ↔ x < 2 ^ f.width ∧ x % f.signBit ≤ f.maxFin := by
  unfold Fmt.Finite
  refine and_congr_right (fun _ => ⟨fun ⟨nan, inf⟩ => ?_, fun finite => ?_⟩)
  · by_contra beyond
    rcases decodeF_of_lt h (Nat.lt_of_not_le beyond) with special | special
    · rw [nan] at special; cases special
    · rw [inf] at special; cases special
  · rw [decodeF_of_le h finite]
    exact ⟨rfl, rfl⟩

theorem finite_pattern (h : f.Sized) {neg : Bool} {a : Nat} (ha : a ≤ f.maxFin) : f.Finite (f.pattern neg a) := by
  have below : a < f.signBit := Nat.lt_of_le_of_lt ha maxFin_lt
  exact (finite_iff h).2 ⟨pattern_lt below, by rwa [pattern_mod below]⟩

/-- The finite patterns are those of a sign and a magnitude up to the greatest. -/
theorem exists_pattern (h : f.Sized) {x : Nat} (finite : f.Finite x) : ∃ neg a, a ≤ f.maxFin ∧ x = f.pattern neg a := by
  obtain ⟨width, magnitude⟩ := (finite_iff h).1 finite
  exact ⟨_, _, magnitude, (pattern_of_lt width).symm⟩

theorem decodeF_pattern (h : f.Sized) {neg : Bool} {a : Nat} (ha : a ≤ f.maxFin) :
    decodeF f (f.pattern neg a) = .num neg (f.digits a) (f.qmin + f.place a) := by
  have below : a < f.signBit := Nat.lt_of_le_of_lt ha maxFin_lt
  have mod := pattern_mod (neg := neg) below
  rw [decodeF_of_le h (by rwa [mod]), mod, testBit_pattern below]

end

/-! ### Real values -/

def signOf (neg : Bool) : ℝ := if neg then -1 else 1

/-- The real number that a value stands for; zero for what is none. -/
noncomputable def FVal.real : FVal → ℝ
  | .num n m e => signOf n * (m * 2 ^ e)
  | _ => 0

/-- The real number of a magnitude. -/
noncomputable def Fmt.val (f : Fmt) (a : Nat) : ℝ := f.mag a * 2 ^ f.qmin

/-- The real number of a pattern. -/
noncomputable def Fmt.real (f : Fmt) (x : Nat) : ℝ := (decodeF f x).real

theorem zpow_two_pos (e : Int) : (0 : ℝ) < 2 ^ e := zpow_pos two_pos e

theorem zpow_toNat {p q : Int} (h : p ≤ q) : ((2 : ℝ) ^ (q - p).toNat) * 2 ^ p = 2 ^ q := by
  rw [← zpow_natCast, ← zpow_add₀ two_ne_zero, Int.toNat_of_nonneg (by omega)]
  congr 1; omega

/-- `scaled` gives a number in units of 2^q. -/
theorem scaled_mul_zpow {q : Int} {v : FVal} (h : v.Num q) : (scaled q v : ℝ) * 2 ^ q = v.real := by
  cases v with
  | num n m e =>
    have unit := zpow_toNat (show q ≤ e from h)
    simp only [scaled, FVal.real, signOf, ← unit]
    push_cast
    split_ifs <;> ring
  | _ => exact h.elim

section
variable {f : Fmt}

theorem val_eq (a : Nat) : f.val a = f.digits a * 2 ^ (f.qmin + f.place a) := by
  rw [Fmt.val, Fmt.mag, zpow_add₀ two_ne_zero, zpow_natCast]
  push_cast
  ring

theorem strictMono_val : StrictMono f.val := fun a b h => by
  have : (f.mag a : ℝ) < f.mag b := by exact_mod_cast strictMono_mag h
  exact mul_lt_mul_of_pos_right this (zpow_two_pos _)

@[simp] theorem val_zero : f.val 0 = 0 := by simp [Fmt.val]

theorem val_nonneg (a : Nat) : 0 ≤ f.val a := mul_nonneg (Nat.cast_nonneg _) (zpow_two_pos _).le

theorem val_two_pow_mw : f.val (2 ^ f.mw) = 2 ^ (f.qmin + f.mw) := by
  have digits := mag_of_digits (f := f) (j := 0) (k := 2 ^ f.mw) (Nat.pow_le_pow_right (by omega) (by omega)) (.inl rfl)
  rw [Nat.zero_mul, Nat.zero_add, pow_zero, Nat.mul_one] at digits
  rw [Fmt.val, digits, zpow_add₀ two_ne_zero, zpow_natCast]
  push_cast
  ring

theorem real_pattern (h : f.Sized) {neg : Bool} {a : Nat} (ha : a ≤ f.maxFin) :
    f.real (f.pattern neg a) = signOf neg * f.val a := by
  rw [Fmt.real, decodeF_pattern h ha, FVal.real, val_eq]

theorem num_of_finite (h : f.Sized) {x : Nat} (finite : f.Finite x) {q : Int} (hq : q ≤ f.qmin) : (decodeF f x).Num q := by
  obtain ⟨neg, a, ha, rfl⟩ := exists_pattern h finite
  rw [decodeF_pattern h ha]
  exact Int.le_trans hq (Int.le_add_of_nonneg_right (Int.natCast_nonneg _))

theorem units_mul_zpow (h : f.Sized) {x : Nat} (finite : f.Finite x) {q : Int} (hq : q ≤ f.qmin) :
    (f.units q x : ℝ) * 2 ^ q = f.real x :=
  scaled_mul_zpow (num_of_finite h finite hq)

end

end Sys2Proof.Machine
end

section
/-! Rounding to a multiple of a power of two (R57). -/
namespace Sys2Proof.Machine

/-! ### The multiple that is taken -/

/-- Whether the multiple above is taken: `low` is the one below, `rest` what lies above it in units of which `half` are the distance
of half a multiple, with a little more where `st` is set. -/
def takesUpper (rnd : Nat) (neg st : Bool) (low rest half : Nat) : Bool :=
  match rnd with
  | 0 => decide (half < rest) || (decide (rest = half) && (st || decide (low % 2 = 1)))
  | 1 => false
  | 2 => (decide (rest ≠ 0) || st) && !neg
  | _ => (decide (rest ≠ 0) || st) && neg

/-- m places shifted out of a significand, and the multiple that a mode takes. -/
def shiftOut (rnd : Nat) (neg : Bool) (m : Nat) (st : Bool) (d : Nat) : Nat × Bool :=
  (m / 2 ^ d + (takesUpper rnd neg st (m / 2 ^ d) (m % 2 ^ d) (2 ^ (d - 1))).toNat, decide (m % 2 ^ d ≠ 0) || st)

/-- Where less than half a multiple is there, how much less plays no part. -/
theorem shiftOut_of_lt (rnd : Nat) (neg : Bool) {m : Nat} (st : Bool) {d : Nat} (h : m < 2 ^ (d - 1)) :
    shiftOut rnd neg m st d = ((takesUpper rnd neg st 0 m (m + 1)).toNat, decide (m ≠ 0) || st) := by
  have small : m < 2 ^ d := Nat.lt_of_lt_of_le h (Nat.pow_le_pow_right (by omega) (by omega))
  rw [shiftOut, Nat.div_eq_of_lt small, Nat.mod_eq_of_lt small, Nat.zero_add]
  congr 2
  rcases rnd with _ | _ | _ | rnd <;> simp [takesUpper, Nat.ne_of_lt h, Nat.le_of_lt h]

/-- `roundAt` below the last place kept: its bound on the shift changes nothing. -/
theorem roundAt_of_lt (rnd : Nat) (neg : Bool) (m : Nat) {e q : Int} (st : Bool) (h : e < q) :
    roundAt rnd neg m e st q = shiftOut rnd neg m st (q - e).toNat := by
  have reached : roundAt rnd neg m e st q = shiftOut rnd neg m st (min (q - e).toNat (Nat.log2 m + 2)) := by
    rw [roundAt, if_neg (by omega)]
    rcases rnd with _ | _ | _ | rnd <;> simp [shiftOut, takesUpper, Bool.toNat, cond_eq_ite]
  rcases Nat.le_total (q - e).toNat (Nat.log2 m + 2) with all | cut
  · rw [reached, min_eq_left all]
  · have short (d : Nat) (hd : Nat.log2 m + 2 ≤ d) : m < 2 ^ (d - 1) :=
      Nat.lt_of_lt_of_le Nat.lt_log2_self (Nat.pow_le_pow_right (by omega) (by omega))
    rw [reached, min_eq_right cut, shiftOut_of_lt rnd neg st (short _ (Nat.le_refl _)), shiftOut_of_lt rnd neg st (short _ cut)]

theorem roundAt_of_le (rnd : Nat) (neg : Bool) (m : Nat) {e q : Int} (st : Bool) (h : q ≤ e) :
    roundAt rnd neg m e st q = (m * 2 ^ (e - q).toNat, st) := by rw [roundAt, if_pos h]

theorem div_round_up (m d : Nat) : (m + 2 ^ d - 1) / 2 ^ d = m / 2 ^ d + if m % 2 ^ d = 0 then 0 else 1 := by
  have pos : 0 < 2 ^ d := Nat.two_pow_pos _
  have split := Nat.div_add_mod m (2 ^ d)
  have rest := Nat.mod_lt m pos
  generalize 2 ^ d = u at *
  generalize m / u = k at *
  generalize m % u = r at *
  have quotient (k c : Nat) (hc : c < u) : (u * k + c) / u = k := by
    rw [Nat.mul_add_div pos, Nat.div_eq_of_lt hc, Nat.add_zero]
  split_ifs with h
  · rw [show m + u - 1 = u * k + (u - 1) by omega, quotient k _ (by omega), Nat.add_zero]
  · rw [show m + u - 1 = u * (k + 1) + (r - 1) by rw [Nat.mul_succ]; omega, quotient (k + 1) _ (by omega)]

/-- Of a multiple low * 2h with a rest, the nearest multiple: it is h away at most, and even where it is exactly h away. -/
theorem takesUpper_nearest {m low rest half : Nat} (split : 2 * half * low + rest = m) (inside : rest < 2 * half) :
    let k := low + (decide (half < rest) || (decide (rest = half) && decide (low % 2 = 1))).toNat
    (2 * m ≤ 2 * (2 * half * k) + 2 * half ∧ 2 * (2 * half * k) ≤ 2 * m + 2 * half) ∧
    (2 * m = 2 * (2 * half * k) + 2 * half ∨ 2 * (2 * half * k) = 2 * m + 2 * half → k % 2 = 0) := by
  have next : 2 * half * (low + 1) = 2 * half * low + 2 * half := Nat.mul_succ ..
  rcases Nat.lt_trichotomy rest half with less | equal | more
  · have down : (decide (half < rest) || (decide (rest = half) && decide (low % 2 = 1))) = false := by simp; omega
    rw [down]
    simp only [Bool.toNat_false, Nat.add_zero]
    omega
  · by_cases odd : low % 2 = 1
    · have up : (decide (half < rest) || (decide (rest = half) && decide (low % 2 = 1))) = true := by simp [equal, odd]
      rw [up]
      simp only [Bool.toNat_true, next]
      omega
    · have down : (decide (half < rest) || (decide (rest = half) && decide (low % 2 = 1))) = false := by simp [equal]; omega
      rw [down]
      simp only [Bool.toNat_false, Nat.add_zero]
      omega
  · have up : (decide (half < rest) || (decide (rest = half) && decide (low % 2 = 1))) = true := by simp [more]
    rw [up]
    simp only [Bool.toNat_true, next]
    omega

/-- The four modes in whole units (R57). -/
theorem roundingModes : RoundingModes := by
  intro neg m e q h
  obtain ⟨d, hd⟩ : ∃ d, (q - e).toNat = d + 1 := ⟨(q - e).toNat - 1, by omega⟩
  have split := Nat.div_add_mod m (2 ^ (d + 1))
  have rest := Nat.mod_lt m (Nat.two_pow_pos (d + 1))
  rw [pow_succ, Nat.mul_comm _ 2] at split rest
  have nearest := takesUpper_nearest split rest
  have place (k : Nat) : 2 * k * (2 * 2 ^ d) = 2 * (2 * 2 ^ d * k) := by ring
  simp only [roundAt_of_lt _ neg m false h, hd, shiftOut, takesUpper, div_round_up, Nat.add_sub_cancel, Bool.or_false, Bool.false_or]
  refine ⟨?_, ?_, by simp, ?_, ?_, by simp⟩
  · simpa only [pow_succ, Nat.mul_comm (2 ^ d) 2, place] using nearest.1
  · simpa only [pow_succ, Nat.mul_comm (2 ^ d) 2, place] using nearest.2
  · cases neg <;> by_cases whole : m % 2 ^ (d + 1) = 0 <;> simp [whole]
  · cases neg <;> by_cases whole : m % 2 ^ (d + 1) = 0 <;> simp [whole]

/-! ### The value that is rounded -/

/-- The exact magnitude v is m * 2^e, or lies between that and (m + 1) * 2^e where `st` is set. -/
def Encloses (m : Nat) (e : Int) (st : Bool) (v : ℝ) : Prop :=
  if st then m * 2 ^ e < v ∧ v < (m + 1) * 2 ^ e else v = m * 2 ^ e

/-- Which of its two neighbours lo < v < hi a mode takes (R57); the lower one has the number L, whose parity decides a tie. -/
structure Picks (rnd : Nat) (neg : Bool) (lo hi v : ℝ) (L : Nat) (up : Bool) : Prop where
  lower : rnd = 0 → up = false → 2 * v ≤ lo + hi ∧ (2 * v = lo + hi → L % 2 = 0)
  upper : rnd = 0 → up = true → lo + hi ≤ 2 * v ∧ (2 * v = lo + hi → (L + 1) % 2 = 0)
  zero  : rnd = 1 → up = false
  above : rnd = 2 → up = !neg
  below : 3 ≤ rnd → up = neg

/-- The value v lies in the L-th of intervals of width u, and is rounded to its lower end or its upper one. -/
structure RoundsAt (rnd : Nat) (neg : Bool) (u v : ℝ) (L : Nat) (up inexact : Bool) : Prop where
  low   : L * u ≤ v
  high  : v < (L + 1) * u
  exact : inexact = false ↔ v = L * u
  held  : v = L * u → up = false
  picks : L * u < v → Picks rnd neg (L * u) ((L + 1) * u) v L up

theorem Picks.scale {rnd : Nat} {neg : Bool} {lo hi v : ℝ} {L : Nat} {up : Bool} (h : Picks rnd neg lo hi v L up) {c : ℝ} (hc : 0 < c) :
    Picks rnd neg (lo * c) (hi * c) (v * c) L up := by
  have le (x y : ℝ) : x * c ≤ y * c ↔ x ≤ y := mul_le_mul_iff_left₀ hc
  have eq (x y : ℝ) : x * c = y * c ↔ x = y := mul_left_inj' hc.ne'
  refine ⟨fun hr hu => ?_, fun hr hu => ?_, h.zero, h.above, h.below⟩
  · rw [← add_mul, ← mul_assoc, le, eq]; exact h.lower hr hu
  · rw [← add_mul, ← mul_assoc, le, eq]; exact h.upper hr hu

theorem RoundsAt.scale {rnd : Nat} {neg : Bool} {u v : ℝ} {L : Nat} {up inexact : Bool} (h : RoundsAt rnd neg u v L up inexact) {c : ℝ}
    (hc : 0 < c) : RoundsAt rnd neg (u * c) (v * c) L up inexact := by
  have lt (x y : ℝ) : x * c < y * c ↔ x < y := mul_lt_mul_iff_left₀ hc
  have le (x y : ℝ) : x * c ≤ y * c ↔ x ≤ y := mul_le_mul_iff_left₀ hc
  have eq (x y : ℝ) : x * c = y * c ↔ x = y := mul_left_inj' hc.ne'
  obtain ⟨low, high, exact, held, picks⟩ := h
  constructor <;> simp only [← mul_assoc, lt, le, eq]
  · exact low
  · exact high
  · exact exact
  · exact held
  · exact fun h => (picks h).scale hc

/-- Shifting places out of m, with a little t more, rounds m + t to a multiple of 2^d. -/
theorem shiftOut_spec (rnd : Nat) (neg st : Bool) (m d : Nat) {t : ℝ} (nonneg : 0 ≤ t) (small : t < 1) (sticky : st = false ↔ t = 0) :
    RoundsAt rnd neg (2 ^ (d + 1)) (m + t) (m / 2 ^ (d + 1))
      (takesUpper rnd neg st (m / 2 ^ (d + 1)) (m % 2 ^ (d + 1)) (2 ^ d)) (decide (m % 2 ^ (d + 1) ≠ 0) || st) := by
  have split := Nat.div_add_mod m (2 ^ (d + 1))
  have rest := Nat.mod_lt m (Nat.two_pow_pos (d + 1))
  rw [pow_succ] at split rest
  rw [pow_succ, pow_succ]
  generalize m / (2 ^ d * 2) = L at *
  generalize m % (2 ^ d * 2) = r at *
  have unit : ((2 ^ d : Nat) : ℝ) = 2 ^ d := by push_cast; rfl
  rw [← unit]
  generalize 2 ^ d = half at *
  have value : (m : ℝ) + t = L * (half * 2) + (r + t) := by rw [← split]; push_cast; ring
  have inside : (r : ℝ) + 1 ≤ half * 2 := by exact_mod_cast rest
  have r0 : (0 : ℝ) ≤ r := Nat.cast_nonneg _
  have unchanged : (m : ℝ) + t = L * (half * 2) ↔ r = 0 ∧ st = false := by
    rw [value, sticky, ← Nat.cast_eq_zero (R := ℝ)]
    constructor
    · intro h; constructor <;> linarith
    · rintro ⟨hr, ht⟩; rw [hr, ht]; ring
  refine ⟨by rw [value]; linarith, by rw [value]; linarith, ?_, fun h => ?_, fun h => ?_⟩
  · rw [unchanged]; simp
  · obtain ⟨rfl, rfl⟩ := unchanged.1 h
    have pos : half ≠ 0 := by omega
    rcases rnd with _ | _ | _ | rnd <;> simp [takesUpper, pos.symm]
  · have inexact : (decide (r ≠ 0) || st) = true := by
      by_contra none
      rw [Bool.not_eq_true] at none
      simp only [Bool.or_eq_false_iff, decide_eq_false_iff_not, not_not] at none
      exact absurd (unchanged.2 none) h.ne'
    have lo_hi : (L : ℝ) * (half * 2) + (L + 1) * (half * 2) = 2 * (L * (half * 2)) + 2 * half := by ring
    rw [value]
    refine ⟨fun hr hu => ?_, fun hr hu => ?_, fun hr => ?_, fun hr => ?_, fun hr => ?_⟩
    · subst hr
      simp only [takesUpper, Bool.or_eq_false_iff, Bool.and_eq_false_iff, decide_eq_false_iff_not, not_lt] at hu
      obtain ⟨most, tie⟩ := hu
      rcases Nat.lt_or_eq_of_le most with less | rfl
      · have gap : (r : ℝ) + 1 ≤ half := by exact_mod_cast less
        exact ⟨by linarith, fun h => by exfalso; linarith⟩
      · obtain ⟨flush, even⟩ := tie.resolve_left (fun h => h rfl)
        have nothing : t = 0 := sticky.1 flush
        exact ⟨by linarith, fun _ => by simpa using even⟩
    · subst hr
      simp only [takesUpper, Bool.or_eq_true, Bool.and_eq_true, decide_eq_true_eq] at hu
      rcases hu with more | ⟨rfl, stuck | odd⟩
      · have gap : (half : ℝ) + 1 ≤ r := by exact_mod_cast more
        exact ⟨by linarith, fun h => by exfalso; linarith⟩
      · have nonzero : t ≠ 0 := fun h => by rw [sticky.2 h] at stuck; cases stuck
        have gap : 0 < t := lt_of_le_of_ne nonneg nonzero.symm
        exact ⟨by linarith, fun h => by exfalso; linarith⟩
      · exact ⟨by linarith, fun _ => by omega⟩
    · subst hr; rfl
    · subst hr
      simp only [takesUpper, inexact, Bool.true_and]
    · rcases rnd with _ | _ | _ | rnd
      · omega
      · omega
      · omega
      · simp only [takesUpper, inexact, Bool.true_and]

/-- What `roundAt` gives of an exact value (R57). -/
theorem roundAt_spec (rnd : Nat) (neg : Bool) {m : Nat} {e : Int} {st : Bool} {v : ℝ} {q : Int} (enc : Encloses m e st v)
    (sticky : st = true → e < q) :
    ∃ L up inexact, roundAt rnd neg m e st q = (L + up.toNat, inexact) ∧ RoundsAt rnd neg (2 ^ q) v L up inexact := by
  have pos := zpow_two_pos e
  rcases Int.lt_or_le e q with below | above
  · obtain ⟨t, nonneg, small, value, only⟩ : ∃ t : ℝ, 0 ≤ t ∧ t < 1 ∧ v = (m + t) * 2 ^ e ∧ (st = false ↔ t = 0) := by
      unfold Encloses at enc
      cases st with
      | false => exact ⟨0, le_refl 0, zero_lt_one, by simpa using enc, by simp⟩
      | true =>
        simp only [if_true] at enc
        obtain ⟨low, high⟩ := enc
        rw [← lt_div_iff₀ pos] at low
        rw [← div_lt_iff₀ pos] at high
        exact ⟨v / 2 ^ e - m, by linarith, by linarith, by field_simp; ring, by simp; linarith⟩
    obtain ⟨d, hd⟩ : ∃ d, (q - e).toNat = d + 1 := ⟨(q - e).toNat - 1, by omega⟩
    have unit := zpow_toNat (show e ≤ q by omega)
    rw [hd] at unit
    rw [roundAt_of_lt rnd neg m st below, hd, value, ← unit]
    exact ⟨_, _, _, rfl, (shiftOut_spec rnd neg st m d nonneg small only).scale pos⟩
  · obtain rfl : st = false := by
      cases st with
      | false => rfl
      | true => have := sticky rfl; omega
    have value : v = (m * 2 ^ (e - q).toNat : Nat) * 2 ^ q := by
      rw [show v = m * 2 ^ e from enc, ← zpow_toNat above]
      push_cast
      ring
    rw [roundAt_of_le rnd neg m false above]
    refine ⟨_, false, false, rfl, value.ge, ?_, by simp [value], fun _ => rfl, fun h => absurd value h.ne'⟩
    rw [value, add_mul, one_mul]
    exact lt_add_of_pos_right _ (zpow_two_pos q)

end Sys2Proof.Machine
end

section
/-! Rounding to a format (R56, R57): the two patterns beside an exact value, and the one that is taken. -/
namespace Sys2Proof.Machine

/-- The magnitude v lies between the patterns L and L + 1, and is rounded to one of them. -/
structure Fmt.Between (f : Fmt) (rnd : Nat) (neg : Bool) (v : ℝ) (L : Nat) (up inexact : Bool) : Prop where
  low   : f.val L ≤ v
  high  : v < f.val (L + 1)
  exact : inexact = false ↔ v = f.val L
  held  : v = f.val L → up = false
  picks : f.val L < v → Picks rnd neg (f.val L) (f.val (L + 1)) v L up

section
variable {f : Fmt} {m : Nat} {e : Int} {st : Bool} {v : ℝ}

theorem val_of_digits {j k : Nat} (top : k ≤ 2 ^ (f.mw + 1)) (normal : j = 0 ∨ 2 ^ f.mw ≤ k) :
    f.val (j * 2 ^ f.mw + k) = k * 2 ^ (f.qmin + j) := by
  rw [Fmt.val, mag_of_digits top normal, zpow_add₀ two_ne_zero, zpow_natCast]
  push_cast
  ring

/-- The leading place of what is enclosed. -/
theorem enclosed_top (enc : Encloses m e st v) (nonzero : m ≠ 0) :
    (2 : ℝ) ^ (e + Nat.log2 m) ≤ v ∧ v < 2 ^ (e + Nat.log2 m + 1) := by
  have unit := zpow_two_pos e
  have low : ((2 ^ Nat.log2 m : Nat) : ℝ) ≤ m := by exact_mod_cast Nat.log2_self_le nonzero
  have high : (m : ℝ) + 1 ≤ (2 ^ (Nat.log2 m + 1) : Nat) := by exact_mod_cast Nat.lt_log2_self
  have first : (2 : ℝ) ^ (e + Nat.log2 m) = (2 ^ Nat.log2 m : Nat) * 2 ^ e := by
    rw [zpow_add₀ two_ne_zero, zpow_natCast]; push_cast; ring
  have next : (2 : ℝ) ^ (e + Nat.log2 m + 1) = (2 ^ (Nat.log2 m + 1) : Nat) * 2 ^ e := by
    rw [show e + Nat.log2 m + 1 = e + (Nat.log2 m + 1 : Nat) by push_cast; ring, zpow_add₀ two_ne_zero, zpow_natCast]
    push_cast
    ring
  rw [first, next]
  have le := mul_le_mul_of_nonneg_right low unit.le
  have lt := mul_le_mul_of_nonneg_right high unit.le
  unfold Encloses at enc
  cases st with
  | false =>
    simp only [Bool.false_eq_true, if_false] at enc
    rw [enc]
    exact ⟨le, lt_of_lt_of_le (mul_lt_mul_of_pos_right (lt_add_one _) unit) lt⟩
  | true =>
    simp only [if_true] at enc
    exact ⟨le.trans enc.1.le, enc.2.trans_le lt⟩

theorem enclosed_nonzero (pos : 0 < v) (enc : Encloses m e st v) (wide : st = true → 2 ^ (f.mw + 1) ≤ m) : m ≠ 0 := by
  rintro rfl
  cases st with
  | false => exact pos.ne' (by simpa [Encloses] using enc)
  | true => exact absurd (wide rfl) (Nat.not_le.2 (Nat.two_pow_pos _))

theorem log2_of_wide {d : Nat} (h : 2 ^ d ≤ m) : d ≤ Nat.log2 m :=
  (Nat.le_log2 (by have := Nat.two_pow_pos d; omega)).2 h

/-- The last place that a format keeps of a magnitude whose leading place is `top`. -/
def Fmt.lastPlace (f : Fmt) (top : Int) : Int := Max.max (top - f.mw) f.qmin

theorem Picks.of_parity {rnd : Nat} {neg : Bool} {lo hi v : ℝ} {L M : Nat} {up : Bool} (h : Picks rnd neg lo hi v L up)
    (parity : M % 2 = L % 2) : Picks rnd neg lo hi v M up := by
  obtain ⟨lower, upper, zero, above, below⟩ := h
  exact ⟨fun hr hu => ⟨(lower hr hu).1, fun tie => parity.trans ((lower hr hu).2 tie)⟩,
    fun hr hu => ⟨(upper hr hu).1, fun tie => by have := (upper hr hu).2 tie; omega⟩, zero, above, below⟩

/-- Rounded at the last place that the format keeps, a value is rounded to one of the two patterns beside it. -/
theorem between_of_roundsAt (h : f.Sized) {rnd : Nat} {neg : Bool} {top : Int} (least : (2 : ℝ) ^ top ≤ v) (most : v < 2 ^ (top + 1))
    {L : Nat} {up inexact : Bool} (rounds : RoundsAt rnd neg (2 ^ f.lastPlace top) v L up inexact) :
    f.Between rnd neg v ((f.lastPlace top - f.qmin).toNat * 2 ^ f.mw + L) up inexact := by
  have enough : top - f.mw ≤ f.lastPlace top := le_max_left _ _
  have above : f.qmin ≤ f.lastPlace top := le_max_right _ _
  have which : f.lastPlace top = top - f.mw ∨ f.lastPlace top = f.qmin := max_choice _ _
  generalize f.lastPlace top = q at *
  obtain ⟨j, hj⟩ : ∃ j : Nat, q = f.qmin + j := ⟨(q - f.qmin).toNat, by omega⟩
  have unit := zpow_two_pos q
  have places (d : Nat) : (2 : ℝ) ^ (q + d) = (2 ^ d : Nat) * 2 ^ q := by
    rw [zpow_add₀ two_ne_zero, zpow_natCast]; push_cast; ring
  obtain ⟨low, high, exact, held, picks⟩ := rounds
  have digits : L < 2 ^ (f.mw + 1) := by
    have bound : v < (2 ^ (f.mw + 1) : Nat) * 2 ^ q := by
      rw [← places]
      exact most.trans_le (zpow_le_zpow_right₀ one_le_two (by push_cast; omega))
    exact_mod_cast lt_of_mul_lt_mul_right (low.trans_lt bound) unit.le
  have normal : j = 0 ∨ 2 ^ f.mw ≤ L := by
    rcases which with hq | hq
    · right
      have bound : ((2 ^ f.mw : Nat) : ℝ) * 2 ^ q ≤ v := by
        rw [← places, hq]
        exact le_of_eq_of_le (by congr 1; ring) least
      have : ((2 ^ f.mw : Nat) : ℝ) < L + 1 := lt_of_mul_lt_mul_right (bound.trans_lt high) unit.le
      exact Nat.lt_succ_iff.1 (by exact_mod_cast this)
    · left; omega
  have here : f.val (j * 2 ^ f.mw + L) = L * 2 ^ q := by rw [val_of_digits digits.le normal, hj]
  have next : f.val (j * 2 ^ f.mw + L + 1) = (L + 1) * 2 ^ q := by
    rw [Nat.add_assoc, val_of_digits digits (normal.imp_right (by omega)), hj]; push_cast; rfl
  have parity : (j * 2 ^ f.mw + L) % 2 = L % 2 := by
    obtain ⟨i, hi⟩ : 2 ∣ j * 2 ^ f.mw := Dvd.dvd.mul_left (dvd_pow_self 2 (by have := h.frac; omega)) j
    omega
  rw [show (q - f.qmin).toNat = j by omega]
  constructor <;> simp only [here, next]
  · exact low
  · exact high
  · exact exact
  · exact held
  · exact fun h => (picks h).of_parity parity

/-- Just below the least normal number, a value that rounds up to it at a precision of its own does so at that of the subnormals as
well. -/
theorem up_of_finer {rnd : Nat} {neg : Bool} {L M : Nat} {up inexact finer : Bool} (between : f.Between rnd neg v L up inexact)
    (below : v < 2 ^ (f.qmin + f.mw)) (whole : M + 1 = 2 ^ (f.mw + 1))
    (rounds : RoundsAt rnd neg (2 ^ (f.qmin - 1)) v M true finer) : L + up.toNat = 2 ^ f.mw := by
  have unit := zpow_two_pos (f.qmin - 1)
  have double : (2 : ℝ) ^ f.qmin = 2 * 2 ^ (f.qmin - 1) := by
    rw [← zpow_one_add₀ two_ne_zero]; congr 1; ring
  have total : (M : ℝ) + 1 = 2 * 2 ^ f.mw := by
    have : ((M + 1 : Nat) : ℝ) = (2 ^ (f.mw + 1) : Nat) := congrArg _ whole
    push_cast at this
    rw [this, pow_succ, mul_comm]
  have small (k : Nat) (hk : k ≤ 2 ^ f.mw) : f.val k = k * 2 ^ f.qmin := by
    have := val_of_digits (f := f) (j := 0) (k := k) (hk.trans (Nat.pow_le_pow_right (by omega) (by omega))) (.inl rfl)
    simpa using this
  have above : (M : ℝ) * 2 ^ (f.qmin - 1) < v := lt_of_le_of_ne rounds.low (fun h => by have := rounds.held h.symm; cases this)
  have picks := rounds.picks above
  have least : L + 1 = 2 ^ f.mw := by
    refine Nat.le_antisymm ?_ ?_
    · rw [← val_two_pow_mw] at below
      exact strictMono_val.lt_iff_lt.1 (between.low.trans_lt below)
    · have lower : f.val (2 ^ f.mw - 1) < f.val (L + 1) := by
        refine lt_trans (lt_trans ?_ above) between.high
        rw [small _ (Nat.sub_le _ _), double, Nat.cast_pred (Nat.two_pow_pos _)]
        push_cast
        nlinarith
      have := strictMono_val.lt_iff_lt.1 lower
      omega
  have lo : f.val L = (2 ^ f.mw - 1) * (2 * 2 ^ (f.qmin - 1)) := by
    rw [small L (by omega), ← double, show (L : ℝ) = 2 ^ f.mw - 1 by rw [eq_sub_iff_add_eq]; exact_mod_cast least]
  have hi : f.val (L + 1) = 2 ^ f.mw * (2 * 2 ^ (f.qmin - 1)) := by rw [least, small _ (le_refl _), ← double]; push_cast; rfl
  have inside : f.val L < v := by rw [lo]; nlinarith
  have coarse := between.picks inside
  suffices taken : up = true by rw [taken]; exact least
  rcases rnd with _ | _ | _ | rnd
  · by_contra down
    have := (coarse.lower rfl (Bool.eq_false_iff.2 down)).1
    rw [lo, hi] at this
    nlinarith
  · exact absurd (picks.zero rfl) (by decide)
  · rw [coarse.above rfl, ← picks.above rfl]
  · rw [coarse.below (by omega), ← picks.below (by omega)]

/-- Tininess as `roundF` detects it, after rounding (R56): only below the least normal number, and always where a result below it is
inexact. -/
theorem tiny_spec {rnd : Nat} {neg : Bool} {top : Int} (least : (2 : ℝ) ^ top ≤ v) (most : v < 2 ^ (top + 1))
    {L M : Nat} {up inexact up' finer : Bool} (between : f.Between rnd neg v L up inexact)
    (rounds : RoundsAt rnd neg (2 ^ (top - f.mw)) v M up' finer) :
    let tiny := decide (top < f.qmin + f.mw) && decide (M + up'.toNat < 2 ^ (f.mw + 1) ∨ top + 1 < f.qmin + f.mw)
    (tiny = true → v < f.val (2 ^ f.mw)) ∧ (f.val (L + up.toNat) < f.val (2 ^ f.mw) → tiny = true) := by
  intro tiny
  have mono {i j : Int} (h : i ≤ j) : (2 : ℝ) ^ i ≤ 2 ^ j := zpow_le_zpow_right₀ one_le_two h
  refine ⟨fun h => ?_, fun result => ?_⟩
  · simp only [tiny, Bool.and_eq_true, decide_eq_true_eq] at h
    rw [val_two_pow_mw]
    exact most.trans_le (mono (by omega))
  · have below : v < 2 ^ (f.qmin + f.mw) := by
      by_contra normal
      rw [not_lt, ← val_two_pow_mw] at normal
      have first := strictMono_val.lt_iff_lt.1 (normal.trans_lt between.high)
      have second := strictMono_val.lt_iff_lt.1 result
      omega
    have low : top < f.qmin + f.mw := (zpow_lt_zpow_iff_right₀ one_lt_two).1 (least.trans_lt below)
    simp only [tiny, low, decide_true, Bool.true_and, decide_eq_true_eq]
    by_contra neither
    rw [not_or] at neither
    obtain ⟨large, last⟩ := neither
    have top_eq : top + 1 = f.qmin + f.mw := by omega
    rw [show top - f.mw = f.qmin - 1 by omega] at rounds
    have bound : M < 2 ^ (f.mw + 1) := by
      have limit : (2 : ℝ) ^ (f.qmin + f.mw) = (2 ^ (f.mw + 1) : Nat) * 2 ^ (f.qmin - 1) := by
        rw [show f.qmin + f.mw = (f.qmin - 1) + (f.mw + 1 : Nat) by push_cast; ring, zpow_add₀ two_ne_zero, zpow_natCast]
        push_cast
        ring
      rw [limit] at below
      exact_mod_cast lt_of_mul_lt_mul_right (rounds.low.trans_lt below) (zpow_two_pos _).le
    have raised : up' = true := by
      cases up' with
      | true => rfl
      | false => simp only [Bool.toNat_false] at large; omega
    rw [raised] at rounds large
    have reached := up_of_finer between below (by simp only [Bool.toNat_true] at large; omega) rounds
    rw [reached] at result
    exact lt_irrefl _ result

/-- What `roundF` gives of an exact magnitude: one of the two patterns beside it, or the overflow's result. -/
theorem roundF_spec (h : f.Sized) (rnd : Nat) (sat neg : Bool) (pos : 0 < v) (enc : Encloses m e st v)
    (wide : st = true → 2 ^ (f.mw + 1) ≤ m) :
    ∃ L up inexact tiny, f.Between rnd neg v L up inexact ∧ (tiny = true → v < f.val (2 ^ f.mw)) ∧
      (f.val (L + up.toNat) < f.val (2 ^ f.mw) → tiny = true) ∧
      roundF f rnd sat neg m e st = if f.maxFin < L + up.toNat then overflowF f rnd sat neg
        else (f.pattern neg (L + up.toNat), flagIf inexact NX ||| flagIf (tiny && inexact) UF) := by
  have nonzero := enclosed_nonzero pos enc wide
  obtain ⟨least, most⟩ := enclosed_top enc nonzero
  have inner : st = true → e < e + Nat.log2 m - f.mw := fun hst => by have := log2_of_wide (wide hst); omega
  obtain ⟨M, up', finer, unbounded, rounds'⟩ := roundAt_spec rnd neg (q := e + Nat.log2 m - f.mw) enc inner
  obtain ⟨L, up, inexact, bounded, rounds⟩ := roundAt_spec rnd neg (q := f.lastPlace (e + Nat.log2 m)) enc
    (fun hst => (inner hst).trans_le (le_max_left _ _))
  have between := between_of_roundsAt h least most rounds
  obtain ⟨below, always⟩ := tiny_spec least most between rounds'
  refine ⟨_, up, inexact, _, between, below, always, ?_⟩
  have last : Max.max (e + Nat.log2 m - f.mw) f.qmin = f.lastPlace (e + Nat.log2 m) := rfl
  unfold roundF
  rw [if_neg (by simp [nonzero])]
  simp only [last, bounded, unbounded, ← Nat.add_assoc, Fmt.pattern]

end

end Sys2Proof.Machine
end

section
/-! A rounded result as a number (R56, R57): the real number that it rounds, and why no pattern would do better. -/
namespace Sys2Proof.Machine

/-! ### Signs -/

theorem abs_signOf_mul (neg : Bool) (x : ℝ) : |signOf neg * x| = |x| := by
  cases neg <;> simp [signOf]

theorem abs_signOf_mul_sub (neg : Bool) (x y : ℝ) : |signOf neg * x - signOf neg * y| = |x - y| := by
  rw [← mul_sub, abs_signOf_mul]

theorem signOf_mul_inj (neg : Bool) (x y : ℝ) : signOf neg * x = signOf neg * y ↔ x = y := by
  cases neg <;> simp [signOf]

theorem abs_opposite {s neg : Bool} (h : s ≠ neg) {c v : ℝ} (hc : 0 ≤ c) (hv : 0 ≤ v) :
    |signOf s * c - signOf neg * v| = c + v := by
  have sum : |c + v| = c + v := abs_of_nonneg (add_nonneg hc hv)
  cases s <;> cases neg
  · exact absurd rfl h
  · simpa [signOf] using sum
  · rw [← sum, ← abs_neg]; congr 1; simp only [signOf]; norm_num; ring
  · exact absurd rfl h

/-! ### Among the magnitudes -/

section
variable {f : Fmt} {rnd : Nat} {neg : Bool} {v : ℝ} {L : Nat} {up inexact : Bool}

/-- To nearest, no magnitude is nearer, and one as near leaves an even pattern. -/
theorem nearest_val (h : f.Between 0 neg v L up inexact) (a : Nat) :
    |f.val (L + up.toNat) - v| ≤ |f.val a - v| ∧
      (|f.val (L + up.toNat) - v| = |f.val a - v| → f.val a = f.val (L + up.toNat) ∨ (L + up.toNat) % 2 = 0) := by
  obtain ⟨low, high, -, held, picks⟩ := h
  have mono := strictMono_val (f := f).monotone
  have side : f.val a ≤ f.val L ∨ f.val (L + 1) ≤ f.val a := (Nat.lt_or_ge L a).symm.imp (fun h => mono h) (fun h => mono h)
  rcases eq_or_lt_of_le low with same | inside
  · have down := held same.symm
    subst down
    rw [Bool.toNat_false, Nat.add_zero, same, sub_self, abs_zero]
    exact ⟨abs_nonneg _, fun tie => .inl (by rw [← sub_eq_zero]; exact abs_eq_zero.1 tie.symm)⟩
  · cases up with
    | false =>
      obtain ⟨near, tie⟩ := (picks inside).lower rfl rfl
      rw [Bool.toNat_false, Nat.add_zero, abs_of_nonpos (by linarith : f.val L - v ≤ 0)]
      rcases side with side | side
      · rw [abs_of_nonpos (by linarith : f.val a - v ≤ 0)]
        exact ⟨by linarith, fun h => .inl (by linarith)⟩
      · rw [abs_of_nonneg (by linarith : 0 ≤ f.val a - v)]
        exact ⟨by linarith, fun h => .inr (tie (by linarith))⟩
    | true =>
      obtain ⟨near, tie⟩ := (picks inside).upper rfl rfl
      rw [Bool.toNat_true, abs_of_nonneg (by linarith : 0 ≤ f.val (L + 1) - v)]
      rcases side with side | side
      · rw [abs_of_nonpos (by linarith : f.val a - v ≤ 0)]
        exact ⟨by linarith, fun h => .inr (tie (by linarith))⟩
      · rw [abs_of_nonneg (by linarith : 0 ≤ f.val a - v)]
        exact ⟨by linarith, fun h => .inl (by linarith)⟩

/-- The lower neighbour is the greatest magnitude up to v. -/
theorem floor_val (h : f.Between rnd neg v L up inexact) (a : Nat) (ha : f.val a ≤ v) : f.val a ≤ f.val L :=
  strictMono_val.monotone (Nat.lt_succ_iff.1 (strictMono_val.lt_iff_lt.1 (ha.trans_lt h.high)))

/-- Where a mode takes the upper neighbour of what is no pattern's value, the result is the least magnitude from v on. -/
theorem ceil_val (h : f.Between rnd neg v L up inexact) (upward : f.val L < v → up = true) :
    v ≤ f.val (L + up.toNat) ∧ ∀ a, v ≤ f.val a → f.val (L + up.toNat) ≤ f.val a := by
  rcases eq_or_lt_of_le h.low with same | inside
  · rw [h.held same.symm, Bool.toNat_false, Nat.add_zero, same]
    exact ⟨le_refl _, fun _ ha => ha⟩
  · rw [upward inside, Bool.toNat_true]
    exact ⟨h.high.le, fun a ha => strictMono_val.monotone (strictMono_val.lt_iff_lt.1 (inside.trans_le ha))⟩

end

/-! ### Among the patterns -/

/-- A result and its flags are the number x rounded, with no overflow. -/
structure Fmt.Nearby (f : Fmt) (rnd : Nat) (x : ℝ) (r : FRes) : Prop where
  finite  : f.Finite r.1
  exact   : r.2 &&& NX = 0 ↔ f.real r.1 = x
  tiny    : r.2 &&& UF ≠ 0 → f.real r.1 ≠ x ∧ |x| < f.val (2 ^ f.mw)
  always  : f.real r.1 ≠ x → |f.real r.1| < f.val (2 ^ f.mw) → r.2 &&& UF ≠ 0
  valid   : r.2 &&& (NV ||| DZ) = 0
  nearest : rnd = 0 → ∀ y, f.Finite y → |f.real r.1 - x| ≤ |f.real y - x| ∧
    (|f.real r.1 - x| = |f.real y - x| → f.real y = f.real r.1 ∨ r.1 % 2 = 0)
  zero    : rnd = 1 → |f.real r.1| ≤ |x| ∧ 0 ≤ f.real r.1 * x ∧
    ∀ y, f.Finite y → |f.real y| ≤ |x| → |f.real y| ≤ |f.real r.1|
  above   : rnd = 2 → x ≤ f.real r.1 ∧ ∀ y, f.Finite y → x ≤ f.real y → f.real r.1 ≤ f.real y
  below   : rnd = 3 → f.real r.1 ≤ x ∧ ∀ y, f.Finite y → f.real y ≤ x → f.real y ≤ f.real r.1

/-- A result and its flags are the number x of a sign rounded. -/
def Fmt.RoundsTo (f : Fmt) (rnd : Nat) (sat neg : Bool) (x : ℝ) (r : FRes) : Prop :=
  r.2 &&& OF = 0 ∧ f.Nearby rnd x r ∨
  r.2 &&& OF ≠ 0 ∧ f.val f.maxFin < |x| ∧
    r = (if sat ∨ rnd = 1 ∨ (rnd = 2 ∧ neg) ∨ (rnd = 3 ∧ ¬ neg) then f.max neg else f.inf neg, OF ||| NX)

section
variable {f : Fmt} {rnd : Nat} {neg : Bool} {v : ℝ} {L : Nat} {up inexact tiny : Bool}

theorem pattern_mod_two (h : f.Sized) (neg : Bool) (a : Nat) : f.pattern neg a % 2 = a % 2 := by
  obtain ⟨i, hi⟩ : 2 ∣ f.signBit := dvd_pow_self 2 (by have := h.frac; omega)
  unfold Fmt.pattern
  split_ifs <;> omega

theorem nearest_signed (between : f.Between 0 neg v L up inexact) (s : Bool) (a : Nat) :
    |f.val (L + up.toNat) - v| ≤ |signOf s * f.val a - signOf neg * v| ∧
      (|f.val (L + up.toNat) - v| = |signOf s * f.val a - signOf neg * v| →
        signOf s * f.val a = signOf neg * f.val (L + up.toNat) ∨ (L + up.toNat) % 2 = 0) := by
  have nonneg := val_nonneg (f := f)
  have pos : 0 ≤ v := (nonneg L).trans between.low
  by_cases same : s = neg
  · rw [same, abs_signOf_mul_sub, signOf_mul_inj]
    exact nearest_val between a
  · obtain ⟨near, tie⟩ := nearest_val between 0
    rw [val_zero, zero_sub, abs_neg, abs_of_nonneg pos] at near tie
    rw [abs_opposite same (nonneg a) pos]
    have := nonneg a
    refine ⟨by linarith, fun h => (tie (by linarith)).imp_left (fun zero => ?_)⟩
    rw [← zero, show f.val a = 0 by linarith, mul_zero, mul_zero]

/-- The upper end, as a signed number: for the modes that round away from zero. -/
theorem away_signed (h : f.Sized) (pos : 0 < v) (between : f.Between rnd neg v L up inexact) (upward : f.val L < v → up = true) :
    v ≤ f.val (L + up.toNat) ∧
      ∀ y, f.Finite y → v ≤ signOf neg * f.real y → f.val (L + up.toNat) ≤ signOf neg * f.real y := by
  obtain ⟨bound, least⟩ := ceil_val between upward
  refine ⟨bound, fun y hy hle => ?_⟩
  obtain ⟨s, a, ha, rfl⟩ := exists_pattern h hy
  have nonneg := val_nonneg (f := f) a
  rw [real_pattern h ha] at hle ⊢
  cases s <;> cases neg <;> simp only [signOf, Bool.false_eq_true, if_false, if_true, one_mul, neg_mul, neg_neg, mul_neg] at hle ⊢
  · exact least a hle
  · linarith
  · linarith
  · exact least a hle

/-- The lower end, as a signed number: for the modes that round toward zero. -/
theorem toward_signed (h : f.Sized) (between : f.Between rnd neg v L false inexact) :
    f.val L ≤ v ∧ ∀ y, f.Finite y → signOf neg * f.real y ≤ v → signOf neg * f.real y ≤ f.val L := by
  refine ⟨between.low, fun y hy hle => ?_⟩
  obtain ⟨s, a, ha, rfl⟩ := exists_pattern h hy
  have nonneg := val_nonneg (f := f)
  have := nonneg a
  have := nonneg L
  rw [real_pattern h ha] at hle ⊢
  cases s <;> cases neg <;> simp only [signOf, Bool.false_eq_true, if_false, if_true, one_mul, neg_mul, neg_neg, mul_neg] at hle ⊢
  · exact floor_val between a hle
  · linarith
  · linarith
  · exact floor_val between a hle

theorem nearby_of_between (h : f.Sized) (pos : 0 < v) (between : f.Between rnd neg v L up inexact) (range : L + up.toNat ≤ f.maxFin)
    (below : tiny = true → v < f.val (2 ^ f.mw)) (always : f.val (L + up.toNat) < f.val (2 ^ f.mw) → tiny = true) :
    f.Nearby rnd (signOf neg * v) (f.pattern neg (L + up.toNat), flagIf inexact NX ||| flagIf (tiny && inexact) UF) := by
  have real := real_pattern h (neg := neg) range
  have unchanged : inexact = false ↔ f.val (L + up.toNat) = v := by
    rw [between.exact]
    refine ⟨fun e => by rw [between.held e, Bool.toNat_false, Nat.add_zero, e], fun e => ?_⟩
    cases up with
    | false => exact e.symm
    | true => exact absurd e between.high.ne'
  have nonneg := val_nonneg (f := f)
  constructor <;> simp only [real, abs_signOf_mul, abs_of_pos pos, abs_of_nonneg (nonneg _), ne_eq, signOf_mul_inj, ← unchanged]
  · exact finite_pattern h range
  · cases inexact <;> cases tiny <;> decide
  · intro hu
    cases inexact <;> cases tiny <;> simp [flagIf] at hu ⊢
    exact below rfl
  · intro hi hr
    rw [always hr]
    cases inexact <;> simp [flagIf] at hi ⊢
  · cases inexact <;> cases tiny <;> decide
  · rintro rfl y hy
    obtain ⟨s, a, ha, rfl⟩ := exists_pattern h hy
    rw [real_pattern h ha, abs_signOf_mul_sub, pattern_mod_two h]
    exact nearest_signed between s a
  · rintro rfl
    obtain rfl : up = false := by
      rcases eq_or_lt_of_le between.low with same | inside
      · exact between.held same.symm
      · exact (between.picks inside).zero rfl
    refine ⟨by simpa using between.low, ?_, fun y hy hle => ?_⟩
    · have : 0 ≤ f.val (L + false.toNat) * v := mul_nonneg (nonneg _) pos.le
      cases neg <;> simpa [signOf] using this
    · obtain ⟨s, a, ha, rfl⟩ := exists_pattern h hy
      rw [real_pattern h ha, abs_signOf_mul, abs_of_nonneg (nonneg _)] at hle ⊢
      exact floor_val between a hle
  · rintro rfl
    have taken : f.val L < v → up = !neg := fun inside => (between.picks inside).above rfl
    cases neg with
    | false => simpa [signOf] using away_signed h pos between taken
    | true =>
      obtain rfl : up = false := (eq_or_lt_of_le between.low).elim (fun same => between.held same.symm) taken
      obtain ⟨bound, greatest⟩ := toward_signed h between
      simp only [signOf, if_true, neg_mul, one_mul, neg_le_neg_iff, Bool.toNat_false, Nat.add_zero] at greatest ⊢
      exact ⟨bound, fun y hy hle => neg_le.1 (greatest y hy (neg_le.1 hle))⟩
  · rintro rfl
    have taken : f.val L < v → up = neg := fun inside => (between.picks inside).below (le_refl 3)
    cases neg with
    | false =>
      obtain rfl : up = false := (eq_or_lt_of_le between.low).elim (fun same => between.held same.symm) taken
      simpa [signOf] using toward_signed h between
    | true =>
      obtain ⟨bound, least⟩ := away_signed h pos between taken
      simp only [signOf, if_true, neg_mul, one_mul, neg_le_neg_iff] at least ⊢
      exact ⟨bound, fun y hy hle => le_neg.1 (least y hy (le_neg.1 hle))⟩

theorem overflowF_eq (f : Fmt) {rnd : Nat} (modes : rnd ≤ 3) (sat neg : Bool) : overflowF f rnd sat neg =
    (if sat ∨ rnd = 1 ∨ (rnd = 2 ∧ neg) ∨ (rnd = 3 ∧ ¬ neg) then f.max neg else f.inf neg, OF ||| NX) := by
  unfold overflowF
  interval_cases rnd <;> cases sat <;> cases neg <;> rfl

theorem no_overflow (inexact tiny : Bool) : (flagIf inexact NX ||| flagIf (tiny && inexact) UF) &&& OF = 0 := by
  cases inexact <;> cases tiny <;> decide

/-- Rounding an exact magnitude with a sign (R56, R57). -/
theorem roundF_roundsTo (h : f.Sized) (modes : rnd ≤ 3) (sat neg : Bool) {m : Nat} {e : Int} {st : Bool} (pos : 0 < v)
    (enc : Encloses m e st v) (wide : st = true → 2 ^ (f.mw + 1) ≤ m) :
    f.RoundsTo rnd sat neg (signOf neg * v) (roundF f rnd sat neg m e st) := by
  obtain ⟨L, up, inexact, tiny, between, below, always, result⟩ := roundF_spec h rnd sat neg pos enc wide
  rw [result]
  split_ifs with large
  · rw [overflowF_eq f modes]
    refine .inr ⟨show (OF ||| NX) &&& OF ≠ 0 by decide, ?_, rfl⟩
    rw [abs_signOf_mul, abs_of_pos pos]
    rcases eq_or_lt_of_le between.low with same | inside
    · rw [between.held same.symm, Bool.toNat_false, Nat.add_zero] at large
      exact (strictMono_val large).trans_eq same
    · have := Bool.toNat_le up
      exact (strictMono_val.monotone (by omega)).trans_lt inside
  · exact .inl ⟨no_overflow inexact tiny, nearby_of_between h pos between (Nat.not_lt.1 large) below always⟩

/-- Zero is every format's own (R56). -/
theorem zero_roundsTo (h : f.Sized) (rnd : Nat) (sat neg : Bool) : f.RoundsTo rnd sat neg 0 (f.zero neg, 0) := by
  have real : f.real (f.zero neg) = 0 := by
    have := real_pattern h (neg := neg) (a := 0) (Nat.zero_le _)
    rwa [val_zero, mul_zero, Fmt.pattern, Nat.zero_add] at this
  have finite : f.Finite (f.zero neg) := by
    have := finite_pattern h (neg := neg) (a := 0) (Nat.zero_le _)
    rwa [Fmt.pattern, Nat.zero_add] at this
  refine .inl ⟨BitVec.zero_and, finite, by simp [real], by simp, by simp [real], BitVec.zero_and, ?_, ?_, ?_, ?_⟩ <;> intro _ <;>
    simp only [real, sub_zero, abs_zero, le_refl, mul_zero, true_and]
  · exact fun y _ => ⟨abs_nonneg _, fun h => .inl (abs_eq_zero.1 h.symm)⟩
  · exact fun y _ hy => hy
  · exact fun y _ hy => hy
  · exact fun y _ hy => hy

/-- Rounding a number (R56, R57). -/
theorem roundF_num_roundsTo (h : f.Sized) (modes : rnd ≤ 3) (sat n : Bool) (m : Nat) (e : Int) :
    f.RoundsTo rnd sat n (FVal.num n m e).real (roundF f rnd sat n m e false) := by
  rcases Nat.eq_zero_or_pos m with rfl | pos
  · have zero : (FVal.num n 0 e).real = 0 := by simp [FVal.real]
    rw [zero]
    exact zero_roundsTo h rnd sat n
  · exact roundF_roundsTo h modes sat n (mul_pos (by exact_mod_cast pos) (zpow_two_pos e)) rfl (by simp)

end

end Sys2Proof.Machine
end

section
/-! Rounding in whole units (R55 to R57): what the statements say of it, from what holds of the real numbers. -/
namespace Sys2Proof.Machine

/-! ### Comparing multiples of a unit -/

section
variable {u : ℝ}

theorem mul_unit_le (hu : 0 < u) (a b : ℤ) : (a : ℝ) * u ≤ b * u ↔ a ≤ b := by
  rw [mul_le_mul_iff_left₀ hu, Int.cast_le]

theorem mul_unit_inj (hu : 0 < u) (a b : ℤ) : (a : ℝ) * u = b * u ↔ a = b := by
  rw [mul_left_inj' hu.ne', Int.cast_inj]

theorem abs_mul_unit (hu : 0 < u) (a : ℤ) : |(a : ℝ) * u| = (a.natAbs : ℤ) * u := by
  rw [abs_mul, abs_of_pos hu, Int.natCast_natAbs, Int.cast_abs]

theorem abs_mul_unit_le (hu : 0 < u) (a b : ℤ) : |(a : ℝ) * u| ≤ |(b : ℝ) * u| ↔ a.natAbs ≤ b.natAbs := by
  rw [abs_mul_unit hu, abs_mul_unit hu, mul_unit_le hu, Int.ofNat_le]

theorem abs_mul_unit_inj (hu : 0 < u) (a b : ℤ) : |(a : ℝ) * u| = |(b : ℝ) * u| ↔ a.natAbs = b.natAbs := by
  rw [abs_mul_unit hu, abs_mul_unit hu, mul_unit_inj hu, Int.ofNat_inj]

theorem sub_mul_unit (a b : ℤ) : (a : ℝ) * u - b * u = ((a - b : ℤ) : ℝ) * u := by push_cast; ring

end

section
variable {f : Fmt} {q : Int}

theorem units_magnitude (h : f.Sized) (hq : q ≤ f.qmin) {a : Nat} (ha : a ≤ f.maxFin) : (f.units q a : ℝ) * 2 ^ q = f.val a := by
  have finite := finite_pattern h (neg := false) ha
  have real := real_pattern h (neg := false) ha
  rw [show f.pattern false a = a from Nat.add_zero a] at finite real
  rw [units_mul_zpow h finite hq, real, signOf, if_neg Bool.false_ne_true, one_mul]

/-- Rounding a number of whole units. -/
theorem rounds_of_roundsTo (h : f.Sized) (hq : q ≤ f.qmin) {rnd : Nat} {sat neg : Bool} {X : Int} {r : FRes}
    (sign : X ≠ 0 → neg = decide (X < 0)) (rounds : f.RoundsTo rnd sat neg (X * 2 ^ q) r) : Rounds f rnd sat q X r := by
  have hu := zpow_two_pos q
  have least := units_magnitude h hq (two_pow_mw_le_maxFin h)
  have most := units_magnitude h hq (le_refl f.maxFin)
  have lt (a b : ℤ) : (a : ℝ) * 2 ^ q < b * 2 ^ q ↔ a < b := by rw [← not_le, mul_unit_le hu, not_le]
  unfold Rounds
  rcases rounds with ⟨inRange, near⟩ | ⟨overflow, beyond, result⟩
  · simp only [inRange, if_true]
    obtain ⟨finite, unchanged, tiny, always, valid, nearest, zero, above, below⟩ := near
    have unit (y : Nat) (hy : f.Finite y) : f.real y = f.units q y * 2 ^ q := (units_mul_zpow h hy hq).symm
    rw [unit _ finite] at unchanged tiny always nearest zero above below
    rw [← least, abs_mul_unit hu, lt] at tiny always
    simp only [sub_mul_unit, abs_mul_unit_le hu, mul_unit_inj hu, mul_unit_le hu, ne_eq] at *
    refine ⟨finite, unchanged, tiny, always, valid, fun hr y hy => ?_, fun hr => ?_, fun hr => ?_, fun hr => ?_⟩
    · have := nearest hr y hy
      rwa [unit y hy, sub_mul_unit, abs_mul_unit_le hu, abs_mul_unit_inj hu, mul_unit_inj hu] at this
    · obtain ⟨bound, side, greatest⟩ := zero hr
      refine ⟨bound, ?_, fun y hy hle => ?_⟩
      · rw [mul_mul_mul_comm, mul_nonneg_iff_of_pos_right (mul_pos hu hu)] at side
        exact_mod_cast side
      · have := greatest y hy
        rw [unit y hy, abs_mul_unit_le hu, abs_mul_unit_le hu] at this
        exact this hle
    · obtain ⟨bound, next⟩ := above hr
      refine ⟨bound, fun y hy hle => ?_⟩
      have := next y hy
      rw [unit y hy, mul_unit_le hu, mul_unit_le hu] at this
      exact this hle
    · obtain ⟨bound, next⟩ := below hr
      refine ⟨bound, fun y hy hle => ?_⟩
      have := next y hy
      rw [unit y hy, mul_unit_le hu, mul_unit_le hu] at this
      exact this hle
  · rw [if_neg overflow]
    rw [← most, abs_mul_unit hu, lt] at beyond
    refine ⟨beyond, ?_⟩
    have nonzero : X ≠ 0 := by
      rintro rfl
      have := val_nonneg (f := f) f.maxFin
      rw [← most, mul_nonneg_iff_of_pos_right hu] at this
      have : 0 ≤ f.units q f.maxFin := by exact_mod_cast this
      rw [Int.natAbs_zero] at beyond
      omega
    rw [result, sign nonzero]

/-- Rounding a number gives that number rounded (R56, R57). -/
theorem rounds_roundF (h : f.Sized) {rnd : Nat} (modes : rnd ≤ 3) (sat n : Bool) (m : Nat) {e : Int} (hq : q ≤ f.qmin) (he : q ≤ e) :
    Rounds f rnd sat q (scaled q (.num n m e)) (roundF f rnd sat n m e false) := by
  refine rounds_of_roundsTo (neg := n) h hq (fun nonzero => ?_) ?_
  · have pos : 0 < m * 2 ^ (e - q).toNat := Nat.pos_of_ne_zero (fun zero => nonzero (by simp only [scaled, zero]; simp))
    show n = decide ((if n then -1 else 1) * ((m * 2 ^ (e - q).toNat : Nat) : Int) < 0)
    generalize m * 2 ^ (e - q).toNat = p at pos
    cases n with
    | false => simp
    | true => simp; omega
  · rw [scaled_mul_zpow (show (FVal.num n m e).Num q from he)]
    exact roundF_num_roundsTo h modes sat n m e

theorem roundingIsExact : RoundingIsExact :=
  fun _ _ sat n m _ _ known modes he hq => rounds_roundF (sized_of_mem known) modes sat n m hq he

/-! ### Values that a format holds (R55 to R57) -/

/-- A magnitude that a pattern has rounds to that pattern. -/
theorem roundF_of_val (h : f.Sized) (rnd : Nat) (sat neg : Bool) {m : Nat} {e : Int} {a : Nat} (ha : a ≤ f.maxFin)
    (value : (m : ℝ) * 2 ^ e = f.val a) : roundF f rnd sat neg m e false = (f.pattern neg a, 0) := by
  rcases Nat.eq_zero_or_pos a with rfl | pos
  · rw [val_zero, mul_eq_zero, or_iff_left (zpow_two_pos e).ne', Nat.cast_eq_zero] at value
    subst value
    simp [roundF, Fmt.pattern, Fmt.zero]
  · have positive : 0 < f.val a := by rw [← val_zero (f := f)]; exact strictMono_val pos
    obtain ⟨L, up, inexact, tiny, between, -, -, result⟩ := roundF_spec h rnd sat neg positive (st := false) value.symm (by simp)
    obtain rfl : L = a := Nat.le_antisymm (strictMono_val.le_iff_le.1 between.low)
      (Nat.lt_succ_iff.1 (strictMono_val.lt_iff_lt.1 between.high))
    rw [result, between.held rfl, between.exact.2 rfl, Bool.toNat_false, Nat.add_zero, if_neg (Nat.not_lt.2 ha), Bool.and_false]
    rfl

/-- A significand of the format's width, at an exponent from the least one on, is the magnitude of a pattern. -/
theorem exists_val (h : f.Sized) {m : Nat} {e : Int} (width : m < 2 ^ (f.mw + 1)) (least : f.qmin ≤ e) : ∃ a, f.val a = m * 2 ^ e := by
  rcases Nat.eq_zero_or_pos m with rfl | pos
  · exact ⟨0, by simp⟩
  · have enc : Encloses m e false (m * 2 ^ e) := rfl
    obtain ⟨low, high⟩ := enclosed_top enc pos.ne'
    obtain ⟨L, up, inexact, runs, rounds⟩ := roundAt_spec 0 false (q := f.lastPlace (e + Nat.log2 m)) enc (by simp)
    have inside : f.lastPlace (e + Nat.log2 m) ≤ e := by
      have : Nat.log2 m < f.mw + 1 := (Nat.log2_lt pos.ne').2 width
      exact max_le (by omega) least
    rw [roundAt_of_le 0 false m false inside] at runs
    exact ⟨_, ((between_of_roundsAt h low high rounds).exact.1 (congrArg Prod.snd runs).symm).symm⟩

/-- Infinity has one pattern of each sign. -/
theorem eq_inf_of_decodeF {x : Nat} {n : Bool} (width : x < 2 ^ f.width) (value : decodeF f x = .inf n) : x = f.inf n := by
  obtain ⟨expField, fracField⟩ := field_mod (f := f) x
  unfold decodeF at value
  simp only [← expField, ← fracField] at value
  split_ifs at value with special zero
  obtain ⟨ieee, top⟩ := (Bool.and_eq_true _ _).mp special
  have last := top_fraction (of_decide_eq_true top)
  cases value
  rw [zero, Nat.add_zero, ← Nat.sub_one_mul] at last
  conv_lhs => rw [← pattern_of_lt width, Fmt.pattern, last]
  rw [Fmt.inf, if_pos ieee]

theorem heldValuesRoundToThemselves : HeldValuesRoundToThemselves := by
  intro f rnd x known width number
  have h := sized_of_mem known
  by_cases finite : x % f.signBit ≤ f.maxFin
  · rw [decodeF_of_le h finite]
    have held := roundF_of_val h rnd false (x.testBit (f.ew + f.mw)) finite (val_eq _).symm
    rw [pattern_of_lt width] at held
    simp only [roundV, held]
    rfl
  · rcases decodeF_of_lt h (Nat.lt_of_not_le finite) with nan | infinite
    · rw [number] at nan; cases nan
    · cases value : decodeF f x with
      | inf n => rw [roundV, eq_inf_of_decodeF width value]
      | nan s => rw [value] at infinite; cases infinite
      | num n m e => rw [value] at infinite; cases infinite

end

end Sys2Proof.Machine
end

section
/-! Sums and products (R56, R92, R93, R100): exact, and rounded once. -/
namespace Sys2Proof.Machine

/-! ### Numbers -/

theorem roundV_num (f : Fmt) (rnd : Nat) (n : Bool) (m : Nat) (e : Int) : roundV f rnd (.num n m e) 0 = roundF f rnd false n m e false := by
  simp [roundV]

theorem rounds_roundV {f : Fmt} (h : f.Sized) {rnd : Nat} (modes : rnd ≤ 3) {q : Int} (hq : q ≤ f.qmin) {v : FVal} (num : v.Num q) :
    Rounds f rnd false q (scaled q v) (roundV f rnd v 0) := by
  cases v with
  | num n m e => rw [roundV_num]; exact rounds_roundF h modes false n m hq num
  | _ => exact num.elim

section
variable {p : Int} {v : FVal}

theorem isNan_of_num (h : v.Num p) : v.isNan = false := by
  cases v with
  | num n m e => rfl
  | _ => exact h.elim

theorem isSig_of_num (h : v.Num p) : v.isSig = false := by
  cases v with
  | num n m e => rfl
  | _ => exact h.elim

theorem isInf_of_num (h : v.Num p) : v.isInf = false := by
  cases v with
  | num n m e => rfl
  | _ => exact h.elim

theorem num_mono {q : Int} (hq : q ≤ p) (h : v.Num p) : v.Num q := by
  cases v with
  | num n m e => exact Int.le_trans hq h
  | _ => exact h.elim

/-- A finer unit. -/
theorem scaled_finer {q : Int} (hq : q ≤ p) (h : v.Num p) : scaled q v = scaled p v * 2 ^ (p - q).toNat := by
  cases v with
  | num n m e =>
    have h : p ≤ e := h
    simp only [scaled]
    rw [show (e - q).toNat = (e - p).toNat + (p - q).toNat by omega, pow_add]
    push_cast
    ring
  | _ => exact h.elim

end

theorem scaled_integer (n : Int) : scaled 0 (.num (decide (n < 0)) n.natAbs 0) = n := by
  simp only [scaled, Int.sub_zero, Int.toNat_zero, pow_zero, Nat.mul_one]
  rcases Int.lt_or_le n 0 with neg | pos
  · simp only [neg, decide_true, if_true]; omega
  · simp only [Int.not_lt.2 pos, decide_false, Bool.false_eq_true, if_false]; omega

/-! ### Sums -/

theorem leastExp_spec {vs : List FVal} (nonempty : vs ≠ []) {p : Int} (nums : ∀ v ∈ vs, v.Num p) :
    p ≤ leastExp vs ∧ ∀ v ∈ vs, v.Num (leastExp vs) := by
  induction vs with
  | nil => exact absurd rfl nonempty
  | cons v vs ih =>
    obtain ⟨first, rest⟩ := List.forall_mem_cons.1 nums
    cases v with
    | num n m e =>
      cases vs with
      | nil => exact ⟨first, fun v hv => by rw [List.mem_singleton.1 hv]; exact Int.le_refl _⟩
      | cons w ws =>
        obtain ⟨low, all⟩ := ih (by simp) rest
        have least : leastExp (.num n m e :: w :: ws) = min e (leastExp (w :: ws)) := rfl
        rw [least]
        refine ⟨le_min first low, List.forall_mem_cons.2 ⟨min_le_left _ _, fun v hv => num_mono (min_le_right _ _) (all v hv)⟩⟩
    | _ => exact first.elim

theorem any_false_of_num {vs : List FVal} {p : Int} (nums : ∀ v ∈ vs, v.Num p) (g : FVal → Bool)
    (hg : ∀ v : FVal, v.Num p → g v = false) :
    vs.any g = false := by
  rw [List.any_eq_false]
  exact fun v hv => by rw [hg v (nums v hv)]; decide

/-- The sum of numbers is exact, and no exception. -/
theorem sumV_spec (rnd : Nat) {vs : List FVal} (nonempty : vs ≠ []) {p : Int} (nums : ∀ v ∈ vs, v.Num p) :
    (sumV rnd vs).1.Num p ∧ (sumV rnd vs).2 = 0 ∧ scaled p (sumV rnd vs).1 = (vs.map (scaled p)).sum := by
  obtain ⟨low, all⟩ := leastExp_spec nonempty nums
  have total : (vs.map (scaled p)).sum = (vs.map (scaled (leastExp vs))).sum * 2 ^ (leastExp vs - p).toNat := by
    rw [← List.sum_map_mul_right]
    exact congrArg _ (List.map_congr_left (fun v hv => scaled_finer low (all v hv)))
  rw [total]
  unfold sumV
  simp only [any_false_of_num nums _ (fun _ => isSig_of_num), any_false_of_num nums _ (fun _ => isNan_of_num),
    any_false_of_num nums _ (fun _ => isInf_of_num), Bool.false_eq_true, if_false]
  generalize (vs.map (scaled (leastExp vs))).sum = t
  by_cases zero : t = 0
  · rw [if_pos zero]
    exact ⟨low, rfl, by simp [scaled, zero]⟩
  · rw [if_neg zero]
    refine ⟨low, rfl, ?_⟩
    simp only [scaled]
    push_cast
    rw [← mul_assoc]
    congr 1
    rcases Int.lt_or_le t 0 with neg | pos
    · simp only [neg, decide_true, if_true]; rw [abs_of_neg neg]; ring
    · simp only [Int.not_lt.2 pos, decide_false, Bool.false_eq_true, if_false]; rw [abs_of_nonneg pos]; ring

theorem mulV_spec {x y : FVal} {p q : Int} (hx : x.Num p) (hy : y.Num q) :
    (mulV x y).Num (p + q) ∧ scaled (p + q) (mulV x y) = scaled p x * scaled q y := by
  cases x with
  | num n m e =>
    cases y with
    | num n' m' e' =>
      have hx : p ≤ e := hx
      have hy : q ≤ e' := hy
      refine ⟨show p + q ≤ e + e' by omega, ?_⟩
      simp only [mulV, scaled]
      rw [show (e + e' - (p + q)).toNat = (e - p).toNat + (e' - q).toNat by omega, pow_add]
      push_cast
      cases n <;> cases n' <;> simp <;> ring
    | _ => exact hy.elim
  | _ => exact hx.elim

/-- The sum of two numbers, rounded once. -/
theorem rounds_addF {f : Fmt} (h : f.Sized) {rnd : Nat} (modes : rnd ≤ 3) {q : Int} (hq : q ≤ f.qmin) {x y : FVal}
    (hx : x.Num q) (hy : y.Num q) : Rounds f rnd false q (scaled q x + scaled q y) (addF f rnd x y) := by
  obtain ⟨num, flags, sum⟩ := sumV_spec rnd (vs := [x, y]) (p := q) (by simp) (by simp [hx, hy])
  have rounds := rounds_roundV h modes hq num
  rw [sum] at rounds
  simpa [addF, flags] using rounds

theorem sumsAndProducts : SumsAndProducts := by
  intro f rnd x y z p q known modes hx hy low
  have h : f.Sized := sized_of_mem (List.mem_append_left [e4m3, e5m2] known)
  obtain ⟨product, value⟩ := mulV_spec hx hy
  refine ⟨fun vs nonempty nums => sumV_spec rnd nonempty nums, product, value, fun hy' low' => ?_, ?_, fun hz => ?_⟩
  · exact rounds_addF h modes low' hx hy'
  · have rounds := rounds_roundV h modes low product
    rw [value] at rounds
    simpa [mulF, isSig_of_num product, flagIf] using rounds
  · obtain ⟨num, flags, sum⟩ := sumV_spec rnd (vs := [mulV x y, z]) (p := p + q) (by simp) (by simp [product, hz])
    have rounds := rounds_roundV h modes low num
    rw [sum] at rounds
    simpa [fmaF, flags, value] using rounds

/-! ### Values that are not all numbers (R92) -/

theorem any_isInf (vs : List FVal) :
    vs.any FVal.isInf = (vs.any (fun v => v.isInf && (v.neg == true)) || vs.any (fun v => v.isInf && (v.neg == false))) := by
  induction vs with
  | nil => rfl
  | cons v vs ih =>
    simp only [List.any_cons, ih]
    cases v.isInf <;> cases v.neg <;> simp

theorem any_isNan_of_isSig {vs : List FVal} (h : vs.any FVal.isSig = true) : vs.any FVal.isNan = true := by
  rw [List.any_eq_true] at h ⊢
  obtain ⟨v, hv, sig⟩ := h
  refine ⟨v, hv, ?_⟩
  cases v with
  | nan s => rfl
  | _ => cases sig

theorem mulV_special (x y : FVal) :
    (mulV x y).isNan = (x.isNan || y.isNan || (x.isInf && y.isZero) || (x.isZero && y.isInf)) ∧
    (mulV x y).isSig = (x.isSig || y.isSig || (x.isInf && y.isZero) || (x.isZero && y.isInf)) ∧
    ((mulV x y).isNan = false → (mulV x y).isInf = (x.isInf || y.isInf) ∧ (mulV x y).neg = (x.neg != y.neg)) := by
  have zeroNan (n : Bool) (z : Bool) : (if z = true then FVal.nan true else .inf n).isNan = z ∧
      (if z = true then FVal.nan true else .inf n).isSig = z ∧
      ((if z = true then FVal.nan true else .inf n).isNan = false →
        (if z = true then FVal.nan true else .inf n).isInf = true ∧ (if z = true then FVal.nan true else .inf n).neg = n) := by
    cases z <;> simp [FVal.isNan, FVal.isSig, FVal.isInf, FVal.neg]
  cases x with
  | nan s => cases y <;> simp [mulV, FVal.isNan, FVal.isSig, FVal.isInf, FVal.isZero]
  | inf n =>
    cases y with
    | nan s => simp [mulV, FVal.isNan, FVal.isSig, FVal.isInf, FVal.isZero]
    | inf n' => simp [mulV, FVal.isNan, FVal.isSig, FVal.isInf, FVal.isZero, FVal.neg]
    | num n' m e => simpa [mulV, FVal.isNan, FVal.isSig, FVal.isInf, FVal.isZero, FVal.neg] using zeroNan (n != n') (decide (m = 0))
  | num n m e =>
    cases y with
    | nan s => simp [mulV, FVal.isNan, FVal.isSig, FVal.isInf, FVal.isZero]
    | inf n' => simpa [mulV, FVal.isNan, FVal.isSig, FVal.isInf, FVal.isZero, FVal.neg] using zeroNan (n != n') (decide (m = 0))
    | num n' m' e' => simp [mulV, FVal.isNan, FVal.isSig, FVal.isInf, FVal.isZero, FVal.neg]

/-- A sum by what its terms are: whether one is a NaN, signals, or is an infinity of a sign. -/
theorem sumV_special (rnd : Nat) (vs : List FVal) {sig nan pos neg : Bool} (hs : vs.any FVal.isSig = sig) (hn : vs.any FVal.isNan = nan)
    (hpos : vs.any (fun v => v.isInf && (v.neg == false)) = pos) (hneg : vs.any (fun v => v.isInf && (v.neg == true)) = neg) :
    let r := sumV rnd vs
    r.2 = (if sig || (!nan && neg && pos) then NV else 0) ∧ r.1.isNan = (nan || (neg && pos)) ∧
    r.1.isSig = (sig || (!nan && neg && pos)) ∧
    (r.1.isNan = false → r.1.isInf = (neg || pos) ∧ (r.1.isInf = true → r.1.neg = neg)) ∧
    (r.1.isZero = true → vs ≠ [] → r.1.neg = (vs.all FVal.neg || (vs.any FVal.neg && decide (rnd = 3)))) := by
  have sigNan : sig = true → nan = true := fun h => by rw [← hn]; exact any_isNan_of_isSig (hs.trans h)
  have infinite : vs.any FVal.isInf = (neg || pos) := by rw [any_isInf, hpos, hneg]
  have positive : vs.any (fun v => v.isInf && !v.neg) = pos := by
    rw [← hpos]
    exact congrArg (vs.any ·) (funext fun v => by cases v.neg <;> rfl)
  have negative : vs.any (fun v => v.isInf && v.neg) = neg := by
    rw [← hneg]
    exact congrArg (vs.any ·) (funext fun v => by cases v.neg <;> rfl)
  simp only [sumV, hs, hn, positive, negative, infinite]
  generalize (vs.map (scaled (leastExp vs))).sum = t
  cases sig with
  | true =>
    obtain rfl := sigNan rfl
    simp [FVal.isNan, FVal.isSig, FVal.isZero]
  | false =>
    cases nan with
    | true => simp [FVal.isNan, FVal.isSig, FVal.isZero]
    | false =>
      cases neg <;> cases pos
      · by_cases zero : t = 0
        · cases all : vs.all FVal.neg <;> cases any : vs.any FVal.neg <;> simp [zero, FVal.isNan, FVal.isSig, FVal.isInf, FVal.neg]
        · simp [zero, FVal.isNan, FVal.isSig, FVal.isInf, FVal.isZero]
      · simp [FVal.isNan, FVal.isSig, FVal.isInf, FVal.isZero, FVal.neg]
      · simp [FVal.isNan, FVal.isSig, FVal.isInf, FVal.isZero, FVal.neg]
      · simp [FVal.isNan, FVal.isSig, FVal.isZero]

theorem specialSums : SpecialSums := by
  intro rnd vs x y
  obtain ⟨flags, nan, sig, infinite, zero⟩ := sumV_special rnd vs rfl rfl rfl rfl
  exact ⟨flags, nan, sig, infinite, zero, mulV_special x y⟩

end Sys2Proof.Machine
end

section
/-! Conversions as numbers (R60, R96). -/
namespace Sys2Proof.Machine

/-! ### Integers of a type -/

section
variable {t : Nat}

theorem typeBits_pos (t : Nat) : 0 < typeBits t := by
  unfold typeBits
  split_ifs <;> decide

theorem two_pow_typeBits (t : Nat) : (2 : Int) ^ typeBits t = 2 * 2 ^ (typeBits t - 1) := by
  rw [← pow_succ', Nat.sub_add_cancel (typeBits_pos t)]

/-- The range of a type holds as many integers as its width has words. -/
theorem typeMax_sub_typeMin (t : Nat) : typeMax t - typeMin t = 2 ^ typeBits t - 1 := by
  unfold typeMax typeMin
  rw [two_pow_typeBits]
  split_ifs <;> ring

theorem intOf_range (t x : Nat) : typeMin t ≤ intOf t x ∧ intOf t x ≤ typeMax t := by
  unfold intOf typeMin typeMax
  split_ifs
  · exact ⟨BitVec.le_toInt _, Int.le_sub_one_of_lt BitVec.toInt_lt⟩
  · have pos : (0 : Int) < 2 ^ typeBits t := by positivity
    have := Int.emod_nonneg x pos.ne'
    have := Int.emod_lt_of_pos x pos
    push_cast
    omega

theorem intOf_dvd (t x : Nat) : (2 : Int) ^ typeBits t ∣ intOf t x - x := by
  unfold intOf
  split_ifs
  · have := Int.dvd_bmod_sub_self (x := x) (m := 2 ^ typeBits t)
    rw [show (BitVec.ofNat (typeBits t) x).toInt = (x : Int).bmod (2 ^ typeBits t) from BitVec.toInt_ofNat' ..]
    exact_mod_cast this
  · push_cast
    exact Int.dvd_emod_sub_self

/-- In a type's range an integer is told by its low bits. -/
theorem eq_of_dvd_of_range {a b : Int} (dvd : (2 : Int) ^ typeBits t ∣ a - b) (ha : typeMin t ≤ a ∧ a ≤ typeMax t)
    (hb : typeMin t ≤ b ∧ b ≤ typeMax t) : a = b := by
  have := typeMax_sub_typeMin t
  have zero := Int.eq_zero_of_abs_lt_dvd dvd (by rw [abs_lt]; constructor <;> omega)
  omega

theorem intBits_lt (t : Nat) (w : Int) : intBits t w < 2 ^ typeBits t := (BitVec.ofInt (typeBits t) w).isLt

/-- The bits of an integer are its low bits. -/
theorem intOf_intBits_dvd (t : Nat) (w : Int) : (2 : Int) ^ typeBits t ∣ intOf t (intBits t w) - w := by
  have bits : (2 : Int) ^ typeBits t ∣ (intBits t w : Int) - w := by
    have pos : (0 : Int) < 2 ^ typeBits t := by positivity
    rw [intBits, BitVec.toNat_ofInt]
    push_cast
    rw [Int.toNat_of_nonneg (Int.emod_nonneg w pos.ne')]
    exact Int.dvd_emod_sub_self
  have := Int.dvd_add (intOf_dvd t (intBits t w)) bits
  rwa [sub_add_sub_cancel] at this

theorem intOf_intBits {w : Int} (low : typeMin t ≤ w) (high : w ≤ typeMax t) : intOf t (intBits t w) = w :=
  eq_of_dvd_of_range (intOf_intBits_dvd t w) (intOf_range t _) ⟨low, high⟩

theorem typeMin_le_typeMax (t : Nat) : typeMin t ≤ typeMax t := (intOf_range t 0).1.trans (intOf_range t 0).2

/-- Integer to integer: the low bits, or the nearest of the range. -/
theorem cvtII_spec (src dst : Nat) (sat : Bool) (x : Nat) :
    let r := cvtII src dst sat x
    let i := intOf src x
    let n := intOf dst r.1
    r.1 < 2 ^ typeBits dst ∧
      (if sat then n = max (typeMin dst) (min (typeMax dst) i) ∧ r.2 = (if n = i then 0 else OF)
      else r.2 = 0 ∧ (2 : Int) ^ typeBits dst ∣ n - i) := by
  have range := typeMin_le_typeMax dst
  cases sat with
  | false => exact ⟨intBits_lt _ _, rfl, intOf_intBits_dvd _ _⟩
  | true =>
    have clamp : (if intOf src x < typeMin dst then typeMin dst else if typeMax dst < intOf src x then typeMax dst else intOf src x) =
        max (typeMin dst) (min (typeMax dst) (intOf src x)) := by
      split_ifs <;> omega
    simp only [cvtII, if_true, clamp]
    rw [intOf_intBits (le_max_left _ _) (max_le range (min_le_left _ _))]
    exact ⟨intBits_lt _ _, rfl, by simp [flagIf]⟩

end

/-! ### Formats of the types -/

theorem typeFmt_mem (t : Nat) : typeFmt t ∈ [f32, f16, bf16, e4m3, e5m2] := by
  unfold typeFmt
  split_ifs <;> simp

theorem typeFmt_sized (t : Nat) : (typeFmt t).Sized := sized_of_mem (typeFmt_mem t)

theorem num_of_decodeF {f : Fmt} (h : f.Sized) {x : Nat} {q : Int} (num : (decodeF f x).Num q) : x % f.signBit ≤ f.maxFin := by
  by_contra beyond
  rcases decodeF_of_lt h (Nat.lt_of_not_le beyond) with nan | inf
  · rw [isNan_of_num num] at nan; cases nan
  · rw [isInf_of_num num] at inf; cases inf

/-- A number of a format by its magnitude. -/
theorem real_of_num {f : Fmt} (h : f.Sized) {x : Nat} {q : Int} (num : (decodeF f x).Num q) :
    ∃ n, decodeF f x = .num n (f.digits (x % f.signBit)) (f.qmin + f.place (x % f.signBit)) ∧ x % f.signBit ≤ f.maxFin :=
  ⟨_, decodeF_of_le h (num_of_decodeF h num), num_of_decodeF h num⟩

/-- Every magnitude of one format is one of another. -/
structure Fmt.Within (f g : Fmt) : Prop where
  digits : f.mw ≤ g.mw
  least  : g.qmin ≤ f.qmin
  most   : f.mag f.maxFin * 2 ^ (f.qmin - g.qmin).toNat ≤ g.mag g.maxFin

theorem within_of_typeBits {src dst : Nat} (hs : 8 ≤ src ∧ src ≤ 12) (hd : 8 ≤ dst ∧ dst ≤ 12)
    (wider : typeBits src < typeBits dst) : (typeFmt src).Within (typeFmt dst) := by
  have table : ∀ s ∈ List.range' 8 5, ∀ d ∈ List.range' 8 5, typeBits s < typeBits d →
      (typeFmt s).mw ≤ (typeFmt d).mw ∧ (typeFmt d).qmin ≤ (typeFmt s).qmin ∧
      (typeFmt s).mag (typeFmt s).maxFin * 2 ^ ((typeFmt s).qmin - (typeFmt d).qmin).toNat ≤ (typeFmt d).mag (typeFmt d).maxFin := by
    decide +kernel
  obtain ⟨digits, least, most⟩ :=
    table src (List.mem_range'_1.2 ⟨hs.1, by omega⟩) dst (List.mem_range'_1.2 ⟨hd.1, by omega⟩) wider
  exact ⟨digits, least, most⟩

/-- A number of a format within another is the other's. -/
theorem exists_wider {f g : Fmt} (hg : g.Sized) (within : f.Within g) {a : Nat} (ha : a ≤ f.maxFin) :
    ∃ b, b ≤ g.maxFin ∧ g.val b = f.val a := by
  obtain ⟨b, value⟩ := exists_val hg (m := f.digits a) (e := f.qmin + f.place a)
    ((digits_lt a).trans_le (Nat.pow_le_pow_right (by omega) (by have := within.digits; omega))) (by have := within.least; omega)
  rw [← val_eq] at value
  refine ⟨b, (strictMono_val (f := g)).le_iff_le.1 ?_, value⟩
  have most : ((f.mag f.maxFin * 2 ^ (f.qmin - g.qmin).toNat : Nat) : ℝ) ≤ g.mag g.maxFin := by exact_mod_cast within.most
  have finer : f.val f.maxFin = (f.mag f.maxFin * 2 ^ (f.qmin - g.qmin).toNat : Nat) * 2 ^ g.qmin := by
    rw [Fmt.val, ← zpow_toNat within.least]; push_cast; ring
  calc g.val b = f.val a := value
    _ ≤ f.val f.maxFin := strictMono_val.monotone ha
    _ = _ := finer
    _ ≤ g.val g.maxFin := mul_le_mul_of_nonneg_right most (zpow_two_pos _).le

end Sys2Proof.Machine
end

section
/-! Conversions as numbers (R60, R96): the integer that a mode names, and what each pair of types gives. -/
namespace Sys2Proof.Machine

/-! ### The integer that a mode names (R57) -/

/-- A magnitude of V parts, u of them a whole, is rounded to k wholes. -/
structure WholeOf (rnd : Nat) (neg : Bool) (u V k : Nat) (inexact : Bool) : Prop where
  nearest : rnd = 0 → 2 * ((k * u : Nat) - (V : Int)).natAbs ≤ u ∧ (2 * ((k * u : Nat) - (V : Int)).natAbs = u → k % 2 = 0)
  toward  : rnd = 1 ∨ rnd = 2 ∧ neg = true ∨ rnd = 3 ∧ neg = false → k * u ≤ V ∧ V < k * u + u
  away    : rnd = 2 ∧ neg = false ∨ rnd = 3 ∧ neg = true → V ≤ k * u ∧ k * u < V + u
  exact   : inexact = false ↔ k * u = V

theorem wholeOf_of_roundsAt {rnd : Nat} {n : Bool} {u V L : Nat} {up inexact : Bool} (pos : 0 < u)
    (h : RoundsAt rnd n (u : ℝ) (V : ℝ) L up inexact) : WholeOf rnd n u V (L + up.toNat) inexact := by
  obtain ⟨low, high, exact, held, picks⟩ := h
  have next : (L + 1) * u = L * u + u := Nat.succ_mul ..
  have low : L * u ≤ V := by exact_mod_cast low
  have high : V < L * u + u := by rw [← next]; exact_mod_cast high
  have exact : inexact = false ↔ V = L * u := by rw [exact]; norm_cast
  rcases Nat.eq_or_lt_of_le low with same | more
  · obtain rfl : up = false := held (by exact_mod_cast same.symm)
    rw [Bool.toNat_false, Nat.add_zero]
    exact ⟨fun _ => by omega, fun _ => by omega, fun _ => by omega, by rw [exact]; omega⟩
  · obtain ⟨lower, upper, zero, above, below⟩ := picks (by exact_mod_cast more)
    cases up with
    | false =>
      rw [Bool.toNat_false, Nat.add_zero]
      refine ⟨fun hr => ?_, fun _ => by omega, fun hr => ?_, by rw [exact]; omega⟩
      · obtain ⟨near, tie⟩ := lower hr rfl
        have near : 2 * V ≤ L * u + (L + 1) * u := by exact_mod_cast near
        have tie : 2 * V = L * u + (L + 1) * u → L % 2 = 0 := fun h => tie (by exact_mod_cast h)
        rw [next] at near tie
        omega
      · rcases hr with ⟨hr, hn⟩ | ⟨hr, hn⟩
        · have := above hr; rw [hn] at this; cases this
        · have := below hr.ge; rw [hn] at this; cases this
    | true =>
      rw [Bool.toNat_true]
      refine ⟨fun hr => ?_, fun hr => ?_, fun _ => by omega, by rw [exact]; omega⟩
      · obtain ⟨near, tie⟩ := upper hr rfl
        have near : L * u + (L + 1) * u ≤ 2 * V := by exact_mod_cast near
        have tie : 2 * V = L * u + (L + 1) * u → (L + 1) % 2 = 0 := fun h => tie (by exact_mod_cast h)
        rw [next] at near tie ⊢
        omega
      · rcases hr with hr | ⟨hr, hn⟩ | ⟨hr, hn⟩
        · have := zero hr; cases this
        · have := above hr; rw [hn] at this; cases this
        · have := below hr.ge; rw [hn] at this; cases this

/-- A number with a sign. -/
def signed (n : Bool) (k : Nat) : Int := if n then -(k : Int) else k

theorem scaled_eq_signed (q : Int) (n : Bool) (m : Nat) (e : Int) : scaled q (.num n m e) = signed n (m * 2 ^ (e - q).toNat) := by
  cases n <;> simp [scaled, signed]

theorem integerOf_of_wholeOf {rnd : Nat} {n : Bool} {d V k : Nat} {inexact : Bool} (h : WholeOf rnd n (2 ^ d) V k inexact) :
    IntegerOf rnd d (signed n V) (signed n k) ∧ (inexact = false ↔ signed n k * 2 ^ d = signed n V) := by
  obtain ⟨nearest, toward, away, exact⟩ := h
  have unit : ((2 ^ d : Nat) : Int) = 2 ^ d := by push_cast; rfl
  have product : signed n k * (2 ^ d : Nat) = signed n (k * 2 ^ d) := by cases n <;> simp [signed]
  have side : 0 ≤ signed n k * signed n V := by
    have : signed n k * signed n V = (k * V : Nat) := by cases n <;> simp [signed]
    rw [this]; positivity
  have parity : signed n k % 2 = 0 ↔ k % 2 = 0 := by cases n <;> simp only [signed, Bool.false_eq_true, if_false, if_true] <;> omega
  unfold IntegerOf
  rw [← unit, product, parity, exact]
  generalize k * 2 ^ d = K at *
  generalize 2 ^ d = u at *
  cases n <;> simp only [signed, if_true, Bool.false_eq_true, if_false, and_true, and_false, or_false, false_or, reduceCtorEq] at * <;>
    exact ⟨⟨fun hr => by have := nearest hr; omega,
      fun hr => ⟨by have := toward (.inl hr); omega, by have := toward (.inl hr); omega, side⟩,
      fun hr => by omega, fun hr => by omega⟩, by omega⟩

theorem zpow_whole {e : Int} (he : 0 ≤ e) : (2 : ℝ) ^ e = (2 ^ e.toNat : Nat) := by
  rw [← zpow_toNat he]; simp

/-- What `roundAt` gives of a number at the units' place. -/
theorem integerOf_roundAt (rnd : Nat) (n : Bool) (m : Nat) {e q : Int} (he : q ≤ e) (hq : q ≤ 0) :
    let r := roundAt rnd n m e false 0
    let X := scaled q (.num n m e)
    IntegerOf rnd (-q).toNat X (signed n r.1) ∧ (r.2 = false ↔ signed n r.1 * 2 ^ (-q).toNat = X) := by
  obtain ⟨L, up, inexact, runs, rounds⟩ := roundAt_spec rnd n (m := m) (e := e) (st := false) (v := m * 2 ^ e) (q := 0) rfl (by simp)
  have unit : (2 : ℝ) ^ (0 : Int) * 2 ^ (-q) = (2 ^ (-q).toNat : Nat) := by
    rw [zpow_zero, one_mul, zpow_whole (by omega)]
  have value : (m : ℝ) * 2 ^ e * 2 ^ (-q) = (m * 2 ^ (e - q).toNat : Nat) := by
    rw [mul_assoc, ← zpow_add₀ two_ne_zero, ← sub_eq_add_neg, zpow_whole (by omega)]
    push_cast
    rfl
  have scale := rounds.scale (zpow_two_pos (-q))
  rw [unit, value] at scale
  simp only [runs, scaled_eq_signed]
  exact integerOf_of_wholeOf (wholeOf_of_roundsAt (Nat.two_pow_pos _) scale)

/-! ### Float to float (R60) -/

theorem cvtFF_num {src dst : Nat} (other : src ≠ dst) (rnd : Nat) (sat : Bool) {x : Nat} {n : Bool} {m : Nat} {e : Int}
    (value : decodeF (typeFmt src) x = .num n m e) :
    cvtFF src dst rnd sat x = roundF (typeFmt dst) rnd (sat && decide (typeBits dst ≤ typeBits src)) n m e false := by
  simp only [cvtFF, value, if_neg other, ne_eq, decide_eq_true other, Bool.and_true]
  rw [Bool.and_comm]

/-- To a wider type a conversion is exact. -/
theorem roundF_wider {src dst : Nat} (hs : 8 ≤ src ∧ src ≤ 12) (hd : 8 ≤ dst ∧ dst ≤ 12) (wider : typeBits src < typeBits dst)
    (rnd : Nat) (sat : Bool) {x : Nat} {n : Bool} {m : Nat} {e q : Int} (value : decodeF (typeFmt src) x = .num n m e) (he : q ≤ e)
    (hq : q ≤ (typeFmt dst).qmin) :
    let r := roundF (typeFmt dst) rnd sat n m e false
    r.2 = 0 ∧ (typeFmt dst).units q r.1 = scaled q (.num n m e) := by
  have sized := typeFmt_sized dst
  obtain ⟨n', number, range⟩ := real_of_num (typeFmt_sized src) (q := q) (x := x) (by rw [value]; exact he)
  rw [value] at number
  cases number
  obtain ⟨b, hb, same⟩ := exists_wider sized (within_of_typeBits hs hd wider) range
  have result := roundF_of_val sized rnd sat n hb ((val_eq _).symm.trans same.symm)
  simp only [result, true_and]
  rw [← mul_unit_inj (zpow_two_pos q), units_mul_zpow sized (finite_pattern sized hb) hq, real_pattern sized hb,
    scaled_mul_zpow (show (FVal.num n _ _).Num q from he), same, val_eq, FVal.real]

/-! ### Float to integer (R60) -/

theorem log2_digits_lt {f : Fmt} (a : Nat) : Nat.log2 (f.digits a) < f.mw + 1 := by
  rcases Nat.eq_zero_or_pos (f.digits a) with zero | pos
  · rw [zero, Nat.log2_zero]; omega
  · exact (Nat.log2_lt pos.ne').2 (digits_lt a)

theorem typeFmt_mw_le (t : Nat) : (typeFmt t).mw ≤ 23 := by
  have := typeFmt_mem t
  generalize typeFmt t = f at *
  fin_cases this <;> decide

theorem type_bounds (t : Nat) : -2 ^ 100 < typeMin t ∧ typeMin t ≤ 0 ∧ 0 ≤ typeMax t ∧ typeMax t < 2 ^ 100 := by
  have width : typeBits t ≤ 64 := by unfold typeBits; split_ifs <;> decide
  have power (k : Nat) (hk : k ≤ 64) : 0 < (2 : Int) ^ k ∧ (2 : Int) ^ k < 2 ^ 100 :=
    ⟨by positivity, pow_lt_pow_right₀ (by decide) (by omega)⟩
  have := power (typeBits t) width
  have := power (typeBits t - 1) (by omega)
  unfold typeMin typeMax
  split_ifs <;> omega

/-- A magnitude of 2^100 or more lies beyond every integer type. -/
theorem two_pow_le_roundAt (rnd : Nat) (n : Bool) {m : Nat} {e : Int} (pos : 0 < m) (width : Nat.log2 m < 24) (big : 100 < e + Nat.log2 m) :
    2 ^ 100 ≤ (roundAt rnd n m e false 0).1 := by
  rw [roundAt_of_le rnd n m false (by omega)]
  calc 2 ^ 100 ≤ 2 ^ (Nat.log2 m + (e - 0).toNat) := Nat.pow_le_pow_right (by omega) (by omega)
    _ = 2 ^ Nat.log2 m * 2 ^ (e - 0).toNat := pow_add ..
    _ ≤ m * 2 ^ (e - 0).toNat := Nat.mul_le_mul_right _ (Nat.log2_self_le pos.ne')

theorem cvtFI_num (src dst rnd : Nat) {x : Nat} {n : Bool} {m : Nat} {e : Int} (value : decodeF (typeFmt src) x = .num n m e)
    (width : Nat.log2 m < 24) :
    let r := cvtFI src dst rnd x
    let at_ := roundAt rnd n m e false 0
    let k := signed n at_.1
    r.1 < 2 ^ typeBits dst ∧
      (if k < typeMin dst then intOf dst r.1 = typeMin dst ∧ r.2 = NV
      else if typeMax dst < k then intOf dst r.1 = typeMax dst ∧ r.2 = NV
      else intOf dst r.1 = k ∧ r.2 = flagIf at_.2 NX) := by
  obtain ⟨low, least, most, high⟩ := type_bounds dst
  have range := typeMin_le_typeMax dst
  have atMin := intOf_intBits (le_refl (typeMin dst)) range
  have atMax := intOf_intBits range (le_refl (typeMax dst))
  have sign (j : Nat) : (if n then -(j : Int) else j) = signed n j := rfl
  by_cases big : 0 < m ∧ 100 < e + Nat.log2 m
  · have beyond := two_pow_le_roundAt rnd n big.1 width big.2
    have beyond : (2 : Int) ^ 100 ≤ (roundAt rnd n m e false 0).1 := by exact_mod_cast beyond
    simp only [cvtFI, value, big, decide_true, Bool.and_self, if_true]
    refine ⟨intBits_lt _ _, ?_⟩
    cases n with
    | false =>
      simp only [signed, Bool.false_eq_true, if_false]
      rw [if_neg (by omega), if_pos (by omega)]
      exact ⟨atMax, trivial⟩
    | true =>
      simp only [signed, if_true]
      rw [if_pos (by omega)]
      exact ⟨atMin, trivial⟩
  · have small : (decide (0 < m) && decide (100 < e + (Nat.log2 m : Int))) = false := by simpa using big
    simp only [cvtFI, value, small, Bool.false_eq_true, if_false, sign]
    split_ifs with below above
    · exact ⟨intBits_lt _ _, atMin, rfl⟩
    · exact ⟨intBits_lt _ _, atMax, rfl⟩
    · exact ⟨intBits_lt _ _, intOf_intBits (by omega) (by omega), rfl⟩

/-! ### Integral rounding (R96) -/

theorem decodeF_mod {f : Fmt} (h : f.Sized) {x : Nat} (finite : x % f.signBit ≤ f.maxFin) :
    decodeF f (x % 2 ^ f.width) = decodeF f x := by
  have fields : x % 2 ^ f.width % f.signBit = x % f.signBit := Nat.mod_mod_of_dvd x (by rw [two_pow_width]; exact Dvd.intro_left _ rfl)
  have sign : (x % 2 ^ f.width).testBit (f.ew + f.mw) = x.testBit (f.ew + f.mw) := by
    rw [Nat.testBit_mod_two_pow, decide_eq_true (by rw [Fmt.width]; omega), Bool.true_and]
  rw [decodeF_of_le h finite, decodeF_of_le h (by rwa [fields]), fields, sign]

/-- The integers that a format's significand holds are all values of it. -/
theorem exists_integer {f : Fmt} (known : f ∈ [f32, f16, bf16, e4m3, e5m2]) {k : Nat} (small : k ≤ 2 ^ f.mw) :
    ∃ a, a ≤ f.maxFin ∧ f.val a = k * 2 ^ (0 : Int) := by
  have facts : f.qmin ≤ 0 ∧ 2 ^ f.mw * 2 ^ (0 - f.qmin).toNat ≤ f.mag f.maxFin := by
    fin_cases known <;> exact ⟨by decide, by decide +kernel⟩
  obtain ⟨least, room⟩ := facts
  obtain ⟨a, value⟩ := exists_val (sized_of_mem known) (m := k) (e := 0)
    (small.trans_lt (Nat.pow_lt_pow_right (by omega) (by omega))) least
  refine ⟨a, (strictMono_val (f := f)).le_iff_le.1 ?_, value⟩
  have small : (k : ℝ) ≤ (2 ^ f.mw : Nat) := by exact_mod_cast small
  have room : ((2 ^ f.mw * 2 ^ (0 - f.qmin).toNat : Nat) : ℝ) ≤ f.mag f.maxFin := by exact_mod_cast room
  calc f.val a = k * 2 ^ (0 : Int) := value
    _ ≤ (2 ^ f.mw : Nat) * 2 ^ (0 : Int) := mul_le_mul_of_nonneg_right small (zpow_two_pos 0).le
    _ = (2 ^ f.mw * 2 ^ (0 - f.qmin).toNat : Nat) * 2 ^ f.qmin := by rw [← zpow_toNat least]; push_cast; ring
    _ ≤ f.val f.maxFin := mul_le_mul_of_nonneg_right room (zpow_two_pos _).le

/-- FRND gives the integer that the mode names. -/
theorem frndF_num {f : Fmt} (known : f ∈ [f32, f16, bf16, e4m3, e5m2]) (rnd : Nat) {x : Nat} {n : Bool} {m : Nat} {e q : Int}
    (value : decodeF f x = .num n m e) (he : q ≤ e) (hq : q ≤ 0) :
    let k := signed n (roundAt rnd n m e false 0).1
    (frndF f rnd x).2 = 0 ∧ (q ≤ f.qmin → k.natAbs ≤ 2 ^ f.mw → f.units q (frndF f rnd x).1 = k * 2 ^ (-q).toNat) := by
  have sized := sized_of_mem known
  have num : (decodeF f x).Num q := by rw [value]; exact he
  by_cases whole : m = 0 ∨ 0 ≤ e
  · have exact : (roundAt rnd n m e false 0).2 = false := by
      rcases Int.lt_or_le e 0 with below | above
      · obtain rfl := whole.resolve_right (by omega)
        simp [roundAt_of_lt rnd n 0 false below, shiftOut]
      · rw [roundAt_of_le rnd n m false above]
    have same := (integerOf_roundAt rnd n m he hq).2.1 exact
    have result : frndF f rnd x = (x % 2 ^ f.width, 0) := by simp [frndF, value, whole]
    rw [result]
    refine ⟨rfl, fun _ _ => ?_⟩
    rw [same, Fmt.units, decodeF_mod sized (num_of_decodeF sized num), value]
  · have result : frndF f rnd x = ((roundF f 0 false n (roundAt rnd n m e false 0).1 0 false).1, 0) := by
      simp only [frndF, value]
      rw [if_neg (by simpa using whole)]
    rw [result]
    refine ⟨rfl, fun least small => ?_⟩
    obtain ⟨a, ha, same⟩ := exists_integer known (k := (roundAt rnd n m e false 0).1) (by cases n <;> simpa [signed] using small)
    generalize (roundAt rnd n m e false 0).1 = k at *
    rw [roundF_of_val sized 0 false n ha same.symm, ← mul_unit_inj (zpow_two_pos q), units_mul_zpow sized (finite_pattern sized ha) least,
      real_pattern sized ha, same]
    have unit := zpow_toNat (show q ≤ 0 from hq)
    rw [zero_sub, zpow_zero] at unit
    push_cast
    rw [mul_assoc, unit, zpow_zero]
    cases n <;> simp [signOf, signed]

/-! ### The statement -/

theorem cvtBits_FF {src dst : Nat} (hs : 8 ≤ src) (hd : 8 ≤ dst) (rnd : Nat) (sat : Bool) (x : Nat) :
    cvtBits src dst rnd sat x = cvtFF src dst rnd sat x := by simp [cvtBits, typeFloat, hs, hd]
theorem cvtBits_FI {src dst : Nat} (hs : 8 ≤ src) (hd : dst < 8) (rnd : Nat) (sat : Bool) (x : Nat) :
    cvtBits src dst rnd sat x = cvtFI src dst rnd x := by simp [cvtBits, typeFloat, hs, Nat.not_le.2 hd]
theorem cvtBits_IF {src dst : Nat} (hs : src < 8) (hd : 8 ≤ dst) (rnd : Nat) (sat : Bool) (x : Nat) :
    cvtBits src dst rnd sat x = cvtIF src dst rnd sat x := by simp [cvtBits, typeFloat, Nat.not_le.2 hs, hd]
theorem cvtBits_II {src dst : Nat} (hs : src < 8) (hd : dst < 8) (rnd : Nat) (sat : Bool) (x : Nat) :
    cvtBits src dst rnd sat x = cvtII src dst sat x := by simp [cvtBits, typeFloat, Nat.not_le.2 hs, Nat.not_le.2 hd]

theorem conversionsAsNumbers : ConversionsAsNumbers := by
  intro src dst rnd sat x q hsrc hdst modes r v i n
  refine ⟨fun hs hd other num least => ?_, fun hs hd num hq => ?_, fun hs num hq => ?_, fun _ => ⟨intOf_dvd src x, intOf_range src x⟩,
    fun hs hd hq least => ?_, fun hs hd => ?_⟩
  · cases value : v with
    | num s m e =>
      rw [value] at num
      have result : r = roundF (typeFmt dst) rnd (sat && decide (typeBits dst ≤ typeBits src)) s m e false :=
        (cvtBits_FF hs hd rnd sat x).trans (cvtFF_num other rnd sat value)
      rw [result]
      exact ⟨rounds_roundF (typeFmt_sized dst) modes _ s m least num,
        fun wider => roundF_wider ⟨hs, hsrc⟩ ⟨hd, hdst⟩ wider rnd _ value num least⟩
    | _ => rw [value] at num; exact num.elim
  · cases value : v with
    | num s m e =>
      rw [value] at num
      obtain ⟨n', number, -⟩ := real_of_num (typeFmt_sized src) (q := q) (x := x) (by rw [show decodeF _ x = _ from value]; exact num)
      have width : Nat.log2 m < 24 := by
        rw [show decodeF _ x = _ from value] at number
        cases number
        have := typeFmt_mw_le src
        exact (log2_digits_lt _).trans_le (by omega)
      obtain ⟨integer, exact⟩ := integerOf_roundAt rnd s m num hq
      obtain ⟨bound, cases⟩ := cvtFI_num src dst rnd value width
      refine ⟨_, integer, ?_⟩
      simp only [n, r, cvtBits_FI hs hd]
      have flags : flagIf (roundAt rnd s m e false 0).2 NX =
          if signed s (roundAt rnd s m e false 0).1 * 2 ^ (-q).toNat = scaled q (.num s m e) then 0 else NX := by
        rw [flagIf, ← ite_not]
        exact if_congr (by rw [← exact, Bool.not_eq_true]) rfl rfl
      rw [flags] at cases
      exact ⟨bound, cases⟩
    | _ => rw [value] at num; exact num.elim
  · cases value : v with
    | num s m e =>
      rw [value] at num
      exact ⟨_, (integerOf_roundAt rnd s m num hq).1, frndF_num (typeFmt_mem src) rnd value num hq⟩
    | _ => rw [value] at num; exact num.elim
  · have result : r = cvtIF src dst rnd sat x := cvtBits_IF hs hd rnd sat x
    have value : scaled q (.num (decide (i < 0)) i.natAbs 0) = i * 2 ^ (-q).toNat := by
      rw [scaled_finer hq (show (FVal.num (decide (i < 0)) i.natAbs 0).Num 0 from Int.le_refl 0), scaled_integer, Int.zero_sub]
    rw [result, ← value]
    exact rounds_roundF (typeFmt_sized dst) modes sat _ _ least hq
  · simp only [n, r, cvtBits_II hs hd]
    exact cvtII_spec src dst sat x

end Sys2Proof.Machine
end

section
/-! Quotients and roots (R69, R101): what is rounded is the exact value. -/
namespace Sys2Proof.Machine

/-! ### Quotients -/

/-- A quotient of whole numbers, with its remainder as the sticky bit. -/
theorem encloses_quotient (N : Nat) {D : Nat} (pos : 0 < D) (e : Int) :
    Encloses (N / D) e (decide (N % D ≠ 0)) ((N : ℝ) / D * 2 ^ e) := by
  have unit := zpow_two_pos e
  have positive : (0 : ℝ) < D := by exact_mod_cast pos
  have split : (N : ℝ) = D * (N / D : Nat) + (N % D : Nat) := by exact_mod_cast (Nat.div_add_mod N D).symm
  unfold Encloses
  by_cases exact : N % D = 0
  · rw [exact, Nat.cast_zero, add_zero] at split
    simp only [exact, ne_eq, not_true_eq_false, decide_false, Bool.false_eq_true, if_false]
    rw [split, mul_div_cancel_left₀ _ positive.ne']
  · have rest : (0 : ℝ) < (N % D : Nat) := by exact_mod_cast Nat.pos_of_ne_zero exact
    have bound : ((N % D : Nat) : ℝ) < D := by exact_mod_cast Nat.mod_lt N pos
    simp only [exact, ne_eq, not_false_eq_true, decide_true, if_true]
    rw [mul_lt_mul_iff_left₀ unit, mul_lt_mul_iff_left₀ unit, lt_div_iff₀ positive, div_lt_iff₀ positive]
    constructor <;> linarith

theorem quotF_roundsTo {f : Fmt} (h : f.Sized) (s : Bool) {m m' : Nat} (e e' : Int) (pos : 0 < m) (pos' : 0 < m') :
    f.RoundsTo 0 false s (signOf s * (m / m' * 2 ^ (e - e'))) (quotF f s m e m' e') := by
  have value : (m : ℝ) / m' * 2 ^ (e - e') =
      ((m * 2 ^ (f.mw + 4 + Nat.log2 m') : Nat) : ℝ) / m' * 2 ^ (e - e' - (f.mw + 4 + Nat.log2 m' : Nat)) := by
    rw [zpow_sub₀ two_ne_zero (e - e'), zpow_natCast]
    push_cast
    field_simp
  have wide : 2 ^ (f.mw + 1) ≤ m * 2 ^ (f.mw + 4 + Nat.log2 m') / m' := by
    rw [Nat.le_div_iff_mul_le pos']
    calc 2 ^ (f.mw + 1) * m' ≤ 2 ^ (f.mw + 1) * 2 ^ (Nat.log2 m' + 1) := Nat.mul_le_mul_left _ Nat.lt_log2_self.le
      _ = 2 ^ (f.mw + 1 + (Nat.log2 m' + 1)) := (pow_add ..).symm
      _ ≤ 2 ^ (f.mw + 4 + Nat.log2 m') := Nat.pow_le_pow_right (by omega) (by omega)
      _ ≤ m * 2 ^ (f.mw + 4 + Nat.log2 m') := Nat.le_mul_of_pos_left _ pos
  have positive : (0 : ℝ) < m / m' * 2 ^ (e - e') :=
    mul_pos (div_pos (by exact_mod_cast pos) (by exact_mod_cast pos')) (zpow_two_pos _)
  refine roundF_roundsTo h (by omega) false s positive ?_ (fun _ => wide)
  rw [value]
  exact_mod_cast encloses_quotient _ pos' _

/-- No finite pattern is nearer to b / c units of 2^d, compared in whole units. -/
def NearestQuotient (f : Fmt) (r : FRes) (d b c : Int) : Prop :=
  r.2 &&& OF = 0 →
    f.Finite r.1 ∧ (r.2 &&& NX = 0 ↔ f.units d r.1 * c = b) ∧ ∀ z, f.Finite z →
      (f.units d r.1 * c - b).natAbs ≤ (f.units d z * c - b).natAbs ∧
      ((f.units d r.1 * c - b).natAbs = (f.units d z * c - b).natAbs → f.units d z = f.units d r.1 ∨ r.1 % 2 = 0)

theorem nearestQuotient_of_roundsTo {f : Fmt} (h : f.Sized) {neg : Bool} {x : ℝ} {r : FRes} (rounds : f.RoundsTo 0 false neg x r)
    {d b c : Int} (hd : d ≤ f.qmin) (nonzero : c ≠ 0) (value : x * c = b * 2 ^ d) : NearestQuotient f r d b c := by
  intro inRange
  obtain ⟨-, near⟩ | ⟨overflow, -⟩ := rounds
  case inr => exact absurd inRange overflow
  have hu := zpow_two_pos d
  have real (y : Nat) (hy : f.Finite y) : f.real y = f.units d y * 2 ^ d := (units_mul_zpow h hy hd).symm
  have size : (0 : ℝ) < |(c : ℝ)| := abs_pos.2 (by exact_mod_cast nonzero)
  have gap (y : Nat) (hy : f.Finite y) : |f.real y - x| * |(c : ℝ)| = |((f.units d y * c - b : Int) : ℝ) * 2 ^ d| := by
    rw [← abs_mul, sub_mul, value, real y hy]
    congr 1
    push_cast
    ring
  refine ⟨near.finite, ?_, fun z hz => ?_⟩
  · rw [near.exact, ← mul_left_inj' (show (c : ℝ) ≠ 0 by exact_mod_cast nonzero), value, real _ near.finite, ← mul_unit_inj hu]
    push_cast
    rw [mul_right_comm]
  · obtain ⟨le, tie⟩ := near.nearest rfl z hz
    rw [← mul_le_mul_iff_left₀ size, gap _ near.finite, gap z hz, abs_mul_unit_le hu] at le
    rw [← mul_left_inj' size.ne', gap _ near.finite, gap z hz, abs_mul_unit_inj hu, real z hz, real _ near.finite, mul_unit_inj hu] at tie
    exact ⟨le, tie⟩

theorem signOf_bne_mul (n n' : Bool) : signOf (n != n') * signOf n' = signOf n := by
  cases n <;> cases n' <;> simp [signOf]

theorem pos_of_isZero {n : Bool} {m : Nat} {e : Int} (h : (FVal.num n m e).isZero = false) : 0 < m :=
  Nat.pos_of_ne_zero (of_decide_eq_false h)

theorem scaled_ne_zero {q : Int} {v : FVal} (num : v.Num q) (h : v.isZero = false) : scaled q v ≠ 0 := by
  cases v with
  | num n m e =>
    have := Nat.mul_pos (pos_of_isZero h) (Nat.two_pow_pos (e - q).toNat)
    simp only [scaled]
    generalize m * 2 ^ (e - q).toNat = j at *
    cases n <;> simp <;> omega
  | _ => exact num.elim

theorem fdivF_nearest {f : Fmt} (h : f.Sized) {x y : Nat} {p q : Int} (hx : (decodeF f x).Num p) (hy : (decodeF f y).Num q)
    (nonzero : (decodeF f y).isZero = false) (least : p - q ≤ f.qmin) :
    NearestQuotient f (fdivF f x y) (p - q) (scaled p (decodeF f x)) (scaled q (decodeF f y)) := by
  have divisor := scaled_ne_zero hy nonzero
  have b := scaled_mul_zpow hx
  have c := scaled_mul_zpow hy
  cases u : decodeF f x with
  | num n m e =>
    cases v : decodeF f y with
    | num n' m' e' =>
      rw [u] at b; rw [v] at c nonzero divisor
      have pos' := pos_of_isZero nonzero
      have unit : (2 : ℝ) ^ (p - q) = 2 ^ p / 2 ^ q := zpow_sub₀ two_ne_zero p q
      have hq := (zpow_two_pos q).ne'
      rcases Nat.eq_zero_or_pos m with rfl | pos
      · have result : fdivF f x y = (f.zero (n != n'), 0) := by
          simp [fdivF, u, v, FVal.isSig, FVal.isNan, FVal.neg, pos'.ne']
        rw [result]
        refine nearestQuotient_of_roundsTo h (zero_roundsTo h 0 false (n != n')) least divisor ?_
        simp [scaled]
      · have result : fdivF f x y = quotF f (n != n') m e m' e' := by
          simp [fdivF, u, v, FVal.isSig, FVal.isNan, FVal.neg, pos.ne', pos'.ne']
        rw [result]
        refine nearestQuotient_of_roundsTo h (quotF_roundsTo h (n != n') e e' pos pos') least divisor ?_
        have pos' : (m' : ℝ) ≠ 0 := by exact_mod_cast pos'.ne'
        rw [unit, mul_div_assoc', b, eq_div_iff hq, mul_assoc, c, FVal.real, FVal.real, zpow_sub₀ two_ne_zero, ← signOf_bne_mul n n']
        have := (zpow_two_pos e').ne'
        field_simp
    | _ => rw [v] at hy; exact hy.elim
  | _ => rw [u] at hx; exact hx.elim

theorem frcpF_nearest {f : Fmt} (h : f.Sized) {y : Nat} {q : Int} {k : Nat} (hy : (decodeF f y).Num q)
    (nonzero : (decodeF f y).isZero = false) (least : -q - k ≤ f.qmin) :
    NearestQuotient f (frcpF f y) (-q - k) (2 ^ k) (scaled q (decodeF f y)) := by
  have divisor := scaled_ne_zero hy nonzero
  have c := scaled_mul_zpow hy
  cases v : decodeF f y with
  | num n m e =>
    rw [v] at c nonzero divisor
    have pos := pos_of_isZero nonzero
    have result : frcpF f y = quotF f n 1 0 m e := by simp [frcpF, v, pos.ne']
    rw [result]
    refine nearestQuotient_of_roundsTo h (quotF_roundsTo h n 0 e Nat.one_pos pos) least divisor ?_
    have pos : (m : ℝ) ≠ 0 := by exact_mod_cast pos.ne'
    have hq := (zpow_two_pos q).ne'
    have he := (zpow_two_pos e).ne'
    have unit : ((2 ^ k : Int) : ℝ) * 2 ^ (-q - k : Int) = 1 / 2 ^ q := by
      rw [zpow_sub₀ two_ne_zero, zpow_neg, zpow_natCast]
      push_cast
      field_simp
    have sign : signOf n * signOf n = 1 := by cases n <;> simp [signOf]
    rw [unit, eq_div_iff hq, mul_assoc, c, FVal.real, zero_sub, zpow_neg]
    push_cast
    field_simp
    rw [sq, sign]
  | _ => rw [v] at hy; exact hy.elim

end Sys2Proof.Machine
end

section
/-! Roots (R69, R101): the integer root, and why no finite pattern is nearer to the exact one. -/
namespace Sys2Proof.Machine

/-! ### The integer root -/

theorem rootFrom_spec (n b r : Nat) (low : r * r ≤ n) (high : n < (r + 2 ^ b) * (r + 2 ^ b)) :
    rootFrom n b r * rootFrom n b r ≤ n ∧ n < (rootFrom n b r + 1) * (rootFrom n b r + 1) := by
  induction b generalizing r with
  | zero => exact ⟨low, high⟩
  | succ b ih =>
    rw [rootFrom]
    split_ifs with taken
    · exact ih _ taken (by rwa [Nat.add_assoc, ← Nat.two_mul, ← pow_succ'])
    · exact ih _ low (Nat.lt_of_not_le taken)

theorem isqrt_spec (n : Nat) : isqrt n * isqrt n ≤ n ∧ n < (isqrt n + 1) * (isqrt n + 1) := by
  refine rootFrom_spec n _ 0 (Nat.zero_le _) ?_
  rw [Nat.zero_add, ← pow_add]
  exact Nat.lt_log2_self.trans_le (Nat.pow_le_pow_right (by omega) (by omega))

theorem le_isqrt {n k : Nat} (h : k * k ≤ n) : k ≤ isqrt n := by
  by_contra less
  have := (isqrt_spec n).2
  have := Nat.mul_self_le_mul_self (show isqrt n + 1 ≤ k by omega)
  omega

/-- A root between a whole number and the next. -/
theorem encloses_sqrt {t : ℝ} {r : Nat} {st : Bool} (low : (r : ℝ) ^ 2 ≤ t) (high : t < ((r : ℝ) + 1) ^ 2)
    (sticky : st = false ↔ (r : ℝ) ^ 2 = t) (e : Int) : Encloses r e st (√t * 2 ^ e) := by
  have unit := zpow_two_pos e
  have nonneg : (0 : ℝ) ≤ r := Nat.cast_nonneg r
  unfold Encloses
  cases st with
  | false => rw [if_neg Bool.false_ne_true, ← sticky.1 rfl, Real.sqrt_sq nonneg]
  | true =>
    have strict : (r : ℝ) ^ 2 < t := lt_of_le_of_ne low (fun h => by have := sticky.2 h; cases this)
    rw [if_pos rfl, mul_lt_mul_iff_left₀ unit, mul_lt_mul_iff_left₀ unit, Real.lt_sqrt nonneg, Real.sqrt_lt' (by linarith)]
    exact ⟨strict, high⟩

/-- The exponent is made even, the number kept. -/
theorem evenExp_spec (m : Nat) (e : Int) :
    ∃ w : Int, (evenExp m e).2 / 2 = w ∧ ((evenExp m e).1 : ℝ) * (2 ^ w) ^ 2 = m * 2 ^ e ∧ m ≤ (evenExp m e).1 := by
  have square (w : Int) : ((2 : ℝ) ^ w) ^ 2 = 2 ^ (2 * w) := by rw [← zpow_natCast, ← zpow_mul, mul_comm]; rfl
  unfold evenExp
  split_ifs with even
  · refine ⟨e / 2, rfl, ?_, le_refl m⟩
    rw [square, show 2 * (e / 2) = e by omega]
  · refine ⟨(e - 1) / 2, rfl, ?_, by simp; omega⟩
    rw [square, show 2 * ((e - 1) / 2) = e - 1 by omega, zpow_sub_one₀ two_ne_zero]
    push_cast
    ring

/-! ### The nearest pattern -/

/-- No finite pattern is nearer to the root of b / c, compared by the squares of the middles in whole units. -/
def NearestRoot (f : Fmt) (r : FRes) (d b c : Int) : Prop :=
  r.2 &&& OF = 0 ∧ f.Finite r.1 ∧ 0 ≤ f.units d r.1 ∧
    (r.2 &&& NX = 0 ↔ f.units d r.1 ^ 2 * c = b) ∧ ∀ z, f.Finite z → 0 ≤ f.units d z → z ≠ r.1 →
      let m := (f.units d z + f.units d r.1) ^ 2 * c
      (f.units d r.1 < f.units d z → 4 * b ≤ m) ∧ (f.units d z < f.units d r.1 → m ≤ 4 * b) ∧ (m = 4 * b → r.1 % 2 = 0)

/-- A positive number has one pattern. -/
theorem eq_of_real_eq {f : Fmt} (h : f.Sized) {y z : Nat} (hy : f.Finite y) (hz : f.Finite z) (pos : 0 < f.real y)
    (same : f.real y = f.real z) : y = z := by
  have positive {x : Nat} (hx : f.Finite x) (pos : 0 < f.real x) : ∃ a, x = f.pattern false a ∧ f.real x = f.val a := by
    obtain ⟨s, a, ha, rfl⟩ := exists_pattern h hx
    rw [real_pattern h ha] at pos ⊢
    cases s with
    | false => exact ⟨a, rfl, by simp [signOf]⟩
    | true => have := val_nonneg (f := f) a; simp only [signOf, if_true] at pos; linarith
  obtain ⟨a, rfl, ha⟩ := positive hy pos
  obtain ⟨b, rfl, hb⟩ := positive hz (same ▸ pos)
  rw [strictMono_val.injective (ha.symm.trans (same.trans hb))]

theorem nearestRoot_of_roundsTo {f : Fmt} (h : f.Sized) {x : ℝ} {r : FRes} (rounds : f.RoundsTo 0 false false x r) (pos : 0 < x)
    (inRange : x ≤ f.val f.maxFin) {d b c : Int} (hd : d ≤ f.qmin) (positive : 0 < c) (value : x ^ 2 * c = b * (2 ^ d) ^ 2) :
    NearestRoot f r d b c := by
  obtain ⟨none, near⟩ | ⟨-, beyond, -⟩ := rounds
  case inr => rw [abs_of_pos pos] at beyond; exact absurd beyond (not_lt.2 inRange)
  have hu := zpow_two_pos d
  have hc : (0 : ℝ) < c := by exact_mod_cast positive
  have real (y : Nat) (hy : f.Finite y) : f.real y = f.units d y * 2 ^ d := (units_mul_zpow h hy hd).symm
  have square (k : Int) : ((k ^ 2 * c : Int) : ℝ) * (2 ^ d) ^ 2 = (k * 2 ^ d) ^ 2 * c := by push_cast; ring
  have nonneg : 0 ≤ f.real r.1 := by
    have := (near.nearest rfl (f.pattern false 0) (finite_pattern h (Nat.zero_le _))).1
    rw [real_pattern h (Nat.zero_le _), val_zero, mul_zero, zero_sub, abs_neg, abs_of_pos pos] at this
    have := (abs_le.1 this).1
    linarith
  have result := real _ near.finite
  have whole {k : Int} (hk : 0 ≤ (k : ℝ) * 2 ^ d) : 0 ≤ k := by exact_mod_cast (mul_nonneg_iff_of_pos_right hu).1 hk
  refine ⟨none, near.finite, whole (result ▸ nonneg), ?_, fun z hz hz0 other => ?_⟩
  · rw [near.exact, result, ← mul_unit_inj (sq_pos_of_pos hu), square, ← value, mul_left_inj' hc.ne',
      sq_eq_sq₀ (result ▸ nonneg) pos.le]
  · obtain ⟨le, tie⟩ := near.nearest rfl z hz
    have least : 0 ≤ f.real z := by rw [real z hz]; exact mul_nonneg (by exact_mod_cast hz0) hu.le
    have middle : (((f.units d z + f.units d r.1) ^ 2 * c : Int) : ℝ) * (2 ^ d) ^ 2 = (f.real z + f.real r.1) ^ 2 * c := by
      rw [square, real z hz, result]; push_cast; ring
    have exact : ((4 * b : Int) : ℝ) * (2 ^ d) ^ 2 = (2 * x) ^ 2 * c := by
      push_cast; rw [mul_assoc, ← value]; ring
    have sum : 0 ≤ f.real z + f.real r.1 := add_nonneg least nonneg
    have twice : 0 ≤ 2 * x := by linarith
    have order : f.units d r.1 < f.units d z ↔ f.real r.1 < f.real z := by
      rw [result, real z hz, mul_lt_mul_iff_left₀ hu, Int.cast_lt]
    have order' : f.units d z < f.units d r.1 ↔ f.real z < f.real r.1 := by
      rw [result, real z hz, mul_lt_mul_iff_left₀ hu, Int.cast_lt]
    simp only [← mul_unit_le (sq_pos_of_pos hu), ← mul_unit_inj (sq_pos_of_pos hu), middle, exact, order, order',
      mul_le_mul_iff_left₀ hc, mul_left_inj' hc.ne', sq_le_sq₀ sum twice, sq_le_sq₀ twice sum, sq_eq_sq₀ sum twice]
    have product : 0 ≤ (f.real z - f.real r.1) * (f.real z + f.real r.1 - 2 * x) := by
      have := sq_le_sq.2 le
      linarith [show (f.real z - f.real r.1) * (f.real z + f.real r.1 - 2 * x) = (f.real z - x) ^ 2 - (f.real r.1 - x) ^ 2 by ring]
    refine ⟨fun less => ?_, fun more => ?_, fun mid => ?_⟩
    · exact sub_nonneg.1 (nonneg_of_mul_nonneg_right product (sub_pos.2 less))
    · exact sub_nonpos.1 (nonpos_of_mul_nonneg_right product (sub_neg.2 more))
    · refine (tie ?_).resolve_left (fun same => other ?_)
      · rw [show f.real r.1 - x = -(f.real z - x) by linarith, abs_neg]
      · exact eq_of_real_eq h hz near.finite (by linarith) same

/-! ### Roots and their reciprocals -/

theorem one_le_maxFin {f : Fmt} (known : f ∈ [f32, f16, bf16, e4m3, e5m2]) : 1 ≤ f.val f.maxFin := by
  obtain ⟨a, ha, one⟩ := exists_integer known (Nat.one_le_two_pow)
  rw [zpow_zero, Nat.cast_one, one_mul] at one
  exact one ▸ strictMono_val.monotone ha

/-- The number of a pattern is finite. -/
theorem value_le_maxFin {f : Fmt} (h : f.Sized) {x : Nat} {n : Bool} {m : Nat} {e : Int} (value : decodeF f x = .num n m e) :
    (m : ℝ) * 2 ^ e ≤ f.val f.maxFin ∧ f.qmin ≤ e := by
  obtain ⟨n', number, range⟩ := real_of_num h (q := e) (x := x) (by rw [value]; exact le_refl e)
  rw [value] at number
  cases number
  rw [← val_eq]
  exact ⟨strictMono_val.monotone range, by omega⟩

/-- A root with its sticky bit, rounded. -/
theorem nearestRoot_roundF {f : Fmt} (h : f.Sized) {t : ℝ} {r : Nat} {st : Bool} (low : (r : ℝ) ^ 2 ≤ t)
    (high : t < ((r : ℝ) + 1) ^ 2) (sticky : st = false ↔ (r : ℝ) ^ 2 = t) (wide : 2 ^ (f.mw + 1) ≤ r) {e d b c : Int}
    (inRange : t * (2 ^ e) ^ 2 ≤ f.val f.maxFin ^ 2) (hd : d ≤ f.qmin) (positive : 0 < c)
    (value : t * (2 ^ e) ^ 2 * c = b * (2 ^ d) ^ 2) :
    NearestRoot f (roundF f 0 false false r e st) d b c := by
  have pos : 0 < t := lt_of_lt_of_le (sq_pos_of_pos (by exact_mod_cast (Nat.two_pow_pos _).trans_le wide)) low
  have root : 0 < √t * (2 : ℝ) ^ e := mul_pos (Real.sqrt_pos.2 pos) (zpow_two_pos e)
  have square : (√t * (2 : ℝ) ^ e) ^ 2 = t * (2 ^ e) ^ 2 := by rw [mul_pow, Real.sq_sqrt pos.le]
  have rounds := roundF_roundsTo h (rnd := 0) (by omega) false false root (encloses_sqrt low high sticky e) (fun _ => wide)
  rw [signOf, if_neg Bool.false_ne_true, one_mul] at rounds
  rw [← square] at inRange value
  exact nearestRoot_of_roundsTo h rounds root ((sq_le_sq₀ root.le (val_nonneg _)).1 inRange) hd positive value

theorem zpow_sub_sq (w : Int) (k : Nat) : ((2 : ℝ) ^ (w - k)) ^ 2 = (2 ^ w) ^ 2 / 2 ^ (2 * k) := by
  rw [zpow_sub₀ two_ne_zero, zpow_natCast, div_pow, pow_mul']

theorem fsqrtF_nearest {f : Fmt} (known : f ∈ [f32, f16, bf16, e4m3, e5m2]) {x : Nat} {p : Int} (hx : (decodeF f x).Num (2 * p))
    (nonzero : (decodeF f x).isZero = false) (positive : (decodeF f x).neg = false) (least : p ≤ f.qmin) :
    NearestRoot f (fsqrtF f x) p (scaled (2 * p) (decodeF f x)) 1 := by
  have h := sized_of_mem known
  have whole := scaled_mul_zpow hx
  cases u : decodeF f x with
  | num n m e =>
    rw [u] at whole nonzero positive
    obtain rfl : n = false := positive
    have pos := pos_of_isZero nonzero
    obtain ⟨w, half, even, more⟩ := evenExp_spec m e
    simp only [fsqrtF, u, pos.ne', if_false, Bool.false_eq_true, half]
    generalize (evenExp m e).1 = M at *
    obtain ⟨low, high⟩ := isqrt_spec (M * 2 ^ (2 * (f.mw + 4)))
    have wide : 2 ^ (f.mw + 1) ≤ isqrt (M * 2 ^ (2 * (f.mw + 4))) := by
      refine le_isqrt ?_
      rw [← pow_add]
      exact (Nat.pow_le_pow_right (by omega) (by omega)).trans (Nat.le_mul_of_pos_left _ (by omega))
    rw [← sq] at low high
    have square : ((M * 2 ^ (2 * (f.mw + 4)) : Nat) : ℝ) * ((2 : ℝ) ^ (w - (f.mw + 4 : Nat))) ^ 2 = m * 2 ^ e := by
      rw [zpow_sub_sq, ← even]
      push_cast
      field_simp
    refine nearestRoot_roundF h (t := (M * 2 ^ (2 * (f.mw + 4)) : Nat)) (by exact_mod_cast low) (by exact_mod_cast high)
      (by rw [decide_eq_false_iff_not, not_not, ← sq]; norm_cast) wide ?_ least Int.one_pos ?_
    · rw [square]
      have bound := (value_le_maxFin h u).1
      exact bound.trans (le_self_pow₀ (one_le_maxFin known) two_ne_zero)
    · rw [square, Int.cast_one, mul_one, ← zpow_natCast, ← zpow_mul, mul_comm p, Nat.cast_two, whole,
        FVal.real, signOf, if_neg Bool.false_ne_true, one_mul]
  | _ => rw [u] at hx; exact hx.elim

/-- The reciprocal of a format's least number is below the square of its greatest. -/
theorem reciprocal_le_maxFin_sq {f : Fmt} (known : f ∈ [f32, f16, bf16, e4m3, e5m2]) : (2 : ℝ) ^ (-f.qmin) ≤ f.val f.maxFin ^ 2 := by
  have facts : f.qmin ≤ 0 ∧ 2 ^ (3 * (-f.qmin).toNat) ≤ f.mag f.maxFin ^ 2 := by
    fin_cases known <;> exact ⟨by decide, by decide +kernel⟩
  obtain ⟨least, room⟩ := facts
  obtain ⟨j, hj⟩ : ∃ j : Nat, f.qmin = -j := ⟨(-f.qmin).toNat, by omega⟩
  rw [hj, neg_neg, Int.toNat_natCast] at room
  have room : (2 : ℝ) ^ (3 * j) ≤ (f.mag f.maxFin : ℝ) ^ 2 := by exact_mod_cast room
  rw [Fmt.val, hj, neg_neg, mul_pow, zpow_neg, zpow_natCast, inv_pow, ← div_eq_mul_inv, le_div_iff₀ (by positivity), ← pow_mul,
    ← pow_add, show j + j * 2 = 3 * j by ring]
  exact room

theorem frsqF_nearest {f : Fmt} (known : f ∈ [f32, f16, bf16, e4m3, e5m2]) {x : Nat} {p : Int} {k : Nat}
    (hx : (decodeF f x).Num (-2 * p - k)) (nonzero : (decodeF f x).isZero = false) (positive : (decodeF f x).neg = false)
    (least : p ≤ f.qmin) : NearestRoot f (frsqF f x) p (2 ^ k) (scaled (-2 * p - k) (decodeF f x)) := by
  have h := sized_of_mem known
  have whole := scaled_mul_zpow hx
  have divisor := scaled_ne_zero hx nonzero
  cases u : decodeF f x with
  | num n m e =>
    rw [u] at whole nonzero positive divisor
    obtain rfl : n = false := positive
    have pos := pos_of_isZero nonzero
    obtain ⟨w, half, even, more⟩ := evenExp_spec m e
    simp only [frsqF, u, pos.ne', if_false, Bool.false_eq_true, half]
    have log := Nat.lt_log2_self (n := (evenExp m e).1)
    generalize (evenExp m e).1 = M at *
    have posM : 0 < M := by omega
    generalize hk : f.mw + 4 + Nat.log2 M = j
    obtain ⟨low, high⟩ := isqrt_spec (2 ^ (2 * j) / M)
    have wide : 2 ^ (f.mw + 1) ≤ isqrt (2 ^ (2 * j) / M) := by
      refine le_isqrt ?_
      rw [← pow_add, Nat.le_div_iff_mul_le posM]
      calc 2 ^ (f.mw + 1 + (f.mw + 1)) * M ≤ 2 ^ (f.mw + 1 + (f.mw + 1)) * 2 ^ (Nat.log2 M + 1) := Nat.mul_le_mul_left _ log.le
        _ = 2 ^ (f.mw + 1 + (f.mw + 1) + (Nat.log2 M + 1)) := (pow_add ..).symm
        _ ≤ 2 ^ (2 * j) := Nat.pow_le_pow_right (by omega) (by omega)
    rw [Nat.le_div_iff_mul_le posM, ← sq] at low
    rw [Nat.div_lt_iff_lt_mul posM, ← sq] at high
    generalize isqrt (2 ^ (2 * j) / M) = r at *
    have posM : (0 : ℝ) < M := by exact_mod_cast posM
    have square : ((2 ^ (2 * j) : ℝ) / M) * ((2 : ℝ) ^ (-w - j)) ^ 2 = 1 / (m * 2 ^ e) := by
      rw [zpow_sub_sq, ← even, zpow_neg]
      field_simp
    have posm : (1 : ℝ) ≤ m := by exact_mod_cast pos
    refine nearestRoot_roundF h (t := (2 ^ (2 * j) : ℝ) / M) (by rw [le_div_iff₀ posM]; exact_mod_cast low)
      (by rw [div_lt_iff₀ posM]; exact_mod_cast high) ?_ wide ?_ least ?_ ?_
    · rw [decide_eq_false_iff_not, not_not, ← sq, eq_div_iff posM.ne']; norm_cast
    · rw [square]
      refine le_trans ?_ (reciprocal_le_maxFin_sq known)
      rw [zpow_neg, one_div]
      refine inv_anti₀ (zpow_two_pos _) ?_
      calc (2 : ℝ) ^ f.qmin ≤ 2 ^ e := zpow_le_zpow_right₀ one_le_two (value_le_maxFin h u).2
        _ ≤ m * 2 ^ e := le_mul_of_one_le_left (zpow_two_pos e).le posm
    · have nonneg : 0 ≤ scaled (-2 * p - k) (.num false m e) := by simp only [scaled, Bool.false_eq_true, if_false]; omega
      omega
    · have unit : (2 : ℝ) ^ (-2 * p - k) * (2 ^ k * (2 ^ p) ^ 2) = 1 := by
        rw [← zpow_natCast, ← zpow_natCast, ← zpow_mul, ← zpow_add₀ two_ne_zero, ← zpow_add₀ two_ne_zero, Nat.cast_two,
          show -2 * p - k + (k + p * 2) = 0 by ring, zpow_zero]
      rw [FVal.real, signOf, if_neg Bool.false_ne_true, one_mul] at whole
      have nonzero : (m : ℝ) * 2 ^ e ≠ 0 := (mul_pos (by linarith) (zpow_two_pos e)).ne'
      rw [square, div_mul_eq_mul_div, one_mul, div_eq_iff nonzero, ← whole]
      push_cast
      generalize (scaled (-2 * p - k) (.num false m e) : ℝ) = c
      calc c = c * (2 ^ (-2 * p - k) * (2 ^ k * (2 ^ p) ^ 2)) := by rw [unit, mul_one]
        _ = _ := by ring
  | _ => rw [u] at hx; exact hx.elim

theorem quotientsAndRoots : QuotientsAndRoots := by
  intro f x y p q k known
  have known : f ∈ [f32, f16, bf16, e4m3, e5m2] := List.mem_append_left [e4m3, e5m2] known
  have h := sized_of_mem known
  exact ⟨fun hx hy nonzero least => fdivF_nearest h hx hy nonzero least, fun hy nonzero least => frcpF_nearest h hy nonzero least,
    fun hx nonzero positive least => fsqrtF_nearest known hx nonzero positive least,
    fun hx nonzero positive least => frsqF_nearest known hx nonzero positive least⟩

end Sys2Proof.Machine
end

section
/-! Groups of a K step and units of a network (R66, R67, R296): exact sums, each rounded once. -/
namespace Sys2Proof.Machine

/-! ### The exact sum of a group -/

/-- The products of a group. -/
def groupTerms (as : List FVal) (ns : List Int) : List FVal :=
  (as.zip ns).map (fun p => mulV p.1 (.num (decide (p.2 < 0)) p.2.natAbs 0))

/-- A zero without its sign is the same number. -/
def plusZero (v : FVal) : FVal := if v.isZero then .num false 0 0 else v

theorem groupSum_eq (as : List FVal) (ns : List Int) {code : Byte} (scale : code ≠ 0xFF) :
    groupSum as ns code = plusZero (sumV 0 (groupTerms as ns)).1 := by
  rw [groupSum, if_neg scale]
  rfl

theorem scaled_of_isZero {q : Int} {v : FVal} (h : v.isZero = true) : scaled q v = 0 := by
  cases v with
  | num n m e => simp [scaled, of_decide_eq_true h]
  | _ => cases h

theorem plusZero_spec {q : Int} (hq : q ≤ 0) {v : FVal} (num : v.Num q) : (plusZero v).Num q ∧ scaled q (plusZero v) = scaled q v := by
  unfold plusZero
  split_ifs with zero
  · exact ⟨hq, by rw [scaled_of_isZero zero, scaled_of_isZero rfl]⟩
  · exact ⟨num, rfl⟩

theorem groupTerms_spec {as : List FVal} (ns : List Int) {q : Int} (nums : ∀ a ∈ as, a.Num q) :
    (∀ v ∈ groupTerms as ns, v.Num q) ∧ (groupTerms as ns).map (scaled q) = (as.zip ns).map (fun p => scaled q p.1 * p.2) := by
  have product (p : FVal × Int) (hp : p ∈ as.zip ns) := mulV_spec (nums p.1 (List.of_mem_zip hp).1)
    (show (FVal.num (decide (p.2 < 0)) p.2.natAbs 0).Num 0 from Int.le_refl 0)
  simp only [Int.add_zero, scaled_integer] at product
  refine ⟨fun v hv => ?_, ?_⟩
  · obtain ⟨p, hp, rfl⟩ := List.mem_map.1 hv
    exact (product p hp).1
  · rw [groupTerms, List.map_map]
    exact List.map_congr_left (fun p hp => (product p hp).2)

/-- A group's sum is exact (R66). -/
theorem groupSum_spec {as : List FVal} (ns : List Int) {code : Byte} {q : Int} (scale : code ≠ 0xFF) (nums : ∀ a ∈ as, a.Num q)
    (hq : q ≤ 0) :
    scaled q (groupSum as ns code) = ((as.zip ns).map (fun p => scaled q p.1 * p.2)).sum ∧ (groupSum as ns code).Num q := by
  obtain ⟨terms, values⟩ := groupTerms_spec ns nums
  rw [groupSum_eq as ns scale, ← values]
  by_cases empty : groupTerms as ns = []
  · rw [empty]
    exact ⟨scaled_of_isZero rfl, hq⟩
  · obtain ⟨num, -, sum⟩ := sumV_spec 0 empty terms
    obtain ⟨num', same⟩ := plusZero_spec hq num
    exact ⟨same.trans sum, num'⟩

/-! ### The K step (R66) -/

theorem scaleV_spec {v : FVal} {q : Int} (g : Int) (num : v.Num q) :
    (scaleV g v).Num (q + g) ∧ scaled (q + g) (scaleV g v) = scaled q v := by
  cases v with
  | num n m e =>
    refine ⟨Int.add_le_add_right num g, ?_⟩
    simp only [scaleV, scaled]
    rw [Int.add_sub_add_right]
  | _ => exact num.elim

theorem roundV_of_isNan {f : Fmt} {rnd : Nat} {v : FVal} {fl : BitVec 5} (h : v.isNan = true) : (roundV f rnd v fl).1 = f.nan := by
  cases v with
  | nan s => rfl
  | _ => cases h

theorem decodeF_f32_nan : decodeF f32 f32.nan = .nan false := by decide +kernel

/-- A sum with a NaN among its two terms is NaN. -/
theorem addF_of_isNan {f : Fmt} {rnd : Nat} {x y : FVal} (h : (x.isNan || y.isNan) = true) : (addF f rnd x y).1 = f.nan := by
  obtain ⟨-, nan, -⟩ := sumV_special rnd [x, y] rfl rfl rfl rfl
  refine roundV_of_isNan ?_
  rw [nan, Bool.or_eq_true_iff]
  exact .inl (by simpa using h)

theorem finite_of_rounds {f : Fmt} {rnd : Nat} {sat : Bool} {q X : Int} {r : FRes} (rounds : Rounds f rnd sat q X r)
    (inRange : r.2 &&& OF = 0) : f.Finite r.1 := by
  unfold Rounds at rounds
  simp only [inRange, if_true] at rounds
  exact rounds.1

theorem kStepX_of_nanScale (c : W32) (as : List FVal) (ns : List Int) (g : Int) : kStepX c as ns 0xFF g = f32.nan := by
  have group : groupSum as ns 0xFF = .nan false := rfl
  simp only [kStepX, group, roundV, decodeF_f32_nan, scaleV]
  exact addF_of_isNan (by simp [FVal.isNan])

theorem isNan_kStepX {c : W32} (as : List FVal) (ns : List Int) (code : Byte) (g : Int) (h : (decodeF f32 c.toNat).isNan = true) :
    (decodeF f32 (kStepX c as ns code g)).isNan = true := by
  rw [kStepX, addF_of_isNan (by rw [h, Bool.true_or]), decodeF_f32_nan]
  rfl

theorem stepElem_eq (sat : Bool) (as : List FVal) (c : W32) (ns : List Int) (code : Byte) (g : Int) :
    let X := kStepX c as ns code g
    let v := decodeF f32 X
    stepElem sat as c (ns, code, g) =
      (BitVec.ofNat 32 (if sat = true ∧ v.isInf = true then f32.max v.neg else X), if v.isInf then 1 else 0,
        if v.isNan = true ∧ (decodeF f32 c.toNat).isNan = false then 1 else 0) := by
  simp only [stepElem, Bool.toNat, cond_eq_ite, Bool.and_eq_true, Bool.not_eq_true', and_comm (a := sat = true)]

/-! ### A unit of a network (R296) -/

/-- The products of a unit. -/
def unitTerms (xs ws : List Nat) : List FVal := (xs.zip ws).map (fun p => mulV (decodeF bf16 p.1) (decodeF bf16 p.2))

theorem unitSum_eq (xs ws : List Nat) (bias : Nat) :
    unitSum xs ws bias = (roundV f32 0 (sumV 0 (unitTerms xs ws ++ [decodeF bf16 bias])).1 0).1 := rfl

theorem unitTerms_spec {xs ws : List Nat} {q : Int} (hxs : ∀ x ∈ xs, (decodeF bf16 x).Num q)
    (hws : ∀ w ∈ ws, (decodeF bf16 w).Num q) :
    (∀ v ∈ unitTerms xs ws, v.Num (2 * q)) ∧
    (unitTerms xs ws).map (scaled (2 * q)) = (xs.zip ws).map (fun p => bf16.units q p.1 * bf16.units q p.2) := by
  have product (p : Nat × Nat) (hp : p ∈ xs.zip ws) := mulV_spec (hxs p.1 (List.of_mem_zip hp).1) (hws p.2 (List.of_mem_zip hp).2)
  rw [← two_mul] at product
  refine ⟨fun v hv => ?_, ?_⟩
  · obtain ⟨p, hp, rfl⟩ := List.mem_map.1 hv
    exact (product p hp).1
  · rw [unitTerms, List.map_map]
    exact List.map_congr_left (fun p hp => (product p hp).2)

/-- A unit is the exact sum of its products and bias, rounded once (R296). -/
theorem unitSum_rounds {xs ws : List Nat} {bias : Nat} (finite : ∀ x ∈ bias :: xs ++ ws, bf16.Finite x) :
    ∃ fl, Rounds f32 0 false (2 * bf16.qmin)
      (((xs.zip ws).map (fun p => bf16.units bf16.qmin p.1 * bf16.units bf16.qmin p.2)).sum + bf16.units (2 * bf16.qmin) bias)
      (unitSum xs ws bias, fl) := by
  have num {x : Nat} (hx : x ∈ bias :: xs ++ ws) {q : Int} (hq : q ≤ bf16.qmin) :=
    num_of_finite (sized_of_mem (by simp)) (finite x hx) hq
  obtain ⟨terms, values⟩ := unitTerms_spec (xs := xs) (ws := ws) (fun x hx => num (by simp [hx]) (le_refl _))
    (fun w hw => num (by simp [hw]) (le_refl _))
  have all : ∀ v ∈ unitTerms xs ws ++ [decodeF bf16 bias], v.Num (2 * bf16.qmin) :=
    List.forall_mem_append.2 ⟨terms, fun v hv => by rw [List.mem_singleton.1 hv]; exact num (by simp) (by decide)⟩
  obtain ⟨sumNum, -, sum⟩ := sumV_spec 0 (by simp) all
  rw [List.map_append, List.sum_append, values, List.map_singleton, List.sum_singleton] at sum
  rw [unitSum_eq, Fmt.units, ← sum]
  exact ⟨_, rounds_roundV (sized_of_mem (by simp)) (by omega) (by decide) sumNum⟩

theorem scaled_pos_iff (q : Int) (n : Bool) (m : Nat) (e : Int) : 0 < scaled q (.num n m e) ↔ m ≠ 0 ∧ n = false := by
  have unit := Nat.two_pow_pos (e - q).toNat
  simp only [scaled]
  rcases Nat.eq_zero_or_pos m with rfl | pos
  · simp
  · have := Nat.mul_pos pos unit
    generalize m * 2 ^ (e - q).toNat = k at *
    cases n with
    | false => simp; omega
    | true => simp

theorem decodeF_zero : decodeF f32 0 = .num false 0 f32.qmin := by decide +kernel

theorem reluOf_eq (x : Nat) :
    reluOf x = if (decodeF f32 x).isNan = true ∨ ((decodeF f32 x).isZero = false ∧ (decodeF f32 x).neg = false) then x else 0 := by
  unfold reluOf spLt sp
  rw [decodeF_zero]
  cases value : decodeF f32 x with
  | nan s => simp [FVal.isNan]
  | inf n => cases n <;> simp [FVal.isNan, FVal.isZero, FVal.neg, lessV]
  | num n m e =>
    have positive : lessV (.num false 0 f32.qmin) (.num n m e) = !(decide (m = 0) || n) := by
      simp only [lessV, scaled_of_isZero (v := .num false 0 f32.qmin) rfl, scaled_pos_iff]
      cases n <;> simp
    rw [positive]
    cases n <;> by_cases zero : m = 0 <;> simp [FVal.isNan, FVal.isZero, FVal.neg, zero]

theorem groupsAndUnits : GroupsAndUnits := by
  intro sat as ns code g c xs ws bias q G h X v was
  have sized : f32.Sized := sized_of_mem (by simp)
  refine ⟨fun scale nums least hq => ?_, fun num least => ?_, isNan_kStepX as ns code g, fun scale => ?_, stepElem_eq sat as c ns code g,
    fun finite hq => ?_, reluOf_eq⟩
  · obtain ⟨sum, num⟩ := groupSum_spec ns scale nums hq
    exact ⟨sum, num, rounds_roundV sized (by omega) least num⟩
  · obtain ⟨scaledNum, value⟩ := scaleV_spec g num
    have rounds := rounds_roundV sized (rnd := 0) (by omega) least scaledNum
    rw [value] at rounds
    exact ⟨rounds, fun inRange wasNum => ⟨_, rounds_addF sized (by omega) (le_refl _) wasNum
      (num_of_finite sized (finite_of_rounds rounds inRange) (le_refl _))⟩⟩
  · subst scale
    exact kStepX_of_nanScale c as ns g
  · subst hq
    exact unitSum_rounds finite

end Sys2Proof.Machine
end

section
/-! Special operands (R103), and the exact cases of FEXP2 and FLOG2. -/
namespace Sys2Proof.Machine

/-! ### The table's operands -/

section
variable {f : Fmt} {x y : Nat}

theorem special_of_nan {s : Bool} (value : decodeF f x = .nan s) :
    ∀ g ∈ [frcpF, frsqF, fsqrtF, fexp2F, flog2F, fsinF, fcosF], g f x = (f.nan, flagIf s NV) := by
  simp [frcpF, frsqF, fsqrtF, fexp2F, flog2F, fsinF, fcosF, value]

theorem special_of_negative (negative : (decodeF f x).neg = true) (nonzero : (decodeF f x).isZero = false) :
    ∀ g ∈ [frsqF, fsqrtF, flog2F], g f x = (f.nan, NV) := by
  cases value : decodeF f x with
  | nan s => rw [value] at negative; cases negative
  | inf n =>
    rw [value] at negative
    obtain rfl : n = true := negative
    simp [frsqF, fsqrtF, flog2F, value]
  | num n m e =>
    rw [value] at negative nonzero
    obtain rfl : n = true := negative
    simp [frsqF, fsqrtF, flog2F, value, (pos_of_isZero nonzero).ne']

theorem fdivF_of_nan (nan : (decodeF f x).isNan = true ∨ (decodeF f y).isNan = true) :
    fdivF f x y = (f.nan, if (decodeF f x).isSig = true ∨ (decodeF f y).isSig = true then NV else 0) := by
  simp only [fdivF, Bool.or_eq_true, nan, if_true]
  split_ifs <;> rfl

theorem fdivF_by_zero (nan : (decodeF f x).isNan = false) (zero : (decodeF f y).isZero = true) (finite : (decodeF f x).isInf = false) :
    fdivF f x y = if (decodeF f x).isZero = true then (f.nan, NV) else (f.inf ((decodeF f x).neg != (decodeF f y).neg), DZ) := by
  cases u : decodeF f x with
  | num n m e =>
    cases v : decodeF f y with
    | num n' m' e' =>
      rw [v] at zero
      simp [fdivF, u, v, FVal.isSig, FVal.isNan, FVal.isZero, FVal.neg, show m' = 0 from of_decide_eq_true zero]
    | _ => rw [v] at zero; cases zero
  | nan s => rw [u] at nan; cases nan
  | inf n => rw [u] at finite; cases finite

theorem fdivF_of_inf (infinite : (decodeF f x).isInf = true) (nan : (decodeF f y).isNan = false) :
    fdivF f x y = if (decodeF f y).isInf = true then (f.nan, NV) else (f.inf ((decodeF f x).neg != (decodeF f y).neg), 0) := by
  cases u : decodeF f x with
  | inf n =>
    cases v : decodeF f y with
    | nan s => rw [v] at nan; cases nan
    | _ => simp [fdivF, u, v, FVal.isSig, FVal.isNan, FVal.isInf, FVal.neg]
  | _ => rw [u] at infinite; cases infinite

theorem fdivF_by_inf (finite : (decodeF f x).isInf = false) (nan : (decodeF f x).isNan = false) (infinite : (decodeF f y).isInf = true) :
    fdivF f x y = (f.zero ((decodeF f x).neg != (decodeF f y).neg), 0) := by
  cases u : decodeF f x with
  | num n m e =>
    cases v : decodeF f y with
    | inf n' => simp [fdivF, u, v, FVal.isSig, FVal.isNan, FVal.neg]
    | _ => rw [v] at infinite; cases infinite
  | nan s => rw [u] at nan; cases nan
  | inf n => rw [u] at finite; cases finite

end

/-! ### Powers of two beyond a format -/

/-- The result of what lies far below the least number. -/
theorem roundF_far_below {f : Fmt} (known : f ∈ [f32, f16, bf16]) {k : Int} (small : k ≤ -4096) (st : Bool) :
    roundF f 0 false false 1 k st = (0, NX ||| UF) := by
  have bound : -4000 ≤ f.qmin := by fin_cases known <;> decide
  have log : Nat.log2 1 = 0 := by decide
  have place : Max.max (k + ((Nat.log2 1 : Nat) : Int) - f.mw) f.qmin = f.qmin := max_eq_right (by rw [log]; omega)
  have shift : 1 < 2 ^ ((f.qmin - k).toNat - 1) := Nat.one_lt_two_pow (by omega)
  have none : roundAt 0 false 1 k st f.qmin = (0, true) := by
    rw [roundAt_of_lt 0 false 1 st (by omega), shiftOut_of_lt 0 false st shift]
    simp [takesUpper]
  have below : k + ((Nat.log2 1 : Nat) : Int) + 1 < f.qmin + f.mw := by rw [log]; omega
  unfold roundF
  simp only [place, none]
  simp [below, flagIf, show k + ((Nat.log2 1 : Nat) : Int) < f.qmin + f.mw by omega]

/-- The result of what lies far above the greatest number. -/
theorem roundF_far_above {f : Fmt} (known : f ∈ [f32, f16, bf16]) {k : Int} (large : 4096 ≤ k) :
    roundF f 0 false false 1 k false = overflowF f 0 false false := by
  have h : f.Sized := sized_of_mem (List.mem_append_left [e4m3, e5m2] known)
  have facts : f.qmin ≤ 128 ∧ f.mag (f.maxFin + 1) ≤ 2 ^ (128 - f.qmin).toNat := by
    fin_cases known <;> exact ⟨by decide, by decide +kernel⟩
  obtain ⟨least, room⟩ := facts
  have room : (f.mag (f.maxFin + 1) : ℝ) ≤ 2 ^ (128 - f.qmin).toNat := by exact_mod_cast room
  have beyond : f.val (f.maxFin + 1) ≤ 2 ^ k :=
    calc f.val (f.maxFin + 1) ≤ 2 ^ (128 - f.qmin).toNat * 2 ^ f.qmin := mul_le_mul_of_nonneg_right room (zpow_two_pos _).le
      _ = 2 ^ (128 : Int) := zpow_toNat least
      _ ≤ 2 ^ k := zpow_le_zpow_right₀ one_le_two (by omega)
  obtain ⟨L, up, inexact, tiny, between, -, -, result⟩ := roundF_spec h 0 false false (m := 1) (e := k) (st := false) (zpow_two_pos k)
    (by simp [Encloses]) (by simp)
  have above : f.maxFin + 1 < L + 1 := strictMono_val.lt_iff_lt.1 (beyond.trans_lt between.high)
  rw [result, if_pos (by omega)]

/-! ### FEXP2 of integers, FLOG2 of powers of two -/

/-- A number that is an integer k. -/
theorem natAbs_of_scaled {n : Bool} {m : Nat} {e q k : Int} (he : q ≤ e) (hq : q ≤ 0)
    (integer : scaled q (.num n m e) = k * 2 ^ (-q).toNat) :
    k.natAbs * 2 ^ (-e).toNat = m * 2 ^ e.toNat ∧ k = signed n k.natAbs := by
  have unit : (2 : Int) ^ (-q).toNat = (2 ^ (-q).toNat : Nat) := by push_cast; rfl
  have pos := Nat.two_pow_pos (-q).toNat
  rw [scaled_eq_signed, unit] at integer
  have size : m * 2 ^ (e - q).toNat = k.natAbs * 2 ^ (-q).toNat := by
    have := congrArg Int.natAbs integer
    rw [Int.natAbs_mul, Int.natAbs_natCast] at this
    rw [← this]
    cases n <;> simp [signed, Int.natAbs_mul]
  refine ⟨?_, ?_⟩
  · rcases Int.lt_or_le e 0 with below | above
    · refine Nat.eq_of_mul_eq_mul_right (Nat.two_pow_pos (e - q).toNat) ?_
      rw [Nat.mul_assoc, ← pow_add, show (-e).toNat + (e - q).toNat = (-q).toNat by omega, show e.toNat = 0 by omega, pow_zero,
        Nat.mul_one, size]
    · refine Nat.eq_of_mul_eq_mul_right pos ?_
      rw [Nat.mul_assoc m, ← pow_add, show e.toNat + (-q).toNat = (e - q).toNat by omega, show (-e).toNat = 0 by omega, pow_zero,
        Nat.mul_one, size]
  · generalize m * 2 ^ (e - q).toNat = j at *
    generalize 2 ^ (-q).toNat = u at *
    have upos : (0 : Int) < u := by exact_mod_cast pos
    cases n with
    | false =>
      have : 0 ≤ k := nonneg_of_mul_nonneg_left (by rw [← integer]; exact Int.natCast_nonneg j) upos
      simp only [signed, Bool.false_eq_true, if_false]; omega
    | true =>
      have : k ≤ 0 := nonpos_of_mul_nonpos_left (by rw [← integer]; simp [signed]) upos
      simp only [signed, if_true]; omega

theorem fexp2F_integer {f : Fmt} (known : f ∈ [f32, f16, bf16]) {x : Nat} {q k : Int} (num : (decodeF f x).Num q) (hq : q ≤ 0)
    (integer : scaled q (decodeF f x) = k * 2 ^ (-q).toNat) : fexp2F f x = roundF f 0 false false 1 k false := by
  cases value : decodeF f x with
  | num n m e =>
    rw [value] at num integer
    obtain ⟨size, sign⟩ := natAbs_of_scaled num hq integer
    rcases Nat.eq_zero_or_pos m with rfl | pos
    · rw [Nat.zero_mul, Nat.mul_eq_zero, or_iff_left (Nat.two_pow_pos _).ne', Int.natAbs_eq_zero] at size
      simp [fexp2F, value, size]
    · by_cases large : 12 ≤ e + Nat.log2 m
      · have bound : 2 ^ 12 ≤ k.natAbs := by
          refine Nat.le_of_mul_le_mul_right ?_ (Nat.two_pow_pos (-e).toNat)
          calc 2 ^ 12 * 2 ^ (-e).toNat = 2 ^ (12 + (-e).toNat) := (pow_add ..).symm
            _ ≤ 2 ^ (Nat.log2 m + e.toNat) := Nat.pow_le_pow_right (by omega) (by omega)
            _ = 2 ^ Nat.log2 m * 2 ^ e.toNat := pow_add ..
            _ ≤ m * 2 ^ e.toNat := Nat.mul_le_mul_right _ (Nat.log2_self_le pos.ne')
            _ = k.natAbs * 2 ^ (-e).toNat := size.symm
        simp only [fexp2F, value, pos.ne', large, if_false, if_true]
        cases n with
        | false =>
          rw [signed, if_neg Bool.false_ne_true] at sign
          rw [if_neg Bool.false_ne_true, roundF_far_above known (by omega)]
        | true =>
          rw [signed, if_pos rfl] at sign
          rw [if_pos rfl, roundF_far_below known (le_refl _), roundF_far_below known (by omega)]
      · have whole : (decide (0 ≤ e) || decide (m % 2 ^ (-e).toNat = 0)) = true := by
          rcases Int.lt_or_le e 0 with below | above
          · rw [Int.toNat_of_nonpos below.le, pow_zero, Nat.mul_one] at size
            simp [← size]
          · simp [above]
        have magnitude : (if 0 ≤ e then (m : Int) * 2 ^ e.toNat else m / 2 ^ (-e).toNat) = k.natAbs := by
          split_ifs with above
          · rw [show (-e).toNat = 0 by omega, pow_zero, Nat.mul_one] at size
            rw [size]; push_cast; rfl
          · rw [show e.toNat = 0 by omega, pow_zero, Nat.mul_one] at size
            rw [← size]; push_cast
            exact Int.mul_ediv_cancel _ (by positivity)
        simp only [fexp2F, value, pos.ne', large, whole, magnitude, if_false, if_true]
        rw [show (if n = true then -(k.natAbs : Int) else k.natAbs) = k from sign.symm]
  | _ => rw [value] at num; exact num.elim

theorem flog2F_power {f : Fmt} {x : Nat} {q k : Int} (num : (decodeF f x).Num q) (hq : q ≤ k)
    (power : scaled q (decodeF f x) = 2 ^ (k - q).toNat) : flog2F f x = roundF f 0 false (decide (k < 0)) k.natAbs 0 false := by
  cases value : decodeF f x with
  | num n m e =>
    rw [value] at num power
    have he : q ≤ e := num
    have positive : 0 < scaled q (.num n m e) := by rw [power]; positivity
    obtain ⟨nonzero, rfl⟩ := (scaled_pos_iff q n m e).1 positive
    have product : m * 2 ^ (e - q).toNat = 2 ^ (k - q).toNat := by
      simp only [scaled, Bool.false_eq_true, if_false, one_mul] at power
      exact_mod_cast power
    obtain ⟨j, -, rfl⟩ := (Nat.dvd_prime_pow Nat.prime_two).1 (Dvd.intro _ product)
    rw [← pow_add] at product
    have exponent := Nat.pow_right_injective (le_refl 2) product
    simp only [flog2F, value, nonzero, if_false, Bool.false_eq_true, Nat.log2_two_pow, if_true]
    rw [show e + (j : Int) = k by omega]
  | _ => rw [value] at num; exact num.elim

/-! ### The statement -/

theorem tableOperands {f : Fmt} (known : f ∈ [f32, f16, bf16]) :
    let z := f.zero
    let oo := f.inf
    let unit := (roundF f 0 false false 1 0 false).1
    (∀ n, frcpF f (z n) = (oo n, DZ) ∧ frcpF f (oo n) = (z n, 0) ∧ frsqF f (z n) = (oo n, DZ) ∧ fsqrtF f (z n) = (z n, 0) ∧
      fexp2F f (z n) = (unit, 0) ∧ flog2F f (z n) = (oo true, DZ) ∧ fsinF f (z n) = (z n, 0) ∧ fcosF f (z n) = (unit, 0) ∧
      fsinF f (oo n) = (f.nan, NV) ∧ fcosF f (oo n) = (f.nan, NV)) ∧
    frsqF f (oo false) = (z false, 0) ∧ fsqrtF f (oo false) = (oo false, 0) ∧ fexp2F f (oo true) = (z false, 0) ∧
    fexp2F f (oo false) = (oo false, 0) ∧ flog2F f unit = (z false, 0) ∧ flog2F f (oo false) = (oo false, 0) := by
  fin_cases known <;> decide +kernel

theorem units_one {f : Fmt} (known : f ∈ [f32, f16, bf16, e4m3, e5m2]) :
    f.units f.qmin (roundF f 0 false false 1 0 false).1 = 2 ^ (-f.qmin).toNat := by
  fin_cases known <;> decide +kernel

theorem specialOperands : SpecialOperands := by
  intro f known z oo unit
  obtain ⟨signs, rest⟩ := tableOperands known
  obtain ⟨frsq, fsqrt, exp, exp', log, log'⟩ := rest
  refine ⟨units_one (List.mem_append_left [e4m3, e5m2] known), signs, frsq, fsqrt, exp, exp', log, log', fun x y _ =>
    ⟨fun nan => ?_, special_of_negative, fdivF_of_nan, fdivF_by_zero, fdivF_of_inf, fdivF_by_inf,
      fun q k num hq integer => fexp2F_integer known num hq integer, fun q k num hq power => flog2F_power num hq power⟩⟩
  cases value : decodeF f x with
  | nan s => exact special_of_nan value
  | _ => rw [value] at nan; cases nan

/-- Settles O17: each result is the exact value rounded once. A value lies between two neighbouring patterns (`Fmt.Between`), and
`roundF_spec` says which of the two `roundF` takes. -/
theorem roundingOfValues : Obligations.RoundingOfValues :=
  ⟨heldValuesRoundToThemselves, roundingModes, roundingIsExact, sumsAndProducts, specialSums, conversionsAsNumbers, quotientsAndRoots,
    groupsAndUnits, specialOperands⟩

end Sys2Proof.Machine
end

section
/-! Packed halves and DOT4 (R99, R100). -/
namespace Sys2Proof.Machine

/-! ### Parts of a register -/

/-- A part of a register, n bits at position i: shifted down, or divided. -/
theorem toNat_ushiftRight_mod (x : W64) (i n : Nat) : (x >>> i).toNat % n = x.toNat / 2 ^ i % n := by
  rw [BitVec.toNat_ushiftRight, Nat.shiftRight_eq_div_pow]

theorem half_eq_halfOf (x : W64) (h : Nat) : half x h = halfOf x h := toNat_ushiftRight_mod x (16 * h) (2 ^ 16)

/-! ### Both halves of a lane (R99) -/

/-- The format of packed halves. -/
def packedFmt (bf : BitVec 1) : Fmt := if bf = 1 then bf16 else f16

/-- Two results side by side in a register, half 1 above half 0. -/
def pairBits (g : Nat → FRes) : W64 := BitVec.ofNat 64 ((g 1).1 * 2 ^ 16 + (g 0).1)

/-- The flags of a lane are those of both its halves. -/
def pairFlags (g : Nat → FRes) : BitVec 5 := (g 0).2 ||| (g 1).2

/-- A packed instruction computes each half from the same half of its operands. -/
theorem State.packed_eq (s : State) (bf : BitVec 1) (c b a : BitVec 7) (f : Fmt → Nat → Nat → Nat → FRes) :
    s.packed bf c b a f = s.vmap acceptAll (vvv 1 c b a) false (constsP (decide (bf = 1))) 1 none (fun _ _ A B C =>
      let g := fun h => f (packedFmt bf) (half A h) (half B h) (half C h)
      (pairBits g, pairFlags g)) := by
  simp only [half_eq_halfOf]
  rfl

theorem State.vecCaseF_of_packed {s : State} {i : Instr} {bf : BitVec 1} {c b a : BitVec 7} {f : Fmt → Nat → Nat → Nat → FRes}
    (runs : exec i s = s.packed bf c b a f) :
    let g := fun (A B C : W64) (h : Nat) => f (packedFmt bf) (half A h) (half B h) (half C h)
    s.VecCaseF i acceptAll (vvv 1 c b a) (constsP (decide (bf = 1))) 1
      (fun _ A B C => pairBits (g A B C)) (fun _ A B C => pairFlags (g A B C)) :=
  State.vecCaseF_of_vmap _ (runs.trans (s.packed_eq bf c b a f)) rfl (.inl rfl) (fun _ _ _ _ _ => rfl)

theorem exec_pfadd (bf r : BitVec 1) (c b a : BitVec 7) (s : State) :
    exec (.pfadd bf r c b a) s = s.packed bf c b a (fun m _ x y => addF m r.toNat (decodeF m x) (decodeF m y)) := rfl

theorem exec_pfmul (bf r : BitVec 1) (c b a : BitVec 7) (s : State) :
    exec (.pfmul bf r c b a) s = s.packed bf c b a (fun m _ x y => mulF m r.toNat (decodeF m x) (decodeF m y)) := rfl

theorem exec_pfma (bf r : BitVec 1) (c b a : BitVec 7) (s : State) :
    exec (.pfma bf r c b a) s =
      s.packed bf c b a (fun m z x y => fmaF m r.toNat (decodeF m x) (decodeF m y) (decodeF m z)) := rfl

/-! ### DOT4 (R100) -/

/-- The four products and the addend in one lane, by the bytes of B and C. -/
def dot4Sum (fb fc : Fmt) (A B C : W64) : FVal × BitVec 5 :=
  let byte := fun (x : W64) (i : Nat) => (x >>> (8 * i)).toNat % 256
  sumV 0 ((List.range 4).map (fun i => mulV (decodeF fb (byte B i)) (decodeF fc (byte C i))) ++ [decodeF f32 (A.toNat % 2 ^ 32)])

theorem sumV_dot4Terms (fb fc : Fmt) (A B C : W64) : sumV 0 (dot4Terms fb fc A B C) = dot4Sum fb fc A B C := by
  simp only [dot4Sum, toNat_ushiftRight_mod]
  rfl

/-- One lane of DOT4, given its addend: the exact sum, rounded once. The formats of B and C also give what `one` and `mone` read as. -/
def State.dot4Lane (s : State) (f : BitVec 2) (c b a : BitVec 7) (L : Nat) (A : W64) : FRes :=
  let b5 := decide (f = 1 ∨ f = 3)
  let c5 := decide (f = 1 ∨ f = 2)
  let x := dot4Sum (if b5 then e5m2 else e4m3) (if c5 then e5m2 else e4m3) A
    (s.valueAt (constsE b5) (vvv 1 c b a) .b L) (s.valueAt (constsE c5) (vvv 1 c b a) .c L)
  roundV f32 0 x.1 x.2

theorem exec_dot4 (f : BitVec 2) (c b a : BitVec 7) (s : State) :
    exec (.dot4 f c b a) s = s.vmap acceptAll (vvv 1 c b a) false intConsts 1 none
      (fun s L A _ _ => (bitsOf64 (s.dot4Lane f c b a L A), (s.dot4Lane f c b a L A).2)) := by
  simp only [State.dot4Lane, ← sumV_dot4Terms]
  rfl

theorem State.dot4_spec {s : State} {f : BitVec 2} {c b a : BitVec 7} (admitted : s.Admits acceptAll (vvv 1 c b a)) :
    let y := fun L => s.dot4Lane f c b a L (s.valueAt intConsts (vvv 1 c b a) .a L)
    s.Completes (.dot4 f c b a) (fun u => s.VecResult u (vvv 1 c b a) 1 (s.regAt (vvv 1 c b a) .a)
      (fun L => bitsOf64 (y L)) (flagsOf s.act (fun L => (y L).2))) := by
  obtain ⟨u, next, result⟩ := State.vmap_spec intConsts
    (fun s L A _ _ => (bitsOf64 (s.dot4Lane f c b a L A), (s.dot4Lane f c b a L A).2)) (.inl rfl) admitted
  exact ⟨u, (exec_dot4 f c b a s).trans next, result⟩

/-- Settles O15: the packed instructions by what they do to each half, DOT4 by its exact sum. -/
theorem packedFloatAndDot : Obligations.PackedFloatAndDot := by
  intro s bf r f c b a
  have add := State.vecCaseF_of_packed (exec_pfadd bf r c b a s)
  have mul := State.vecCaseF_of_packed (exec_pfmul bf r c b a s)
  have fma := State.vecCaseF_of_packed (exec_pfma bf r c b a s)
  exact ⟨add, mul, fma, State.dot4_spec⟩

end Sys2Proof.Machine
end

section
/-! Keys by their bits: the axes of a key, and the order of keys (R107). -/
namespace Sys2Proof.Machine

/-! ### Numbers by their bits -/

theorem fromBits_lt (f : Nat → Bool) (n : Nat) : fromBits f n < 2 ^ n := by
  induction n with
  | zero => exact Nat.one_pos
  | succ n ih =>
    rw [fromBits, Nat.pow_succ]
    split_ifs <;> omega

@[simp] theorem testBit_fromBits (f : Nat → Bool) (n i : Nat) : (fromBits f n).testBit i = (decide (i < n) && f i) := by
  induction n with
  | zero => simp [fromBits]
  | succ n ih =>
    have below := fromBits_lt f n
    have top : fromBits f (n + 1) = 2 ^ n * (f n).toNat + fromBits f n := by
      rw [fromBits, Nat.add_comm]
      cases f n <;> simp
    rw [top, Nat.testBit_two_pow_mul_add _ below, ih]
    rcases Nat.lt_trichotomy i n with h | rfl | h
    · simp [h, Nat.lt_succ_of_lt h]
    · cases f i <;> simp
    · have far : (f n).toNat.testBit (i - n) = false :=
        Nat.testBit_lt_two_pow ((Bool.toNat_lt _).trans_le (Nat.le_self_pow (by omega) 2))
      rw [if_neg (by omega), far, decide_eq_false (by omega), Bool.false_and]

theorem fromBits_eq_sum (f : Nat → Bool) (n : Nat) : fromBits f n = ((List.range n).map (fun i => if f i then 2 ^ i else 0)).sum := by
  induction n with
  | zero => rfl
  | succ n ih => rw [fromBits, ih, List.sum_range_succ]

/-- Of two numbers the smaller has a zero, where the other has a one, in the highest bit in which they differ. -/
theorem exists_top_bit {x y : Nat} (h : x < y) :
    ∃ i, x.testBit i = false ∧ y.testBit i = true ∧ ∀ j, i < j → x.testBit j = y.testBit j := by
  have differ : x ^^^ y ≠ 0 := by rw [Ne, Nat.xor_eq_zero_iff]; omega
  obtain ⟨i, here, above⟩ := Nat.exists_most_significant_bit differ
  simp only [Nat.testBit_xor, bne_iff_ne, bne_eq_false_iff_eq] at here above
  cases hx : x.testBit i <;> cases hy : y.testBit i
  · exact absurd (hx.trans hy.symm) here
  · exact ⟨i, hx, hy, above⟩
  · exact absurd (Nat.lt_of_testBit i hy hx (fun j hj => (above j hj).symm)) (by omega)
  · exact absurd (hx.trans hy.symm) here

theorem add_eq_or_of_and_eq_zero {x y : Nat} (h : x &&& y = 0) : x + y = x ||| y := by
  have bound : x + y < 2 ^ (x + y) := Nat.lt_two_pow_self
  have words := BitVec.add_eq_or_of_and_eq_zero (BitVec.ofNat (x + y) x) (BitVec.ofNat (x + y) y) (by rw [← BitVec.ofNat_and, h])
  have eq := congrArg BitVec.toNat words
  rwa [← BitVec.ofNat_add, ← BitVec.ofNat_or, BitVec.toNat_ofNat, BitVec.toNat_ofNat, Nat.mod_eq_of_lt bound,
    Nat.mod_eq_of_lt (Nat.or_lt_two_pow (by omega) (by omega))] at eq

/-- Setting bits and taking them away again clears them. -/
theorem testBit_or_sub (x m i : Nat) : ((x ||| m) - m).testBit i = (x.testBit i && !m.testBit i) := by
  let z := x ^^^ (x &&& m)
  have apart : z &&& m = 0 := Nat.eq_of_testBit_eq (fun i => by
    simp only [z, Nat.testBit_and, Nat.testBit_xor, Nat.zero_testBit]
    cases x.testBit i <;> cases m.testBit i <;> rfl)
  have whole : x ||| m = z ||| m := Nat.eq_of_testBit_eq (fun i => by
    simp only [z, Nat.testBit_and, Nat.testBit_xor, Nat.testBit_or]
    cases x.testBit i <;> cases m.testBit i <;> rfl)
  rw [whole, ← add_eq_or_of_and_eq_zero apart, Nat.add_sub_cancel]
  simp only [z, Nat.testBit_and, Nat.testBit_xor]
  cases x.testBit i <;> cases m.testBit i <;> rfl

/-- A number that ends in a zero and ones is followed by the one that ends in a one and zeros. -/
theorem succ_eq_of_testBit {x y : Nat} (i : Nat) (above : ∀ j, i < j → x.testBit j = y.testBit j)
    (hx : x.testBit i = false) (hy : y.testBit i = true) (ones : ∀ j < i, x.testBit j = true) (zeros : ∀ j < i, y.testBit j = false) :
    x + 1 = y := by
  have low : x % 2 ^ (i + 1) = 2 ^ i - 1 := Nat.eq_of_testBit_eq (fun j => by
    rw [Nat.testBit_mod_two_pow, Nat.testBit_two_pow_sub_one]
    rcases Nat.lt_trichotomy j i with h | rfl | h
    · simp [h, ones j h, Nat.lt_succ_of_lt h]
    · simp [hx]
    · simp [show ¬ j < i + 1 by omega, show ¬ j < i by omega])
  have low' : y % 2 ^ (i + 1) = 2 ^ i := Nat.eq_of_testBit_eq (fun j => by
    rw [Nat.testBit_mod_two_pow, Nat.testBit_two_pow]
    rcases Nat.lt_trichotomy j i with h | rfl | h
    · simp [zeros j h, show i ≠ j by omega]
    · simp [hy]
    · simp [show ¬ j < i + 1 by omega, show i ≠ j by omega])
  have high : x / 2 ^ (i + 1) = y / 2 ^ (i + 1) := Nat.eq_of_testBit_eq (fun j => by
    rw [Nat.testBit_div_two_pow, Nat.testBit_div_two_pow, above _ (by omega)])
  have hx := Nat.div_add_mod x (2 ^ (i + 1))
  have hy := Nat.div_add_mod y (2 ^ (i + 1))
  have pos := Nat.two_pow_pos i
  rw [low, high] at hx
  rw [low'] at hy
  omega

/-! ### Axes of a key (R107) -/

theorem axisVal_eq (D B x k : Nat) : axisVal D B x k = fromBits (fun i => x.testBit (i * D + k)) B := (fromBits_eq_sum _ _).symm

/-- The model's axis of a key is the axis of R107. -/
theorem axisOf_eq (D B x k : Nat) : axisOf ⟨D, B⟩ x k = axisVal D B x k := (axisVal_eq D B x k).symm

/-- The model's key of axis values is the key of R107. -/
theorem interleave_eq (D B : Nat) (f : Nat → Nat) : interleave ⟨D, B⟩ f = keyVal D B f := fromBits_eq_sum _ _

@[simp] theorem testBit_axisVal (D B x k i : Nat) : (axisVal D B x k).testBit i = (decide (i < B) && x.testBit (i * D + k)) := by
  rw [axisVal_eq, testBit_fromBits]

/-- A bit of an axis is a bit of the key. -/
theorem keyBit_lt {D B k i : Nat} (hk : k < D) (hi : i < B) : i * D + k < D * B := by
  have := Nat.mul_le_mul_right D (Nat.succ_le_of_lt hi)
  rw [Nat.succ_mul, Nat.mul_comm B] at this
  omega

/-- A bit of the key is a bit of an axis. -/
theorem axisBit_lt {D B i : Nat} (hi : i < D * B) : i / D < B := Nat.div_lt_of_lt_mul hi

/-- Masking a key leaves its axes alone. -/
theorem axisVal_mask {D B k : Nat} (x : Nat) (hk : k < D) : axisVal D B (x % 2 ^ (D * B)) k = axisVal D B x k := by
  refine Nat.eq_of_testBit_eq (fun i => ?_)
  simp only [testBit_axisVal, Nat.testBit_mod_two_pow]
  by_cases hi : i < B
  · simp [hi, keyBit_lt hk hi]
  · simp [hi]

theorem testBit_of_key {n x i : Nat} (hx : x < 2 ^ n) (hi : n ≤ i) : x.testBit i = false :=
  Nat.testBit_lt_two_pow (hx.trans_le (Nat.pow_le_pow_right (by decide) hi))

/-- Keys are ordered as the axis of the highest bit in which they differ. -/
theorem axisVal_lt_of_top {D B x y i : Nat} (hi : i < D * B) (hx : x.testBit i = false) (hy : y.testBit i = true)
    (above : ∀ j, i < j → x.testBit j = y.testBit j) : axisVal D B x (i % D) < axisVal D B y (i % D) := by
  have place : i / D * D + i % D = i := Nat.div_add_mod' i D
  refine Nat.lt_of_testBit (i / D) ?_ ?_ (fun j hj => ?_)
  · rw [testBit_axisVal, place, hx, Bool.and_false]
  · rw [testBit_axisVal, place, hy, decide_eq_true (axisBit_lt hi), Bool.true_and]
  · have higher : i / D * D < j * D := Nat.mul_lt_mul_of_pos_right hj (Nat.pos_of_lt_mul_right hi)
    have next := Nat.mul_le_mul_right D (Nat.succ_le_of_lt hj)
    rw [Nat.succ_mul] at next
    have inside := Nat.mod_lt i (Nat.pos_of_lt_mul_right hi : 0 < D)
    rw [testBit_axisVal, testBit_axisVal, above _ (by omega)]

/-- A key that is no less on any axis is no less (R107). -/
theorem le_of_axisVal_le {D B x y : Nat} (hx : x < 2 ^ (D * B)) (axes : ∀ k < D, axisVal D B x k ≤ axisVal D B y k) : x ≤ y := by
  by_contra less
  obtain ⟨i, hy, one, above⟩ := exists_top_bit (Nat.lt_of_not_le less)
  have hi : i < D * B := by
    by_contra far
    rw [testBit_of_key hx (Nat.le_of_not_lt far)] at one
    cases one
  have pos : 0 < D := Nat.pos_of_lt_mul_right hi
  have := axisVal_lt_of_top hi hy one above
  have := axes _ (Nat.mod_lt i pos)
  omega

end Sys2Proof.Machine
end

section
/-! Shapes (R106), and what the instructions of the curve class share: a result that raises no flag (R110). -/
namespace Sys2Proof.Machine

/-- What the fields of a valid %cshape say (R106). -/
theorem gridOf_eq_some_iff {v : BitVec 16} {D B : Nat} :
    gridOf v = some ⟨D, B⟩ ↔ v = BitVec.ofNat 16 (16 * B + D) ∧ 1 ≤ D ∧ D ≤ 8 ∧ 1 ≤ B ∧ D * B ≤ 64 := by
  have wide (one : 1 ≤ D) (fits : D * B ≤ 64) : B ≤ 64 := (Nat.le_mul_of_pos_left B one).trans fits
  unfold gridOf
  constructor
  · intro h
    dsimp only at h
    split_ifs at h with valid
    obtain ⟨hd, hd', hb, hb', fits, rest⟩ := valid
    cases h
    refine ⟨BitVec.eq_of_toNat_eq ?_, hd, hd', hb, fits⟩
    rw [BitVec.toNat_ofNat]
    omega
  · rintro ⟨rfl, hd, hd', hb, fits⟩
    have := wide hd fits
    have value : (BitVec.ofNat 16 (16 * B + D)).toNat = 16 * B + D := by rw [BitVec.toNat_ofNat]; omega
    have axes : (16 * B + D) % 16 = D := by omega
    have bits : (16 * B + D) / 16 % 128 = B := by omega
    dsimp only
    rw [value, axes, bits, if_pos ⟨hd, hd', hb, this, fits, by omega⟩]

theorem State.Shaped.gridOf_eq {s : State} {D B : Nat} (h : s.Shaped D B) : gridOf s.w.cshape = some ⟨D, B⟩ :=
  gridOf_eq_some_iff.2 ⟨h.shape, h.axes⟩

theorem State.Shaped.grid_eq {s : State} {D B : Nat} (h : s.Shaped D B) : s.grid = ⟨D, B⟩ := by
  rw [State.grid, h.gridOf_eq]; rfl

theorem State.Shaped.gridBad_eq {s : State} {D B : Nat} (h : s.Shaped D B) : s.gridBad = false := by
  rw [State.gridBad, h.gridOf_eq]; rfl

theorem State.gridBad_of_not_shaped {s : State} (h : ∀ D B, ¬ s.Shaped D B) : s.gridBad = true := by
  rw [State.gridBad, Option.isNone_iff_eq_none, Option.eq_none_iff_forall_ne_some]
  rintro ⟨D, B⟩ e
  obtain ⟨shape, axes⟩ := gridOf_eq_some_iff.1 e
  exact h D B ⟨shape, axes⟩

/-! ### Results that raise no flag -/

theorem flagsOf_zero (act : Lanes) : flagsOf act (fun _ => 0) = 0 := by simp [flagsOf]

section
variable {s : State} {i : Instr} {acc : Accept} {ops : List Opnd} {illegal : Bool} {k : Consts}

theorem State.vecCase_of_vmap {n : Nat} {f : W64 → W64 → W64 → W64} {F : State → Nat → W64 → W64 → W64 → W64 × BitVec 5}
    (runs : exec i s = s.vmap acc ops illegal k n none F) (legal : illegal = false) (hn : n = 1 ∨ n = 2)
    (lane : ∀ L X Y Z, F s L X Y Z = (f X Y Z, 0)) : s.VecCase i acc ops k n f := by
  intro admitted
  subst legal
  obtain ⟨u, next, result⟩ := State.vmap_spec k F hn admitted
  simp only [lane, flagsOf_zero] at result
  exact ⟨u, runs.trans next, result⟩

theorem State.predCase_of_vpred {p : BitVec 3} {f : Nat → W64 → W64 → Bool} {F : State → Nat → W64 → W64 → Bool × BitVec 5}
    (runs : exec i s = s.vpred acc ops illegal k p F) (legal : illegal = false) (lane : ∀ L X Y, F s L X Y = (f L X Y, 0)) :
    s.PredCase i acc ops k p f (fun _ _ => 0) := by
  intro admitted
  subst legal
  obtain ⟨u, next, result⟩ := State.vpred_spec k p F admitted
  simp only [lane] at result
  exact ⟨u, runs.trans next, result⟩

theorem State.scalCase_of_smap {f : W64 → W64 → W64 → W64} {F : State → W64 → W64 → W64 → W64 × BitVec 5}
    (runs : exec i s = s.smap acc ops illegal k F) (legal : illegal = false) (value : ∀ X Y Z, F s X Y Z = (f X Y Z, 0)) :
    s.ScalCase i acc ops k f noFlag := by
  intro admitted
  subst legal
  obtain ⟨u, next, result⟩ := State.smap_spec k F admitted
  simp only [value] at result
  exact ⟨u, runs.trans next, result⟩

/-- A change of the warp that keeps its units and its workgroup, and the queue entries that go: nothing else is changed. -/
theorem State.setW_result (fresh : s.u.issued = none) {w : Warp} (units : w.units = s.w.units) (group : w.wg = s.w.wg) :
    s.WarpResult ((s.setW w).pop (s.popped ops)) ops w := by
  have warp := State.w_result fresh units 0 (s.popped ops)
  have rest := State.onlyWarp s w group 0 (s.popped ops)
  rw [State.raise_zero] at warp rest
  exact ⟨warp, rest⟩

theorem State.pop_result (fresh : s.u.issued = none) : s.WarpResult (s.pop (s.popped ops)) ops s.w :=
  ⟨State.w_pop fresh _, State.onlyWarp_pop s _⟩

/-- A change of the warp that is made once, if ACT is not empty (R30). -/
theorem State.sdo_spec {w : Warp} {K : State → Eff} (changes : K s = .done (s.setW w)) (units : w.units = s.w.units)
    (group : w.wg = s.w.wg) (h : s.Admits acc ops) :
    ∃ u, s.sdo acc ops false K = .next u.retire ∧ s.WarpResult u ops (if s.act = 0 then s.w else w) := by
  have ⟨_, _, _, _, _, fresh⟩ := h
  unfold State.sdo
  by_cases idle : s.act = 0
  · rw [if_pos idle]
    exact ⟨_, State.issue_done h (if_pos idle), State.pop_result fresh⟩
  · rw [if_neg idle]
    exact ⟨_, State.issue_done h ((if_neg idle).trans changes), State.setW_result fresh units group⟩

/-- A scalar register that is written once, if ACT is not empty. -/
theorem State.sdo_setSreg_spec {e : Nat} {v : W64} {K : State → Eff} (writes : K s = .done (s.setSreg e v)) (h : s.Admits acc ops) :
    ∃ u, s.sdo acc ops false K = .next u.retire ∧ s.ScalResult u ops e v 0 := by
  obtain ⟨u, next, warp, rest⟩ := State.sdo_spec (w := s.w.setSreg e v) writes rfl rfl h
  refine ⟨u, next, fun m => ?_, ?_, rest⟩
  · have value : u.w.sreg m = (if s.act = 0 then s.w else s.w.setSreg e v).sreg m := by rw [warp]; rfl
    rw [value]
    by_cases idle : s.act = 0
    · rw [if_pos idle, if_neg (fun h => h.2 idle)]
    · rw [if_neg idle, Warp.sreg_setSreg]
      simp only [ne_eq, idle, not_false_eq_true, and_true]
  · rw [warp]
    split_ifs <;> rfl

end

end Sys2Proof.Machine
end

section
/-! CSHAPE, CZIP and CUNZ (R112, R113). -/
namespace Sys2Proof.Machine

/-- CSHAPE of a valid shape is legal. -/
theorem State.cshape_spec {s : State} {c b : BitVec 7} (admitted : s.Admits acceptAll []) (hb : 1 ≤ b.toNat) (hb' : b.toNat ≤ 8)
    (hi : 1 ≤ (s.imm32 c).toNat) (fits : b.toNat * (s.imm32 c).toNat ≤ 64) :
    s.Completes (.cshape c b) (fun u => s.WarpResult u []
      (if s.act = 0 then s.w else { s.w with cshape := BitVec.ofNat 16 (16 * (s.imm32 c).toNat + b.toNat) })) := by
  have wide : (s.imm32 c).toNat ≤ 64 := (Nat.le_mul_of_pos_left _ hb).trans fits
  have valid := gridOf_eq_some_iff.2 ⟨rfl, hb, hb', hi, fits⟩
  have runs : exec (.cshape c b) s = execCshape c b s := rfl
  simp only [State.Completes, runs, execCshape, valid, Option.isNone_some, Bool.false_or, decide_eq_false (Nat.not_lt.2 wide),
    decide_eq_false (Nat.not_lt.2 hb')]
  exact State.sdo_spec rfl rfl rfl admitted

/-- The vector operands of CZIP: the axes are registers of their own, or one pair (R113). -/
def zipOps (D B : Nat) (b a : BitVec 7) : List Opnd := [vd .a a 2, if 32 < B then vblock .b b 2 2 else vblock .b b D 1]

section
variable {s : State} {D B : Nat} (shaped : s.Shaped D B) (b a : BitVec 7)
include shaped

theorem State.czip_vec_spec (admitted : s.Admits acceptGX (zipOps D B b a)) :
    s.Completes (.czip 0 b a) (fun u => s.VecResult u (zipOps D B b a) 2 (s.regAt (zipOps D B b a) .a)
      (fun L => BitVec.ofNat 64 (keyVal D B (fun k => if 32 < B then (s.w.pair (s.regAt (zipOps D B b a) .b) L).toNat
        else (s.w.vreg (s.regAt (zipOps D B b a) .b + k) L).toNat))) 0) := by
  have ⟨_, _, _, _, _, fresh⟩ := admitted
  have runs : exec (.czip 0 b a) s = execCzip 0 b a s := rfl
  refine ⟨_, ?_, State.raise_zero _ ▸ State.writeA_result fresh (zipOps D B b a) 2 (.inr rfl) _ 0⟩
  simp only [runs, execCzip, shaped.grid_eq, shaped.gridBad_eq, interleave_eq]
  exact (if_neg (by decide)).trans (State.issue_done admitted rfl)

theorem State.czip_scal_spec (admitted : s.Admits acceptGX [sd .a a, sblock .b b D]) :
    s.Completes (.czip 1 b a) (fun u => s.ScalResult u [sd .a a, sblock .b b D] (s.regAt [sd .a a, sblock .b b D] .a)
      (BitVec.ofNat 64 (keyVal D B (fun k => (s.w.sreg (s.regAt [sd .a a, sblock .b b D] .b + k)).toNat))) 0) := by
  have runs : exec (.czip 1 b a) s = execCzip 1 b a s := rfl
  simp only [State.Completes, runs, execCzip, shaped.grid_eq, shaped.gridBad_eq, interleave_eq, if_true]
  exact State.sdo_setSreg_spec rfl admitted

/-- CUNZ of an axis of the shape, lane by lane. -/
theorem State.cunz_vec_case {x : BitVec 3} (hx : x.toNat < D) :
    s.VecCase (.cunz 0 x b a) acceptGX [vd .a a (if 32 < B then 2 else 1), vkey .b b] intConsts (if 32 < B then 2 else 1)
      (fun _ X _ => BitVec.ofNat 64 (axisVal D B X.toNat x.toNat)) := by
  have runs : exec (.cunz 0 x b a) s = execCunz 0 x b a s := rfl
  simp only [execCunz, shaped.grid_eq, shaped.gridBad_eq, axisOf_eq, Bool.false_or] at runs
  exact State.vecCase_of_vmap (runs.trans (if_neg (by decide))) (decide_eq_false (Nat.not_le.2 hx)) (by split_ifs <;> decide)
    (fun _ _ _ _ => rfl)

theorem State.cunz_scal_case {x : BitVec 3} (hx : x.toNat < D) :
    s.ScalCase (.cunz 1 x b a) acceptGX (ss2 b a) intConsts (fun _ X _ => BitVec.ofNat 64 (axisVal D B X.toNat x.toNat)) noFlag := by
  have runs : exec (.cunz 1 x b a) s = execCunz 1 x b a s := rfl
  simp only [execCunz, shaped.grid_eq, shaped.gridBad_eq, axisOf_eq, Bool.false_or] at runs
  exact State.scalCase_of_smap (runs.trans (if_pos trivial)) (decide_eq_false (Nat.not_le.2 hx)) (fun _ _ _ => rfl)

end

/-- CUNZ without a valid shape, or of an axis that the shape lacks, is illegal. -/
theorem State.cunz_illegal {s : State} {x : BitVec 3} (bad : s.gridBad = true ∨ s.grid.d ≤ x.toNat) (k : BitVec 1) (b a : BitVec 7) :
    exec (.cunz k x b a) s = .next (s.takeTrap .illegalOp s.ir.toNat) := by
  have runs : exec (.cunz k x b a) s = execCunz k x b a s := rfl
  have illegal : (s.gridBad || decide (s.grid.d ≤ x.toNat)) = true := by simpa using bad
  simp only [runs, execCunz, State.smap, State.vmap]
  split_ifs <;> exact State.issue_illegal _ (.inr (.inl illegal))

theorem State.czip_illegal {s : State} (bad : s.gridBad = true) (k : BitVec 1) (b a : BitVec 7) :
    exec (.czip k b a) s = .next (s.takeTrap .illegalOp s.ir.toNat) := by
  have runs : exec (.czip k b a) s = execCzip k b a s := rfl
  simp only [runs, execCzip, State.sdo]
  split_ifs <;> exact State.issue_illegal _ (.inr (.inl bad))

/-- Settles O18: the model's grid is the shape, and its keys and axes are those of R107. -/
theorem curveShapesAndKeys : Obligations.CurveShapesAndKeys := by
  intro s c b a x D B
  refine ⟨fun admitted => State.cshape_spec admitted, fun shaped => ⟨fun admitted => State.czip_vec_spec shaped b a admitted,
    fun admitted => State.czip_scal_spec shaped b a admitted,
    fun hx => ⟨State.cunz_vec_case shaped b a hx, State.cunz_scal_case shaped b a hx⟩, fun lacks k => ?_⟩, fun none k => ?_⟩
  · exact State.cunz_illegal (.inr (shaped.grid_eq.symm ▸ lacks)) k b a
  · have bad := State.gridBad_of_not_shaped none
    exact ⟨State.czip_illegal bad k b a, State.cunz_illegal (.inl bad) k b a⟩

end Sys2Proof.Machine
end

section
/-! A value that is listed twice at one key. -/
namespace Sys2Proof

theorem Table.set_set {α : Type} (t : Table α) (n : Nat) (x y : α) : Table.set (Table.set t n x) n y = Table.set t n y := by
  induction t with
  | nil => simp [Table.set]
  | cons p t ih =>
    obtain ⟨k, v⟩ := p
    rcases Nat.lt_trichotomy k n with h | rfl | h
    · simp [Table.set, show k ≠ n by omega, show ¬ n < k by omega, ih]
    · simp [Table.set]
    · simp [Table.set, show k ≠ n by omega, h]

end Sys2Proof
end

section
/-! CADD and CSUB (R109, R114). -/
namespace Sys2Proof.Machine

theorem State.setW_setW (s : State) (v w : Warp) : (s.setW v).setW w = s.setW w := by
  simp only [State.setW, State.setWarp, Table.set_set]

/-- The bits that are set in the lanes of a list stay set (R109). -/
theorem getLsbD_orFlags (t : Table Byte) (f : Nat → Byte) (ls : List Nat) (L k : Nat) :
    (Table.get 0#8 (orFlags t f ls) L).getLsbD k = ((Table.get 0#8 t L).getLsbD k || (decide (L ∈ ls) && (f L).getLsbD k)) := by
  induction ls generalizing t with
  | nil => simp [orFlags]
  | cons J ls ih =>
    rw [orFlags, ih, Table.get_put]
    by_cases h : L = J
    · subst h
      simp only [if_true, BitVec.getLsbD_or, List.mem_cons, true_or, decide_true]
      cases (f L).getLsbD k <;> simp
    · simp [h]

section
variable {D : Nat} (flows : Nat → Bool)

/-- A byte of flags, one an axis. -/
theorem getLsbD_flagByte (D : Nat) {k : Nat} (hk : k < 8) : (BitVec.ofNat 8 (fromBits flows D)).getLsbD k = (decide (k < D) && flows k) := by
  rw [BitVec.getLsbD_ofNat, testBit_fromBits, decide_eq_true hk, Bool.true_and]

theorem flagByte_ne_zero (axes : D ≤ 8) : decide (BitVec.ofNat 8 (fromBits flows D) ≠ 0) = (List.range D).any flows := by
  rw [Bool.eq_iff_iff, decide_eq_true_iff, List.any_eq_true]
  constructor
  · intro flagged
    by_contra none
    refine flagged (BitVec.eq_of_getLsbD_eq (fun k hk => ?_))
    rw [getLsbD_flagByte flows D hk]
    by_contra raised
    obtain ⟨inside, flow⟩ : k < D ∧ flows k = true := by simpa using raised
    exact none ⟨k, List.mem_range.2 inside, flow⟩
  · rintro ⟨k, inside, flow⟩ zero
    have inside := List.mem_range.1 inside
    have bit := getLsbD_flagByte flows D (k := k) (by omega)
    rw [zero, decide_eq_true inside, flow] at bit
    simp at bit

end

/-- The warp after CADD or CSUB: the destination pair, the overflow flags, and p6 where it is asked for. -/
def Warp.offset (w : Warp) (act : Lanes) (e : Nat) (val : Nat → W64) (flags : Nat → Byte) (q : BitVec 1) : Warp :=
  let v := { w.setPair act e val with cflags := orFlags w.cflags flags (Lanes.list act) }
  if q = 1 then v.setPred act 6 (Lanes.of (fun L => decide (flags L ≠ 0))) else v

section
variable (w : Warp) (act : Lanes) (e : Nat) (val : Nat → W64) (flags : Nat → Byte) (q : BitVec 1)

theorem Warp.offset_rest : w.offset act e val flags q =
    { w with vregs := (w.setPair act e val).vregs, cflags := orFlags w.cflags flags (Lanes.list act),
             preds := (w.offset act e val flags q).preds } := by
  unfold Warp.offset
  split_ifs <;> rfl

theorem Warp.getLsbD_pred_offset (r : Nat) {L : Nat} (hL : L < 32) : ((w.offset act e val flags q).pred r).getLsbD L =
    if r = 6 ∧ q = 1 ∧ act.getLsbD L = true then decide (flags L ≠ 0) else (w.pred r).getLsbD L := by
  unfold Warp.offset
  by_cases asked : q = 1
  · have written := Warp.getLsbD_pred_setPred { w.setPair act e val with cflags := orFlags w.cflags flags (Lanes.list act) } act 6
      (Lanes.of (fun L => decide (flags L ≠ 0))) r L hL
    rw [Lanes.getLsbD_of _ _ hL] at written
    simp only [if_pos asked, written]
    simp only [asked, true_and, ne_eq, OfNat.ofNat_ne_zero, not_false_eq_true]
    rfl
  · simp only [asked, false_and, and_false, if_false]
    rfl

end

/-- What CADD and CSUB do: the pair in the lanes of ACT, the flags of the axes that overflowed, p6 where it is asked for, and
nothing else. -/
structure State.OffsetResult (s u : State) (ops : List Opnd) (D : Nat) (q : BitVec 1) (val : Nat → W64) (flows : Nat → Nat → Bool) : Prop where
  value  : ∀ L, L < 32 → s.act.getLsbD L = true → u.w.pair (s.regAt ops .a) L = val L
  kept   : ∀ r L, L < 32 → (s.act.getLsbD L = false ∨ r < s.regAt ops .a ∨ s.regAt ops .a + 2 ≤ r) → u.w.vreg r L = s.w.vreg r L
  sticky : ∀ L k, L < 32 → k < 8 → (Table.get 0#8 u.w.cflags L).getLsbD k =
    ((Table.get 0#8 s.w.cflags L).getLsbD k || (s.act.getLsbD L && decide (k < D) && flows L k))
  anyOf  : ∀ r L, L < 32 → (u.w.pred r).getLsbD L =
    if r = 6 ∧ q = 1 ∧ s.act.getLsbD L = true then (List.range D).any (flows L) else (s.w.pred r).getLsbD L
  warp   : u.w = { s.w with vregs := u.w.vregs, cflags := u.w.cflags, preds := u.w.preds, opq := s.w.opq.drop (s.popped ops) }
  rest   : s.OnlyWarp u 0

/-- The byte of the axes of a lane that overflowed. -/
def flagByte (D : Nat) (flows : Nat → Nat → Bool) (L : Nat) : Byte := BitVec.ofNat 8 (fromBits (flows L) D)

theorem State.offset_result {s : State} (fresh : s.u.issued = none) {ops : List Opnd} {D : Nat} (axes : D ≤ 8) (q : BitVec 1)
    (val : Nat → W64) (flows : Nat → Nat → Bool) :
    s.OffsetResult ((s.setW (s.w.offset s.act (s.regAt ops .a) val (flagByte D flows) q)).pop (s.popped ops)) ops D q val flows := by
  have shape := s.w.offset_rest s.act (s.regAt ops .a) val (flagByte D flows) q
  have preds := s.w.getLsbD_pred_offset s.act (s.regAt ops .a) val (flagByte D flows) q
  generalize s.w.offset s.act (s.regAt ops .a) val (flagByte D flows) q = w at shape preds
  obtain ⟨warp, rest⟩ := s.setW_result (ops := ops) fresh (w := w) (by rw [shape]) (by rw [shape])
  have vregs (r L : Nat) : ((s.setW w).pop (s.popped ops)).w.vreg r L = (s.w.setPair s.act (s.regAt ops .a) val).vreg r L := by
    rw [warp, shape]; rfl
  refine ⟨fun L hL lane => ?_, fun r L hL out => ?_, fun L k hL hk => ?_, fun r L hL => ?_, ?_, rest⟩
  · exact (congrArg₂ _ (vregs _ L) (vregs _ L)).trans (Warp.pair_setPair _ _ _ _ _ hL lane)
  · rw [vregs, Warp.vreg_setPair _ _ _ _ _ _ hL]
    rcases out with idle | below | beyond
    · simp [idle]
    · rw [if_neg (by omega), if_neg (by omega)]
    · rw [if_neg (by omega), if_neg (by omega)]
  · have flags : ((s.setW w).pop (s.popped ops)).w.cflags = orFlags s.w.cflags (flagByte D flows) (Lanes.list s.act) := by rw [warp, shape]
    rw [flags, getLsbD_orFlags, flagByte, getLsbD_flagByte _ _ hk]
    simp [Lanes.mem_list, hL, Bool.and_assoc]
  · have pred : ((s.setW w).pop (s.popped ops)).w.pred r = w.pred r := by rw [warp]; rfl
    rw [pred, preds r hL, flagByte, flagByte_ne_zero _ axes]
  · rw [warp, shape]

theorem State.coffset_spec {s : State} {D B : Nat} (shaped : s.Shaped D B) {i : Instr} {sub : Bool} {c b : BitVec 7} {d : BitVec 6} {q : BitVec 1}
    (runs : exec i s = s.coffset sub c b d q) (admitted : s.Admits acceptAll (offsetOps c b d)) :
    let X := fun L => (s.valueAt intConsts (offsetOps c b d) .b L).toNat
    let Y := fun L => (s.valueAt intConsts (offsetOps c b d) .c L).toNat
    s.Completes i (fun u => s.OffsetResult u (offsetOps c b d) D q
      (fun L => BitVec.ofNat 64 (keyVal D B (fun k => (offsetSum sub B (axisVal D B (X L) k) (axisVal D B (Y L) k) % 2 ^ B).toNat)))
      (fun L k => offsetOverflows sub B (axisVal D B (X L) k) (axisVal D B (Y L) k))) := by
  have ⟨_, _, _, _, _, fresh⟩ := admitted
  refine ⟨_, runs.trans ?_, State.offset_result fresh shaped.axes.2.1 q _ _⟩
  simp only [State.coffset, shaped.grid_eq, shaped.gridBad_eq, axisOf_eq, interleave_eq]
  refine State.issue_done admitted ?_
  simp only [State.writeA_setW, if_true, State.w_setW, State.setW_setW]
  rfl

end Sys2Proof.Machine
end

section
/-! CCMP, CINBOX, CLCP and CCELL (R115 to R118). -/
namespace Sys2Proof.Machine

/-- The tests of R115 by their codes. -/
theorem keyTest_eq {t : Nat} (legal : t < 6) (x y : Nat) :
    keyTest t x y = [decide (x = y), decide (x ≠ y), decide (x < y), decide (x ≤ y), decide (y < x), decide (y ≤ x)].getD t false := by
  interval_cases t <;> rfl

/-- The model's containment is that of R116, and does not depend on bits above the keys. -/
theorem inBox_mask_iff (D B lo hi x : Nat) :
    inBox ⟨D, B⟩ (lo % 2 ^ (D * B)) (hi % 2 ^ (D * B)) (x % 2 ^ (D * B)) = true ↔ boxed D B lo hi x := by
  simp only [inBox, axisOf_eq, List.all_eq_true, List.mem_range, Bool.and_eq_true, decide_eq_true_eq]
  refine forall₂_congr (fun k hk => ?_)
  rw [axisVal_mask lo hk, axisVal_mask hi hk, axisVal_mask x hk]

/-- The leading bits that CLCP counts agree, and the bit after them does not (R117). -/
theorem agreeFrom_spec (x y i : Nat) :
    agreeFrom x y i ≤ i ∧ (∀ j, i - agreeFrom x y i ≤ j → j < i → x.testBit j = y.testBit j) ∧
    (agreeFrom x y i < i → x.testBit (i - 1 - agreeFrom x y i) ≠ y.testBit (i - 1 - agreeFrom x y i)) := by
  induction i with
  | zero => exact ⟨le_refl _, fun j _ hj => absurd hj (Nat.not_lt_zero j), fun h => absurd h (Nat.lt_irrefl 0)⟩
  | succ i ih =>
    obtain ⟨le, agree, differ⟩ := ih
    rw [agreeFrom]
    by_cases top : x.testBit i = y.testBit i
    · rw [if_pos top]
      refine ⟨by omega, fun j low high => ?_, fun short => ?_⟩
      · rcases Nat.eq_or_lt_of_le (Nat.le_of_lt_succ high) with rfl | high
        · exact top
        · exact agree j (by omega) high
      · rw [show i + 1 - 1 - (1 + agreeFrom x y i) = i - 1 - agreeFrom x y i by omega]
        exact differ (by omega)
    · rw [if_neg top]
      exact ⟨Nat.zero_le _, fun j low high => by omega, fun _ => top⟩

/-- Keys whose leading bits agree are the same without the others. -/
theorem shiftRight_agreeFrom {n x y : Nat} (hx : x < 2 ^ n) (hy : y < 2 ^ n) :
    x >>> (n - agreeFrom x y n) = y >>> (n - agreeFrom x y n) := by
  refine Nat.eq_of_testBit_eq (fun j => ?_)
  rw [Nat.testBit_shiftRight, Nat.testBit_shiftRight]
  by_cases inside : n - agreeFrom x y n + j < n
  · exact (agreeFrom_spec x y n).2.1 _ (by omega) inside
  · rw [testBit_of_key hx (by omega), testBit_of_key hy (by omega)]

/-- A test whose code names none is illegal (R115). -/
theorem State.ccmp_illegal {s : State} {t : BitVec 3} (h : 6 ≤ t.toNat) (c b : BitVec 7) (p : BitVec 3) :
    exec (.ccmp c b t p) s = .next (s.takeTrap .illegalOp s.ir.toNat) := by
  have bad : (Instr.ccmp c b t p).wf = false := decide_eq_false (by omega)
  have illegal : (s.gridBad || !(Instr.ccmp c b t p).wf) = true := by rw [bad]; exact Bool.or_true _
  have runs : exec (.ccmp c b t p) s = execCcmp c b t p s := rfl
  rw [runs, execCcmp, State.vpred]
  exact State.issue_illegal _ (.inr (.inl illegal))

/-- A level above the shape's bits is illegal (R118). -/
theorem State.ccell_illegal {s : State} {c : BitVec 7} (h : s.grid.b < (s.imm32 c).toNat) (b a : BitVec 7) :
    exec (.ccell c b a) s = .next (s.takeTrap .illegalOp s.ir.toNat) := by
  have illegal : (s.gridBad || decide (s.grid.b < (s.imm32 c).toNat)) = true := by rw [decide_eq_true h, Bool.or_true]
  have runs : exec (.ccell c b a) s = execCcell c b a s := rfl
  rw [runs, execCcell, State.vmap]
  exact State.issue_illegal _ (.inr (.inl illegal))

section
variable {s : State} {D B : Nat} (shaped : s.Shaped D B)
include shaped

theorem State.Shaped.maskKey_eq (X : W64) : maskKey s.grid X = X.toNat % 2 ^ (D * B) := by
  rw [maskKey, shaped.grid_eq]; rfl

theorem State.ccmp_case {t : BitVec 3} (legal : t.toNat < 6) (c b : BitVec 7) (p : BitVec 3) :
    s.PredCase (.ccmp c b t p) acceptAll [vkey .b b, vkey .c c] intConsts p
      (fun _ X Y => keyTest t.toNat (X.toNat % 2 ^ (D * B)) (Y.toNat % 2 ^ (D * B))) (fun _ _ => 0) := by
  have wf : (Instr.ccmp c b t p).wf = true := decide_eq_true (by omega)
  have runs : exec (.ccmp c b t p) s = execCcmp c b t p s := rfl
  unfold execCcmp at runs
  refine State.predCase_of_vpred runs (by rw [shaped.gridBad_eq, wf]; rfl) (fun L X Y => ?_)
  rw [shaped.maskKey_eq, shaped.maskKey_eq]

theorem State.cinbox_case (c b : BitVec 7) (p : BitVec 3) :
    s.PredCase (.cinbox c b p) acceptGX [vkey .b b, sblock .c c 3] intConsts p
      (fun _ X _ => inBox ⟨D, B⟩ ((s.w.sreg (s.regAt [vkey .b b, sblock .c c 3] .c)).toNat % 2 ^ (D * B))
        ((s.w.sreg (s.regAt [vkey .b b, sblock .c c 3] .c + 2)).toNat % 2 ^ (D * B)) (X.toNat % 2 ^ (D * B))) (fun _ _ => 0) := by
  have runs : exec (.cinbox c b p) s = execCinbox c b p s := rfl
  unfold execCinbox at runs
  refine State.predCase_of_vpred runs shaped.gridBad_eq (fun L X Y => ?_)
  simp only [State.corners, shaped.maskKey_eq]
  rw [shaped.grid_eq]

theorem State.clcp_case (c b a : BitVec 7) :
    s.VecCase (.clcp c b a) acceptAll [vd .a a 1, vkey .b b, vkey .c c] intConsts 1 (fun _ X Y =>
      let l := agreeFrom (X.toNat % 2 ^ (D * B)) (Y.toNat % 2 ^ (D * B)) (D * B)
      BitVec.ofNat 64 (l / D * 256 + l)) := by
  have runs : exec (.clcp c b a) s = execClcp c b a s := rfl
  unfold execClcp at runs
  refine State.vecCase_of_vmap runs shaped.gridBad_eq (.inl rfl) (fun L X Y Z => ?_)
  simp only [shaped.maskKey_eq]
  rw [shaped.grid_eq]
  rfl

theorem State.ccell_case {c : BitVec 7} (level : (s.imm32 c).toNat ≤ B) (b a : BitVec 7) :
    s.VecCase (.ccell c b a) acceptAll [vd .a a 2, vkey .b b] intConsts 2 (fun _ X _ =>
      BitVec.ofNat 64 (X.toNat % 2 ^ (D * B) - X.toNat % 2 ^ (D * B) % 2 ^ ((s.imm32 c).toNat * D))) := by
  have runs : exec (.ccell c b a) s = execCcell c b a s := rfl
  unfold execCcell at runs
  have legal : (s.gridBad || decide (s.grid.b < (s.imm32 c).toNat)) = false := by
    rw [shaped.gridBad_eq, shaped.grid_eq]
    exact decide_eq_false (Nat.not_lt.2 level)
  refine State.vecCase_of_vmap runs legal (.inr rfl) (fun L X Y Z => ?_)
  simp only [shaped.maskKey_eq, Nat.div_mul_self_eq_mod_sub_self]
  rw [shaped.grid_eq]

end

/-- Settles O19, each instruction by what it writes in a lane. -/
theorem curveArithmetic : Obligations.CurveArithmetic := by
  intro s c b a d q t p D B key j offset shaped
  have key_lt (X : W64) : key X < 2 ^ (D * B) := Nat.mod_lt _ (Nat.two_pow_pos _)
  have offsets {i : Instr} {sub : Bool} (runs : exec i s = s.coffset sub c b d q) : offset i sub := fun admitted => by
    obtain ⟨u, next, result⟩ := State.coffset_spec shaped runs admitted
    exact ⟨u, next, result.value, result.kept, result.sticky, result.anyOf, result.warp, result.rest⟩
  refine ⟨offsets rfl, offsets rfl, fun legal => ?_, fun h => State.ccmp_illegal h c b p, fun admitted => ?_, fun admitted => ?_,
    fun level => State.ccell_case shaped level b a, fun h => State.ccell_illegal (shaped.grid_eq.symm ▸ h) b a⟩
  · simp only [← keyTest_eq legal]
    exact State.ccmp_case shaped legal c b p
  · obtain ⟨u, next, result⟩ := State.cinbox_case shaped c b p admitted
    exact ⟨u, next, _, flagsOf_zero s.act ▸ result, fun L _ => inBox_mask_iff D B _ _ _⟩
  · obtain ⟨u, next, result⟩ := State.clcp_case shaped c b a admitted
    refine ⟨fun L => _, fun L _ => ?_, u, next, result⟩
    obtain ⟨le, _, differ⟩ := agreeFrom_spec (key (s.valueAt intConsts _ .b L)) (key (s.valueAt intConsts _ .c L)) (D * B)
    exact ⟨le, shiftRight_agreeFrom (key_lt _) (key_lt _), differ⟩

end Sys2Proof.Machine
end

section
/-! CNEXT and CPREV (R119): the construction halves a box bit by bit, and what it leaves out cannot hold the neighbouring key. -/
namespace Sys2Proof.Machine

/-! ### A corner changed at a bit (load0 and load1 of R119) -/

@[simp] theorem testBit_axisBelow (d i j : Nat) : (axisBelow d i).testBit j = (decide (j < i) && decide (j % d = i % d)) :=
  testBit_fromBits _ _ _

theorem testBit_load1 (d v i j : Nat) :
    (load1 d v i).testBit j = ((v.testBit j || decide (i = j)) && !(decide (j < i) && decide (j % d = i % d))) := by
  rw [load1, testBit_or_sub, Nat.testBit_or, Nat.testBit_two_pow, testBit_axisBelow]

theorem testBit_load0 (d v i j : Nat) :
    (load0 d v i).testBit j = ((v.testBit j && !decide (i = j)) || (decide (j < i) && decide (j % d = i % d))) := by
  rw [load0, Nat.testBit_or, testBit_or_sub, Nat.testBit_two_pow, testBit_axisBelow]

/-- Raising a corner at bit i keeps every higher bit. -/
theorem testBit_load1_above {i j : Nat} (d v : Nat) (h : i < j) : (load1 d v i).testBit j = v.testBit j := by
  simp [testBit_load1, show i ≠ j by omega, show ¬ j < i by omega]

theorem testBit_load0_above {i j : Nat} (d v : Nat) (h : i < j) : (load0 d v i).testBit j = v.testBit j := by
  simp [testBit_load0, show i ≠ j by omega, show ¬ j < i by omega]

@[simp] theorem testBit_load1_self (d v i : Nat) : (load1 d v i).testBit i = true := by simp [testBit_load1]
@[simp] theorem testBit_load0_self (d v i : Nat) : (load0 d v i).testBit i = false := by simp [testBit_load0]

theorem load1_lt {n v i : Nat} (d : Nat) (hi : i < n) (hv : v < 2 ^ n) : load1 d v i < 2 ^ n := by
  refine Nat.lt_pow_two_of_testBit _ (fun j hj => ?_)
  rw [testBit_load1_above d v (by omega), testBit_of_key hv hj]

theorem load0_lt {n v i : Nat} (d : Nat) (hi : i < n) (hv : v < 2 ^ n) : load0 d v i < 2 ^ n := by
  refine Nat.lt_pow_two_of_testBit _ (fun j hj => ?_)
  rw [testBit_load0_above d v (by omega), testBit_of_key hv hj]

/-- A bit of another axis than that of bit i. -/
theorem bit_of_other_axis {D i k : Nat} (hk : k < D) (ne : k ≠ i % D) (j : Nat) : i ≠ j * D + k ∧ k % D ≠ i % D := by
  have axis : k % D ≠ i % D := by rwa [Nat.mod_eq_of_lt hk]
  exact ⟨fun e => axis (by rw [e, Nat.mul_add_mod_self_right]), axis⟩

/-- A corner that is changed at bit i keeps every axis but that of bit i. -/
theorem axisVal_load1_ne {D i k : Nat} (B v : Nat) (hk : k < D) (ne : k ≠ i % D) : axisVal D B (load1 D v i) k = axisVal D B v k := by
  refine Nat.eq_of_testBit_eq (fun j => ?_)
  obtain ⟨other, axis⟩ := bit_of_other_axis hk ne j
  simp [testBit_load1, axis, other]

theorem axisVal_load0_ne {D i k : Nat} (B v : Nat) (hk : k < D) (ne : k ≠ i % D) : axisVal D B (load0 D v i) k = axisVal D B v k := by
  refine Nat.eq_of_testBit_eq (fun j => ?_)
  obtain ⟨other, axis⟩ := bit_of_other_axis hk ne j
  simp [testBit_load0, axis, other]

/-! ### Boxes and their halves (R116, R119) -/

/-- The keys of the box of two corners. -/
def boxKeys (D B lo hi : Nat) : Set Nat := {z | z < 2 ^ (D * B) ∧ boxed D B lo hi z}

/-- The corners of a box that is not empty: keys, the low one no greater than the high one on any axis. -/
structure KeyBox (D B lo hi : Nat) : Prop where
  low     : lo < 2 ^ (D * B)
  high    : hi < 2 ^ (D * B)
  ordered : ∀ k < D, axisVal D B lo k ≤ axisVal D B hi k

section
variable {D B lo hi : Nat}

theorem KeyBox.isLeast (h : KeyBox D B lo hi) : IsLeast (boxKeys D B lo hi) lo :=
  ⟨⟨h.low, fun k hk => ⟨le_refl _, h.ordered k hk⟩⟩, fun _ hz => le_of_axisVal_le h.low (fun k hk => (hz.2 k hk).1)⟩

theorem KeyBox.isGreatest (h : KeyBox D B lo hi) : IsGreatest (boxKeys D B lo hi) hi :=
  ⟨⟨h.high, fun k hk => ⟨h.ordered k hk, le_refl _⟩⟩, fun _ hz => le_of_axisVal_le hz.1 (fun k hk => (hz.2 k hk).2)⟩

/-- A box in which some axis of the low corner is greater holds no key. -/
theorem not_mem_boxKeys_of_lt {k z : Nat} (hk : k < D) (h : axisVal D B hi k < axisVal D B lo k) : z ∉ boxKeys D B lo hi :=
  fun hz => absurd ((hz.2 k hk).1.trans (hz.2 k hk).2) (by omega)

end

/-- Bit i is the highest in which the corners of a box differ, and parts it into a lower half and an upper one. -/
structure BoxParts (D B i lo hi : Nat) : Prop extends KeyBox D B lo hi where
  inside : i < D * B
  zero   : lo.testBit i = false
  one    : hi.testBit i = true
  same   : ∀ j, i < j → lo.testBit j = hi.testBit j

section
variable {D B i lo hi : Nat} (h : BoxParts D B i lo hi)
include h

theorem BoxParts.axes_pos : 0 < D := Nat.pos_of_lt_mul_right h.inside

/-- On the axis of bit i the halves lie side by side. -/
theorem BoxParts.adjoin : axisVal D B (load0 D hi i) (i % D) + 1 = axisVal D B (load1 D lo i) (i % D) := by
  have here := axisBit_lt h.inside
  have inside := Nat.mod_lt i h.axes_pos
  have place : i / D * D + i % D = i := Nat.div_add_mod' i D
  have step {j k : Nat} (hj : j < k) : j * D + D ≤ k * D := by
    have := Nat.mul_le_mul_right D (Nat.succ_le_of_lt hj)
    rwa [Nat.succ_mul] at this
  refine succ_eq_of_testBit (i / D) (fun j hj => ?_) ?_ ?_ (fun j hj => ?_) (fun j hj => ?_)
  · have := step hj
    have higher : i < j * D + i % D := by omega
    rw [testBit_axisVal, testBit_axisVal, testBit_load0_above D hi higher, testBit_load1_above D lo higher, h.same _ higher]
  · rw [testBit_axisVal, place, testBit_load0_self, Bool.and_false]
  · rw [testBit_axisVal, place, testBit_load1_self, decide_eq_true here, Bool.true_and]
  · have := step hj
    simp [testBit_load0, show j < B by omega, show j * D + i % D < i by omega]
  · have := step hj
    simp [testBit_load1, show j * D + i % D < i by omega]

theorem BoxParts.axisVal_le_load0 : axisVal D B lo (i % D) ≤ axisVal D B (load0 D hi i) (i % D) := by
  have := axisVal_lt_of_top h.inside h.zero (testBit_load1_self D lo i) (fun j hj => (testBit_load1_above D lo hj).symm)
  have := h.adjoin
  omega

theorem BoxParts.axisVal_load1_le : axisVal D B (load1 D lo i) (i % D) ≤ axisVal D B hi (i % D) := by
  have := axisVal_lt_of_top h.inside (testBit_load0_self D hi i) h.one (fun j hj => testBit_load0_above D hi hj)
  have := h.adjoin
  omega

theorem BoxParts.lower : KeyBox D B lo (load0 D hi i) where
  low := h.low
  high := load0_lt D h.inside h.high
  ordered k hk := by
    by_cases e : k = i % D
    · rw [e]; exact h.axisVal_le_load0
    · rw [axisVal_load0_ne B hi hk e]; exact h.ordered k hk

theorem BoxParts.upper : KeyBox D B (load1 D lo i) hi where
  low := load1_lt D h.inside h.low
  high := h.high
  ordered k hk := by
    by_cases e : k = i % D
    · rw [e]; exact h.axisVal_load1_le
    · rw [axisVal_load1_ne B lo hk e]; exact h.ordered k hk

/-- A key lies in the box where it lies in a half. -/
theorem BoxParts.boxKeys_eq : boxKeys D B lo hi = boxKeys D B lo (load0 D hi i) ∪ boxKeys D B (load1 D lo i) hi := by
  have side := h.adjoin
  have low := h.axisVal_le_load0
  have high := h.axisVal_load1_le
  ext z
  constructor
  · rintro ⟨key, box⟩
    have split : axisVal D B z (i % D) ≤ axisVal D B (load0 D hi i) (i % D) ∨ axisVal D B (load1 D lo i) (i % D) ≤ axisVal D B z (i % D) := by
      omega
    refine split.imp (fun below => ⟨key, fun k hk => ⟨(box k hk).1, ?_⟩⟩) (fun above => ⟨key, fun k hk => ⟨?_, (box k hk).2⟩⟩)
    · by_cases e : k = i % D
      · rw [e]; exact below
      · rw [axisVal_load0_ne B hi hk e]; exact (box k hk).2
    · by_cases e : k = i % D
      · rw [e]; exact above
      · rw [axisVal_load1_ne B lo hk e]; exact (box k hk).1
  · rintro (⟨key, box⟩ | ⟨key, box⟩) <;> refine ⟨key, fun k hk => ?_⟩
    · refine ⟨(box k hk).1, (box k hk).2.trans ?_⟩
      by_cases e : k = i % D
      · rw [e]; omega
      · rw [axisVal_load0_ne B hi hk e]
    · refine ⟨le_trans ?_ (box k hk).1, (box k hk).2⟩
      by_cases e : k = i % D
      · rw [e]; omega
      · rw [axisVal_load1_ne B lo hk e]

theorem BoxParts.load0_lt_load1 : load0 D hi i < load1 D lo i :=
  Nat.lt_of_testBit i (testBit_load0_self D hi i) (testBit_load1_self D lo i)
    (fun j hj => by rw [testBit_load0_above D hi hj, testBit_load1_above D lo hj, h.same j hj])

end

/-- The construction of R119 has come to bit i: what is left of the box agrees with y from there on. -/
structure BoxCorners (D B i y lo hi : Nat) : Prop extends KeyBox D B lo hi where
  agree : ∀ j, i ≤ j → lo.testBit j = y.testBit j ∧ hi.testBit j = y.testBit j

section
variable {D B i y lo hi : Nat}

/-- At the end the box holds y alone. -/
theorem BoxCorners.eq_of_zero (h : BoxCorners D B 0 y lo hi) : lo = y ∧ hi = y :=
  ⟨Nat.eq_of_testBit_eq (fun j => (h.agree j (Nat.zero_le j)).1), Nat.eq_of_testBit_eq (fun j => (h.agree j (Nat.zero_le j)).2)⟩

section
variable (h : BoxCorners D B (i + 1) y lo hi)
include h

theorem BoxCorners.same (j : Nat) (hj : i < j) : lo.testBit j = hi.testBit j := by
  obtain ⟨e, e'⟩ := h.agree j hj
  rw [e, e']

/-- Where the corners agree with y at bit i too, the whole box is left. -/
theorem BoxCorners.next (hl : lo.testBit i = y.testBit i) (hh : hi.testBit i = y.testBit i) : BoxCorners D B i y lo hi where
  toKeyBox := h.toKeyBox
  agree j hj := by
    rcases Nat.eq_or_lt_of_le hj with rfl | hj
    · exact ⟨hl, hh⟩
    · exact h.agree j hj

/-- A low corner with a one where the high corner has a zero would be greater on the axis of that bit. -/
theorem BoxCorners.not_crossed (inside : i < D * B) (one : lo.testBit i = true) (zero : hi.testBit i = false) : False := by
  have := axisVal_lt_of_top inside zero one (fun j hj => (h.same j hj).symm)
  have := h.ordered _ (Nat.mod_lt i (Nat.pos_of_lt_mul_right inside))
  omega

theorem BoxCorners.parts (inside : i < D * B) (zero : lo.testBit i = false) (one : hi.testBit i = true) : BoxParts D B i lo hi :=
  ⟨h.toKeyBox, inside, zero, one, h.same⟩

/-- The half that agrees with y at bit i. -/
theorem BoxCorners.lower (p : BoxParts D B i lo hi) (hy : y.testBit i = false) : BoxCorners D B i y lo (load0 D hi i) where
  toKeyBox := p.lower
  agree j hj := by
    rcases Nat.eq_or_lt_of_le hj with rfl | hj
    · rw [p.zero, testBit_load0_self, hy]; exact ⟨rfl, rfl⟩
    · rw [testBit_load0_above D hi hj]; exact h.agree j hj

theorem BoxCorners.upper (p : BoxParts D B i lo hi) (hy : y.testBit i = true) : BoxCorners D B i y (load1 D lo i) hi where
  toKeyBox := p.upper
  agree j hj := by
    rcases Nat.eq_or_lt_of_le hj with rfl | hj
    · rw [p.one, testBit_load1_self, hy]; exact ⟨rfl, rfl⟩
    · rw [testBit_load1_above D lo hj]; exact h.agree j hj

/-- Where y has a zero and the box only ones at bit i, y is less than every key of the box; and the other way round. -/
theorem BoxCorners.lt_low (hy : y.testBit i = false) (hl : lo.testBit i = true) : y < lo :=
  Nat.lt_of_testBit i hy hl (fun j hj => (h.agree j hj).1.symm)

theorem BoxCorners.high_lt (hy : y.testBit i = true) (hh : hi.testBit i = false) : hi < y :=
  Nat.lt_of_testBit i hh hy (fun j hj => (h.agree j hj).2)

theorem BoxCorners.lt_load1 (hy : y.testBit i = false) : y < load1 D lo i :=
  Nat.lt_of_testBit i hy (testBit_load1_self D lo i) (fun j hj => by rw [testBit_load1_above D lo hj, (h.agree j hj).1])

theorem BoxCorners.load0_lt (hy : y.testBit i = true) : load0 D hi i < y :=
  Nat.lt_of_testBit i (testBit_load0_self D hi i) hy (fun j hj => by rw [testBit_load0_above D hi hj, (h.agree j hj).2])

end
end

/-! ### The construction of R119 -/

/-- What a search for the least member from y on gives: that member, or what it has kept where every member is less than y.
In the dual order it is the search for the greatest member up to y. -/
def Found {α : Type} [LinearOrder α] (S : Set α) (y : α) (best r : Option α) : Prop :=
  (∃ a, r = some a ∧ IsLeast {z ∈ S | y ≤ z} a) ∨ (r = best ∧ ∀ z ∈ S, z < y)

section
variable {α : Type} [LinearOrder α] {S T : Set α} {y a : α} {best r : Option α}

theorem found_least (h : IsLeast S a) (le : y ≤ a) : Found S y best (some a) :=
  .inl ⟨a, rfl, ⟨h.1, le⟩, fun _ hz => h.2 hz.1⟩

theorem found_best (h : IsGreatest S a) (lt : a < y) : Found S y best best :=
  .inr ⟨rfl, fun _ hz => (h.2 hz).trans_lt lt⟩

/-- Of two parts in order the search goes on in the first, and keeps the least member of the second, which is beyond y. -/
theorem Found.union_left {b m : α} (found : Found S y (some b) r) (first : IsGreatest S m) (second : IsLeast T b) (order : m < b)
    (beyond : y < b) : Found (S ∪ T) y best r := by
  rcases found with ⟨a, rfl, ⟨mem, le⟩, least⟩ | ⟨rfl, none⟩
  · refine .inl ⟨a, rfl, ⟨.inl mem, le⟩, ?_⟩
    rintro z ⟨hz | hz, hy⟩
    · exact least ⟨hz, hy⟩
    · exact ((first.2 mem).trans order.le).trans (second.2 hz)
  · refine .inl ⟨b, rfl, ⟨.inr second.1, beyond.le⟩, ?_⟩
    rintro z ⟨hz | hz, hy⟩
    · exact absurd (none z hz) (not_lt.2 hy)
    · exact second.2 hz

/-- A part of which every member is less than y does not matter. -/
theorem Found.union_right {m : α} (found : Found T y best r) (first : IsGreatest S m) (before : m < y) : Found (S ∪ T) y best r := by
  rcases found with ⟨a, rfl, ⟨mem, le⟩, least⟩ | ⟨rfl, none⟩
  · refine .inl ⟨a, rfl, ⟨.inr mem, le⟩, ?_⟩
    rintro z ⟨hz | hz, hy⟩
    · exact absurd ((first.2 hz).trans_lt before) (not_lt.2 hy)
    · exact least ⟨hz, hy⟩
  · refine .inr ⟨rfl, ?_⟩
    rintro z (hz | hz)
    · exact (first.2 hz).trans_lt before
    · exact none z hz

end

/-- BIGMIN finds the least key of the box from y on. -/
theorem bigmin_found {D B i y lo hi : Nat} (best : Option Nat) (h : BoxCorners D B i y lo hi) (inside : i ≤ D * B) :
    Found (boxKeys D B lo hi) y best (bigmin D i y lo hi best) := by
  induction i generalizing lo hi best with
  | zero =>
    obtain ⟨rfl, -⟩ := h.eq_of_zero
    exact found_least h.isLeast (le_refl _)
  | succ i ih =>
    rw [bigmin]
    cases hy : y.testBit i <;> cases hl : lo.testBit i <;> cases hh : hi.testBit i
    case false.false.false => exact ih best (h.next (hl.trans hy.symm) (hh.trans hy.symm)) (by omega)
    case false.false.true =>
      have p := h.parts inside hl hh
      rw [p.boxKeys_eq]
      exact (ih _ (h.lower p hy) (by omega)).union_left p.lower.isGreatest p.upper.isLeast p.load0_lt_load1 (h.lt_load1 hy)
    case false.true.false => exact (h.not_crossed inside hl hh).elim
    case false.true.true => exact found_least h.isLeast (h.lt_low hy hl).le
    case true.false.false => exact found_best h.isGreatest (h.high_lt hy hh)
    case true.false.true =>
      have p := h.parts inside hl hh
      rw [p.boxKeys_eq]
      exact (ih _ (h.upper p hy) (by omega)).union_right p.lower.isGreatest (h.load0_lt hy)
    case true.true.false => exact (h.not_crossed inside hl hh).elim
    case true.true.true => exact ih best (h.next (hl.trans hy.symm) (hh.trans hy.symm)) (by omega)

/-- LITMAX finds the greatest key of the box up to y: the search of the dual order. -/
theorem litmax_found {D B i y lo hi : Nat} (best : Option Nat) (h : BoxCorners D B i y lo hi) (inside : i ≤ D * B) :
    Found (α := Natᵒᵈ) (boxKeys D B lo hi) y best (litmax D i y lo hi best) := by
  induction i generalizing lo hi best with
  | zero =>
    obtain ⟨-, rfl⟩ := h.eq_of_zero
    exact found_least (α := Natᵒᵈ) h.isGreatest (le_refl _)
  | succ i ih =>
    rw [litmax]
    cases hy : y.testBit i <;> cases hl : lo.testBit i <;> cases hh : hi.testBit i
    case false.false.false => exact ih best (h.next (hl.trans hy.symm) (hh.trans hy.symm)) (by omega)
    case false.false.true =>
      have p := h.parts inside hl hh
      rw [p.boxKeys_eq, Set.union_comm]
      exact (ih _ (h.lower p hy) (by omega)).union_right (α := Natᵒᵈ) p.upper.isLeast (h.lt_load1 hy)
    case false.true.false => exact (h.not_crossed inside hl hh).elim
    case false.true.true => exact found_best (α := Natᵒᵈ) h.isLeast (h.lt_low hy hl)
    case true.false.false => exact found_least (α := Natᵒᵈ) h.isGreatest (h.high_lt hy hh).le
    case true.false.true =>
      have p := h.parts inside hl hh
      rw [p.boxKeys_eq, Set.union_comm]
      exact (ih _ (h.upper p hy) (by omega)).union_left (α := Natᵒᵈ) p.upper.isLeast p.lower.isGreatest p.load0_lt_load1 (h.load0_lt hy)
    case true.true.false => exact (h.not_crossed inside hl hh).elim
    case true.true.true => exact ih best (h.next (hl.trans hy.symm) (hh.trans hy.symm)) (by omega)

/-- A search that has kept nothing gives the least member from y on, or the value for none. -/
theorem Found.getD_spec {α : Type} [LinearOrder α] {S : Set α} {y : α} {r : Option α} (found : Found S y none r) (x : α) :
    ((∃ z ∈ S, y ≤ z) → IsLeast {z ∈ S | y ≤ z} (r.getD x)) ∧ ((∀ z ∈ S, z < y) → r.getD x = x) := by
  rcases found with ⟨a, rfl, least⟩ | ⟨rfl, none⟩
  · exact ⟨fun _ => least, fun none => absurd (none a least.1.1) (not_lt.2 least.1.2)⟩
  · exact ⟨fun ⟨z, hz, le⟩ => absurd (none z hz) (not_lt.2 le), fun _ => rfl⟩

section
variable {D B lo hi y : Nat}

theorem emptyBox_iff : emptyBox ⟨D, B⟩ lo hi = true ↔ ∃ k < D, axisVal D B hi k < axisVal D B lo k := by
  simp [emptyBox, axisOf_eq]

/-- An empty box holds no key (R108). -/
theorem boxKeys_of_emptyBox {z : Nat} (empty : emptyBox ⟨D, B⟩ lo hi = true) : z ∉ boxKeys D B lo hi := by
  obtain ⟨k, hk, crossed⟩ := emptyBox_iff.1 empty
  exact not_mem_boxKeys_of_lt hk crossed

/-- The construction starts from the whole box. -/
theorem corners_of_not_emptyBox (low : lo < 2 ^ (D * B)) (high : hi < 2 ^ (D * B)) (key : y < 2 ^ (D * B))
    (full : ¬ emptyBox ⟨D, B⟩ lo hi = true) : BoxCorners D B (D * B) y lo hi where
  low := low
  high := high
  ordered k hk := by
    by_contra crossed
    exact full (emptyBox_iff.2 ⟨k, hk, Nat.lt_of_not_le crossed⟩)
  agree j hj := by rw [testBit_of_key low hj, testBit_of_key high hj, testBit_of_key key hj]; exact ⟨rfl, rfl⟩

section
variable (low : lo < 2 ^ (D * B)) (high : hi < 2 ^ (D * B))
include low high

theorem leastFrom_found (y : Nat) : Found (boxKeys D B lo hi) y none (leastFrom ⟨D, B⟩ lo hi y) := by
  unfold leastFrom
  by_cases empty : emptyBox ⟨D, B⟩ lo hi = true
  · rw [empty, Bool.true_or, if_pos rfl]
    exact .inr ⟨rfl, fun z hz => (boxKeys_of_emptyBox empty hz).elim⟩
  · by_cases past : 2 ^ (D * B) ≤ y
    · rw [show Grid.n ⟨D, B⟩ = D * B from rfl, decide_eq_true past, Bool.or_true, if_pos rfl]
      exact .inr ⟨rfl, fun z hz => hz.1.trans_le past⟩
    · have start := corners_of_not_emptyBox low high (Nat.lt_of_not_le past) empty
      rw [show Grid.n ⟨D, B⟩ = D * B from rfl, decide_eq_false past, Bool.or_false, if_neg empty]
      exact bigmin_found none start (le_refl _)

theorem greatestTo_found (key : y < 2 ^ (D * B)) : Found (α := Natᵒᵈ) (boxKeys D B lo hi) y none (greatestTo ⟨D, B⟩ lo hi y) := by
  unfold greatestTo
  by_cases empty : emptyBox ⟨D, B⟩ lo hi = true
  · rw [if_pos empty]
    exact .inr ⟨rfl, fun z hz => (boxKeys_of_emptyBox empty hz).elim⟩
  · rw [if_neg empty]
    exact litmax_found none (corners_of_not_emptyBox low high key empty) (le_refl _)

/-- CNEXT's key: the least key of the box beyond x, or x. -/
theorem cnextOf_spec (x : Nat) :
    ((∃ z ∈ boxKeys D B lo hi, x < z) → IsLeast {z ∈ boxKeys D B lo hi | x < z} (cnextOf ⟨D, B⟩ lo hi x)) ∧
    ((∀ z ∈ boxKeys D B lo hi, ¬ x < z) → cnextOf ⟨D, B⟩ lo hi x = x) := by
  have ⟨least, kept⟩ := (leastFrom_found low high (x + 1)).getD_spec x
  exact ⟨least, fun h => kept (fun z hz => Nat.lt_succ_of_le (Nat.le_of_not_lt (h z hz)))⟩

/-- CPREV's key: the greatest key of the box below x, or x. -/
theorem cprevOf_spec {x : Nat} (key : x < 2 ^ (D * B)) :
    ((∃ z ∈ boxKeys D B lo hi, z < x) → IsGreatest {z ∈ boxKeys D B lo hi | z < x} (cprevOf ⟨D, B⟩ lo hi x)) ∧
    ((∀ z ∈ boxKeys D B lo hi, ¬ z < x) → cprevOf ⟨D, B⟩ lo hi x = x) := by
  unfold cprevOf
  cases x with
  | zero => exact ⟨fun ⟨z, _, lt⟩ => absurd lt (Nat.not_lt_zero z), fun _ => rfl⟩
  | succ x =>
    have ⟨greatest, kept⟩ := (greatestTo_found low high (Nat.lt_of_succ_lt key)).getD_spec (Nat.succ x)
    rw [if_neg (Nat.succ_ne_zero x), Nat.add_sub_cancel]
    simp only [Nat.lt_succ_iff]
    exact ⟨greatest, fun h => kept (fun z hz => Nat.lt_of_not_le (h z hz))⟩

end
end

/-! ### The instructions -/

/-- CNEXT and CPREV write a function of the masked corners and the masked key of the lane. -/
theorem State.cstep_case {s : State} {D B : Nat} (shaped : s.Shaped D B) {i : Instr} {c b a : BitVec 7} {f : Grid → Nat → Nat → Nat → Nat}
    (runs : exec i s = s.cstep c b a f) : s.VecCase i acceptGX (boxOps c b a) intConsts 2 (fun _ X _ => BitVec.ofNat 64
      (f ⟨D, B⟩ ((s.w.sreg (s.regAt (boxOps c b a) .c)).toNat % 2 ^ (D * B))
        ((s.w.sreg (s.regAt (boxOps c b a) .c + 2)).toNat % 2 ^ (D * B)) (X.toNat % 2 ^ (D * B)))) := by
  unfold State.cstep at runs
  refine State.vecCase_of_vmap runs shaped.gridBad_eq (.inr rfl) (fun L X Y Z => ?_)
  simp only [State.corners, maskKey, shaped.grid_eq]
  rfl

/-- Settles O21: each bit that the construction looks at leaves the box, a half of it, or nothing that could still be found. -/
theorem neighbouringKeysAreExact : Obligations.NeighbouringKeysAreExact := by
  intro s c b a D B ops key box shaped _
  have mask (X : W64) : key X < 2 ^ (D * B) := Nat.mod_lt _ (Nat.two_pow_pos _)
  let lo := key (s.w.sreg (s.regAt ops .c))
  let hi := key (s.w.sreg (s.regAt ops .c + 2))
  refine ⟨cnextOf ⟨D, B⟩ lo hi, cprevOf ⟨D, B⟩ lo hi, fun L _ => ?_, State.cstep_case shaped rfl, State.cstep_case shaped rfl⟩
  have ⟨up, top⟩ := cnextOf_spec (mask _ : lo < _) (mask _ : hi < _) (key (s.valueAt intConsts ops .b L))
  have ⟨down, bottom⟩ := cprevOf_spec (mask _ : lo < _) (mask _ : hi < _) (mask (s.valueAt intConsts ops .b L))
  refine ⟨fun ⟨z, lt, hz⟩ => ?_, fun none => top (fun z hz lt => none z lt hz), fun ⟨z, lt, hz⟩ => ?_,
    fun none => bottom (fun z hz lt => none z lt hz)⟩
  · obtain ⟨⟨mem, beyond⟩, least⟩ := up ⟨z, hz, lt⟩
    exact ⟨beyond, mem, fun z lt hz => least ⟨hz, lt⟩⟩
  · obtain ⟨⟨mem, before⟩, greatest⟩ := down ⟨z, hz, lt⟩
    exact ⟨before, mem, fun z lt hz => greatest ⟨hz, lt⟩⟩

end Sys2Proof.Machine
end

section
/-! Exchanges between the lanes of a partition tile: POLL.mask, SHFL, REDUX, SCAN and LREORD (R143 to R146). -/
namespace Sys2Proof.Machine

/-! ### Vector results that are given up to what the registers hold -/

/-- Two values that n registers of a lane hold alike: one register holds the low half. -/
def SameHeld (n : Nat) (x y : W64) : Prop := if n = 2 then x = y else (x.setWidth 32 : W32) = y.setWidth 32

theorem SameHeld.refl (n : Nat) (x : W64) : SameHeld n x x := by unfold SameHeld; split_ifs <;> rfl

theorem SameHeld.holds {n : Nat} {x y : W64} (h : SameHeld n x y) {w : Warp} {e L : Nat} (hx : w.Holds n e L x) : w.Holds n e L y := by
  unfold SameHeld at h
  unfold Warp.Holds at hx ⊢
  split_ifs at h hx ⊢
  · exact hx.trans h
  · exact hx.trans h

theorem flagsOf_congr {act : Lanes} {f g : Nat → BitVec 5} (h : ∀ L, L < 32 → act.getLsbD L = true → f L = g L) :
    flagsOf act f = flagsOf act g := by
  unfold flagsOf
  refine List.foldl_ext _ _ _ (fun x L hL => ?_)
  obtain ⟨lt, mem⟩ := Lanes.mem_list.1 hL
  rw [h L lt mem]

theorem State.VecCaseF.congr {s : State} {i : Instr} {acc : Accept} {ops : List Opnd} {k : Consts} {n : Nat}
    {f f' : Nat → W64 → W64 → W64 → W64} {g g' : Nat → W64 → W64 → W64 → BitVec 5} (h : s.VecCaseF i acc ops k n f g)
    (lane : ∀ L, L < 32 → s.act.getLsbD L = true → ∀ A B C, SameHeld n (f L A B C) (f' L A B C) ∧ g L A B C = g' L A B C) :
    s.VecCaseF i acc ops k n f' g' := by
  intro admitted
  obtain ⟨u, next, result⟩ := h admitted
  rw [flagsOf_congr (fun L lt mem => (lane L lt mem _ _ _).2)] at result
  exact ⟨u, next, fun L lt mem => (lane L lt mem _ _ _).1.holds (result.value L lt mem), result.kept, result.warp, result.rest⟩

/-- A lane-by-lane instruction whose lane function looks at the state: its result in the lanes of ACT is what is written (R30). -/
theorem State.vecCaseF_of_lanes {s : State} {i : Instr} {acc : Accept} {ops : List Opnd} {k : Consts} {n : Nat} {illegal : Bool}
    {f : Nat → W64 → W64 → W64 → W64} {g : Nat → W64 → W64 → W64 → BitVec 5} {F : State → Nat → W64 → W64 → W64 → W64 × BitVec 5}
    (runs : exec i s = s.vmap acc ops illegal k n none F) (legal : illegal = false) (hn : n = 1 ∨ n = 2)
    (lane : ∀ L, L < 32 → s.act.getLsbD L = true → ∀ A B C, F s L A B C = (f L A B C, g L A B C)) :
    s.VecCaseF i acc ops k n f g := by
  subst legal
  have whole : s.VecCaseF i acc ops k n (fun L A B C => (F s L A B C).1) (fun L A B C => (F s L A B C).2) := fun admitted =>
    let ⟨u, next, result⟩ := State.vmap_spec k F hn admitted
    ⟨u, runs.trans next, result⟩
  refine whole.congr (fun L lt mem A B C => ?_)
  rw [lane L lt mem]
  exact ⟨SameHeld.refl _ _, rfl⟩

/-! ### Tiles (R141) -/

theorem tileStart_eq_iff (n J L : Nat) : tileStart n J = tileStart n L ↔ J / n = L / n := by
  unfold tileStart
  rcases Nat.eq_zero_or_pos n with rfl | pos
  · simp
  · exact Nat.mul_left_inj pos.ne'

theorem tileStart_le (n L : Nat) : tileStart n L ≤ L := Nat.div_mul_le_self L n

section
variable (s : State) (L : Nat)

theorem State.getLsbD_actTile {J : Nat} (hJ : J < 32) :
    (s.actTile L).getLsbD J = (s.act.getLsbD J && decide (J / s.w.part.toNat = L / s.w.part.toNat)) := by
  unfold State.actTile tileMask State.tileW
  rw [BitVec.getLsbD_and, Lanes.getLsbD_of _ _ hJ]
  simp only [tileStart_eq_iff]

theorem State.list_actTile : Lanes.list (s.actTile L) = s.tileLanes L :=
  List.filter_congr (fun _ hJ => s.getLsbD_actTile L (mem_lanes32.1 hJ))

theorem State.mem_tileLanes {J : Nat} :
    J ∈ s.tileLanes L ↔ J < 32 ∧ s.act.getLsbD J = true ∧ J / s.w.part.toNat = L / s.w.part.toNat := by
  simp [State.tileLanes]

end

theorem State.tileLanes_congr (s : State) {J L : Nat} (h : J / s.w.part.toNat = L / s.w.part.toNat) : s.tileLanes J = s.tileLanes L := by
  unfold State.tileLanes; rw [h]

/-- The widths of tiles are powers of 2 up to 32 (R39). -/
theorem partition_pow {n : Nat} (h : n ∈ [2, 4, 8, 16, 32]) : 2 ^ Nat.log2 n = n ∧ 0 < n := by
  revert n; decide

/-- The lanes of a tile are consecutive. -/
theorem tile_eq_range' {n L : Nat} (hn : n ∈ [2, 4, 8, 16, 32]) (hL : L < 32) :
    (List.range 32).filter (fun J => decide (J / n = L / n)) = List.range' (tileStart n L) n := by
  revert L; revert n; decide

theorem tileStart_xor {n L : Nat} (hn : n ∈ [2, 4, 8, 16, 32]) (c : Nat) :
    tileStart n L + ((L - tileStart n L) ^^^ (c % n)) = L ^^^ (c % n) := by
  obtain ⟨pow, pos⟩ := partition_pow hn
  have offset : L - tileStart n L = L % n := by rw [Nat.mod_eq_sub_div_mul]; rfl
  have high : (L ^^^ (c % n)) / n = L / n := by
    rw [← pow, Nat.xor_div_two_pow, Nat.div_eq_of_lt (Nat.mod_lt _ (Nat.two_pow_pos _)), Nat.xor_zero]
  have low : (L ^^^ (c % n)) % n = (L % n) ^^^ (c % n) := by
    rw [← pow, Nat.xor_mod_two_pow, Nat.mod_mod]
  rw [offset, ← low]
  unfold tileStart
  rw [← high, Nat.mul_comm]
  exact Nat.div_add_mod _ _

/-! ### POLL.mask and SHFL (R143, R144) -/

theorem exec_pollMask (b : BitVec 3) (a : BitVec 7) (s : State) :
    exec (.pollMask b a) s = s.vmap acceptGX [vd .a a 1] false intConsts 1 none (fun s L _ _ _ => ((s.votes b L).setWidth 64, 0)) := rfl

theorem State.votes_eq (s : State) (b : BitVec 3) (L : Nat) :
    s.votes b L = Lanes.of (fun J => decide (J ∈ s.tileLanes L) && (s.w.pred b.toNat).getLsbD J) := by
  refine BitVec.eq_of_getLsbD_eq (fun J hJ => ?_)
  rw [Lanes.getLsbD_of _ _ hJ, State.votes, BitVec.getLsbD_and, s.getLsbD_actTile L hJ]
  simp [State.mem_tileLanes, hJ]

/-- The lane function of a shuffle: the source lane's value if the lane is in ACT, else the lane's own. -/
def State.shuffled (s : State) (w : BitVec 1) (c b a : BitVec 7) (J : Nat) (B : W64) : W64 :=
  if s.act.getLsbD J = true then s.valueAt intConsts (vvk (regsW w) c b a) .b J else B

theorem regsW_eq (w : BitVec 1) : regsW w = 1 ∨ regsW w = 2 := by
  unfold regsW; split_ifs
  · exact .inr rfl
  · exact .inl rfl

/-- A shuffle whose positions within the tile are those of given source lanes. -/
theorem State.shuffle_case {s : State} {i : Instr} {w : BitVec 1} {c b a : BitVec 7} {pos : Nat → Nat → Nat → Nat}
    (runs : exec i s = s.shuffle w c b a pos) (source : Nat → Nat → Nat)
    (place : ∀ L k, tileStart s.tileW L + pos (L - tileStart s.tileW L) s.tileW k = source L k) :
    s.VecCaseF i acceptAll (vvk (regsW w) c b a) intConsts (regsW w)
      (fun L _ B C => s.shuffled w c b a (source L (C.setWidth 32 : W32).toNat) B) (fun _ => noFlag) := by
  unfold State.shuffle at runs
  refine State.vecCaseF_of_lanes runs rfl (regsW_eq w) (fun L _ _ A B C => ?_)
  have low : C.toNat % 2 ^ 32 = (C.setWidth 32 : W32).toNat := (BitVec.toNat_setWidth ..).symm
  dsimp only
  rw [low, place]
  rfl

theorem shflUp_place (n L k : Nat) :
    (let j := L - tileStart n L; tileStart n L + if j < k then j else j - k) = if L - L / n * n < k then L else L - k := by
  have := tileStart_le n L
  unfold tileStart at this ⊢
  dsimp only
  split_ifs <;> omega

theorem shflDown_place (n L k : Nat) :
    (let j := L - tileStart n L; tileStart n L + if n ≤ j + k then j else j + k) = if L - L / n * n + k < n then L + k else L := by
  have := tileStart_le n L
  unfold tileStart at this ⊢
  dsimp only
  split_ifs <;> omega

theorem pollMaskAndShuffles : PollMaskAndShuffles := by
  intro s w c b a p n start from' hn
  refine ⟨?_, ?_, ?_, ?_, ?_⟩
  · refine State.vecCaseF_of_lanes (exec_pollMask p a s) rfl (.inl rfl) (fun L _ _ _ _ _ => ?_)
    rw [State.votes_eq]
    rfl
  · exact State.shuffle_case (pos := fun _ w c => c % w) rfl (fun L k => start L + k % n) (fun _ _ => rfl)
  · exact State.shuffle_case (pos := fun j _ c => if j < c then j else j - c) rfl
      (fun L k => if L - start L < k then L else L - k) (fun L k => shflUp_place n L k)
  · exact State.shuffle_case (pos := fun j w c => if w ≤ j + c then j else j + c) rfl
      (fun L k => if L - start L + k < n then L + k else L) (fun L k => shflDown_place n L k)
  · exact State.shuffle_case (pos := fun j w c => j ^^^ (c % w)) rfl (fun L k => L ^^^ (k % n)) (fun L k => tileStart_xor hn k)

/-! ### The pairwise tree and combination in lane order (R145) -/

/-- Values combined from the first on; none for no value. -/
def combined (g : W64 → W64 → W64) : List W64 → Option W64
  | [] => none
  | x :: xs => some (xs.foldl g x)

section
variable {g : W64 → W64 → W64} (assoc : ∀ x y z, g (g x y) z = g x (g y z))
include assoc

theorem combined_append (xs ys : List W64) :
    combined g (xs ++ ys) = match combined g xs, combined g ys with
      | none, h => h
      | l, none => l
      | some x, some y => some (g x y) := by
  have : Std.Associative g := ⟨assoc⟩
  cases xs with
  | nil => rfl
  | cons x xs =>
    cases ys with
    | nil => simp [combined]
    | cons y ys => simp [combined, List.foldl_assoc]

/-- An associative operation without flags: the tree combines the values of its positions in their order. -/
theorem tree_eq_combined {op : W64 → W64 → W64 × BitVec 5} (flagless : ∀ x y, op x y = (g x y, 0)) (val : Nat → Option W64) (lo n : Nat) :
    tree op val lo n = (combined g ((List.range' lo (2 ^ n)).filterMap val)).map (fun x => (x, 0)) := by
  induction n generalizing lo with
  | zero => cases h : val lo <;> simp [tree, combined, h]
  | succ n ih =>
    have parts : List.range' lo (2 ^ (n + 1)) = List.range' lo (2 ^ n) ++ List.range' (lo + 2 ^ n) (2 ^ n) := by
      rw [List.range'_append_1, pow_succ, Nat.mul_two]
    rw [tree, ih, ih, parts, List.filterMap_append, combined_append assoc]
    cases combined g ((List.range' lo (2 ^ n)).filterMap val) <;>
      cases combined g ((List.range' (lo + 2 ^ n) (2 ^ n)).filterMap val) <;> simp [flagless]

end

/-! ### The integer operations (R41) -/

theorem setWidth_setWidth_low (v : W32) : ((v.setWidth 64 : W64).setWidth 32 : W32) = v := by
  rw [BitVec.setWidth_setWidth_of_le _ (by omega), BitVec.setWidth_eq]

theorem minOf_eq {n : Nat} (b c : BitVec n) :
    minOf n true b c = (if c.slt b then c else b) ∧ minOf n false b c = if c.ult b then c else b := by
  simp only [minOf, BitVec.slt_eq_decide, BitVec.ult_eq_decide, if_true, Bool.false_eq_true, if_false, decide_eq_true_eq, ← not_lt, ite_not, and_self]

theorem maxOf_eq {n : Nat} (b c : BitVec n) :
    maxOf n true b c = (if b.slt c then c else b) ∧ maxOf n false b c = if b.ult c then c else b := by
  simp only [maxOf, BitVec.slt_eq_decide, BitVec.ult_eq_decide, if_true, Bool.false_eq_true, if_false, decide_eq_true_eq, ← not_lt, ite_not, and_self]

theorem laneOp32_eq {k : Nat} (hk : k < 8) (x y : W64) :
    ((laneOp32 k (x.setWidth 32) (y.setWidth 32)).1.setWidth 64 : W64) = laneInt k x y ∧ (laneOp32 k (x.setWidth 32) (y.setWidth 32)).2 = 0 := by
  interval_cases k
  · exact ⟨rfl, rfl⟩
  · exact ⟨congrArg _ (minOf_eq _ _).1, rfl⟩
  · exact ⟨congrArg _ (minOf_eq _ _).2, rfl⟩
  · exact ⟨congrArg _ (maxOf_eq _ _).1, rfl⟩
  · exact ⟨congrArg _ (maxOf_eq _ _).2, rfl⟩
  iterate 3 · exact ⟨rfl, rfl⟩

theorem laneOp32_assoc {k : Nat} (hk : k < 8) (x y z : W32) :
    (laneOp32 k (laneOp32 k x y).1 z).1 = (laneOp32 k x (laneOp32 k y z).1).1 := by
  interval_cases k
  · exact BitVec.add_assoc x y z
  iterate 4 · simp only [laneOp32, minOf, maxOf]; grind
  · exact BitVec.and_assoc x y z
  · exact BitVec.or_assoc x y z
  · exact BitVec.xor_assoc x y z

/-- Codes of integer operations: 32-bit ones, and the 64-bit sum. -/
def intLaneOp (k : Nat) : Prop := k < 8 ∨ k = 11

section
variable {k : Nat} (hk : intLaneOp k)
include hk

theorem laneOp_eq (x y : W64) : laneOp k x y = (laneInt k x y, 0) := by
  unfold laneOp
  rcases hk with hk | rfl
  · obtain ⟨value, flags⟩ := laneOp32_eq hk x y
    rw [if_neg (by omega)]
    exact Prod.ext value flags
  · rfl

theorem laneInt_laneVal (x y : W64) : laneInt k (laneVal k x) y = laneInt k x y ∧ laneInt k x (laneVal k y) = laneInt k x y ∧
    laneVal k (laneInt k x y) = laneInt k x y := by
  rcases hk with hk | rfl
  · have low (z : W64) : ((laneVal k z).setWidth 32 : W32) = z.setWidth 32 := by
      rw [laneVal, if_neg (by omega), setWidth_setWidth_low]
    have cut (v : W32) : laneVal k (v.setWidth 64) = v.setWidth 64 := by rw [laneVal, if_neg (by omega), setWidth_setWidth_low]
    simp only [← (laneOp32_eq hk _ _).1, low, cut, and_self]
  · exact ⟨rfl, rfl, rfl⟩

theorem laneInt_assoc (x y z : W64) : laneInt k (laneInt k x y) z = laneInt k x (laneInt k y z) := by
  rcases hk with hk | rfl
  · simp only [← (laneOp32_eq hk _ _).1, setWidth_setWidth_low, laneOp32_assoc hk]
  · exact BitVec.add_assoc x y z

/-- What the statement folds over lanes is the combination of their values, cut to the operand's width. -/
theorem combineInt_eq (val : Nat → W64) (ls : List Nat) :
    combineInt k val ls = (combined (laneInt k) (ls.map val)).map (laneVal k) := by
  have fold (js : List Nat) (x : W64) :
      js.foldl (fun x J => laneInt k x (laneVal k (val J))) (laneVal k x) = laneVal k ((js.map val).foldl (laneInt k) x) := by
    induction js generalizing x with
    | nil => rfl
    | cons J js ih =>
      obtain ⟨left, -, -⟩ := laneInt_laneVal hk x (laneVal k (val J))
      obtain ⟨-, right, whole⟩ := laneInt_laneVal hk x (val J)
      rw [List.foldl_cons, List.map_cons, List.foldl_cons, ← ih, whole, left, right]
  cases ls with
  | nil => rfl
  | cons L ls => exact congrArg some (fold ls _)

end

theorem sameHeld_laneVal (k : Nat) (x : W64) : SameHeld (laneRegs k) x (laneVal k x) := by
  unfold SameHeld laneRegs laneVal
  by_cases h : k = 11
  · simp [h]
  · simp [h]

theorem laneRegs_eq (k : Nat) : laneRegs k = 1 ∨ laneRegs k = 2 := by
  unfold laneRegs; split_ifs
  · exact .inr rfl
  · exact .inl rfl

/-! ### REDUX and SCAN (R145) -/

/-- The value that position j of lane L's tile brings into the combination. -/
abbrev State.taken (s : State) (k : Nat) (b a : BitVec 7) (sees : Nat → Nat → Bool) (L j : Nat) : Option W64 :=
  let J := L / s.w.part.toNat * s.w.part.toNat + j
  if s.act.getLsbD J && sees L J then some (s.valueAt (laneConsts k) (vv (laneRegs k) b a) .b J) else none

section
variable {s : State} {i : Instr} {k : BitVec 4} {b a : BitVec 7} {sees see : Nat → Nat → Bool}

/-- A combination over each tile, with the tree's result and flags. -/
theorem State.combine_tree_case (runs : exec i s = s.combine k b a see) (legal : k.toNat ≤ 11)
    (places : ∀ L j, see (L - tileStart s.tileW L) j = sees L (tileStart s.tileW L + j)) :
    let t := fun L => (tree (laneOp k.toNat) (s.taken k.toNat b a sees L) 0 (Nat.log2 s.w.part.toNat)).getD (scanIdentity k.toNat, 0)
    s.VecCaseF i acceptGX (vv (laneRegs k.toNat) b a) (laneConsts k.toNat) (laneRegs k.toNat)
      (fun L _ _ _ => (t L).1) (fun L _ _ _ => (t L).2) := by
  unfold State.combine at runs
  refine State.vecCaseF_of_lanes runs (decide_eq_false (by omega)) (laneRegs_eq _) (fun L _ _ A B C => ?_)
  dsimp only
  simp only [places]
  rfl

/-- The lanes of a tile that are in ACT and that a lane sees. -/
theorem State.filter_tileLanes (hn : s.w.part.toNat ∈ [2, 4, 8, 16, 32]) {L : Nat} (hL : L < 32) :
    (s.tileLanes L).filter (sees L) =
      ((List.range' 0 s.tileW).map (tileStart s.tileW L + ·)).filter (fun J => s.act.getLsbD J && sees L J) := by
  rw [List.map_add_range', Nat.add_zero]
  unfold State.tileW
  rw [← tile_eq_range' hn hL, State.tileLanes, List.filter_filter, List.filter_filter]
  refine List.filter_congr (fun J _ => ?_)
  ac_rfl

/-- The values that a lane's combination takes in are those of the tile's lanes of ACT that it sees, in lane order. -/
theorem State.filterMap_taken (hn : s.w.part.toNat ∈ [2, 4, 8, 16, 32]) {L : Nat} (hL : L < 32) :
    (List.range' 0 (2 ^ Nat.log2 s.w.part.toNat)).filterMap (s.taken k.toNat b a sees L) =
      ((s.tileLanes L).filter (sees L)).map (s.valueAt (laneConsts k.toNat) (vv (laneRegs k.toNat) b a) .b) := by
  rw [State.filter_tileLanes hn hL, ← List.filterMap_eq_map, List.filterMap_filter, List.filterMap_map, (partition_pow hn).1]
  rfl

/-- An integer operation combines the values of the lanes that a lane sees, and raises no flag. -/
theorem State.combine_int_case (runs : exec i s = s.combine k b a see) (hk : intLaneOp k.toNat) (hn : s.w.part.toNat ∈ [2, 4, 8, 16, 32])
    (places : ∀ L j, see (L - tileStart s.tileW L) j = sees L (tileStart s.tileW L + j)) :
    s.VecCaseF i acceptGX (vv (laneRegs k.toNat) b a) (laneConsts k.toNat) (laneRegs k.toNat)
      (fun L _ _ _ => (combineInt k.toNat (s.valueAt (laneConsts k.toNat) (vv (laneRegs k.toNat) b a) .b)
        ((s.tileLanes L).filter (sees L))).getD (scanIdentity k.toNat)) (fun _ => noFlag) := by
  have legal : k.toNat ≤ 11 := by unfold intLaneOp at hk; omega
  refine (State.combine_tree_case runs legal places).congr (fun L hL _ A B C => ?_)
  dsimp only
  rw [tree_eq_combined (laneInt_assoc hk) (laneOp_eq hk), State.filterMap_taken hn hL, combineInt_eq hk]
  cases combined (laneInt k.toNat) _ with
  | none => exact ⟨SameHeld.refl _ _, rfl⟩
  | some x => exact ⟨sameHeld_laneVal _ x, rfl⟩

end

theorem reductionsAndScans : ReductionsAndScans := by
  intro s k b a n r val bySum byTree hn
  have redux : exec (.redux k b a) s = s.combine k b a (fun _ _ => true) := rfl
  have incl : exec (.scanIncl k b a) s = s.combine k b a (fun j i => decide (i ≤ j)) := rfl
  have excl : exec (.scanExcl k b a) s = s.combine k b a (fun j i => decide (i < j)) := rfl
  have upTo (L j : Nat) : decide (j ≤ L - tileStart s.tileW L) = decide (tileStart s.tileW L + j ≤ L) := by
    have := tileStart_le s.tileW L
    exact decide_eq_decide.2 (by omega)
  have before (L j : Nat) : decide (j < L - tileStart s.tileW L) = decide (tileStart s.tileW L + j < L) := by
    have := tileStart_le s.tileW L
    exact decide_eq_decide.2 (by omega)
  refine ⟨fun hk => ⟨?_, ?_, ?_⟩, fun _ hk => ⟨?_, ?_, ?_⟩, fun hk i hi => ?_⟩
  · exact State.combine_int_case (sees := fun _ _ => true) redux hk hn (fun _ _ => rfl)
  · exact State.combine_int_case (sees := fun L J => decide (J ≤ L)) incl hk hn upTo
  · exact State.combine_int_case (sees := fun L J => decide (J < L)) excl hk hn before
  · exact State.combine_tree_case (sees := fun _ _ => true) redux hk.le (fun _ _ => rfl)
  · exact State.combine_tree_case (sees := fun L J => decide (J ≤ L)) incl hk.le upTo
  · exact State.combine_tree_case (sees := fun L J => decide (J < L)) excl hk.le before
  · have illegal (see : Nat → Nat → Bool) : s.combine k b a see = .next (s.takeTrap .illegalOp s.ir.toNat) := by
      unfold State.combine State.vmap
      exact State.issue_illegal _ (.inr (.inl (decide_eq_true hk)))
    simp only [List.mem_cons, List.not_mem_nil, or_false] at hi
    rcases hi with rfl | rfl | rfl
    · exact redux.trans (illegal _)
    · exact incl.trans (illegal _)
    · exact excl.trans (illegal _)

/-! ### LREORD (R146) -/

theorem or_intMin_of_msb {w : Nat} {x : BitVec w} (h : x.msb = false) :
    x ||| BitVec.intMin w = x ^^^ BitVec.intMin w ∧ x + BitVec.intMin w = x ^^^ BitVec.intMin w := by
  have disjoint : x &&& BitVec.intMin w = 0#w := by
    refine BitVec.eq_of_getLsbD_eq (fun i hi => ?_)
    rw [BitVec.getLsbD_and, BitVec.getLsbD_intMin, BitVec.getLsbD_zero]
    by_cases top : i + 1 = w
    · rw [BitVec.msb_eq_getLsbD_last, show w - 1 = i by omega] at h
      simp [h]
    · simp [top]
  have or_eq : x ||| BitVec.intMin w = x ^^^ BitVec.intMin w := by
    refine BitVec.eq_of_getLsbD_eq (fun i hi => ?_)
    have := congrArg (fun y => y.getLsbD i) disjoint
    revert this
    simp only [BitVec.getLsbD_or, BitVec.getLsbD_xor, BitVec.getLsbD_and, BitVec.getLsbD_zero]
    cases x.getLsbD i <;> simp
  exact ⟨or_eq, (BitVec.add_eq_or_of_and_eq_zero _ _ disjoint).trans or_eq⟩

theorem toNat_xor_intMin {w : Nat} (pos : 0 < w) (x : BitVec w) : ((x ^^^ BitVec.intMin w).toNat : Int) = x.toInt + 2 ^ (w - 1) := by
  have half : 2 ^ w = 2 * 2 ^ (w - 1) := by rw [← pow_succ', Nat.sub_add_cancel pos]
  have top : (BitVec.intMin w).toNat = 2 ^ (w - 1) := BitVec.toNat_intMin_of_pos pos
  have low {y : BitVec w} (h : y.msb = false) : (y ^^^ BitVec.intMin w).toNat = y.toNat + 2 ^ (w - 1) := by
    rw [← (or_intMin_of_msb h).2, BitVec.toNat_add_of_not_uaddOverflow, top]
    have := BitVec.toNat_lt_of_msb_false h
    simp [BitVec.uaddOverflow, top]; omega
  rcases h : x.msb with _ | _
  · rw [low h, BitVec.toInt_eq_msb_cond, if_neg (by simp [h])]
    push_cast
    rfl
  · have flipped : (x ^^^ BitVec.intMin w).msb = false := by simp [BitVec.msb_intMin, h, pos]
    have back := low flipped
    rw [BitVec.xor_assoc, BitVec.xor_self, BitVec.xor_zero] at back
    rw [BitVec.toInt_eq_msb_cond, if_pos h, half, back]
    push_cast
    ring

/-- Flipping the top bit turns the signed order into the unsigned one. -/
theorem slt_eq_xor_intMin {w : Nat} (pos : 0 < w) (x y : BitVec w) : x.slt y = (x ^^^ BitVec.intMin w).ult (y ^^^ BitVec.intMin w) := by
  have hx := toNat_xor_intMin pos x
  have hy := toNat_xor_intMin pos y
  rw [BitVec.slt_eq_decide, BitVec.ult_eq_decide]
  exact decide_eq_decide.2 (by omega)

/-- The mapped bits of a float key (R146), as the model forms them. -/
theorem floatKey_eq (v : W32) :
    (if v.msb then ~~~v else v ||| 0x80000000#32) = if v.getLsbD 31 then v ^^^ 0xFFFFFFFF#32 else v ^^^ 0x80000000#32 := by
  have top : v.msb = v.getLsbD 31 := rfl
  rw [← top]
  split_ifs with h
  · exact (BitVec.xor_allOnes (x := v)).symm
  · exact (or_intMin_of_msb (Bool.eq_false_iff.2 h)).1

/-- The numbers that the model sorts by are in the order of the keys. -/
theorem keyLess_eq {k : Nat} (hk : k ≤ 4) (x y : W64) : keyLess k x y = decide (keyOrder k x < keyOrder k y) := by
  interval_cases k
  · rfl
  · exact slt_eq_xor_intMin (by decide) _ _
  · exact congrArg₂ BitVec.ult (floatKey_eq _) (floatKey_eq _)
  · rfl
  · exact slt_eq_xor_intMin (by decide) _ _

section
variable (key : Nat → Nat)

/-- In ascending order of key, equal keys in lane order. -/
def KeyOrder (I J : Nat) : Prop := key I < key J ∨ (key I = key J ∧ I < J)

theorem insertLane_perm (L : Nat) (ls : List Nat) : (insertLane key L ls).Perm (L :: ls) := by
  induction ls with
  | nil => exact .refl _
  | cons J js ih =>
    unfold insertLane
    split_ifs
    · exact .refl _
    · exact (ih.cons J).trans (.swap L J js)

theorem insertLane_sorted {L : Nat} {ls : List Nat} (sorted : ls.Pairwise (KeyOrder key)) (last : ∀ J ∈ ls, J < L) :
    (insertLane key L ls).Pairwise (KeyOrder key) := by
  induction ls with
  | nil => exact List.pairwise_singleton _ _
  | cons J js ih =>
    obtain ⟨first, rest⟩ := List.pairwise_cons.1 sorted
    unfold insertLane
    split_ifs with less
    · refine List.pairwise_cons.2 ⟨fun I hI => .inl ?_, sorted⟩
      rcases List.mem_cons.1 hI with rfl | hI
      · exact less
      · rcases first I hI with lt | ⟨eq, -⟩
        · exact less.trans lt
        · exact eq ▸ less
    · refine List.pairwise_cons.2 ⟨fun I hI => ?_, ih rest (fun I hI => last I (List.mem_cons_of_mem _ hI))⟩
      rcases List.mem_cons.1 ((insertLane_perm key L js).mem_iff.1 hI) with rfl | hI
      · rcases Nat.lt_or_eq_of_le (Nat.le_of_not_lt less) with lt | eq
        · exact .inl lt
        · exact .inr ⟨eq, last J List.mem_cons_self⟩
      · exact first I hI

theorem foldl_insertLane {ls : List Nat} (rising : ls.Pairwise (· < ·)) {done : List Nat} (sorted : done.Pairwise (KeyOrder key))
    (before : ∀ J ∈ done, ∀ L ∈ ls, J < L) :
    (ls.foldl (fun ls L => insertLane key L ls) done).Pairwise (KeyOrder key) ∧
      (ls.foldl (fun ls L => insertLane key L ls) done).Perm (ls ++ done) := by
  induction ls generalizing done with
  | nil => exact ⟨sorted, .refl _⟩
  | cons L ls ih =>
    obtain ⟨first, rest⟩ := List.pairwise_cons.1 rising
    have perm := insertLane_perm key L done
    have next := ih rest (insertLane_sorted key sorted (fun J hJ => before J hJ L List.mem_cons_self)) (fun J hJ I hI => by
      rcases List.mem_cons.1 (perm.mem_iff.1 hJ) with rfl | hJ
      · exact first I hI
      · exact before J hJ I (List.mem_cons_of_mem _ hI))
    exact ⟨next.1, next.2.trans ((perm.append_left ls).trans List.perm_middle)⟩

theorem sortLanes_spec (m : Lanes) : (sortLanes key m).Pairwise (KeyOrder key) ∧ (sortLanes key m).Perm (Lanes.list m) := by
  have rising : (Lanes.list m).Pairwise (· < ·) := List.Pairwise.filter _ List.pairwise_lt_range
  obtain ⟨sorted, perm⟩ := foldl_insertLane key rising List.Pairwise.nil (fun J hJ => absurd hJ List.not_mem_nil)
  exact ⟨sorted, perm.trans (by rw [List.append_nil])⟩

end

section
variable (s : State) (key : Nat → Nat)

/-- The place of a lane among the lanes of ACT of its tile. -/
def State.rank (s : State) (L : Nat) : Nat := ((s.tileLanes L).filter (fun J => decide (J < L))).length

/-- The lane whose value LREORD gives to a lane: the lane at its place in the order of keys. -/
def State.reordered (s : State) (key : Nat → Nat) (L : Nat) : Nat := (sortLanes key (s.actTile L)).getD (s.rank L) L

theorem State.self_mem_tileLanes {L : Nat} (hL : L < 32) (act : s.act.getLsbD L = true) : L ∈ s.tileLanes L :=
  s.mem_tileLanes L |>.2 ⟨hL, act, rfl⟩

theorem State.rank_lt {L : Nat} (hL : L < 32) (act : s.act.getLsbD L = true) : s.rank L < (s.tileLanes L).length :=
  List.length_filter_lt_length_iff_exists.2 ⟨L, s.self_mem_tileLanes hL act, by simp⟩

/-- The places of two lanes of a tile are in lane order. -/
theorem State.rank_lt_rank {L J : Nat} (hL : L < 32) (act : s.act.getLsbD L = true) (less : L < J) (tile : J ∈ s.tileLanes L) :
    s.rank L < s.rank J := by
  obtain ⟨-, -, same⟩ := (s.mem_tileLanes L).1 tile
  have inner : (s.tileLanes L).filter (fun I => decide (I < L)) =
      ((s.tileLanes L).filter (fun I => decide (I < J))).filter (fun I => decide (I < L)) := by
    rw [List.filter_filter]
    refine List.filter_congr (fun I _ => ?_)
    by_cases h : I < L
    · simp [h, h.trans less]
    · simp [h]
  unfold State.rank
  rw [s.tileLanes_congr same, inner]
  exact List.length_filter_lt_length_iff_exists.2
    ⟨L, List.mem_filter.2 ⟨s.self_mem_tileLanes hL act, decide_eq_true less⟩, by simp⟩

theorem State.length_sortLanes (L : Nat) : (sortLanes key (s.actTile L)).length = (s.tileLanes L).length := by
  rw [(sortLanes_spec key _).2.length_eq, s.list_actTile]

theorem State.reordered_eq {L : Nat} (inside : s.rank L < (sortLanes key (s.actTile L)).length) :
    s.reordered key L = (sortLanes key (s.actTile L))[s.rank L] := List.getD_eq_getElem _ _ inside

theorem State.reordered_mem {L : Nat} (hL : L < 32) (act : s.act.getLsbD L = true) : s.reordered key L ∈ s.tileLanes L := by
  have inside := s.length_sortLanes key L ▸ s.rank_lt hL act
  rw [s.reordered_eq key inside, ← s.list_actTile L]
  exact (sortLanes_spec key _).2.mem_iff.1 (List.getElem_mem inside)

theorem State.reordered_sorted {L J : Nat} (hL : L < 32) (act : s.act.getLsbD L = true) (less : L < J) (tile : J ∈ s.tileLanes L) :
    KeyOrder key (s.reordered key L) (s.reordered key J) := by
  obtain ⟨hJ, actJ, same⟩ := (s.mem_tileLanes L).1 tile
  have tiles : s.actTile J = s.actTile L := by
    refine BitVec.eq_of_getLsbD_eq (fun I hI => ?_)
    rw [s.getLsbD_actTile J hI, s.getLsbD_actTile L hI, same]
  have insideL := s.length_sortLanes key L ▸ s.rank_lt hL act
  have insideJ := s.length_sortLanes key J ▸ s.rank_lt hJ actJ
  rw [s.reordered_eq key insideL, s.reordered_eq key insideJ]
  simp only [tiles] at insideJ ⊢
  exact List.pairwise_iff_getElem.1 (sortLanes_spec key _).1 _ _ insideL insideJ (s.rank_lt_rank hL act less tile)

end

/-- Operands and constants of LREORD, and the key of a lane. -/
def lreordOps (k : BitVec 4) (c b a : BitVec 7) : List Opnd := [vd .a a 1, vs .b b 1, vs .c c (if 3 ≤ k.toNat then 2 else 1)]
def lreordConsts (k : BitVec 4) : Consts := if k.toNat = 2 then constsT 0 else intConsts
def State.lreordKey (s : State) (k : BitVec 4) (c b a : BitVec 7) (J : Nat) : W64 := s.valueAt (lreordConsts k) (lreordOps k c b a) .c J

/-- Each lane of ACT receives the value of the lane at its place in the order of keys. -/
theorem State.lreord_case {s : State} {k : BitVec 4} (hk : k.toNat ≤ 4) (c b a : BitVec 7) :
    s.VecCaseF (.lreord k c b a) acceptGX (lreordOps k c b a) (lreordConsts k) 1 (fun L _ _ _ =>
      s.valueAt (lreordConsts k) (lreordOps k c b a) .b (s.reordered (fun J => keyOrder k.toNat (s.lreordKey k c b a J)) L))
      (fun _ => noFlag) := by
  have legal : (!(Instr.lreord k c b a).wf) = false := by simp [Instr.wf, hk]
  have runs : exec (.lreord k c b a) s = execLreord k c b a s := rfl
  unfold execLreord at runs
  refine State.vecCaseF_of_lanes runs legal (.inl rfl) (fun L _ _ A B C => ?_)
  dsimp only
  rw [s.list_actTile L]
  rfl

theorem laneReordering : LaneReordering := by
  intro s k c b a ops kc key hk admitted
  have order (L J : Nat) := keyLess_eq hk (key L) (key J)
  refine ⟨s.reordered (fun J => keyOrder k.toNat (key J)), fun L hL act => s.reordered_mem _ hL act, fun L J less _ act tile => ?_, ?_⟩
  · have hL : L < 32 := by omega
    rw [order, order]
    rcases s.reordered_sorted (fun J => keyOrder k.toNat (key J)) hL act less tile with lt | ⟨eq, lt⟩
    · exact .inl (decide_eq_true lt)
    · exact .inr ⟨decide_eq_false (Nat.not_lt.2 eq.le), lt⟩
  · obtain ⟨u, next, result⟩ := State.lreord_case hk c b a admitted
    exact ⟨u, next, flagsOf_zero s.act ▸ result⟩

/-- Settles O29, each exchange by what it reads of the lanes of the tile. -/
theorem laneExchanges : Obligations.LaneExchanges :=
  ⟨pollMaskAndShuffles, reductionsAndScans, laneReordering⟩

end Sys2Proof.Machine
end

section
/-! Lane sets, and the division of a unit's lanes among their next addresses (R125, R126). -/
namespace Sys2Proof.Machine

/-! ### Lane sets -/

theorem getLsbD_foldl_union {α : Type} (l : List α) (g : α → Lanes) (m : Lanes) (i : Nat) :
    (l.foldl (fun m x => m ||| g x) m).getLsbD i = (m.getLsbD i || l.any (fun x => (g x).getLsbD i)) := by
  induction l generalizing m with
  | nil => simp
  | cons x l ih => rw [List.foldl_cons, ih, BitVec.getLsbD_or, List.any_cons, Bool.or_assoc]

theorem Lanes.eq_zero {m : Lanes} (h : ∀ L < 32, m.getLsbD L = false) : m = 0 := BitVec.eq_of_getLsbD_eq (by simpa using h)

theorem Lanes.exists_lane {m : Lanes} (h : m ≠ 0) : ∃ L < 32, m.getLsbD L = true := by
  by_contra none
  exact h (Lanes.eq_zero (fun L hL => Bool.eq_false_iff.2 (fun mem => none ⟨L, hL, mem⟩)))

theorem Lanes.lowest_spec {m : Lanes} {L : Nat} (hL : L < 32) (mem : m.getLsbD L = true) :
    Lanes.lowest m < 32 ∧ m.getLsbD (Lanes.lowest m) = true := by
  have listed : L ∈ Lanes.list m := Lanes.mem_list.2 ⟨hL, mem⟩
  have head : Lanes.lowest m ∈ Lanes.list m := by
    unfold Lanes.lowest
    cases h : Lanes.list m with
    | nil => rw [h] at listed; cases listed
    | cons J js => exact List.mem_cons_self
  exact Lanes.mem_list.1 head

theorem getLsbD_sliceLanes {sl L : Nat} (hs : sl < 8) (hL : L < 32) : (sliceLanes sl).getLsbD L = decide (L / 4 = sl) := by
  revert L; revert sl; decide

theorem lowest_lt (m : Lanes) : Lanes.lowest m < 32 := by
  by_cases h : m = 0
  · subst h; decide
  · obtain ⟨L, hL, mem⟩ := Lanes.exists_lane h
    exact (Lanes.lowest_spec hL mem).1

theorem lowestSlice_lt (m : Lanes) : lowestSlice m < 8 := by
  have := lowest_lt m
  unfold lowestSlice
  omega

/-! ### Lanes by destination -/

/-- The lanes of a list that go to a destination. -/
def lanesTo (f : Nat → Dest) (ls : List Nat) (d : Dest) : Lanes := Lanes.of (fun L => decide (L ∈ ls ∧ f L = d))

theorem getLsbD_lanesTo (f : Nat → Dest) (ls : List Nat) (d : Dest) {L : Nat} (hL : L < 32) :
    (lanesTo f ls d).getLsbD L = true ↔ L ∈ ls ∧ f L = d := by
  rw [lanesTo, Lanes.getLsbD_of _ _ hL, decide_eq_true_iff]

theorem lanesTo_append (f : Nat → Dest) (ls : List Nat) {J : Nat} (hJ : J < 32) (d : Dest) :
    lanesTo f (ls ++ [J]) d = if d = f J then lanesTo f ls d ||| (1#32 <<< J) else lanesTo f ls d := by
  refine BitVec.eq_of_getLsbD_eq (fun L hL => ?_)
  have bit : (1#32 <<< J).getLsbD L = decide (L = J) := by simpa using getLsbD_foldl_or [J] 0 L hL
  have split : L ∈ ls ++ [J] ∧ f L = d ↔ (L ∈ ls ∧ f L = d) ∨ (L = J ∧ d = f J) := by
    rw [List.mem_append, List.mem_singleton]
    constructor
    · rintro ⟨h | rfl, e⟩
      · exact .inl ⟨h, e⟩
      · exact .inr ⟨rfl, e.symm⟩
    · rintro (⟨h, e⟩ | ⟨rfl, e⟩)
      · exact ⟨.inl h, e⟩
      · exact ⟨.inr rfl, e.symm⟩
  rw [Bool.eq_iff_iff, getLsbD_lanesTo _ _ _ hL, split]
  split_ifs with e
  · rw [BitVec.getLsbD_or, Bool.or_eq_true, getLsbD_lanesTo _ _ _ hL, bit]
    simp [e]
  · rw [getLsbD_lanesTo _ _ _ hL]
    simp [e]

theorem addLane_map (L : Nat) (d : Dest) (M : Dest → Lanes) {ds : List Dest} (distinct : ds.Nodup) (new : d ∉ ds → M d = 0) :
    addLane L d (ds.map (fun e => (e, M e))) =
      (if d ∈ ds then ds else ds ++ [d]).map (fun e => (e, if e = d then M e ||| (1#32 <<< L) else M e)) := by
  induction ds with
  | nil => simp [addLane, new]
  | cons e ds ih =>
    obtain ⟨fresh, rest⟩ := List.nodup_cons.1 distinct
    rw [List.map_cons, addLane]
    by_cases here : e = d
    · subst here
      have others : ds.map (fun x => (x, M x)) = ds.map (fun x => (x, if x = e then M x ||| (1#32 <<< L) else M x)) :=
        List.map_congr_left (fun x hx => by rw [if_neg]; rintro rfl; exact fresh hx)
      simp [others]
    · have step := ih rest (fun h => new (by simp [h, Ne.symm here]))
      rw [if_neg here, step]
      by_cases mem : d ∈ ds <;> simp [mem, here, Ne.symm here]

/-- The groups of lanes are their destinations, each once, with the lanes that go there. -/
theorem groupsOf_eq (f : Nat → Dest) {ls : List Nat} (lanes : ∀ L ∈ ls, L < 32) :
    ∃ ds : List Dest, ds.Nodup ∧ (∀ d, d ∈ ds ↔ ∃ L ∈ ls, f L = d) ∧ groupsOf f ls = ds.map (fun d => (d, lanesTo f ls d)) := by
  induction ls using List.reverseRecOn with
  | nil => exact ⟨[], List.nodup_nil, by simp, rfl⟩
  | append_singleton ls J ih =>
    obtain ⟨ds, distinct, mem, eq⟩ := ih (fun L hL => lanes L (List.mem_append_left _ hL))
    have hJ : J < 32 := lanes J (by simp)
    refine ⟨if f J ∈ ds then ds else ds ++ [f J], ?_, fun d => ?_, ?_⟩
    · split_ifs with h
      · exact distinct
      · exact List.nodup_append.2 ⟨distinct, List.nodup_singleton _, fun a ha b hb => by
          rintro rfl
          exact h (List.mem_singleton.1 hb ▸ ha)⟩
    · have : d ∈ ds ∨ d = f J ↔ ∃ L ∈ ls ++ [J], f L = d := by
        rw [mem]
        constructor
        · rintro (⟨L, hL, e⟩ | rfl)
          · exact ⟨L, List.mem_append_left _ hL, e⟩
          · exact ⟨J, by simp, rfl⟩
        · rintro ⟨L, hL, e⟩
          rcases List.mem_append.1 hL with hL | hL
          · exact .inl ⟨L, hL, e⟩
          · exact .inr (List.mem_singleton.1 hL ▸ e.symm)
      rw [← this]
      split_ifs with h
      · exact ⟨.inl, fun h' => h'.elim id (fun e => e ▸ h)⟩
      · simp
    · have new : f J ∉ ds → lanesTo f ls (f J) = 0 := fun h => Lanes.eq_zero (fun L hL =>
        Bool.eq_false_iff.2 (fun on => h ((mem _).2 ⟨L, (getLsbD_lanesTo _ _ _ hL).1 on⟩)))
      have step : groupsOf f (ls ++ [J]) = addLane J (f J) (groupsOf f ls) := by simp [groupsOf]
      rw [step, eq, addLane_map J (f J) _ distinct new]
      simp only [lanesTo_append f ls hJ]

/-! ### Listing units -/

theorem find_addSplits_of_not_mem {root : Bool} {parent k : Nat} {es : List Nat} (other : ∀ e ∈ es, k ≠ 8 + e) (t : Table IUnit)
    (gs : List (Dest × Lanes)) : Table.find (addSplits t root parent gs es) k = Table.find t k := by
  induction gs generalizing t es with
  | nil => rfl
  | cons g gs ih =>
    obtain ⟨d, m⟩ := g
    cases es with
    | nil => rfl
    | cons e es =>
      rw [addSplits, ih (fun x hx => other x (List.mem_cons_of_mem _ hx)), Table.find_set, if_neg (other e List.mem_cons_self)]

theorem find_addSplits_of_mem {root : Bool} {parent : Nat} {es : List Nat} (distinct : es.Nodup) (t : Table IUnit)
    {gs : List (Dest × Lanes)} (room : gs.length ≤ es.length) {g : Dest × Lanes} (hg : g ∈ gs) :
    ∃ e, Table.find (addSplits t root parent gs es) (8 + e) = some (unitAt g.1 g.2 root parent) := by
  induction gs generalizing t es with
  | nil => cases hg
  | cons x gs ih =>
    obtain ⟨d, m⟩ := x
    cases es with
    | nil => simp at room
    | cons e es =>
      obtain ⟨fresh, rest⟩ := List.nodup_cons.1 distinct
      rw [addSplits]
      rcases List.mem_cons.1 hg with rfl | hg
      · exact ⟨e, by rw [find_addSplits_of_not_mem (fun x hx h => fresh (by rwa [Nat.add_left_cancel h])), Table.find_set_same]⟩
      · exact ih rest _ (Nat.le_of_succ_le_succ room) hg

theorem find_addGangs_of_not_mem {k : Nat} {gs : List (Dest × Lanes)} (other : ∀ g ∈ gs, k ≠ lowestSlice g.2) (t : Table IUnit) :
    Table.find (addGangs t gs) k = Table.find t k := by
  induction gs generalizing t with
  | nil => rfl
  | cons g gs ih =>
    obtain ⟨d, m⟩ := g
    rw [addGangs, ih (fun x hx => other x (List.mem_cons_of_mem _ hx)), Table.find_set, if_neg (other _ List.mem_cons_self)]

theorem find_addGangs_of_mem {gs : List (Dest × Lanes)} (distinct : (gs.map (fun g => lowestSlice g.2)).Nodup) (t : Table IUnit)
    {g : Dest × Lanes} (hg : g ∈ gs) : Table.find (addGangs t gs) (lowestSlice g.2) = some (unitAt g.1 g.2 true 0) := by
  induction gs generalizing t with
  | nil => cases hg
  | cons x gs ih =>
    obtain ⟨fresh, rest⟩ := List.nodup_cons.1 distinct
    obtain ⟨d, m⟩ := x
    rw [addGangs]
    rcases List.mem_cons.1 hg with rfl | hg
    · rw [find_addGangs_of_not_mem (fun y hy e => fresh (List.mem_map.2 ⟨y, hy, e.symm⟩)), Table.find_set_same]
    · exact ih rest _ hg

/-! ### Where the lanes stand -/

theorem unitAt_park_ne_parent (d : Dest) (m : Lanes) (root : Bool) (parent : Nat) : (unitAt d m root parent).park ≠ .parent := by
  unfold unitAt
  dsimp only
  split_ifs <;> exact Park.noConfusion

/-- A lane of a group stands at the group's destination once the group's unit is listed. -/
theorem Warp.standsAt_of_unitAt {w : Warp} {f : Nat → Dest} {ls : List Nat} {L : Nat} (hL : L < 32) (mem : L ∈ ls) {k : Nat} {root : Bool}
    {parent : Nat} (listed : Table.find w.units k = some (unitAt (f L) (lanesTo f ls (f L)) root parent)) : w.StandsAt L (f L).addr :=
  ⟨k, _, listed, (getLsbD_lanesTo f ls _ hL).2 ⟨mem, rfl⟩, rfl, unitAt_park_ne_parent _ _ _ _⟩

theorem Warp.nodup_freeEntries (w : Warp) : w.freeEntries.Nodup := List.Nodup.filter _ List.nodup_range

theorem mem_list_lt {m : Lanes} : ∀ L ∈ Lanes.list m, L < 32 := fun _ h => (Lanes.mem_list.1 h).1

theorem mem_groupsOf {f : Nat → Dest} {ls : List Nat} (lanes : ∀ L ∈ ls, L < 32) {L : Nat} (mem : L ∈ ls) :
    (f L, lanesTo f ls (f L)) ∈ groupsOf f ls := by
  obtain ⟨ds, -, found, eq⟩ := groupsOf_eq f lanes
  rw [eq]
  exact List.mem_map.2 ⟨f L, (found _).2 ⟨L, mem, rfl⟩, rfl⟩

/-- The lanes that stay in gangs: those of the slices whose lanes go to one destination. -/
def wholeLanes (f : Nat → Dest) (lanes : Lanes) : Lanes :=
  ((List.range 8).filter (fun sl => decide ((sliceGroups f lanes sl).length = 1))).foldl (fun m sl => m ||| (lanes &&& sliceLanes sl)) 0#32

/-- The groups of the slices that part. -/
def partedGroups (f : Nat → Dest) (lanes : Lanes) : List (Dest × Lanes) :=
  ((List.range 8).filter (fun sl => decide (1 < (sliceGroups f lanes sl).length))).flatMap (sliceGroups f lanes)

section
variable {f : Nat → Dest} {lanes : Lanes} {L : Nat} (hL : L < 32)
include hL

theorem getLsbD_wholeLanes : (wholeLanes f lanes).getLsbD L = true ↔ lanes.getLsbD L = true ∧ (sliceGroups f lanes (L / 4)).length = 1 := by
  have slice {sl : Nat} (h : sl < 8) := getLsbD_sliceLanes h hL
  rw [wholeLanes, getLsbD_foldl_union, BitVec.getLsbD_zero, Bool.false_or, List.any_eq_true]
  constructor
  · rintro ⟨sl, hs, on⟩
    obtain ⟨range, one⟩ := List.mem_filter.1 hs
    rw [BitVec.getLsbD_and, slice (List.mem_range.1 range), Bool.and_eq_true, decide_eq_true_iff] at on
    obtain ⟨mem, rfl⟩ := on
    exact ⟨mem, of_decide_eq_true one⟩
  · rintro ⟨mem, one⟩
    refine ⟨L / 4, List.mem_filter.2 ⟨List.mem_range.2 (by omega), decide_eq_true one⟩, ?_⟩
    rw [BitVec.getLsbD_and, slice (by omega), mem]
    simp

theorem mem_slice (mem : lanes.getLsbD L = true) : L ∈ Lanes.list (lanes &&& sliceLanes (L / 4)) :=
  Lanes.mem_list.2 ⟨hL, by rw [BitVec.getLsbD_and, getLsbD_sliceLanes (by omega) hL, mem]; simp⟩

end

/-- Lanes of a slice that stays whole go to one destination. -/
theorem dest_eq_of_whole {f : Nat → Dest} {lanes : Lanes} {L J : Nat} (hL : L < 32) (hJ : J < 32) (onL : (wholeLanes f lanes).getLsbD L = true)
    (onJ : (wholeLanes f lanes).getLsbD J = true) (same : L / 4 = J / 4) : f L = f J := by
  obtain ⟨memL, one⟩ := (getLsbD_wholeLanes hL).1 onL
  obtain ⟨memJ, -⟩ := (getLsbD_wholeLanes hJ).1 onJ
  obtain ⟨g, only⟩ := List.length_eq_one_iff.1 one
  have gL := mem_groupsOf (f := f) mem_list_lt (mem_slice hL memL)
  have gJ := mem_groupsOf (f := f) mem_list_lt (mem_slice hJ memJ)
  unfold sliceGroups at only
  rw [← same] at gJ
  rw [only, List.mem_singleton] at gL gJ
  exact congrArg Prod.fst (gL.trans gJ.symm)

/-- Gangs of different destinations have different lowest slices. -/
theorem nodup_lowestSlices (f : Nat → Dest) (lanes : Lanes) :
    ((groupsOf f (Lanes.list (wholeLanes f lanes))).map (fun g => lowestSlice g.2)).Nodup := by
  obtain ⟨ds, distinct, found, eq⟩ := groupsOf_eq f (ls := Lanes.list (wholeLanes f lanes)) mem_list_lt
  rw [eq, List.map_map]
  refine List.Nodup.map_on (fun d hd e he same => ?_) distinct
  have lowest {d : Dest} (hd : d ∈ ds) : let J := Lanes.lowest (lanesTo f (Lanes.list (wholeLanes f lanes)) d)
      J < 32 ∧ (wholeLanes f lanes).getLsbD J = true ∧ f J = d := by
    obtain ⟨L, hL, goes⟩ := (found d).1 hd
    obtain ⟨lt, on⟩ := Lanes.lowest_spec (mem_list_lt L hL) ((getLsbD_lanesTo f _ d (mem_list_lt L hL)).2 ⟨hL, goes⟩)
    obtain ⟨listed, goes⟩ := (getLsbD_lanesTo f _ d lt).1 on
    exact ⟨lt, (Lanes.mem_list.1 listed).2, goes⟩
  obtain ⟨ltD, onD, toD⟩ := lowest hd
  obtain ⟨ltE, onE, toE⟩ := lowest he
  exact toD.symm.trans ((dest_eq_of_whole ltD ltE onD onE same).trans toE)

section
variable {w w1 : Warp} {k : Nat} {lanes : Lanes} {f : Nat → Dest} (divided : w.divide k lanes f = .ok w1)
include divided

theorem Warp.divide_rest : w1 = { w with units := w1.units } := by
  unfold Warp.divide at divided
  dsimp only at divided
  split at divided
  · cases divided; rfl
  · split_ifs at divided <;> (cases divided; rfl)
  · split_ifs at divided <;> (cases divided; rfl)

/-- Every lane stands at its destination (R125). -/
theorem Warp.divide_standsAt {L : Nat} (hL : L < 32) (mem : lanes.getLsbD L = true) : w1.StandsAt L (f L).addr := by
  have listed : L ∈ Lanes.list lanes := Lanes.mem_list.2 ⟨hL, mem⟩
  have group := mem_groupsOf (f := f) mem_list_lt listed
  unfold Warp.divide at divided
  dsimp only at divided
  split at divided
  · rename_i none
    rw [none] at group
    cases group
  · rename_i d m only
    rw [only, List.mem_singleton] at group
    obtain ⟨rfl, rfl⟩ := Prod.mk.injEq .. ▸ group
    split_ifs at divided
    · cases divided
      exact Warp.standsAt_of_unitAt hL listed (Table.find_set_same _ _ _)
    · cases divided
      exact Warp.standsAt_of_unitAt hL listed (Table.find_set_same _ _ _)
  · split_ifs at divided with gang full room
    · have units : w1.units = addSplits (addGangs (Table.erase w.units k) (groupsOf f (Lanes.list (wholeLanes f lanes)))) true 0
          (partedGroups f lanes) w.freeEntries := by cases divided; rfl
      have inSlice := mem_slice hL mem
      have part := mem_groupsOf (f := f) mem_list_lt inSlice
      by_cases one : (sliceGroups f lanes (L / 4)).length = 1
      · have whole := Lanes.mem_list.2 ⟨hL, (getLsbD_wholeLanes hL).2 ⟨mem, one⟩⟩
        refine Warp.standsAt_of_unitAt (k := lowestSlice (lanesTo f (Lanes.list (wholeLanes f lanes)) (f L))) (root := true) (parent := 0)
          hL whole ?_
        have below := lowestSlice_lt (lanesTo f (Lanes.list (wholeLanes f lanes)) (f L))
        rw [units, find_addSplits_of_not_mem (fun e _ => by omega)]
        have gang := mem_groupsOf (f := f) mem_list_lt whole
        have at_ := find_addGangs_of_mem (nodup_lowestSlices f lanes) (Table.erase w.units k) gang
        exact at_
      · have many : 1 < (sliceGroups f lanes (L / 4)).length := by
          have := List.length_pos_of_mem part
          unfold sliceGroups at one ⊢
          omega
        have parted : (f L, lanesTo f (Lanes.list (lanes &&& sliceLanes (L / 4))) (f L)) ∈ partedGroups f lanes :=
          List.mem_flatMap.2 ⟨L / 4, List.mem_filter.2 ⟨List.mem_range.2 (by omega), decide_eq_true many⟩, part⟩
        obtain ⟨e, at_⟩ := find_addSplits_of_mem (root := true) (parent := 0) w.nodup_freeEntries
          (addGangs (Table.erase w.units k) (groupsOf f (Lanes.list (wholeLanes f lanes)))) (Nat.le_of_not_lt full) parted
        exact Warp.standsAt_of_unitAt hL inSlice (units ▸ at_)
    · cases divided
      obtain ⟨e, at_⟩ := find_addSplits_of_mem (root := false) (parent := k) w.nodup_freeEntries
        (Table.set w.units k { Table.get IUnit.blank w.units k with park := .parent, cover := none, frame := Framing.blank }) (by omega) group
      exact Warp.standsAt_of_unitAt hL listed at_

end

end Sys2Proof.Machine
end

section
/-! What is listed in a table, by its entries. -/
namespace Sys2Proof

variable {α : Type}

theorem Table.mem_set {t : Table α} {n : Nat} {x : α} {y : Nat × α} (h : y ∈ Table.set t n x) : y = (n, x) ∨ y ∈ t := by
  induction t with
  | nil => exact .inl (List.mem_singleton.1 h)
  | cons p t ih =>
    obtain ⟨k, v⟩ := p
    simp only [Table.set] at h
    split_ifs at h
    · exact (List.mem_cons.1 h).imp id (List.mem_cons_of_mem _)
    · exact List.mem_cons.1 h
    · rcases List.mem_cons.1 h with rfl | h
      · exact .inr List.mem_cons_self
      · exact (ih h).imp id (List.mem_cons_of_mem _)

theorem Table.self_mem_set (t : Table α) (n : Nat) (x : α) : (n, x) ∈ Table.set t n x := Table.mem_of_find (Table.find_set_same t n x)

theorem Table.mem_set_of_ne {t : Table α} {n : Nat} (x : α) {y : Nat × α} (h : y ∈ t) (ne : y.1 ≠ n) : y ∈ Table.set t n x := by
  induction t with
  | nil => cases h
  | cons p t ih =>
    obtain ⟨k, v⟩ := p
    simp only [Table.set]
    split_ifs with same less
    · rcases List.mem_cons.1 h with rfl | h
      · exact absurd same ne
      · exact List.mem_cons_of_mem _ h
    · exact List.mem_cons_of_mem _ h
    · rcases List.mem_cons.1 h with rfl | h
      · exact List.mem_cons_self
      · exact List.mem_cons_of_mem _ (ih h)

/-- With each key listed once, an entry is what is found at its key. -/
theorem Table.find_of_mem {t : Table α} (once : (t.map (·.1)).Nodup) {n : Nat} {x : α} (h : (n, x) ∈ t) : Table.find t n = some x := by
  induction t with
  | nil => cases h
  | cons p t ih =>
    obtain ⟨fresh, rest⟩ := List.nodup_cons.1 once
    obtain ⟨k, v⟩ := p
    rw [Table.find]
    rcases List.mem_cons.1 h with e | h
    · cases e; exact if_pos rfl
    · rw [if_neg (fun e => fresh (List.mem_map.2 ⟨_, h, e.symm⟩))]
      exact ih rest h

end Sys2Proof
end

section
/-! Merges of splits and rendezvous of gangs (R128, R129). -/
namespace Sys2Proof.Machine

/-! ### All lanes of some units in one -/

theorem getLsbD_unionOf (us : Table IUnit) (L : Nat) : (unionOf us).getLsbD L = true ↔ ∃ x ∈ us, x.2.lanes.getLsbD L = true := by
  rw [unionOf, getLsbD_foldl_union]
  simp

/-- The unit with the lowest lane of all leads. -/
theorem leaderPc_spec {us : Table IUnit} (some_ : unionOf us ≠ 0) :
    ∃ x ∈ us, x.2.lanes.getLsbD (Lanes.lowest (unionOf us)) = true ∧ leaderPc us = x.2.pc := by
  obtain ⟨L, hL, on⟩ := Lanes.exists_lane some_
  obtain ⟨-, lowest⟩ := Lanes.lowest_spec hL on
  obtain ⟨y, hy, has⟩ := (getLsbD_unionOf us _).1 lowest
  unfold leaderPc
  cases found : us.find? (fun x => x.2.lanes.getLsbD (Lanes.lowest (unionOf us))) with
  | none => exact absurd has (List.find?_eq_none.1 found y hy)
  | some x =>
    have has := List.find?_some found
    exact ⟨x, List.mem_of_find?_eq_some found, has, rfl⟩

/-- The unit that takes all lanes of some units, after the instruction of the one that leads. -/
def Warp.merged (w : Warp) (us : Table IUnit) (root : Bool) (parent : Nat) : IUnit :=
  { unitAt ⟨leaderPc us, 0⟩ (unionOf us) root parent with park := restAt w.loops (unionOf us) (leaderPc us) }

/-- Some units go, and one with all their lanes is listed at a key; what happens to the recorded unit's lanes ends the region. -/
def Warp.mergeInto (w : Warp) (us : Table IUnit) (key : Nat) (root : Bool) (parent : Nat) : Warp :=
  Warp.unregion { w with units := Table.set (dropUnits w.units (us.map (·.1))) key (w.merged us root parent) } (unionOf us)

section
variable (w : Warp) (us : Table IUnit) (key : Nat) (root : Bool) (parent : Nat)

theorem Warp.mergeInto_rest : w.mergeInto us key root parent =
    { w with units := (w.mergeInto us key root parent).units, region := (w.mergeInto us key root parent).region } := rfl

theorem Warp.find_mergeInto (j : Nat) : Table.find (w.mergeInto us key root parent).units j =
    if j = key then some (w.merged us root parent) else if j ∈ us.map (·.1) then none else Table.find w.units j := by
  show Table.find (Table.set _ _ _) j = _
  rw [Table.find_set, dropUnits, Table.find_filter (fun k => !(us.map (·.1)).contains k)]
  by_cases mem : j ∈ us.map (·.1) <;> simp only [List.contains_iff_mem, mem, Bool.not_eq_true', Bool.eq_false_iff, ne_eq,
    not_true_eq_false, not_false_eq_true, if_true, if_false]

theorem Warp.mem_mergeInto {x : Nat × IUnit} (h : x ∈ (w.mergeInto us key root parent).units) :
    x = (key, w.merged us root parent) ∨ (x ∈ w.units ∧ x.1 ∉ us.map (·.1)) := by
  rcases Table.mem_set h with rfl | h
  · exact .inl rfl
  · obtain ⟨mem, kept⟩ := List.mem_filter.1 h
    exact .inr ⟨mem, by simpa using kept⟩

end

/-! ### Splits (R128) -/

theorem Warp.mergeSlices_joined {w : Warp} {sl : Nat} (h : allJoined (rootsOf w.units sl) = true) (sls : List Nat) :
    w.mergeSlices (sl :: sls) = some (w.mergeInto (rootsOf w.units sl) sl true 0) := by
  rw [Warp.mergeSlices, if_pos h]; rfl

theorem rootSplitsMergeIntoGang : RootSplitsMergeIntoGang := by
  intro w sl hs joined
  refine ⟨_, Warp.mergeSlices_joined joined [], ⟨w.merged (rootsOf w.units sl) true 0, ?_, rfl, rfl, rfl, rfl, rfl⟩, fun k u hk mem isRoot => ?_, rfl⟩
  · rw [Warp.find_mergeInto, if_pos rfl]
  · rcases Warp.mem_mergeInto w _ _ _ _ mem with e | ⟨listed, kept⟩
    · obtain ⟨rfl, -⟩ := Prod.mk.injEq .. ▸ e
      omega
    · by_contra meets
      exact kept (List.mem_map.2 ⟨(k, u), List.mem_filter.2 ⟨listed, by simpa [hk, isRoot] using meets⟩, rfl⟩)

theorem Warp.mergeParents_joined {w : Warp} {k : Nat} {u : IUnit} (listed : Table.find w.units k = some u) (isParent : u.park = .parent)
    (some_ : childrenOf w.units k ≠ []) (joined : ∀ x ∈ childrenOf w.units k, x.2.park = .join) (ks : List Nat) :
    w.mergeParents (k :: ks) = some (w.mergeInto (childrenOf w.units k) k u.root u.parent) := by
  have all : allJoined (childrenOf w.units k) = true := by
    simp only [allJoined, Bool.and_eq_true, Bool.not_eq_true', List.isEmpty_eq_false_iff, List.all_eq_true, decide_eq_true_eq]
    exact ⟨some_, joined⟩
  rw [Warp.mergeParents, Table.get_of_find listed]
  dsimp only
  rw [if_neg (not_not.2 isParent), if_neg (by rwa [List.isEmpty_iff]), if_pos all]
  rfl

theorem childSplitsMergeIntoParent : ChildSplitsMergeIntoParent := by
  intro w k u listed isParent kids some_ joined
  refine ⟨_, w.merged kids u.root u.parent, Warp.mergeParents_joined listed isParent some_ joined [], ?_, fun L _ => getLsbD_unionOf kids L, leaderPc_spec,
    rfl, rfl, rfl, rfl, rfl, fun x hx other => ?_, fun j hj none => ?_, rfl⟩
  · exact (Warp.find_mergeInto w kids k u.root u.parent k).trans (if_pos rfl)
  · have gone : x.1 ∈ kids.map (·.1) := List.mem_map_of_mem hx
    exact (Warp.find_mergeInto w kids k u.root u.parent x.1).trans ((if_neg other).trans (if_pos gone))
  · refine (Warp.find_mergeInto w kids k u.root u.parent j).trans ((if_neg hj).trans (if_neg (fun mem => ?_)))
    obtain ⟨x, hx, e⟩ := List.mem_map.1 mem
    exact none x hx e

/-! ### Where nothing merges -/

theorem Warp.mergeParents_none {w : Warp} (h : ∀ x ∈ w.units, x.2.park ≠ .parent) (ks : List Nat) : w.mergeParents ks = none := by
  induction ks with
  | nil => rfl
  | cons k ks ih =>
    rw [Warp.mergeParents]
    dsimp only
    rw [if_pos, ih]
    rcases Table.get_eq_default_or_mem IUnit.blank w.units k with e | mem
    · rw [e]; exact Park.noConfusion
    · exact h _ mem

theorem Warp.mergeSlices_none {w : Warp} (h : ∀ x ∈ w.units, 8 ≤ x.1 → x.2.park ≠ .join) (sls : List Nat) : w.mergeSlices sls = none := by
  induction sls with
  | nil => rfl
  | cons sl sls ih =>
    rw [Warp.mergeSlices]
    dsimp only
    rw [if_neg, ih]
    intro joined
    simp only [allJoined, Bool.and_eq_true, Bool.not_eq_true', List.isEmpty_eq_false_iff, List.all_eq_true, decide_eq_true_eq] at joined
    obtain ⟨some_, all⟩ := joined
    obtain ⟨x, hx⟩ := List.exists_mem_of_ne_nil _ some_
    obtain ⟨mem, root⟩ := List.mem_filter.1 hx
    simp only [Bool.and_eq_true, decide_eq_true_eq] at root
    exact h x mem root.1.1 (all x hx)

theorem Warp.regangs_none {w : Warp} {us : List IUnit} (h : ∀ u ∈ us, ∀ n, u.park ≠ .regang n) : w.regangs us = none := by
  induction us with
  | nil => rfl
  | cons u us ih =>
    rw [Warp.regangs]
    split
    · rename_i n e
      exact absurd e (h u List.mem_cons_self n)
    · exact ih (fun x hx => h x (List.mem_cons_of_mem _ hx))

/-- A warp in which nothing merges and no rendezvous completes. -/
theorem Warp.settle_of_calm {w : Warp} (parents : ∀ x ∈ w.units, x.2.park ≠ .parent) (joins : ∀ x ∈ w.units, 8 ≤ x.1 → x.2.park ≠ .join)
    (gangs : ∀ x ∈ w.units, ∀ n, x.2.park ≠ .regang n) (n : Nat) : w.settle n = w := by
  cases n with
  | zero => rfl
  | succ n =>
    have none : w.regangs (w.units.map (·.2)) = none := Warp.regangs_none (fun u hu => by
      obtain ⟨x, hx, rfl⟩ := List.mem_map.1 hu
      exact gangs x hx)
    rw [Warp.settle, Warp.mergeParents_none parents, Warp.mergeSlices_none joins, none]

/-! ### A rendezvous (R129) -/

/-- Every live slice of a mask waits at its REGANG. -/
def Warp.gathered (w : Warp) (m : BitVec 8) : Prop := (w.live &&& lanesOfSlices m) &&& ~~~unionOf (atRegang w.units m) = 0

/-- The rendezvous of a mask. -/
def Warp.rendezvous (w : Warp) (m : BitVec 8) : Warp :=
  w.mergeInto (atRegang w.units m) (lowestSlice (unionOf (atRegang w.units m))) true 0

theorem Warp.regangs_gathered {w : Warp} {m : BitVec 8} (complete : w.gathered m) {us : List IUnit} (one : ∀ u ∈ us, ∀ n, u.park = .regang n → n = m)
    (waits : ∃ u ∈ us, u.park = .regang m) : w.regangs us = some (w.rendezvous m) := by
  unfold Warp.gathered at complete
  induction us with
  | nil => obtain ⟨u, hu, -⟩ := waits; cases hu
  | cons u us ih =>
    rw [Warp.regangs]
    split
    · rename_i n e
      obtain rfl := one u List.mem_cons_self n e
      dsimp only
      rw [if_pos complete]
      rfl
    · rename_i other
      obtain ⟨x, hx, e⟩ := waits
      rcases List.mem_cons.1 hx with rfl | hx
      · exact absurd e (other m)
      · exact ih (fun y hy => one y (List.mem_cons_of_mem _ hy)) ⟨x, hx, e⟩

theorem restAt_cases (ls : List LoopRec) (m : Lanes) (pc : W64) : restAt ls m pc = .ready ∨ restAt ls m pc = .backEdge := by
  unfold restAt
  split_ifs
  · exact .inr rfl
  · exact .inl rfl

theorem mem_atRegang {t : Table IUnit} {m : BitVec 8} {x : Nat × IUnit} : x ∈ atRegang t m ↔ x ∈ t ∧ x.2.park = .regang m := by
  simp [atRegang]

/-- In a warp of gangs alone that wait at one mask's REGANG, the rendezvous is all that happens. -/
theorem Warp.settle_rendezvous {w : Warp} {m : BitVec 8} (gangs : ∀ x ∈ w.units, x.1 < 8 ∧ x.2.park ≠ .parent ∧ ∀ n, x.2.park = .regang n → n = m)
    (complete : w.gathered m) (waits : ∃ x ∈ w.units, x.2.park = .regang m) (n : Nat) : w.settle (n + 1) = w.rendezvous m := by
  have found : w.regangs (w.units.map (·.2)) = some (w.rendezvous m) := by
    refine Warp.regangs_gathered complete (fun u hu k e => ?_) ?_
    · obtain ⟨x, hx, rfl⟩ := List.mem_map.1 hu
      exact (gangs x hx).2.2 k e
    · obtain ⟨x, hx, e⟩ := waits
      exact ⟨x.2, List.mem_map_of_mem hx, e⟩
  have calm : ∀ x ∈ (w.rendezvous m).units, x.1 < 8 ∧ x.2.park ≠ .parent ∧ ∀ k, x.2.park ≠ .regang k := by
    intro x hx
    rcases Warp.mem_mergeInto w _ _ _ _ hx with rfl | ⟨mem, kept⟩
    · refine ⟨lowestSlice_lt _, ?_, ?_⟩ <;>
        rcases restAt_cases w.loops (unionOf (atRegang w.units m)) (leaderPc (atRegang w.units m)) with e | e <;>
        simp [Warp.merged, e]
    · obtain ⟨gang, parent, only⟩ := gangs x mem
      refine ⟨gang, parent, fun k e => kept (List.mem_map.2 ⟨x, mem_atRegang.2 ⟨mem, ?_⟩, rfl⟩)⟩
      rw [e, only k e]
  rw [Warp.settle, Warp.mergeParents_none (fun x hx => (gangs x hx).2.1),
    Warp.mergeSlices_none (fun x hx h => absurd (gangs x hx).1 (Nat.not_lt.2 h)), found]
  exact Warp.settle_of_calm (fun x hx => (calm x hx).2.1) (fun x hx h => absurd (calm x hx).1 (Nat.not_lt.2 h))
    (fun x hx => (calm x hx).2.2) n

/-! ### Changes of the current warp alone -/

/-- Nothing but the current warp is changed. -/
structure State.OnlyCurrent (s t : State) : Prop where
  others : ∀ k, k ≠ s.cur → t.warpAt k = s.warpAt k
  rest   : t = { s with warps := t.warps }

theorem State.onlyCurrent_setW (s : State) (w : Warp) : s.OnlyCurrent (s.setW w) :=
  ⟨fun _ hk => (State.warpAt_setW s w _).trans (if_neg hk), rfl⟩

section
variable {s t u : State}

theorem State.OnlyCurrent.cur (h : s.OnlyCurrent t) : t.cur = s.cur := by rw [h.rest]

theorem State.OnlyCurrent.unit (h : s.OnlyCurrent t) : t.unit = s.unit := by rw [h.rest]

theorem State.OnlyCurrent.trans (h : s.OnlyCurrent t) (h' : t.OnlyCurrent u) : s.OnlyCurrent u where
  others k hk := (h'.others k (h.cur ▸ hk)).trans (h.others k hk)
  rest := by
    have := h'.rest
    rw [h.rest] at this
    exact this

theorem State.OnlyCurrent.setW (h : s.OnlyCurrent t) (w : Warp) : s.OnlyCurrent (t.setW w) := h.trans (t.onlyCurrent_setW w)

end

/-! ### JOIN and REGANG wait (R128, R129) -/

section
variable {s : State} (calm : s.NoResults)
include calm

theorem State.NoResults.onlyCurrent : s.OnlyCurrent s.closeWindows := calm.closeWindows ▸ s.onlyCurrent_setW s.w

/-- The issuing unit passes its instruction and waits. -/
theorem State.w_parkNext (p : Park) :
    (s.closeWindows.parkNext p).w = { s.w with units := Table.set s.w.units s.unit (s.passed p) } := by
  have same := State.sameIssue_closeWindows calm
  rw [State.parkNext, State.w_setU, same.w, same.u, calm.onlyCurrent.unit]
  rfl

theorem State.onlyCurrent_parkNext (p : Park) (w : Warp) : s.OnlyCurrent ((s.closeWindows.parkNext p).setW w) :=
  (calm.onlyCurrent.setW _).setW w

theorem State.exec_join_gang (admitted : s.Admits acceptNone []) (gang : s.unit < 8) :
    s.Completes .join (fun u => u.w = s.w ∧ s.OnlyWarp u 0) := by
  have same := State.sameIssue_closeWindows calm
  have unit := calm.onlyCurrent.unit
  have runs : exec .join s = s.closed (fun s => s.issue acceptNone [] false (fun s =>
      if s.unit < 8 then .done s else .moved ((s.parkNext .join).setW ((s.parkNext .join).w.settle settleFuel)))) := rfl
  rw [calm.closed] at runs
  refine ⟨_, runs.trans (State.issue_done (same.admits admitted) (if_pos (by rwa [unit]))), ?_⟩
  have frame := State.onlyWarp s s.w rfl 0 0
  rw [State.raise_zero] at frame
  rw [calm.closeWindows]
  exact ⟨State.w_setW s s.w, frame⟩

/-- What an instruction does that moves the unit itself, whose windows end before it. -/
theorem State.exec_moved {i : Instr} {k : State → Eff} {t : State} (runs : exec i s = s.closed (fun s => s.issue acceptNone [] false k))
    (admitted : s.Admits acceptNone []) (moves : k s.closeWindows = .moved t) : exec i s = .next t := by
  rw [runs, calm.closed, State.issue_admits _ ((State.sameIssue_closeWindows calm).admits admitted), moves]
  rfl

theorem State.exec_join_split (admitted : s.Admits acceptNone []) (split_ : 8 ≤ s.unit) :
    exec .join s = .next ((s.closeWindows.parkNext .join).setW ((s.closeWindows.parkNext .join).w.settle settleFuel)) := by
  refine State.exec_moved calm rfl admitted (if_neg ?_)
  rw [calm.closeWindows]
  exact Nat.not_lt.2 split_

theorem State.exec_regang {m : BitVec 8} (admitted : s.Admits acceptNone []) (gang : s.unit < 8) (some_ : m ≠ 0)
    (inside : sliceMask s.u.lanes &&& ~~~m = 0) (agree : ∀ x ∈ s.w.units, clash m (sliceMask s.u.lanes) x.2 = false) :
    exec (.regang m) s = .next ((s.closeWindows.parkNext (.regang m)).setW ((s.closeWindows.parkNext (.regang m)).w.settle settleFuel)) := by
  have same := State.sameIssue_closeWindows calm
  have unit := calm.onlyCurrent.unit
  refine State.exec_moved calm rfl admitted (if_neg ?_)
  rw [same.w, same.u, unit]
  have none : s.w.units.any (fun x => clash m (sliceMask s.u.lanes) x.2) = false := by simpa using agree
  simp only [none, inside, some_, Nat.not_le.2 gang, ne_eq, not_true_eq_false, decide_false, Bool.or_false, Bool.false_eq_true, not_false_eq_true]

end

theorem getLsbD_lanesOfSlices (m : BitVec 8) {L : Nat} (hL : L < 32) : (lanesOfSlices m).getLsbD L = m.getLsbD (L / 4) := Lanes.getLsbD_of _ _ hL

theorem regangFormsOneGang : RegangFormsOneGang := by
  intro s m calm admitted once gang some_ inside gangs complete
  have agree : ∀ x ∈ s.w.units, clash m (sliceMask s.u.lanes) x.2 = false := by
    intro x hx
    unfold clash
    split
    · rename_i n e
      simp [(gangs x hx).2.2 n e]
    · rfl
  have runs := State.exec_regang calm admitted gang some_ inside agree
  rw [State.w_parkNext calm] at runs
  have frame := State.onlyCurrent_parkNext calm (.regang m)
  -- the warp as the issuing unit waits too
  generalize hv : ({ s.w with units := Table.set s.w.units s.unit (s.passed (.regang m)) } : Warp) = v at runs
  have units : v.units = Table.set s.w.units s.unit (s.passed (.regang m)) := by rw [← hv]
  have self : (s.unit, s.passed (.regang m)) ∈ v.units := units ▸ Table.self_mem_set _ _ _
  have listed {x : Nat × IUnit} (hx : x ∈ v.units) : x = (s.unit, s.passed (.regang m)) ∨ x ∈ s.w.units := Table.mem_set (units ▸ hx)
  have waiting (L : Nat) : (unionOf (atRegang v.units m)).getLsbD L = true ↔
      s.u.lanes.getLsbD L = true ∨ ∃ x ∈ s.w.units, x.2.park = .regang m ∧ x.2.lanes.getLsbD L = true := by
    rw [getLsbD_unionOf]
    constructor
    · rintro ⟨x, hx, on⟩
      obtain ⟨mem, park⟩ := mem_atRegang.1 hx
      rcases listed mem with rfl | mem
      · exact .inl on
      · exact .inr ⟨x, mem, park, on⟩
    · rintro (on | ⟨x, hx, park, on⟩)
      · exact ⟨_, mem_atRegang.2 ⟨self, rfl⟩, on⟩
      · by_cases same : x.1 = s.unit
        · have own : s.u = x.2 := Table.get_of_find (Table.find_of_mem once (same ▸ hx))
          exact ⟨_, mem_atRegang.2 ⟨self, rfl⟩, by show s.u.lanes.getLsbD L = true; rwa [own]⟩
        · exact ⟨x, mem_atRegang.2 ⟨units ▸ Table.mem_set_of_ne _ hx same, park⟩, on⟩
  have settled : v.settle settleFuel = v.rendezvous m := by
    refine Warp.settle_rendezvous (fun x hx => ?_) ?_ ⟨_, self, rfl⟩ _
    · rcases listed hx with rfl | mem
      · exact ⟨gang, Park.noConfusion, fun n e => (Park.regang.inj e).symm⟩
      · exact gangs x mem
    · refine Lanes.eq_zero (fun L hL => Bool.eq_false_iff.2 (fun on => ?_))
      rw [BitVec.getLsbD_and, BitVec.getLsbD_and, BitVec.getLsbD_not, getLsbD_lanesOfSlices m hL] at on
      simp only [Bool.and_eq_true, Bool.not_eq_true', decide_eq_true_eq] at on
      obtain ⟨⟨live, slice⟩, -, absent⟩ := on
      have live : s.w.live.getLsbD L = true := by rwa [← hv] at live
      exact Bool.eq_false_iff.1 absent ((waiting L).2 (complete L hL live slice))
  rw [settled] at runs
  generalize ht : (s.closeWindows.parkNext (.regang m)).setW (v.rendezvous m) = t at runs
  have frame : s.OnlyCurrent t := ht ▸ State.onlyCurrent_parkNext calm (.regang m) _
  have warp : t.w = v.rendezvous m := ht ▸ State.w_setW _ _
  have find (j : Nat) : Table.find t.w.units j = _ := (congrArg (fun w : Warp => Table.find w.units j) warp).trans (Warp.find_mergeInto _ _ _ _ _ j)
  have gone {j : Nat} (mem : j ∉ (atRegang v.units m).map (·.1)) : j ≠ s.unit := fun e =>
    mem (e ▸ List.mem_map.2 ⟨_, mem_atRegang.2 ⟨self, rfl⟩, rfl⟩)
  refine ⟨t, v.merged (atRegang v.units m) true 0, runs, (find _).trans (if_pos rfl), fun L _ => waiting L, fun some_ => ?_,
    by rw [← hv]; rfl, rfl, fun j u hj found => ?_, fun j u hj other found park => ?_, by rw [warp, ← hv]; rfl, frame.others, frame.rest⟩
  · obtain ⟨x, hx, on, leads⟩ := leaderPc_spec some_
    obtain ⟨mem, park⟩ := mem_atRegang.1 hx
    rcases listed mem with rfl | mem
    · exact .inl ⟨on, leads⟩
    · exact .inr ⟨x, mem, park, on, leads⟩
  · replace hj : j ≠ lowestSlice (unionOf (atRegang v.units m)) := hj
    rw [find, if_neg hj] at found
    split_ifs at found with mem
    rw [units, Table.find_set, if_neg (gone mem)] at found
    refine ⟨gone mem, fun park => mem (List.mem_map.2 ⟨(j, u), mem_atRegang.2 ⟨?_, park⟩, rfl⟩), found⟩
    exact units ▸ Table.mem_set_of_ne _ (Table.mem_of_find found) (gone mem)
  · replace hj : j ≠ lowestSlice (unionOf (atRegang v.units m)) := hj
    rw [find, if_neg hj, if_neg, units, Table.find_set, if_neg other]
    · exact found
    · intro mem
      obtain ⟨x, hx, e⟩ := List.mem_map.1 mem
      obtain ⟨mem, waits⟩ := mem_atRegang.1 hx
      rcases listed mem with rfl | mem
      · exact other e.symm
      · have same := Table.find_of_mem once (show (j, x.2) ∈ s.w.units from e ▸ mem)
        exact park (Option.some.inj (found.symm.trans same) ▸ waits)

end Sys2Proof.Machine
end

section
/-! LOOP (R136): its body's words, its count, and what starting it leaves unchanged. -/
namespace Sys2Proof.Machine

theorem State.accessed_fetchCode (s : State) (who : Who) (a : W64) (n : Nat) : s.Accessed (s.fetchCode who a n).state := by
  have reached := s.accessed_reach who accFetch [(a.toNat, 4 * n)]
  simp only [State.fetchCode]
  split_ifs
  · exact .refl s
  · split <;> rename_i h <;> rw [h] at reached
    · split
      · exact reached.trans (State.accessed_forget _ _)
      · exact reached.trans (State.accessed_ask _ _ _ _)
    · exact reached
    · exact reached
    · exact reached
    · exact reached

theorem State.Accessed.wgs {s t : State} (h : s.Accessed t) : t.wgs = s.wgs := by rw [h]

theorem State.pop_zero (s : State) : s.pop 0 = s := if_pos (by simp)

/-- A scalar operand takes nothing from the operand queue. -/
theorem State.popped_scalar (s : State) {o : Opnd} (h : o.scalar = true) : s.popped [o] = 0 := by
  simp [State.popped, State.pops, h]

/-- A warp whose bodies the loop buffer holds, or whose workgroup has no image, copies nothing beyond it. -/
theorem State.spillBodies_none {s : State} (h : s.g.image = none ∨ (s.w.loops.flatMap (·.words)).length ≤ 256) : s.spillBodies = .done s := by
  unfold State.spillBodies
  cases image : s.g.image with
  | none => rfl
  | some i =>
    have short : s.w.spilled = [] := List.drop_eq_nil_of_le (h.resolve_left (by simp [image]))
    simp only [short, List.isEmpty_nil, if_true]

/-- The warp with a loop's count in its counter. -/
def Warp.counted (w : Warp) (m : Lanes) (n : Nat) (count : W32) : Warp :=
  ({ w with lcs := Table.put 0#32 w.lcs n count } : Warp).unregion m

/-- A unit beyond the body of a loop that it does not run. -/
def IUnit.beyond (u : IUnit) (ls : List LoopRec) (stop : W64) : IUnit :=
  { u with pc := stop, frame := Framing.blank, issued := none, mid := false, park := restAt ls u.lanes stop }

/-- The loop that a LOOP starts. -/
def State.newLoop (s : State) (c : BitVec 7) (n : BitVec 2) (ws : List W32) : LoopRec :=
  { ctr := n.toNat, start := s.u.pc + 4, stop := s.u.pc + 4 + BitVec.ofNat 64 (4 * c.toNat), lanes := s.u.lanes, words := ws }

section
variable {s t : State} {c b : BitVec 7} {n : BitVec 2} {ws : List W32} (calm : s.NoResults)

/-- The count in the operand b. -/
def State.loopCount (s : State) (b : BitVec 7) : W32 := (s.valueAt intConsts [ss .b b] .b 0).setWidth 32

include calm

/-- A LOOP whose body can be read, in a warp that can begin one. -/
theorem State.exec_loop (admitted : s.Admits acceptNone [ss .b b]) (wf : (Instr.loop c b n).wf = true) (room : s.w.loops.length < 3)
    (free : ∀ l ∈ s.w.loops, l.ctr ≠ n.toNat) (body : s.closeWindows.fetchCode s.who (s.u.pc + 4) c.toNat = .ok t ws)
    (last : isPrefix (ws.getLastD 0) = false) :
    exec (.loop c b n) s = s.closeWindows.finish ((if s.loopCount b = 0 then
      .moved ((t.setW (s.w.counted s.u.lanes n.toNat (s.loopCount b))).setU (s.u.beyond s.w.loops (s.newLoop c n ws).stop))
      else (t.setW { s.w.counted s.u.lanes n.toNat (s.loopCount b) with loops := s.w.loops ++ [s.newLoop c n ws] }).spillBodies).popped 0) := by
  have same := State.sameIssue_closeWindows calm
  have read := State.accessed_fetchCode s.closeWindows s.who (s.u.pc + 4) c.toNat
  rw [body] at read
  have w : t.w = s.w := read.w.trans same.w
  have u : t.u = s.u := read.u.trans same.u
  have none : (s.w.loops.any fun l => decide (l.ctr = n.toNat)) = false := by simpa using free
  have runs : exec (.loop c b n) s = s.startLoop s.who State.spillBodies c b n := rfl
  have u' (v : Warp) (e : v.units = s.w.units) : (t.setW v).u = s.u := by
    have units : (t.setW v).w.units = t.w.units := by rw [State.w_setW, e, w]
    unfold State.u at u ⊢
    rw [units]
    exact u
  rw [runs, State.startLoop]
  simp only [calm.closed, wf, Bool.not_true]
  rw [State.issue_admits _ (same.admits admitted), State.popped_scalar _ rfl]
  simp only [same.w, same.u, same.valueAt, Nat.not_le.2 room, if_false, none, Bool.false_eq_true, body, Got.eff, last, w, u]
  rw [← State.loopCount]
  by_cases zero : s.loopCount b = 0
  · rw [if_pos zero, if_pos zero]
    have moved := u' (s.w.counted s.u.lanes n.toNat (s.loopCount b)) rfl
    exact congrArg (fun x : IUnit => s.closeWindows.finish ((Eff.moved ((t.setW (s.w.counted s.u.lanes n.toNat (s.loopCount b))).setU
      (x.beyond s.w.loops (s.newLoop c n ws).stop))).popped 0)) moved
  · rw [if_neg zero, if_neg zero]; rfl

/-- LOOP with a count starts its loop over the unit's lanes. -/
theorem State.loop_starts (admitted : s.Admits acceptNone [ss .b b]) (wf : (Instr.loop c b n).wf = true) (room : s.w.loops.length < 3)
    (free : ∀ l ∈ s.w.loops, l.ctr ≠ n.toNat) (body : s.closeWindows.fetchCode s.who (s.u.pc + 4) c.toNat = .ok t ws)
    (last : isPrefix (ws.getLastD 0) = false) (counts : s.loopCount b ≠ 0)
    (fits : s.g.image = none ∨ (s.w.loops.flatMap (·.words) ++ ws).length ≤ 256) :
    s.Completes (.loop c b n) (fun u => u.w.loops = s.w.loops ++ [s.newLoop c n ws] ∧ Table.get 0 u.w.lcs n.toNat = s.loopCount b ∧
      u.w = { s.w with loops := u.w.loops, lcs := u.w.lcs, region := u.w.region }) := by
  have same := State.sameIssue_closeWindows calm
  have read := State.accessed_fetchCode s.closeWindows s.who (s.u.pc + 4) c.toNat
  rw [body] at read
  replace read : s.closeWindows.Accessed t := read
  have runs := State.exec_loop calm admitted wf room free body last
  rw [if_neg counts] at runs
  generalize hv : ({ s.w.counted s.u.lanes n.toNat (s.loopCount b) with loops := s.w.loops ++ [s.newLoop c n ws] } : Warp) = v at runs
  have w : (t.setW v).w = v := State.w_setW _ _
  have image : (t.setW v).g.image = s.g.image := by
    have wg : v.wg = s.w.wg := by rw [← hv]; rfl
    have g := same.g
    unfold State.g at g ⊢
    rw [w, wg, ← g, same.w]
    show (t.wgAt s.w.wg).image = _
    exact congrArg (fun ws => (Table.get Workgroup.blank ws s.w.wg).image) read.wgs
  have loops : v.loops.flatMap (·.words) = s.w.loops.flatMap (·.words) ++ ws := by simp [← hv, State.newLoop]
  rw [State.spillBodies_none (by rwa [image, w, loops])] at runs
  refine ⟨_, runs, ?_⟩
  rw [State.pop_zero]
  beta_reduce
  rw [w, ← hv]
  exact ⟨rfl, Table.get_put_same _ _ _ _, rfl⟩

/-- LOOP with count 0 goes to the end address. -/
theorem State.loop_passed (admitted : s.Admits acceptNone [ss .b b]) (wf : (Instr.loop c b n).wf = true) (room : s.w.loops.length < 3)
    (free : ∀ l ∈ s.w.loops, l.ctr ≠ n.toNat) (body : s.closeWindows.fetchCode s.who (s.u.pc + 4) c.toNat = .ok t ws)
    (last : isPrefix (ws.getLastD 0) = false) (none : s.loopCount b = 0) :
    ∃ v, exec (.loop c b n) s = .next v ∧ v.u.pc = (s.newLoop c n ws).stop ∧ v.w.loops = s.w.loops ∧ Table.get 0 v.w.lcs n.toNat = 0 := by
  have runs := State.exec_loop calm admitted wf room free body last
  rw [if_pos none] at runs
  refine ⟨_, runs, ?_⟩
  rw [State.u_setU, State.w_setU, State.w_setW]
  exact ⟨rfl, rfl, (Table.get_put_same _ _ _ _).trans none⟩

/-! ### LBRK (R138) -/

/-- Windows that have no results end without more than the warp's own change. -/
theorem State.closeWindows_setW {v : Warp} (pend : v.pend = s.w.pend) : (s.setW v).closeWindows = s.setW v := by
  have w : (s.setW v).w = v := State.w_setW _ _
  have still : (s.setW v).NoResults := fun p hp => calm p (by rwa [w, pend] at hp)
  rw [still.closeWindows, w, State.setW_setW]

/-- A transfer of the lanes of ACT whose targets are words and whose division fits. -/
theorem State.transfer_moves {target : Nat → Dest} {leave : LoopRec → Lanes} {w1 : Warp}
    (straight : s.crooked (fun L => (target L).addr) = none)
    (divided : s.w.divide s.unit s.u.lanes (fun L => if s.act.getLsbD L then target L else s.fallDest L) = .ok w1) :
    s.transfer target none leave = .moved (s.setW (w1.leaveLoops leave)) := by
  have rest := Warp.divide_rest divided
  have pend : (w1.leaveLoops leave).pend = s.w.pend := by rw [rest]; rfl
  rw [State.transfer]
  simp only [straight, divided]
  rw [State.closing, if_pos calm.mayClose, State.closeWindows_setW calm pend]

omit calm in
/-- What such a transfer leaves. -/
theorem State.transferResult_of_divide {target : Nat → Dest} {leave : LoopRec → Lanes} {w1 : Warp}
    (divided : s.w.divide s.unit s.u.lanes (fun L => if s.act.getLsbD L then target L else s.fallDest L) = .ok w1) :
    s.TransferResult (s.setW (w1.leaveLoops leave)) (fun L => (target L).addr) none := by
  have w : (s.setW (w1.leaveLoops leave)).w = w1.leaveLoops leave := State.w_setW _ _
  have rest := Warp.divide_rest divided
  have frame := State.onlyCurrent_setW s (w1.leaveLoops leave)
  refine ⟨fun L hL mem => ?_, fun e he => (by cases he), fun x L _ _ => ?_, ?_, fun p => ?_, frame.others, frame.rest⟩
  · have stands := Warp.divide_standsAt divided hL mem
    rw [w]
    simp only [apply_ite Dest.addr] at stands
    exact stands
  · rw [w, rest]; rfl
  · rw [w, rest]; rfl
  · rw [w, rest]; exact .rfl

/-- The lanes of ACT that leave a loop at an LBRK. -/
def State.leaveInner (s : State) (l : LoopRec) : Lanes := s.act &&& Lanes.of (fun L => innermost s.w.loops (1#32 <<< L) = some l)

theorem State.exec_lbrk {stops : Nat → W64} (admitted : s.Admits acceptG []) (some_ : s.act ≠ 0)
    (inside : ∀ L ∈ Lanes.list s.act, ∃ l, innermost s.w.loops (1#32 <<< L) = some l ∧ l.stop = stops L ∧ (stops L).toNat % 4 = 0)
    (fits : ∀ k, s.w.divide s.unit s.u.lanes (fun L => if s.act.getLsbD L then leaveDest s.w.loops L else s.fallDest L) ≠ .error k) :
    ∃ t, exec .lbrk s = .next t ∧ s.TransferResult t stops none := by
  have stop {L : Nat} (on : L ∈ Lanes.list s.act) : (leaveDest s.w.loops L).addr = stops L ∧ (stops L).toNat % 4 = 0 := by
    obtain ⟨l, inner, ends, word⟩ := inside L on
    refine ⟨?_, word⟩
    rw [leaveDest, inner]
    exact ends
  have straight : s.crooked (fun L => (leaveDest s.w.loops L).addr) = none := by
    refine List.find?_eq_none.2 (fun L on => ?_)
    obtain ⟨addr, word⟩ := stop on
    simp [addr, word]
  have loops : (Lanes.list s.act).any (fun L => (innermost s.w.loops (1#32 <<< L)).isNone) = false := by
    simp only [List.any_eq_false, Option.isNone_iff_eq_none]
    intro L on none
    obtain ⟨l, inner, -⟩ := inside L on
    rw [none] at inner
    cases inner
  cases divided : s.w.divide s.unit s.u.lanes (fun L => if s.act.getLsbD L then leaveDest s.w.loops L else s.fallDest L) with
  | error k => exact absurd divided (fits k)
  | ok w1 =>
    have runs : exec .lbrk s = .next (s.setW (w1.leaveLoops s.leaveInner)) := by
      have issues : exec .lbrk s = s.issue acceptG [] false (fun s =>
        if (Lanes.list (if s.act = 0 then s.u.lanes else s.act)).any (fun L => (innermost s.w.loops (1#32 <<< L)).isNone) then .trap .illegalOp s.ir.toNat
        else s.transfer (leaveDest s.w.loops) none (fun l => s.act &&& Lanes.of (fun L => innermost s.w.loops (1#32 <<< L) = some l))) := rfl
      rw [issues, State.issue_admits _ admitted, if_neg some_, loops, if_neg Bool.false_ne_true, State.transfer_moves calm straight divided]
      rfl
    obtain ⟨stands, link, vregs, rest⟩ := State.transferResult_of_divide (leave := s.leaveInner) divided
    refine ⟨_, runs, fun L hL mem => ?_, link, vregs, rest⟩
    have at_ := stands L hL mem
    by_cases on : s.act.getLsbD L = true
    · rw [if_pos on] at at_ ⊢
      beta_reduce at at_
      rwa [(stop (Lanes.mem_list.2 ⟨hL, on⟩)).1] at at_
    · rwa [if_neg on] at at_ ⊢

end

/-! ### The clauses together -/

theorem rendezvousAndLoops : RendezvousAndLoops := by
  intro s m c b n calm
  refine ⟨State.exec_join_gang calm, fun admitted split_ => ?_, fun admitted gang some_ inside agree => ?_,
    fun t ws admitted wf room free body last => ⟨State.loop_starts calm admitted wf room free body last, State.loop_passed calm admitted wf room free body last⟩,
    fun stops admitted some_ inside fits => State.exec_lbrk calm admitted some_ inside fits⟩
  · have runs := State.exec_join_split calm admitted split_
    rw [State.w_parkNext calm] at runs
    have frame := State.onlyCurrent_parkNext calm .join
    exact ⟨_, runs, State.w_setW _ _, (frame _).others, (frame _).rest⟩
  · have runs := State.exec_regang calm admitted gang some_ inside agree
    rw [State.w_parkNext calm] at runs
    have frame := State.onlyCurrent_parkNext calm (.regang m)
    exact ⟨_, runs, State.w_setW _ _, (frame _).others, (frame _).rest⟩

/-- Settles O23: merges and rendezvous drop the units that wait and list one with all their lanes, a LOOP whose body can be read adds its loop
or leaps beyond it, and LBRK is a transfer to the loops' ends. -/
theorem mergingRendezvousAndLoops : Obligations.MergingRendezvousAndLoops :=
  ⟨rootSplitsMergeIntoGang, childSplitsMergeIntoParent, regangFormsOneGang, rendezvousAndLoops⟩

end Sys2Proof.Machine
end

section
/-! What dividing a unit and settling merges leave of the other units of a warp (R125, R128). -/
namespace Sys2Proof

theorem Table.mem_of_mem_erase {α : Type} {t : Table α} {n : Nat} {x : Nat × α} (h : x ∈ Table.erase t n) : x ∈ t := by
  induction t with
  | nil => cases h
  | cons p t ih =>
    rw [Table.erase] at h
    split_ifs at h
    · exact List.mem_cons_of_mem _ (ih h)
    · exact (List.mem_cons.1 h).elim (fun e => e ▸ List.mem_cons_self) (fun h => List.mem_cons_of_mem _ (ih h))

theorem Table.find_map {α β : Type} (f : α → β) (t : Table α) (n : Nat) : Table.find (t.map (fun x => (x.1, f x.2))) n = (Table.find t n).map f := by
  induction t with
  | nil => rfl
  | cons p t ih =>
    obtain ⟨k, v⟩ := p
    rw [List.map_cons, Table.find, Table.find]
    split_ifs
    · rfl
    · exact ih

end Sys2Proof

namespace Sys2Proof.Machine

/-! ### The units of a divided warp -/

section
variable {P : IUnit → Prop} (fresh : ∀ d m root parent, P (unitAt d m root parent))
include fresh

theorem addGangs_all {gs : List (Dest × Lanes)} {t : Table IUnit} (h : ∀ x ∈ t, P x.2) : ∀ x ∈ addGangs t gs, P x.2 := by
  induction gs generalizing t with
  | nil => exact h
  | cons g gs ih => exact ih (fun x hx => (Table.mem_set hx).elim (fun e => e ▸ fresh _ _ _ _) (h x))

theorem addSplits_all {root : Bool} {parent : Nat} {gs : List (Dest × Lanes)} {es : List Nat} {t : Table IUnit} (h : ∀ x ∈ t, P x.2) :
    ∀ x ∈ addSplits t root parent gs es, P x.2 := by
  induction gs generalizing t es with
  | nil => exact h
  | cons g gs ih =>
    cases es with
    | nil => exact h
    | cons e es => exact ih (fun x hx => (Table.mem_set hx).elim (fun e => e ▸ fresh _ _ _ _) (h x))

/-- What holds of the warp's units, of units that go on, and of parents holds of the units of the divided warp. -/
theorem Warp.divide_all {w w1 : Warp} {k : Nat} {lanes : Lanes} {f : Nat → Dest} (h : ∀ x ∈ w.units, P x.2)
    (parent : ∀ u : IUnit, P { u with park := .parent, cover := none, frame := Framing.blank })
    (divided : w.divide k lanes f = .ok w1) : ∀ x ∈ w1.units, P x.2 := by
  have erased : ∀ x ∈ Table.erase w.units k, P x.2 := fun x hx => h x (Table.mem_of_mem_erase hx)
  have listed {u : IUnit} (hu : P u) : ∀ x ∈ Table.set w.units k u, P x.2 := fun x hx => (Table.mem_set hx).elim (fun e => e ▸ hu) (h x)
  unfold Warp.divide at divided
  dsimp only at divided
  split at divided
  · cases divided; exact erased
  · split_ifs at divided <;> cases divided
    · exact addGangs_all fresh erased
    · exact listed (fresh _ _ _ _)
  · split_ifs at divided <;> cases divided
    · exact addSplits_all fresh (addGangs_all fresh erased)
    · exact addSplits_all fresh (listed (parent _))

end

/-! ### Settling where no unit waits for others -/

theorem Warp.mergeParents_rest {w w1 : Warp} {ks : List Nat} (h : w.mergeParents ks = some w1) :
    w1 = { w with units := w1.units, region := w1.region } := by
  induction ks with
  | nil => cases h
  | cons k ks ih =>
    rw [Warp.mergeParents] at h
    dsimp only at h
    split_ifs at h
    · exact ih h
    · cases h; rfl
    · cases h; rfl
    · exact ih h

theorem Warp.mergeSlices_rest {w w1 : Warp} {sls : List Nat} (h : w.mergeSlices sls = some w1) :
    w1 = { w with units := w1.units, region := w1.region } := by
  induction sls with
  | nil => cases h
  | cons sl sls ih =>
    rw [Warp.mergeSlices] at h
    dsimp only at h
    split_ifs at h
    · cases h; rfl
    · exact ih h

theorem Warp.regangs_rest {w w1 : Warp} {us : List IUnit} (h : w.regangs us = some w1) :
    w1 = { w with units := w1.units, region := w1.region } := by
  induction us with
  | nil => cases h
  | cons u us ih =>
    rw [Warp.regangs] at h
    split at h
    · dsimp only at h
      split_ifs at h
      · cases h; rfl
      · exact ih h
    · exact ih h

/-- Merges and rendezvous change units, and end the region. -/
theorem Warp.settle_rest (w : Warp) (n : Nat) : w.settle n = { w with units := (w.settle n).units, region := (w.settle n).region } := by
  induction n generalizing w with
  | zero => rfl
  | succ n ih =>
    have step {w1 : Warp} (rest : w1 = { w with units := w1.units, region := w1.region }) :
        w1.settle n = { w with units := (w1.settle n).units, region := (w1.settle n).region } := by
      have e := ih w1
      generalize w1.settle n = v at e
      rw [e, rest]
    rw [Warp.settle]
    split
    · rename_i w1 h; exact step (Warp.mergeParents_rest h)
    · split
      · rename_i w1 h; exact step (Warp.mergeSlices_rest h)
      · split
        · rename_i w1 h; exact step (Warp.regangs_rest h)
        · rfl

/-- A unit that waits at no JOIN and no REGANG. -/
def IUnit.alone (u : IUnit) : Prop := u.park ≠ .join ∧ ∀ m, u.park ≠ .regang m

/-- With every unit alone, what merges is a parent without children, which ends. -/
theorem Warp.mergeParents_alone {w w1 : Warp} (alone : ∀ x ∈ w.units, x.2.alone) {ks : List Nat} (h : w.mergeParents ks = some w1) :
    ∃ k, (Table.get IUnit.blank w.units k).park = .parent ∧ w1 = { w with units := Table.erase w.units k } := by
  induction ks with
  | nil => cases h
  | cons k ks ih =>
    rw [Warp.mergeParents] at h
    dsimp only at h
    split_ifs at h with other none joined
    · exact ih h
    · cases h; exact ⟨k, not_not.1 other, rfl⟩
    · simp only [allJoined, Bool.and_eq_true, Bool.not_eq_true', List.isEmpty_eq_false_iff, List.all_eq_true, decide_eq_true_eq] at joined
      obtain ⟨some_, all⟩ := joined
      obtain ⟨x, hx⟩ := List.exists_mem_of_ne_nil _ some_
      exact absurd (all x hx) (alone x (List.mem_filter.1 hx).1).1
    · exact ih h

/-- With every unit alone, every lane that stands somewhere still stands there. -/
theorem Warp.standsAt_settle {w : Warp} (alone : ∀ x ∈ w.units, x.2.alone) {L : Nat} {pc : W64} (stands : w.StandsAt L pc) (n : Nat) :
    (w.settle n).StandsAt L pc := by
  induction n generalizing w with
  | zero => exact stands
  | succ n ih =>
    rw [Warp.settle]
    split
    · rename_i w1 h
      obtain ⟨k, parent, rfl⟩ := Warp.mergeParents_alone alone h
      refine ih (fun x hx => alone x (Table.mem_of_mem_erase hx)) ?_
      obtain ⟨j, u, found, on, at_, other⟩ := stands
      have ne : j ≠ k := fun e => other (by rwa [← e, Table.get_of_find found] at parent)
      exact ⟨j, u, (Table.find_erase _ _ _).trans ((if_neg ne).trans found), on, at_, other⟩
    · rw [Warp.mergeSlices_none (fun x hx _ => (alone x hx).1), Warp.regangs_none (fun u hu m => ?_)]
      · exact stands
      · obtain ⟨x, hx, rfl⟩ := List.mem_map.1 hu
        exact (alone x hx).2 m

end Sys2Proof.Machine
end

section
/-! The workgroup barrier's phase (R157): what its completion changes. -/
namespace Sys2Proof.Machine

theorem releaseBsync_twice (ls : List LoopRec) (u : IUnit) : releaseBsync ls (releaseBsync ls u) = releaseBsync ls u := by
  unfold releaseBsync
  by_cases waits : u.park = .bsync
  · rw [if_pos waits]
    rcases restAt_cases ls u.lanes u.pc with e | e <;> simp [e]
  · rw [if_neg waits, if_neg waits]

theorem Warp.releaseBsync_twice (w : Warp) : w.releaseBsync.releaseBsync = w.releaseBsync := by
  simp only [Warp.releaseBsync, List.map_map, Option.map_map, Function.comp_def, Machine.releaseBsync_twice]

/-- A release of waiting units moves no lane. -/
theorem Warp.standsAt_releaseBsync {w : Warp} {L : Nat} {pc : W64} (stands : w.StandsAt L pc) : w.releaseBsync.StandsAt L pc := by
  obtain ⟨k, u, found, on, at_, other⟩ := stands
  refine ⟨k, Machine.releaseBsync w.loops u, ?_, ?_⟩
  · exact (Table.find_map (Machine.releaseBsync w.loops) w.units k).trans (congrArg (Option.map (Machine.releaseBsync w.loops)) found)
  · unfold Machine.releaseBsync
    split_ifs
    · refine ⟨on, at_, ?_⟩
      rcases restAt_cases w.loops u.lanes u.pc with e | e <;> simp [e]
    · exact ⟨on, at_, other⟩

theorem get_releaseWarps (t : Table Warp) (ks : List Nat) (k : Nat) :
    Table.get Warp.blank (releaseWarps t ks) k = if k ∈ ks then (Table.get Warp.blank t k).releaseBsync else Table.get Warp.blank t k := by
  induction ks generalizing t with
  | nil => rfl
  | cons j ks ih =>
    rw [releaseWarps, ih, Table.get_set]
    by_cases here : k = j
    · subst here
      simp [Warp.releaseBsync_twice]
    · simp [here]

section
variable (s : State) (wg : Nat)

theorem State.settleBarrier_rest : s.settleBarrier wg = { s with warps := (s.settleBarrier wg).warps, wgs := (s.settleBarrier wg).wgs } := by
  simp only [State.settleBarrier]; split_ifs <;> rfl

theorem State.warpAt_settleBarrier (k : Nat) :
    (s.settleBarrier wg).warpAt k = s.warpAt k ∨ (s.settleBarrier wg).warpAt k = (s.warpAt k).releaseBsync := by
  simp only [State.settleBarrier]
  split_ifs
  · exact .inl rfl
  · have e := get_releaseWarps s.warps (s.wgAt wg).warps k
    split_ifs at e
    · exact .inr e
    · exact .inl e

theorem State.settleBarrier_of_none (h : (s.wgAt wg).arrived = 0) : s.settleBarrier wg = s := if_pos (.inl h)

theorem State.wgAt_settleBarrier (k : Nat) : (s.settleBarrier wg).wgAt k =
    if k = wg then { s.wgAt wg with arrived := ((s.settleBarrier wg).wgAt wg).arrived, bphase := ((s.settleBarrier wg).wgAt wg).bphase }
    else s.wgAt k := by
  simp only [State.settleBarrier]
  split_ifs with still same same
  · rw [same]
  · rfl
  · subst same
    have e := (State.wgAt_setWg s k k { s.wgAt k with arrived := 0, bphase := (s.wgAt k).bphase + 1 }).trans (if_pos rfl)
    generalize s.setWg k { s.wgAt k with arrived := 0, bphase := (s.wgAt k).bphase + 1 } = t at e
    show t.wgAt k = { s.wgAt k with arrived := (t.wgAt k).arrived, bphase := (t.wgAt k).bphase }
    rw [e]
  · exact (State.wgAt_setWg _ _ _ _).trans (if_neg same)

end

end Sys2Proof.Machine
end

section
/-! EXIT and HALT (R135, R308, R317). -/
namespace Sys2Proof.Machine

/-! ### The end of some lanes -/

/-- Which lanes live is nothing to a division. -/
theorem Warp.divide_live {w w1 : Warp} {k : Nat} {lanes : Lanes} {f : Nat → Dest} (divided : w.divide k lanes f = .ok w1) (m : Lanes) :
    ({ w with live := m } : Warp).divide k lanes f = .ok { w1 with live := m } := by
  unfold Warp.divide at divided ⊢
  dsimp only at divided ⊢
  split at divided
  · cases divided; rfl
  · split_ifs at divided ⊢ <;> cases divided <;> rfl
  · unfold Warp.freeEntries at divided ⊢
    split_ifs at divided ⊢ <;> cases divided <;> rfl

/-- The warp in which lanes have ended and the unit's others go on. -/
def Warp.without (w1 : Warp) : Warp := w1.pruneLoops.settle settleFuel

section
variable {s : State} {w1 : Warp} (calm : s.NoResults)
  (divided : ({ s.w with live := s.w.live &&& ~~~s.act } : Warp).divide s.unit (s.u.lanes &&& ~~~s.act) s.fallDest = .ok w1)
include divided

theorem Warp.without_rest : w1.without =
    { s.w with live := s.w.live &&& ~~~s.act, units := w1.without.units, loops := w1.without.loops, region := w1.without.region } := by
  have divides := Warp.divide_rest divided
  have settles := Warp.settle_rest w1.pruneLoops settleFuel
  unfold Warp.without
  generalize w1.pruneLoops.settle settleFuel = v at settles
  rw [settles, Warp.pruneLoops, divides]

/-- The unit's other lanes stand at the next word where no unit waits for the ended ones. -/
theorem Warp.without_standsAt (alone : ∀ x ∈ s.w.units, x.2.alone) {L : Nat} (hL : L < 32) (mem : s.u.lanes.getLsbD L = true)
    (stays : s.act.getLsbD L = false) : w1.without.StandsAt L (s.u.pc + 4) := by
  have others : ∀ x ∈ w1.units, x.2.alone := Warp.divide_all (w := { s.w with live := s.w.live &&& ~~~s.act }) (P := IUnit.alone)
    (fun d m root parent => by
      unfold IUnit.alone unitAt
      split_ifs <;> simp)
    alone (fun u => ⟨Park.noConfusion, fun _ => Park.noConfusion⟩) divided
  have stands := Warp.divide_standsAt divided (L := L) hL (by rw [BitVec.getLsbD_and, BitVec.getLsbD_not, mem, stays]; simp [hL])
  have pruned : w1.pruneLoops.StandsAt L (s.u.pc + 4) := stands
  exact Warp.standsAt_settle (w := w1.pruneLoops) others pruned settleFuel

include calm

theorem State.endLanes_moves : s.endLanes s.act = .moved ((s.setW w1.without).settleBarrier s.w.wg) := by
  have rest := Warp.without_rest divided
  have pend : w1.without.pend = s.w.pend := by rw [rest]
  have still := State.closeWindows_setW calm pend
  rw [State.endLanes]
  dsimp only
  rw [divided]
  dsimp only
  rw [State.closing, if_pos calm.mayClose]
  exact congrArg (fun x : State => Eff.moved (x.settleBarrier s.w.wg)) still

theorem State.exec_exit (admitted : s.Admits acceptG []) (outside : s.w.handler = false)
    (flat : ∀ L ∈ Lanes.list s.act, (s.w.frameAt L).depth = false) :
    exec .exit s = .next (((s.setW w1.without).settleBarrier s.w.wg).warpEnded s.cur) := by
  have runs : exec .exit s = execExit s := rfl
  have none : (Lanes.list s.act).any (fun L => (s.w.frameAt L).depth) = false := by simpa using flat
  rw [runs, execExit, State.issue_admits _ admitted, outside, none, Bool.false_and, if_neg Bool.false_ne_true, if_neg Bool.false_ne_true,
    State.endLanes_moves calm divided]
  rfl

end

/-! ### What follows where a warp has ended (R197) -/

theorem State.warpEnded_of_live {s : State} {k : Nat} (h : (s.warpAt k).live ≠ 0 ∨ (s.wgAt (s.warpAt k).wg).eng.latches = []) :
    s.warpEnded k = s := by
  unfold State.warpEnded
  dsimp only
  split_ifs with live
  · rfl
  · rw [h.resolve_left live]
    rfl

theorem get_removeWarps (t : Table Warp) (ks : List Nat) (k : Nat) :
    Table.get Warp.blank (removeWarps t ks) k = if k ∈ ks then (Table.get Warp.blank t k).removed else Table.get Warp.blank t k := by
  induction ks generalizing t with
  | nil => rfl
  | cons j ks ih =>
    rw [removeWarps, ih, Table.get_set]
    by_cases here : k = j
    · subst here
      simp [Warp.removed]
    · simp [here]

/-- A warp has ended, and memory is as given. -/
structure State.Halted (s : State) (k : Nat) (mem : Memory) : Prop where
  live : (s.warpAt k).live = 0
  units : (s.warpAt k).units = []
  tframe : (s.warpAt k).tframe = none
  mem : s.mem = mem

section
variable {s : State} {k : Nat} {mem : Memory} (h : s.Halted k mem)
include h

theorem State.Halted.of_warps {t : State} (warp : t.warpAt k = s.warpAt k) (m : t.mem = s.mem) : t.Halted k mem :=
  ⟨warp ▸ h.live, warp ▸ h.units, warp ▸ h.tframe, m.trans h.mem⟩

theorem State.Halted.removeWg (wg : Nat) : (s.removeWg wg).Halted k mem := by
  have warp : (s.removeWg wg).warpAt k = if k ∈ (s.wgAt wg).warps then (s.warpAt k).removed else s.warpAt k := get_removeWarps _ _ _
  split_ifs at warp
  · exact ⟨congrArg Warp.live warp, congrArg Warp.units warp, congrArg Warp.tframe warp, h.mem⟩
  · exact h.of_warps warp rfl

theorem State.Halted.removeWgs (wgs : List Nat) : (s.removeWgs wgs).Halted k mem := by
  induction wgs generalizing s with
  | nil => exact h
  | cons wg wgs ih => exact ih (h.removeWg wg)

theorem State.Halted.endDomain (asid : Nat) (d : BitVec 16) : (s.endDomain asid d).Halted k mem := by
  have dropped : (s.dropParcels (fun _ l => decide (l.asid = asid) && decide (l.domain = d) && decide (l.phase ≠ .submitted))).Halted k mem :=
    h.of_warps rfl rfl
  exact (dropped.removeWgs _).of_warps rfl rfl

/-- A trap is taken by another warp. -/
theorem State.Halted.takeTrap (other : s.cur ≠ k) (t : Trap) (info : Nat) : (s.takeTrap t info).Halted k mem := by
  unfold State.takeTrap
  split_ifs
  · exact h.endDomain _ _
  · refine h.of_warps ?_ rfl
    exact (State.warpAt_setW _ _ _).trans (if_neg other.symm)

/-- A unit traps at its own instruction unless its warp has ended. -/
theorem State.Halted.trapUnit (t : Trap) (info : Nat) :
    (if s.w.live = 0 then s else (s.setU { s.u with park := .ready }).takeTrap t info).Halted k mem := by
  split_ifs with live
  · exact h
  · have other : s.cur ≠ k := fun e => live (by subst e; exact h.live)
    have set_ : (s.setU { s.u with park := .ready }).Halted k mem := h.of_warps ((State.warpAt_setW _ _ _).trans (if_neg other.symm)) rfl
    exact set_.takeTrap other t info

theorem State.Halted.trapArrivals (t : Trap) (info : Arrival → Nat) (as : List Arrival) : (s.trapArrivals t info as).Halted k mem := by
  induction as generalizing s with
  | nil => exact h
  | cons a as ih =>
    have there : ({ s with cur := a.warp, unit := a.unit } : State).Halted k mem := h.of_warps rfl rfl
    exact ih ((there.trapUnit t (info a)).of_warps rfl rfl)

theorem State.Halted.mismatch (wg : Nat) (ls : List (Nat × Latch)) : (s.mismatch wg ls).Halted k mem := by
  induction ls generalizing s with
  | nil => exact h
  | cons l ls ih =>
    have closed : (s.closeLatch wg l.1).Halted k mem := h.of_warps rfl rfl
    exact ih (closed.trapArrivals _ _ _)

theorem State.Halted.warpEnded (j : Nat) : (s.warpEnded j).Halted k mem := by
  unfold State.warpEnded
  dsimp only
  split_ifs
  · exact h
  · exact h.mismatch _ _

end

theorem State.cur_trapArrivals (s : State) (t : Trap) (info : Arrival → Nat) (as : List Arrival) : (s.trapArrivals t info as).cur = s.cur := by
  induction as generalizing s with
  | nil => rfl
  | cons a as ih => exact ih _

theorem State.cur_mismatch (s : State) (wg : Nat) (ls : List (Nat × Latch)) : (s.mismatch wg ls).cur = s.cur := by
  induction ls generalizing s with
  | nil => rfl
  | cons l ls ih => exact (ih _).trans (State.cur_trapArrivals _ _ _ _)

theorem State.cur_warpEnded (s : State) (k : Nat) : (s.warpEnded k).cur = s.cur := by
  unfold State.warpEnded
  dsimp only
  split_ifs
  · rfl
  · exact State.cur_mismatch _ _ _

/-! ### The clauses -/

section
variable {s : State}

/-- What an end of lanes leaves, no latch being concerned: the barrier of the workgroup may complete. -/
theorem State.exit_result {w1 : Warp}
    (divided : ({ s.w with live := s.w.live &&& ~~~s.act } : Warp).divide s.unit (s.u.lanes &&& ~~~s.act) s.fallDest = .ok w1) :
    let t := (s.setW w1.without).settleBarrier s.w.wg
    t.w = { s.w with live := s.w.live &&& ~~~ s.act, units := t.w.units, loops := t.w.loops, region := t.w.region,
                     pend := t.w.pend, tframe := t.w.tframe } ∧
    ((∀ x ∈ s.w.units, x.2.park ≠ .join ∧ ∀ m, x.2.park ≠ .regang m) →
      ∀ L, L < 32 → s.u.lanes.getLsbD L = true → s.act.getLsbD L = false → t.w.StandsAt L (s.u.pc + 4)) ∧
    (∀ p, p ∈ t.w.pend ↔ p ∈ s.w.pend) ∧
    (∀ k, k ≠ s.cur → t.warpAt k = s.warpAt k ∨ t.warpAt k = (s.warpAt k).releaseBsync) ∧
    (s.g.arrived = 0 → (∀ k, k ≠ s.cur → t.warpAt k = s.warpAt k) ∧ t.wgs = s.wgs) ∧
    (∀ k, k ≠ s.w.wg → t.wgAt k = s.wgAt k) ∧ t.g = { s.g with arrived := t.g.arrived, bphase := t.g.bphase } ∧
    t = { s with warps := t.warps, wgs := t.wgs } := by
  intro t
  have rest := Warp.without_rest divided
  have stands := Warp.without_standsAt divided
  have frame := State.onlyCurrent_setW s w1.without
  have own : (s.setW w1.without).w = w1.without := State.w_setW _ _
  have frameB := State.settleBarrier_rest (s.setW w1.without) s.w.wg
  have warps := State.warpAt_settleBarrier (s.setW w1.without) s.w.wg
  have wgs := State.wgAt_settleBarrier (s.setW w1.without) s.w.wg
  have still := State.settleBarrier_of_none (s.setW w1.without) s.w.wg
  change t = { s.setW w1.without with warps := t.warps, wgs := t.wgs } at frameB
  change ∀ k, t.warpAt k = _ ∨ t.warpAt k = _ at warps
  change ∀ k, t.wgAt k = if k = s.w.wg then { s.wgAt s.w.wg with arrived := (t.wgAt s.w.wg).arrived, bphase := (t.wgAt s.w.wg).bphase } else s.wgAt k at wgs
  change s.g.arrived = 0 → t = _ at still
  clear_value t
  have cur : t.cur = s.cur := by rw [frameB]; rfl
  have w : t.w = w1.without ∨ t.w = w1.without.releaseBsync := by
    have := warps s.cur
    rw [← cur] at this
    rwa [show t.warpAt t.cur = t.w from rfl, show (s.setW w1.without).warpAt t.cur = w1.without from cur ▸ own] at this
  generalize w1.without = v at rest stands own frame frameB warps still w
  have warp : t.w = { s.w with live := s.w.live &&& ~~~ s.act, units := t.w.units, loops := t.w.loops, region := t.w.region, pend := t.w.pend,
                               tframe := t.w.tframe } := by
    rcases w with e | e
    · rw [e, rest]
    · rw [e, rest]; rfl
  have wg : t.w.wg = s.w.wg := by rw [warp]
  refine ⟨warp, fun alone L hL mem stays => ?_, fun p => ?_, fun k hk => ?_, fun none => ?_, fun k hk => (wgs k).trans (if_neg hk), ?_, ?_⟩
  · have at_ := stands alone hL mem stays
    rcases w with e | e <;> rw [e]
    · exact at_
    · exact Warp.standsAt_releaseBsync at_
  · rcases w with e | e
    · rw [e, rest]
    · rw [e, rest]; exact .rfl
  · have := warps k
    rwa [frame.others k hk] at this
  · have e := still none
    exact ⟨fun k hk => by rw [e]; exact frame.others k hk, by rw [e]; rfl⟩
  · have own := (wgs s.w.wg).trans (if_pos rfl)
    unfold State.g
    rw [wg]
    exact own
  · rw [frameB]; rfl

/-- HALT 0 ends the warp. -/
theorem State.halt_ends (admitted : s.Admits acceptNone []) (inside : s.w.handler = true) :
    ∃ t, exec (.halt 0) s = .next t ∧ t.w.live = 0 ∧ t.w.units = [] ∧ t.w.tframe = none ∧ t.mem = s.mem := by
  have legal : (!s.w.handler || decide (1 < (0 : BitVec 7).toNat)) = false := by rw [inside]; rfl
  have issues : exec (.halt 0) s = s.issue acceptNone [] (!s.w.handler || decide (1 < (0 : BitVec 7).toNat)) (fun s =>
    .moved (if (0 : BitVec 7) = 0 then s.haltWarp else s.uncontained)) := rfl
  have runs : exec (.halt 0) s = .next s.haltWarp := by rw [issues, legal, State.issue_admits _ admitted]; rfl
  have own : (s.setW s.w.removed).warpAt s.cur = s.w.removed := State.w_setW _ _
  have rest := State.settleBarrier_rest (s.setW s.w.removed) s.w.wg
  have gone : ((s.setW s.w.removed).settleBarrier s.w.wg).Halted s.cur s.mem := by
    have mem : ((s.setW s.w.removed).settleBarrier s.w.wg).mem = s.mem := by rw [rest]; rfl
    rcases State.warpAt_settleBarrier (s.setW s.w.removed) s.w.wg s.cur with e | e <;> rw [own] at e <;>
      exact ⟨congrArg Warp.live e, congrArg Warp.units e, congrArg Warp.tframe e, mem⟩
  have cur : s.haltWarp.cur = s.cur := (State.cur_warpEnded _ _).trans (by rw [rest]; rfl)
  have halted : s.haltWarp.Halted s.haltWarp.cur s.mem := cur ▸ gone.warpEnded s.cur
  exact ⟨_, runs, halted.live, halted.units, halted.tframe, halted.mem⟩

theorem State.exit_in_handler (admitted : s.Admits acceptG []) (inside : s.w.handler = true) (some_ : s.act ≠ 0) :
    exec .exit s = .next s.uncontained := by
  have runs : exec .exit s = execExit s := rfl
  rw [runs, execExit, State.issue_admits _ admitted, inside, decide_eq_true some_, Bool.true_and, if_pos rfl]
  rfl

end

/-- Settles O28: an EXIT divides the unit of the lanes that go on, and HALT 0 removes the warp before latches that list it close. -/
theorem endingLanes : Obligations.EndingLanes := by
  intro s
  refine ⟨fun admitted outside flat calm fits => ?_, fun admitted inside => State.halt_ends admitted inside,
    fun admitted inside some_ => State.exit_in_handler admitted inside some_⟩
  cases divided : s.w.divide s.unit (s.u.lanes &&& ~~~s.act) s.fallDest with
  | error n => exact absurd divided (fits n)
  | ok w0 =>
    obtain ⟨w1, divided⟩ : ∃ w1, ({ s.w with live := s.w.live &&& ~~~s.act } : Warp).divide s.unit (s.u.lanes &&& ~~~s.act) s.fallDest = .ok w1 :=
      ⟨_, Warp.divide_live divided _⟩
    have runs := State.exec_exit calm divided admitted outside flat
    refine ⟨_, runs, fun quiet => ?_⟩
    have result := State.exit_result divided
    have same : ((s.setW w1.without).settleBarrier s.w.wg).cur = s.cur := by rw [State.settleBarrier_rest]; rfl
    generalize (s.setW w1.without).settleBarrier s.w.wg = t at result same
    have still : t.warpEnded s.cur = t := by
      obtain ⟨warp, -, -, -, -, -, g, -⟩ := result
      have live : t.w.live = s.w.live &&& ~~~s.act := by rw [warp]
      have eng : t.g.eng = s.g.eng := by rw [g]
      rw [← live, ← eng] at quiet
      rw [← same]
      exact State.warpEnded_of_live quiet
    rw [still]
    exact result

end Sys2Proof.Machine
end

section
/-! The fields of a packed word. -/
namespace Sys2Proof

section
variable (m : BitVec 4) (c b a op : BitVec 7)

theorem getLsbD_pack (j : Nat) : (pack m c b a op).getLsbD j = if j < 7 then op.getLsbD j else if j < 14 then a.getLsbD (j - 7) else
    if j < 21 then b.getLsbD (j - 14) else if j < 28 then c.getLsbD (j - 21) else m.getLsbD (j - 28) := by
  have e : (pack m c b a op).getLsbD j = (m ++ c ++ b ++ a ++ op : BitVec (4 + 7 + 7 + 7 + 7)).getLsbD j := rfl
  rw [e, BitVec.getLsbD_append, BitVec.getLsbD_append, BitVec.getLsbD_append, BitVec.getLsbD_append]
  grind

theorem pack_op : (pack m c b a op).setWidth 7 = op :=
  BitVec.eq_of_getLsbD_eq (fun i hi => by rw [BitVec.getLsbD_setWidth, getLsbD_pack]; grind)
theorem pack_a : (pack m c b a op).extractLsb' 7 7 = a :=
  BitVec.eq_of_getLsbD_eq (fun i hi => by rw [BitVec.getLsbD_extractLsb', getLsbD_pack]; grind)
theorem pack_b : (pack m c b a op).extractLsb' 14 7 = b :=
  BitVec.eq_of_getLsbD_eq (fun i hi => by rw [BitVec.getLsbD_extractLsb', getLsbD_pack]; grind)
theorem pack_c : (pack m c b a op).extractLsb' 21 7 = c :=
  BitVec.eq_of_getLsbD_eq (fun i hi => by rw [BitVec.getLsbD_extractLsb', getLsbD_pack]; grind)
theorem pack_m : (pack m c b a op).extractLsb' 28 4 = m :=
  BitVec.eq_of_getLsbD_eq (fun i hi => by rw [BitVec.getLsbD_extractLsb', getLsbD_pack]; grind)

theorem toNat_pack_op : (pack m c b a op).toNat % 128 = op.toNat := by
  rw [← BitVec.toNat_setWidth (x := pack m c b a op) (i := 7), pack_op]

theorem toNat_pack_b : (pack m c b a op).toNat / 2 ^ 14 % 128 = b.toNat := by
  have e := congrArg BitVec.toNat (pack_b m c b a op)
  rwa [BitVec.extractLsb'_toNat, Nat.shiftRight_eq_div_pow] at e

end

end Sys2Proof
end

section
/-! Acceptance of a launch (R223, R225, R259). -/
namespace Sys2Proof.Machine

/-- A launch with its place in the order and the phase of its world, by the collections requested so far. -/
def Launch.entered (l : Launch) (s : State) : Launch := { l with order := s.nextId, worldPhase := (s.worldAt l.asid l.world).requested }

section
variable {s t : State} {id : Nat} {l1 : Launch}

theorem State.enterPhase_setLaunch (s : State) (id : Nat) (l : Launch) :
    (s.setLaunch id l).enterPhase id = ((s.setLaunch id l).fresh).setLaunch id (l.entered s) := by
  have own : (s.setLaunch id l).launchAt id = l := (State.launchAt_setLaunch _ _ _ _).trans (if_pos rfl)
  simp only [State.enterPhase, own]
  rfl

theorem State.setLaunch_setLaunch (s : State) (id : Nat) (l l' : Launch) : (s.setLaunch id l).setLaunch id l' = s.setLaunch id l' := by
  unfold State.setLaunch
  rw [Table.set_set]

theorem State.launchAt_setLaunch_same (s : State) (id : Nat) (l : Launch) : (s.setLaunch id l).launchAt id = l :=
  (State.launchAt_setLaunch _ _ _ _).trans (if_pos rfl)

theorem State.enterPhase_launch (s : State) (id : Nat) (l : Launch) : (s.setLaunch id l).enterPhase id = s.fresh.setLaunch id (l.entered s) :=
  (State.enterPhase_setLaunch s id l).trans (State.setLaunch_setLaunch s.fresh id l _)

theorem State.acceptRun_first (s : State) (id : Nat) (l : Launch) :
    (s.setLaunch id l).acceptRun id false = s.setLaunch id { l with phase := .accepted } := by
  have own := State.launchAt_setLaunch_same s id l
  simp only [State.acceptRun, Bool.false_eq_true, if_false, own, State.setLaunch_setLaunch]

/-- The state in which a launch has its place and its context runs. -/
def State.entering (t : State) (asid id : Nat) (l : Launch) : State :=
  ((t.setCtx asid { t.ctxAt asid with state := if (t.ctxAt asid).state = .defined then .running else (t.ctxAt asid).state }).fresh).setLaunch id l

variable (submitted : (s.launchAt id).phase = .submitted) (going : (s.launchAt id).code = 0 ∧ s.launchParked id = false)
include submitted going

theorem State.exec_launchAccept (read : (s.readLaunch id (s.launchAt id)).atomic s (.launch id) = .ok t (.ok l1)) :
    exec (.launchAccept id) s = .next (if l1.prologue = 0 then t.entering (s.launchAt id).asid id { l1.lateEnd.entered t with phase := .accepted }
      else t.entering (s.launchAt id).asid id { l1.lateEnd.entered t with
        phase := .prologue, pregs := Table.putAll 0#64 [] 0 [l1.param 11, l1.record], ppreds := [], pframe := Framing.blank, pcover := none, ppc := 0 }) := by
  have runs : exec (.launchAccept id) s = execLaunchAccept id s := rfl
  have goes : ¬((s.launchAt id).phase ≠ .submitted ∨ (s.launchAt id).code ≠ 0 ∨ s.launchParked id = true) := by
    rw [submitted, going.1, going.2]
    simp
  rw [runs, execLaunchAccept]
  dsimp only
  rw [if_neg goes, read]
  dsimp only
  rw [State.enterPhase_launch]
  by_cases plain : l1.prologue = 0
  · rw [if_pos plain, if_pos plain, State.acceptRun_first]; rfl
  · rw [if_neg plain, if_neg plain, State.setLaunch_setLaunch, State.launchAt_setLaunch_same]; rfl

/-- A record found bad gives the launch its code. -/
theorem State.launchAccept_refused {code : Byte} (read : (s.readLaunch id (s.launchAt id)).atomic s (.launch id) = .ok t (.error code)) :
    exec (.launchAccept id) s = .next (t.setLaunch id { s.launchAt id with code := code, ref := s.recordRef id (s.launchAt id) }) := by
  have goes : ¬((s.launchAt id).phase ≠ .submitted ∨ (s.launchAt id).code ≠ 0 ∨ s.launchParked id = true) := by
    rw [submitted, going.1, going.2]
    simp
  have runs : exec (.launchAccept id) s = execLaunchAccept id s := rfl
  rw [runs, execLaunchAccept]
  dsimp only
  rw [if_neg goes, read]

end

theorem State.launchAt_entering (t : State) (asid id : Nat) (l : Launch) (k : Nat) :
    (t.entering asid id l).launchAt k = if k = id then l else t.launchAt k := State.launchAt_setLaunch _ _ _ _

theorem State.ctxAt_entering (t : State) (asid id : Nat) (l : Launch) : (t.entering asid id l).ctxAt asid =
    { t.ctxAt asid with state := if (t.ctxAt asid).state = .defined then .running else (t.ctxAt asid).state } :=
  (State.ctxAt_setCtx _ _ _ _).trans (if_pos rfl)

theorem Launch.lateEnd_eq (l : Launch) : l.lateEnd = { l with code := if l.ends.contains l.domain then 7 else l.code, ends := [] } := by
  unfold Launch.lateEnd
  split_ifs <;> rfl

/-- A prologue starts with its parameters' block in s0 and its record in s1 (R225). -/
theorem get_prologueRegs (x y : W64) (i : Nat) :
    Table.get 0#64 (Table.putAll 0#64 [] 0 [x, y]) i = if i = 0 then x else if i = 1 then y else 0 := by
  rcases i with _ | _ | i <;> simp [Table.putAll, Table.get_put, Table.get]

end Sys2Proof.Machine
end

section
/-! The words of a prologue (R225, R227). -/
namespace Sys2Proof.Machine

/-! ### What a word does -/

section
variable {s v : State} {id : Nat} {p : Segs} {bs : List Byte}
  (running : (s.launchAt id).phase = .prologue) (going : (s.launchAt id).code = 0 ∧ s.launchParked id = false) (room : (s.launchAt id).ppc < 64)
  (reached : s.reach (s.frontWho id) accFetch [(((s.launchAt id).prologue + BitVec.ofNat 64 (4 * (s.launchAt id).ppc)).toNat, 4)] = .ok v p)
  (bytes : v.segBytes (.launch id) (64 * ((s.launchAt id).prologue + BitVec.ofNat 64 (4 * (s.launchAt id).ppc)).toNat + 32) p = some bs)
include running going room reached bytes

/-- A prologue whose next word has been fetched. -/
theorem State.exec_prologueRun : exec (.prologueRun id) s = .next (match v.proWord id (s.launchAt id) (BitVec.ofNat 32 (bytesVal bs)) with
    | .on s3 l1 => State.proRun (s3.forget (.launch id)) id 63 l1
    | .run l1 again => ((v.forget (.launch id)).setLaunch id
        { l1 with repeats := again, ppc := 0, pframe := Framing.blank, pcover := none }).acceptRun id (s.launchAt id).repeats
    | .cancel l1 => (v.forget (.launch id)).setLaunch id { l1 with code := 1 }
    | .bad => (v.forget (.launch id)).setLaunch id { s.launchAt id with code := 2 }
    | .held s3 => s3.setLaunch id (s.launchAt id)
    | .died s3 => s3.setLaunch id { s.launchAt id with code := 7 }) := by
  have goes : ¬((s.launchAt id).phase ≠ .prologue ∨ (s.launchAt id).code ≠ 0 ∨ s.launchParked id = true) := by
    rw [running, going.1, going.2]
    simp
  have runs : exec (.prologueRun id) s = execPrologueRun id s := rfl
  rw [runs, execPrologueRun]
  dsimp only
  rw [if_neg goes, State.proRun]
  simp only [Nat.not_le.2 room, if_false, reached, bytes] <;> cases v.proWord id (s.launchAt id) (BitVec.ofNat 32 (bytesVal bs)) <;> rfl

end

/-! ### PSETP, PCANCEL, PREPEAT and EXIT -/

/-- A word of major 0x68 names one register. -/
theorem proRegs_68 (m : BitVec 4) {c b a : BitVec 7} (low : b.toNat < 32) (imm : Bool) :
    (proRegs (pack m c b a 104#7) imm).any (fun f => decide (32 ≤ f) && decide (f < 112)) = false := by
  have regs : proRegs (pack m c b a 104#7) imm = [b.toNat] := by
    simp only [proRegs, toNat_pack_op]
    exact congrArg (fun n => [n]) (toNat_pack_b m c b a 104#7)
  rw [regs]
  simp
  omega

/-- A word of major 0x06 names none. -/
theorem proRegs_06 (m : BitVec 4) (c b a : BitVec 7) (imm : Bool) : proRegs (pack m c b a 6#7) imm = [] := by
  simp only [proRegs, sliceRegs, toNat_pack_op]
  rfl

section
variable (s : State) (id : Nat) {l : Launch} {w : W32} (fresh : l.pframe = Framing.blank) (free : l.pcover = none)

theorem State.prologueState_w (l : Launch) : (s.prologueState l).w = { Warp.blank with
    wg := 0, live := 1, sregs := l.pregs, preds := l.ppreds,
    units := [(0, { IUnit.blank with lanes := 1, pc := l.prologue + BitVec.ofNat 64 (4 * l.ppc), frame := l.pframe, cover := l.pcover })] } :=
  Table.get_set_same _ _ _ _

/-- The unit of a prologue. -/
theorem State.prologueState_u (l : Launch) : (s.prologueState l).u =
    { IUnit.blank with lanes := 1, pc := l.prologue + BitVec.ofNat 64 (4 * l.ppc), frame := l.pframe, cover := l.pcover } := by
  unfold State.u
  rw [State.prologueState_w]
  rfl

/-- A scalar register operand, with the low number alone, of an instruction that has not issued. -/
theorem State.valueAt_scalar {p : State} (plain : p.u.frame = Framing.blank) (first : p.u.issued = none) {b : BitVec 7} (low : b.toNat < 112) :
    p.valueAt intConsts [ss .b b] .b 0 = p.w.sreg b.toNat := by
  have given : p.given = p.w := by unfold State.given; rw [first]
  have immediate : p.immediate (ss .b b) = false := by unfold State.immediate; rw [plain]; rfl
  have effective : p.effective (ss .b b) = b.toNat := by
    have mark : p.u.mark .b = none := by unfold IUnit.mark; rw [plain]; rfl
    unfold State.effective
    rw [if_pos (show (ss .b b).scalar = true from rfl), show (ss .b b).pos = .b from rfl, mark]
    exact Nat.zero_add _
  have register : ¬112 ≤ (ss .b b).f := Nat.not_le.2 low
  show p.value intConsts [ss .b b] (ss .b b) 0 = _
  unfold State.value
  rw [immediate, if_neg Bool.false_ne_true, if_pos (show (ss .b b).scalar = true from rfl), if_neg register, given, effective]

include fresh free

/-- Between two instructions of a prologue no coverage is in force. -/
theorem State.prologue_uncovered (w : W32) : ({ s.prologueState l with ir := w } : State).u.inForce = none := by
  have u : ({ s.prologueState l with ir := w } : State).u = _ := State.prologueState_u s l
  rw [u, fresh, free]; rfl

theorem State.proWord_psetp {c b : BitVec 7} (low : b.toNat < 32)
    (good : psetpBad (decide (l.kind = .query)) c.toNat (Table.get 0#64 l.pregs b.toNat) = false) :
    s.proWord id l (pack 4#4 c b 0#7 104#7) =
      .on s { l with params := Table.put 0#64 l.params c.toNat (Table.get 0#64 l.pregs b.toNat), ppc := l.ppc + 1 } := by
  have u : ({ s.prologueState l with ir := pack 4#4 c b 0#7 104#7 } : State).u = _ := State.prologueState_u s l
  have own : ({ s.prologueState l with ir := pack 4#4 c b 0#7 104#7 } : State).w = _ := State.prologueState_w s l
  have plain := State.prologue_uncovered s fresh free (pack 4#4 c b 0#7 104#7)
  unfold State.proWord
  dsimp only
  generalize ({ s.prologueState l with ir := pack 4#4 c b 0#7 104#7 } : State) = p at u own plain
  have value : p.valueAt intConsts [ss .b b] .b 0 = Table.get 0#64 l.pregs b.toNat := by
    rw [State.valueAt_scalar (by rw [u, fresh]) (by rw [u]; rfl) (Nat.lt_trans low (by decide)), own]
    rfl
  have decoded : dec68 4#4 c b 0#7 = .ok (.psetp c b) := rfl
  have imm : l.pframe.imm = none := by rw [fresh]; rfl
  simp only [proRegs_68 4#4 low, pack_op, pack_a, pack_b, pack_c, pack_m, decoded, plain, imm, value, good, Bool.false_eq_true, if_false]
  rfl

theorem State.proWord_pcancel : s.proWord id l (pack 5#4 0#7 0#7 0#7 104#7) = .cancel l := by
  have plain := State.prologue_uncovered s fresh free (pack 5#4 0#7 0#7 0#7 104#7)
  have imm : l.pframe.imm = none := by rw [fresh]; rfl
  have decoded : dec68 5#4 0#7 0#7 0#7 = .ok .pcancel := rfl
  unfold State.proWord
  dsimp only
  generalize ({ s.prologueState l with ir := pack 5#4 0#7 0#7 0#7 104#7 } : State) = p at plain
  simp only [proRegs_68 5#4 (show (0#7).toNat < 32 by decide), pack_op, pack_a, pack_b, pack_c, pack_m, decoded, plain, imm, Bool.false_eq_true, if_false]
  rfl

section
variable (good : l.kind = .query ∨ Machine.gridBad ((l.param 8).toNat, (l.param 9).toNat, (l.param 10).toNat) = false)
include good

omit fresh free in
/-- The parameters make a grid that a launch may have, where it needs one. -/
theorem Launch.grid_good : (decide (l.kind = .query) || !Machine.gridBad ((l.param 8).toNat, (l.param 9).toNat, (l.param 10).toNat)) = true := by
  rcases good with e | e <;> simp [e]

theorem State.proWord_prepeat : s.proWord id l (pack 6#4 0#7 0#7 0#7 104#7) = .run l true := by
  have plain := State.prologue_uncovered s fresh free (pack 6#4 0#7 0#7 0#7 104#7)
  have imm : l.pframe.imm = none := by rw [fresh]; rfl
  have decoded : dec68 6#4 0#7 0#7 0#7 = .ok .prepeat := rfl
  unfold State.proWord
  dsimp only
  generalize ({ s.prologueState l with ir := pack 6#4 0#7 0#7 0#7 104#7 } : State) = p at plain
  simp only [proRegs_68 6#4 (show (0#7).toNat < 32 by decide), pack_op, pack_a, pack_b, pack_c, pack_m, decoded, plain, imm, Launch.grid_good good,
    Bool.false_eq_true, if_false]
  rfl

theorem State.proWord_exit : s.proWord id l (pack 3#4 0#7 0#7 0#7 6#7) = .run l false := by
  have plain := State.prologue_uncovered s fresh free (pack 3#4 0#7 0#7 0#7 6#7)
  have u : ({ s.prologueState l with ir := pack 3#4 0#7 0#7 0#7 6#7 } : State).u = _ := State.prologueState_u s l
  have imm : l.pframe.imm = none := by rw [fresh]; rfl
  have decoded : dec06 3#4 0#7 0#7 0#7 = .ok .exit := rfl
  unfold State.proWord
  dsimp only
  generalize ({ s.prologueState l with ir := pack 3#4 0#7 0#7 0#7 6#7 } : State) = p at plain u
  have act : p.act ≠ 0 := by
    have issued : p.u.issued = none := by rw [u]; rfl
    have lanes : p.u.lanes = 1 := by rw [u]
    unfold State.act Warp.actOf
    rw [issued, plain]
    dsimp only
    rw [lanes]
    decide
  rw [proRegs_06, pack_op, pack_a, pack_b, pack_c, pack_m, decoded, List.any_nil, if_neg Bool.false_ne_true, if_neg (by decide), if_neg (by decide),
    if_neg (by decide), if_pos rfl]
  dsimp only
  rw [imm, if_neg (by decide), if_neg act, if_pos (Launch.grid_good good)]

end

end

end Sys2Proof.Machine
end

section
/-! The start of a run (R230). -/
namespace Sys2Proof.Machine

/-! ### Listing workgroups -/

theorem State.addGroups_rest (s : State) (gs : List Workgroup) :
    s.addGroups gs = { s with wgs := (s.addGroups gs).wgs, nextId := s.nextId + gs.length } := by
  induction gs generalizing s with
  | nil => rfl
  | cons g gs ih =>
    have e := ih ((s.setWg s.nextId g).fresh)
    rw [State.addGroups, List.length_cons, Nat.add_comm gs.length 1, ← Nat.add_assoc]
    exact e

theorem State.wgAt_addGroups_old (s : State) (gs : List Workgroup) {k : Nat} (old : k < s.nextId) : (s.addGroups gs).wgAt k = s.wgAt k := by
  induction gs generalizing s with
  | nil => rfl
  | cons g gs ih =>
    have e := ih ((s.setWg s.nextId g).fresh) (Nat.lt_succ_of_lt old)
    exact e.trans ((State.wgAt_setWg _ _ _ _).trans (if_neg (Nat.ne_of_lt old)))

theorem State.wgAt_addGroups_new (s : State) (gs : List Workgroup) {i : Nat} (h : i < gs.length) : (s.addGroups gs).wgAt (s.nextId + i) = gs[i] := by
  induction gs generalizing s i with
  | nil => cases h
  | cons g gs ih =>
    cases i with
    | zero =>
      have e := State.wgAt_addGroups_old ((s.setWg s.nextId g).fresh) gs (k := s.nextId) (Nat.lt_succ_self _)
      exact e.trans ((State.wgAt_setWg _ _ _ _).trans (if_pos rfl))
    | succ i =>
      have e := ih ((s.setWg s.nextId g).fresh) (i := i) (Nat.lt_of_succ_lt_succ h)
      have key : s.nextId + (i + 1) = ((s.setWg s.nextId g).fresh).nextId + i := by
        show _ = s.nextId + 1 + i
        omega
      rw [key]
      exact e

/-! ### A grid's workgroups -/

/-- The grid that a launch's parameters name. -/
def Launch.gridDims (l : Launch) : Nat × Nat × Nat := ((l.param 8).toNat, (l.param 9).toNat, (l.param 10).toNat)

theorem Launch.length_gridGroups (l : Launch) (id : Nat) : (l.gridGroups id).length = (l.param 8).toNat * (l.param 9).toNat * (l.param 10).toNat := by
  simp [Launch.gridGroups, gridSize]

theorem Launch.getElem_gridGroups (l : Launch) (id : Nat) {i : Nat} (h : i < (l.gridGroups id).length) :
    (l.gridGroups id)[i] = l.group id i
      (i % (l.param 8).toNat, i / (l.param 8).toNat % (l.param 9).toNat, i / ((l.param 8).toNat * (l.param 9).toNat)) l.gridDims
      ((List.range 8).map l.param) (i % (l.param 8).toNat * l.strides.1 + i / (l.param 8).toNat % (l.param 9).toNat * l.strides.2.1 +
        i / ((l.param 8).toNat * (l.param 9).toNat) * l.strides.2.2) := by
  simp only [Launch.gridGroups, List.getElem_map, List.getElem_range]
  rfl

section
variable {s : State} {id : Nat} (accepted : (s.launchAt id).phase = .accepted) (going : (s.launchAt id).code = 0 ∧ s.launchParked id = false)
  (grid : (s.launchAt id).kind = .grid)
include accepted going grid

theorem State.exec_runStart : exec (.runStart id) s =
    if (s.launchAt id).cohort && s.cohortOver (s.launchAt id) ((s.launchAt id).gridGroups id) then .next (s.stopLaunch id 3)
    else .next (s.startRun id ((s.launchAt id).gridGroups id)) := by
  have goes : ¬((s.launchAt id).phase ≠ .accepted ∨ (s.launchAt id).code ≠ 0 ∨ s.launchParked id = true) := by
    rw [accepted, going.1, going.2]
    simp
  have plain : (s.launchAt id).staged = false := by rw [Launch.staged, grid]
  have runs : exec (.runStart id) s = execRunStart id s := rfl
  rw [runs, execRunStart]
  dsimp only
  rw [if_neg goes, grid]
  dsimp only
  rw [plain, if_neg Bool.false_ne_true]

end

theorem State.startRun_rest (s : State) (id : Nat) (gs : List Workgroup) : s.startRun id gs =
    { s with wgs := (s.startRun id gs).wgs, launches := (s.startRun id gs).launches, nextId := s.nextId + gs.length } := by
  have rest := State.addGroups_rest s gs
  unfold State.startRun
  generalize s.addGroups gs = v at rest
  rw [rest]
  rfl

/-- What the start of a grid's run leaves. -/
theorem State.startRun_grid (s : State) (id : Nat) :
    let l := s.launchAt id
    let u := s.startRun id (l.gridGroups id)
    let gx := (l.param 8).toNat
    let gy := (l.param 9).toNat
    let gz := (l.param 10).toNat
    u.launchAt id = { l with phase := .running, total := gx * gy * gz } ∧
    (∀ i < gx * gy * gz, u.wgAt (s.nextId + i) = l.group id i (i % gx, i / gx % gy, i / (gx * gy)) l.gridDims ((List.range 8).map l.param)
      (i % gx * l.strides.1 + i / gx % gy * l.strides.2.1 + i / (gx * gy) * l.strides.2.2)) ∧
    (∀ k, k < s.nextId → u.wgAt k = s.wgAt k) ∧
    u = { s with wgs := u.wgs, launches := u.launches, nextId := s.nextId + gx * gy * gz } := by
  intro l u gx gy gz
  have count : (l.gridGroups id).length = gx * gy * gz := l.length_gridGroups id
  refine ⟨?_, fun i hi => ?_, fun k hk => State.wgAt_addGroups_old s _ hk, ?_⟩
  · rw [← count]
    exact State.launchAt_setLaunch_same _ _ _
  · have listed : i < (l.gridGroups id).length := count ▸ hi
    exact (State.wgAt_addGroups_new s _ listed).trans (l.getElem_gridGroups id listed)
  · rw [← count]
    exact State.startRun_rest s id (l.gridGroups id)

end Sys2Proof.Machine
end

section
/-! A workgroup becomes resident (R122, R230). -/
namespace Sys2Proof.Machine

/-! ### Free numbers -/

/-- With enough numbers left, as many are given as are asked for. -/
theorem length_freeNumbers {limit n : Nat} {used : List Nat} (room : used.length + n ≤ limit) : (freeNumbers limit n used).length = n := by
  have both := (List.range limit).length_eq_length_filter_add (fun i => used.contains i)
  have taken : ((List.range limit).filter (fun i => used.contains i)).length ≤ used.length :=
    (List.subperm_of_subset (List.nodup_range.filter _) (fun i hi => by simpa using (List.mem_filter.1 hi).2)).length_le
  rw [List.length_range] at both
  rw [freeNumbers, List.length_take]
  omega

/-! ### The warps of a workgroup -/

section
variable (key : Nat) (g : Workgroup) (entry : W64)

theorem State.addWarps_rest (s : State) (xs : List (Lanes × Table LaneFrame)) (slots : List Nat) (i : Nat) (same : slots.length = xs.length) :
    s.addWarps key g entry xs slots i =
      { s with warps := (s.addWarps key g entry xs slots i).warps, nextId := s.nextId + xs.length } := by
  induction xs generalizing s slots i with
  | nil => unfold State.addWarps; rfl
  | cons x xs ih =>
    cases slots with
    | nil => cases same
    | cons slot slots =>
      have e := ih ((s.setWarp s.nextId (warpFor key g entry i slot x.1 x.2)).fresh) slots (i + 1) (Nat.succ.inj same)
      rw [State.addWarps, List.length_cons, Nat.add_comm xs.length 1, ← Nat.add_assoc]
      exact e

theorem State.warpAt_addWarps_old (s : State) (xs : List (Lanes × Table LaneFrame)) (slots : List Nat) (i : Nat) {k : Nat} (old : k < s.nextId) :
    (s.addWarps key g entry xs slots i).warpAt k = s.warpAt k := by
  induction xs generalizing s slots i with
  | nil => unfold State.addWarps; rfl
  | cons x xs ih =>
    cases slots with
    | nil => unfold State.addWarps; rfl
    | cons slot slots =>
      have e := ih ((s.setWarp s.nextId (warpFor key g entry i slot x.1 x.2)).fresh) slots (i + 1) (Nat.lt_succ_of_lt old)
      exact e.trans ((Table.get_set _ _ _ _ _).trans (if_neg (Nat.ne_of_lt old)))

theorem State.warpAt_addWarps_new (s : State) (xs : List (Lanes × Table LaneFrame)) (slots : List Nat) (i : Nat) (same : slots.length = xs.length)
    {j : Nat} (h : j < xs.length) :
    (s.addWarps key g entry xs slots i).warpAt (s.nextId + j) = warpFor key g entry (i + j) (slots[j]'(same ▸ h)) xs[j].1 xs[j].2 := by
  induction xs generalizing s slots i j with
  | nil => cases h
  | cons x xs ih =>
    cases slots with
    | nil => cases same
    | cons slot slots =>
      cases j with
      | zero =>
        have e := State.warpAt_addWarps_old key g entry ((s.setWarp s.nextId (warpFor key g entry i slot x.1 x.2)).fresh) xs slots (i + 1)
          (k := s.nextId) (Nat.lt_succ_self _)
        exact e.trans ((Table.get_set _ _ _ _ _).trans (if_pos rfl))
      | succ j =>
        have e := ih ((s.setWarp s.nextId (warpFor key g entry i slot x.1 x.2)).fresh) slots (i + 1) (Nat.succ.inj same) (Nat.lt_of_succ_lt_succ h)
        have at_ : s.nextId + (j + 1) = ((s.setWarp s.nextId (warpFor key g entry i slot x.1 x.2)).fresh).nextId + j := by
          show _ = s.nextId + 1 + j
          omega
        have index : i + (j + 1) = i + 1 + j := by omega
        rw [at_, index]
        exact e

end

/-! ### The register cache of a core -/

theorem Table.sum_map_set {α : Type} (f : α → Nat) (t : Table α) (n : Nat) (x : α) :
    ((Table.set t n x).map (fun y => f y.2)).sum ≤ (t.map (fun y => f y.2)).sum + f x := by
  induction t with
  | nil => simp [Table.set]
  | cons p t ih =>
    obtain ⟨k, v⟩ := p
    rw [Table.set]
    split_ifs <;> simp only [List.map_cons, List.sum_cons] <;> omega

/-- The lines of a workgroup's warps that the cache of a core holds. -/
def State.linesOf (s : State) (core : Nat) (g : Workgroup) : Nat :=
  if g.cachedOn core then (g.warps.map (fun k => (s.cachedLines k).length)).sum else 0

theorem State.cacheUse_eq (s : State) (core : Nat) : s.cacheUse core = (s.wgs.map (fun x => s.linesOf core x.2)).sum := by
  unfold State.cacheUse
  generalize s.wgs = t
  induction t with
  | nil => rfl
  | cons x t ih =>
    rw [List.filter_cons, List.map_cons, List.sum_cons, State.linesOf]
    split_ifs
    · rw [List.flatMap_cons, List.sum_append, ih]
    · rw [ih, Nat.zero_add]

theorem State.makeRoom_fits {s : State} {core : Nat} (fits : s.cacheUse core ≤ cacheLines) (n : Nat) : s.makeRoom core n = s := by
  cases n with
  | zero => rfl
  | succ n => rw [State.makeRoom, if_pos fits]

/-! ### Taking a place -/

section
variable (r : State) (wg core : Nat)

/-- A workgroup as it becomes resident on a core. -/
def State.seated : Workgroup :=
  let h := r.wgAt wg
  { h with core := core, slot := (freeNumbers 32 1 (r.wgSlots core)).headD 0, image := r.freeImage h.asid, phase := .resident, since := r.tick,
           warps := List.range' r.nextId h.nwarps }

/-- The warps of a workgroup that becomes resident, all their lanes live. -/
def State.withWarps : State :=
  r.addWarps wg (r.seated wg core) (r.entryOf (r.seated wg core)) (List.replicate (r.wgAt wg).nwarps (BitVec.allOnes 32, []))
    (freeNumbers 64 (r.wgAt wg).nwarps (r.warpSlots core)) 0

variable (slots : (r.warpSlots core).length + (r.wgAt wg).nwarps ≤ 64)
include slots

theorem State.withWarps_rest : r.withWarps wg core =
    { r with warps := (r.withWarps wg core).warps, nextId := r.nextId + (r.wgAt wg).nwarps } := by
  have e := State.addWarps_rest wg (r.seated wg core) (r.entryOf (r.seated wg core)) r (List.replicate (r.wgAt wg).nwarps (BitVec.allOnes 32, []))
    (freeNumbers 64 (r.wgAt wg).nwarps (r.warpSlots core)) 0 (by rw [length_freeNumbers slots, List.length_replicate])
  rw [List.length_replicate] at e
  exact e

theorem State.warpAt_withWarps {i : Nat} (hi : i < (r.wgAt wg).nwarps) : ∃ slot, (r.withWarps wg core).warpAt (r.nextId + i) =
    warpFor wg (r.seated wg core) (r.entryOf (r.seated wg core)) i slot (BitVec.allOnes 32) [] := by
  have e := State.warpAt_addWarps_new wg (r.seated wg core) (r.entryOf (r.seated wg core)) r (List.replicate (r.wgAt wg).nwarps (BitVec.allOnes 32, []))
    (freeNumbers 64 (r.wgAt wg).nwarps (r.warpSlots core)) 0 (by rw [length_freeNumbers slots, List.length_replicate]) (j := i)
    (by rwa [List.length_replicate])
  rw [List.getElem_replicate, Nat.zero_add] at e
  exact ⟨_, e⟩

/-- The lines of the new warps are all that the cache gains. -/
theorem State.cacheUse_seated (old : ∀ x ∈ r.wgs, ∀ k ∈ x.2.warps, k < r.nextId) :
    ((r.withWarps wg core).setWg wg (r.seated wg core)).cacheUse core ≤
      r.cacheUse core + (r.wgAt wg).nwarps * (r.launchAt (r.wgAt wg).launch).alloc := by
  have rest := State.withWarps_rest r wg core slots
  have before (k : Nat) (hk : k < r.nextId) : (r.withWarps wg core).warpAt k = r.warpAt k := State.warpAt_addWarps_old _ _ _ _ _ _ _ hk
  have after := fun i hi => State.warpAt_withWarps r wg core slots (i := i) hi
  generalize r.withWarps wg core = v at rest before after
  generalize hg : r.seated wg core = g at after
  have launch : g.launch = (r.wgAt wg).launch := by rw [← hg]; rfl
  have warps : g.warps = List.range' r.nextId (r.wgAt wg).nwarps := by rw [← hg]; rfl
  have wgs (k : Nat) : (v.setWg wg g).wgAt k = if k = wg then g else r.wgAt k := by
    rw [State.wgAt_setWg, rest]; rfl
  have launches (k : Nat) : (v.setWg wg g).launchAt k = r.launchAt k := by
    show v.launchAt k = _
    rw [rest]; rfl
  have launchOf (j : Nat) : ((v.setWg wg g).wgAt j).launch = (r.wgAt j).launch := by
    rw [wgs]
    split_ifs with e
    · rw [launch, e]
    · rfl
  have kept {k : Nat} (hk : k < r.nextId) : (v.setWg wg g).cachedLines k = r.cachedLines k := by
    have at_ : (v.setWg wg g).warpAt k = r.warpAt k := before k hk
    simp only [State.cachedLines, at_, launchOf, launches]
  have fresh {k : Nat} (hk : k ∈ g.warps) : ((v.setWg wg g).cachedLines k).length ≤ (r.launchAt (r.wgAt wg).launch).alloc := by
    obtain ⟨i, hi, rfl⟩ : ∃ i < (r.wgAt wg).nwarps, r.nextId + i = k := by
      rw [warps, List.mem_range'_1] at hk
      exact ⟨k - r.nextId, by omega, by omega⟩
    obtain ⟨slot, new⟩ := after i hi
    have at_ : (v.setWg wg g).warpAt (r.nextId + i) = _ := new
    simp only [State.cachedLines, at_, launchOf, launches]
    refine (List.length_filter_le _ _).trans (Nat.le_of_eq ?_)
    rw [List.length_range]
    rfl
  have table : (v.setWg wg g).wgs = Table.set r.wgs wg g := by
    show Table.set v.wgs wg g = _
    rw [rest]
  have olds : (r.wgs.map (fun x => (v.setWg wg g).linesOf core x.2)).sum = (r.wgs.map (fun x => r.linesOf core x.2)).sum := by
    refine congrArg List.sum (List.map_congr_left (fun x hx => ?_))
    have same : x.2.warps.map (fun k => ((v.setWg wg g).cachedLines k).length) = x.2.warps.map (fun k => (r.cachedLines k).length) :=
      List.map_congr_left (fun k hk => by rw [kept (old x hx k hk)])
    unfold State.linesOf
    rw [same]
  have new : (v.setWg wg g).linesOf core g ≤ (r.wgAt wg).nwarps * (r.launchAt (r.wgAt wg).launch).alloc := by
    unfold State.linesOf
    split_ifs
    · have bound := List.sum_le_card_nsmul (g.warps.map (fun k => ((v.setWg wg g).cachedLines k).length)) (r.launchAt (r.wgAt wg).launch).alloc
        (by simpa using fun k hk => fresh hk)
      have count : g.warps.length = (r.wgAt wg).nwarps := by rw [warps, List.length_range']
      rwa [List.length_map, count, smul_eq_mul] at bound
    · exact Nat.zero_le _
  rw [State.cacheUse_eq, State.cacheUse_eq, table]
  have gained := Table.sum_map_set ((v.setWg wg g).linesOf core) r.wgs wg g
  omega

end

theorem State.seats_plain (s : State) (key : Nat) (g : Workgroup) (plain : g.routine = none) :
    s.seats key g = .ok s (List.replicate g.nwarps (BitVec.allOnes 32, [])) := by
  unfold State.seats
  rw [plain]

/-- A workgroup that has its core becomes resident on it; what its waiter has asked for is taken. -/
theorem State.seat_grid {r : State} {wg core : Nat} (free : (r.wgAt wg).routine = none) (plain : (r.launchAt (r.wgAt wg).launch).param 12 = 0)
    (admitted : r.admitted (r.wgAt wg) = true) (placed : r.coreFor (r.wgAt wg) = some core)
    (slots : (r.warpSlots core).length + (r.wgAt wg).nwarps ≤ 64)
    (lines : r.cacheUse core + (r.wgAt wg).nwarps * (r.launchAt (r.wgAt wg).launch).alloc ≤ 8192)
    (old : ∀ x ∈ r.wgs, ∀ k ∈ x.2.warps, k < r.nextId) :
    r.seat wg = some (.ok (((r.withWarps wg core).setWg wg (r.seated wg core)).seatTurns (r.seated wg core).warps) ()) := by
  have fits : ((r.withWarps wg core).setWg wg (r.seated wg core)).cacheUse core ≤ cacheLines :=
    (State.cacheUse_seated r wg core slots old).trans lines
  have home : r.tookHome (r.wgAt wg) = r := if_pos (.inl plain)
  rw [State.seat]
  rw [admitted, placed, Bool.not_true, if_neg Bool.false_ne_true, Option.map_some, State.seatOn]
  dsimp only
  rw [home, State.seats_plain _ _ _ ?_]
  rotate_left
  · exact free
  have roomy := State.makeRoom_fits fits (((r.withWarps wg core).setWg wg (r.seated wg core)).cacheUse core)
  exact congrArg (fun x : State => some (Got.ok (x.seatTurns (r.seated wg core).warps) ())) roomy

theorem State.exec_workgroupResident {s r : State} {wg : Nat} {t : State} (looked : s.lookBudgets (s.launchAt (s.wgAt wg).launch) = r)
    (pending : (r.wgAt wg).phase = .pending) (own : (r.wgAt wg).parcel = none) (single : (r.launchAt (r.wgAt wg).launch).cohort = false)
    (first : r.earlierPending (r.wgAt wg) = false) (settled : r.unperformedBy (r.wgAt wg).waiter = false) (seat : r.seat wg = some (.ok t ())) :
    exec (.workgroupResident wg) s = .next (t.forget (r.wgAt wg).waiter) := by
  have runs : exec (.workgroupResident wg) s = execWorkgroupResident wg s := rfl
  have goes : ¬((r.wgAt wg).phase ≠ .pending ∨ (r.wgAt wg).parcel.isSome = true) := by
    rw [pending, own]
    simp
  rw [runs, execWorkgroupResident, looked]
  dsimp only
  rw [if_neg goes, single, if_neg Bool.false_ne_true, first, if_neg Bool.false_ne_true, seat]
  dsimp only
  rw [Got.atomic, settled, if_neg Bool.false_ne_true]
  rfl

end Sys2Proof.Machine
end

section
/-! The ends of workgroups and launches (R123, R224, R227). -/
namespace Sys2Proof.Machine

/-! ### A workgroup whose warps have ended -/

theorem State.workgroupDone_ends {s : State} {wg : Nat} (here : (s.wgAt wg).phase = .resident) (ended : ∀ k ∈ (s.wgAt wg).warps, (s.warpAt k).live = 0)
    (stored : s.storesOut (s.wgAt wg) = false) :
    let g := s.wgAt wg
    ∃ u, exec (.workgroupDone wg) s = .next u ∧
      u.wgAt wg = { g with phase := .done, image := none, preempt := false, since := s.tick, spent := g.spent + g.nwarps * (s.tick - g.since) } ∧
      (∀ k, k ≠ wg → u.wgAt k = s.wgAt k) ∧ (∀ x ∈ (u.coreAt g.core).rays, x.2.wg ≠ wg) ∧
      (∀ k, k ≠ g.core → u.coreAt k = s.coreAt k) ∧ u = { s with wgs := u.wgs, cores := u.cores } := by
  intro g
  have all : (s.wgAt wg).warps.all (fun k => decide ((s.warpAt k).live = 0)) = true := by simpa using ended
  have runs : exec (.workgroupDone wg) s = execWorkgroupDone wg s := rfl
  rw [execWorkgroupDone] at runs
  dsimp only at runs
  rw [if_pos ⟨here, all, stored⟩] at runs
  refine ⟨_, runs, ?_, fun k hk => ?_, fun x hx => ?_, fun k hk => ?_, rfl⟩
  · rw [State.wgAt_setWg, if_pos rfl, Workgroup.clock, if_pos (.inl here)]
  · exact (State.wgAt_setWg _ _ _ _).trans (if_neg hk)
  · have core := (State.coreAt_setCoreAt s (s.wgAt wg).core (s.wgAt wg).core ((s.coreAt (s.wgAt wg).core).release wg)).trans (if_pos rfl)
    have listed : x ∈ ((s.coreAt (s.wgAt wg).core).release wg).rays := core ▸ hx
    simpa using (List.mem_filter.1 listed).2
  · exact (State.coreAt_setCoreAt _ _ _ _).trans (if_neg hk)

/-! ### What leaves launches alone -/

theorem State.Accessed.launches {s t : State} (h : s.Accessed t) : t.launches = s.launches := by rw [h]

theorem Got.launches_atomic {α : Type} {s : State} (w : Waiter) {g : Got α} (h : g.state.launches = s.launches) :
    (g.atomic s w).state.launches = s.launches := by
  unfold Got.atomic
  split_ifs
  · rfl
  · cases g with
    | ok s1 a => exact h
    | _ => rfl

theorem State.launches_asUnit {f : State → State} (hf : ∀ s, (f s).launches = s.launches) (s : State) (w k : Nat) :
    (s.asUnit w k f).launches = s.launches := hf { s with cur := w, unit := k }

theorem State.launches_noteWaits (s : State) (us : List (Nat × Nat)) : (s.noteWaits us).launches = s.launches := by
  induction us generalizing s with
  | nil => rfl
  | cons x us ih =>
    refine (ih _).trans (State.launches_asUnit (fun s => ?_) s _ _)
    split
    · split
      · split_ifs <;> rfl
      · rfl
    · rfl

theorem State.launches_writeVal (s : State) (w : Who) (va n v : Nat) : (s.writeVal w va n v).state.launches = s.launches := by
  refine Got.state_bind (P := fun t => t.launches = s.launches) (s.accessed_putBytes w va _).launches (fun s1 _ h => ?_)
  show (if s1.anyWait then s1.noteWaits s1.allUnits else s1).launches = _
  split_ifs
  · exact (s1.launches_noteWaits _).trans h
  · exact h

theorem State.launches_updateObject (s : State) (w : Who) (wg : Nat) (r : W64) (f : BarObj → BarObj) :
    (s.updateObject w wg r f).state.launches = s.launches := by
  unfold State.updateObject
  dsimp only
  split_ifs
  · rfl
  · rfl
  · have reached := (s.accessed_reach w accAtomic [(refAddr r, 16)]).launches
    split <;> rename_i e <;> rw [e] at reached
    · split_ifs
      · exact reached
      · split
        · exact (State.accessed_ask _ _ _ _).launches.trans reached
        · split
          · exact reached
          · exact (State.accessed_storeSegs _ _ _ _).launches.trans reached
    · exact reached
    · exact reached
    · exact reached
    · exact reached

theorem State.launches_arriveOnce (s : State) (w : Who) (r : W64) (n : W32) : (s.arriveOnce w r n).state.launches = s.launches := by
  unfold State.arriveOnce
  split_ifs
  · rfl
  · have updated := s.launches_updateObject w 0 r (fun o => o.arrive 1 n)
    have update : s.barrier w 0 r (some fun o => o.arrive 1 n) = s.updateObject w 0 r (fun o => o.arrive 1 n) := rfl
    rw [update]
    generalize s.updateObject w 0 r (fun o => o.arrive 1 n) = g at updated
    exact Got.state_bind (P := fun t => t.launches = s.launches) updated (fun _ _ h => h)

/-! ### The end of a run -/

theorem Launch.runDone_last {l : Launch} (once : l.repeats = false) : l.runDone = { l with phase := l.kind.endPhase, runs := l.runs + 1 } := by
  rw [Launch.runDone, if_neg (by rw [once]; exact Bool.false_ne_true)]

/-- One access of an end is made. -/
theorem State.endLaunch_step {s t : State} {id n : Nat} (live : (s.launchAt id).phase ≠ .ended) (settled : s.launchOut id = false)
    (made : (s.endAccess id).atomic s (.launch id) = .ok t ()) :
    s.endLaunch id (n + 1) = (t.setLaunch id (t.launchAt id).endNext).endLaunch id n := by
  rw [State.endLaunch, settled, decide_eq_false live, Bool.or_false, if_neg Bool.false_ne_true, made]

section
variable {s : State} {id : Nat} (going : (s.launchAt id).code = 0 ∧ s.launchParked id = false) (running : (s.launchAt id).phase = .running)
  (idle : s.familyBusy id = false)
include going running idle

theorem State.exec_launchEnd : exec (.launchEnd id) s = .next ((s.setLaunch id (s.launchAt id).runDone).finishRun id).settleNets := by
  have runs : exec (.launchEnd id) s = execLaunchEnd id s := rfl
  rw [runs, execLaunchEnd]
  simp [running, going.1, going.2, idle]

/-- A launch whose run ends with PREPEAT goes back to its prologue. -/
theorem State.launchEnd_repeats (again : (s.launchAt id).repeats = true) :
    ∃ u, exec (.launchEnd id) s = .next u ∧
      u.launchAt id = { s.launchAt id with phase := .prologue, runs := (s.launchAt id).runs + 1, ppc := 0, total := 0 } ∧
      u = { s with launches := u.launches, nets := u.nets } := by
  have done : (s.launchAt id).runDone = { s.launchAt id with phase := .prologue, runs := (s.launchAt id).runs + 1, ppc := 0, total := 0 } := by
    rw [Launch.runDone, if_pos again]
  have back : (s.setLaunch id (s.launchAt id).runDone).finishRun id = s.setLaunch id (s.launchAt id).runDone := by
    rw [State.finishRun, State.launchAt_setLaunch_same, if_pos]
    rw [done]
  refine ⟨_, State.exec_launchEnd going running idle, ?_, ?_⟩
  · rw [back, done]
    exact State.launchAt_setLaunch_same _ _ _
  · rw [back]
    rfl

/-- A launch that ends has its status stored, and arrives. -/
theorem State.launchEnd_ends {v x : State} (once : (s.launchAt id).repeats = false) (grid : (s.launchAt id).kind = .grid) (settled : s.launchOut id = false)
    {l1 l2 : Launch} (storing : l1 = { s.launchAt id with phase := .storing, runs := (s.launchAt id).runs + 1 })
    (arriving : l2 = { s.launchAt id with phase := .arriving, runs := (s.launchAt id).runs + 1 })
    (stores : ((s.setLaunch id l1).writeVal ((s.setLaunch id l1).frontWho id) (l1.record.toNat + 56) 8 l1.status).atomic
      (s.setLaunch id l1) (.launch id) = .ok v ())
    (performed : (v.setLaunch id l2).launchOut id = false)
    (arrives : ((v.setLaunch id l2).arriveOnce ((v.setLaunch id l2).frontWho id) l2.ref 0).atomic (v.setLaunch id l2) (.launch id) = .ok x ()) :
    ∃ u, exec (.launchEnd id) s = .next u ∧ u.launchAt id = { s.launchAt id with phase := .ended, runs := (s.launchAt id).runs + 1 } ∧ u.mem = x.mem := by
  have done : (s.launchAt id).runDone = l1 := by
    rw [Launch.runDone_last once, storing, show (s.launchAt id).kind.endPhase = .storing by rw [grid]; rfl]
  have phase1 : l1.phase = .storing := by rw [storing]
  have phase2 : l2.phase = .arriving := by rw [arriving]
  have own1 : (s.setLaunch id l1).launchAt id = l1 := State.launchAt_setLaunch_same _ _ _
  have own2 : (v.setLaunch id l2).launchAt id = l2 := State.launchAt_setLaunch_same _ _ _
  have kept1 : v.launchAt id = l1 := by
    have e := Got.launches_atomic (.launch id) ((s.setLaunch id l1).launches_writeVal ((s.setLaunch id l1).frontWho id) (l1.record.toNat + 56) 8 l1.status)
    rw [stores] at e
    exact (congrArg (fun t => Table.get Launch.blank t id) e).trans own1
  have kept2 : x.launchAt id = l2 := by
    have e := Got.launches_atomic (.launch id) ((v.setLaunch id l2).launches_arriveOnce ((v.setLaunch id l2).frontWho id) l2.ref 0)
    rw [arrives] at e
    exact (congrArg (fun t => Table.get Launch.blank t id) e).trans own2
  have next1 : l1.endNext = l2 := by
    rw [Launch.endNext, if_pos phase1, storing, arriving]
  have next2 : l2.endNext = { s.launchAt id with phase := .ended, runs := (s.launchAt id).runs + 1 } := by
    rw [Launch.endNext, if_neg (by rw [phase2]; decide), arriving]
  have access1 : (s.setLaunch id l1).endAccess id = (s.setLaunch id l1).writeVal ((s.setLaunch id l1).frontWho id) (l1.record.toNat + 56) 8 l1.status := by
    rw [State.endAccess, own1, if_pos phase1]
  have access2 : (v.setLaunch id l2).endAccess id = (v.setLaunch id l2).arriveOnce ((v.setLaunch id l2).frontWho id) l2.ref 0 := by
    rw [State.endAccess, own2, if_neg (by rw [phase2]; decide)]
  have unended1 : ((s.setLaunch id l1).launchAt id).phase ≠ .ended := by rw [own1, phase1]; decide
  have unended2 : ((v.setLaunch id l2).launchAt id).phase ≠ .ended := by rw [own2, phase2]; decide
  have settled1 : (s.setLaunch id l1).launchOut id = false := settled
  have first : (s.setLaunch id l1).endLaunch id 2 = (v.setLaunch id l2).endLaunch id 1 := by
    rw [State.endLaunch_step unended1 settled1 (access1 ▸ stores), kept1, next1]
  have second : (v.setLaunch id l2).endLaunch id 1 = x.setLaunch id l2.endNext := by
    rw [State.endLaunch_step unended2 performed (access2 ▸ arrives), kept2]
    rfl
  have finishes : (s.setLaunch id l1).finishRun id = x.setLaunch id l2.endNext := by
    rw [State.finishRun, own1, if_neg (by rw [phase1]; decide), first, second]
  refine ⟨_, State.exec_launchEnd going running idle, ?_, ?_⟩
  · rw [done, finishes, next2]
    exact State.launchAt_setLaunch_same _ _ _
  · rw [done, finishes]
    rfl

end

end Sys2Proof.Machine
end

section
/-! Charges against core-time words (R220). -/
namespace Sys2Proof.Machine

theorem State.Accessed.budgets {s t : State} (h : s.Accessed t) : t.budgets = s.budgets := by rw [h]

/-! ### One word -/

/-- A word on a remote page is charged by a compare-and-swap against what was read of it. -/
theorem State.subtract_remote {s v : State} {k units : Nat} {h : Bool} {d : BitVec 18} {pa : Nat} {bs : List Byte} (some_ : units ≠ 0)
    (reached : s.reach (engineWho (k / 2 ^ 64) 0 9 0 0 (.charge k)) accAtomic [(k % 2 ^ 64 + 8, 8)] = .ok v [(Place.away h d pa, 8)])
    (bytes : v.segBytes (.charge k) 0 [(Place.away h d pa, 8)] = some bs) :
    (v.answer (.charge k) 1 = none → s.subtract k units =
      .wait (v.askAtomic (.charge k) 1 8 9 (BitVec.ofNat 64 (bytesVal bs)) (BitVec.ofNat 64 (bytesVal bs - units)) [(Place.away h d pa, 8)])) ∧
    (∀ old, v.answer (.charge k) 1 = some old → bytesVal old = bytesVal bs → s.subtract k units = .ok v (bytesVal bs - units)) ∧
    (∀ old, v.answer (.charge k) 1 = some old → bytesVal old ≠ bytesVal bs → s.subtract k units = .wait (v.forget (.charge k))) := by
  have waiter : (engineWho (k / 2 ^ 64) 0 9 0 0 (.charge k)).waiter = .charge k := rfl
  rw [State.subtract]
  dsimp only
  rw [if_neg some_, reached]
  dsimp only
  rw [waiter, bytes]
  dsimp only
  rw [if_neg some_]
  refine ⟨fun none => ?_, fun old answered same => ?_, fun old answered other => ?_⟩
  · rw [none]
  · rw [answered]
    dsimp only
    rw [if_pos same]
  · rw [answered]
    dsimp only
    rw [if_neg other]

/-- A word in local HBM is charged at once. -/
theorem State.subtract_local {s v : State} {k units : Nat} {pa pk : Nat} {bs : List Byte} (some_ : units ≠ 0)
    (reached : s.reach (engineWho (k / 2 ^ 64) 0 9 0 0 (.charge k)) accAtomic [(k % 2 ^ 64 + 8, 8)] = .ok v [(Place.here pa pk, 8)])
    (bytes : v.segBytes (.charge k) 0 [(Place.here pa pk, 8)] = some bs) :
    s.subtract k units = .ok (v.storeSegs (.charge k) [(Place.here pa pk, 8)] (valBytes 8 (bytesVal bs - units))) (bytesVal bs - units) := by
  have waiter : (engineWho (k / 2 ^ 64) 0 9 0 0 (.charge k)).waiter = .charge k := rfl
  rw [State.subtract]
  dsimp only
  rw [if_neg some_, reached]
  dsimp only
  rw [waiter, bytes]
  dsimp only
  rw [if_neg some_]

/-- A word is charged what it is owed. -/
theorem State.chargeOne_local {s v : State} {k owed : Nat} {pa pk : Nat} {bs : List Byte} (budget : s.budgets = [(k, ⟨owed, 0, false⟩)]) (some_ : owed ≠ 0)
    (clear : s.faults.any (fun x => x.2.waiters.contains (.charge k)) = false)
    (settled : ({ s with budgets := [(k, ⟨0, owed, false⟩)] } : State).unperformedBy (.charge k) = false)
    (reached : ({ s with budgets := [(k, ⟨0, owed, false⟩)] } : State).reach (engineWho (k / 2 ^ 64) 0 9 0 0 (.charge k)) accAtomic
      [(k % 2 ^ 64 + 8, 8)] = .ok v [(Place.here pa pk, 8)])
    (bytes : v.segBytes (.charge k) 0 [(Place.here pa pk, 8)] = some bs) :
    s.chargeOne k = { (v.storeSegs (.charge k) [(Place.here pa pk, 8)] (valBytes 8 (bytesVal bs - owed))).forget (.charge k) with
      budgets := [(k, ⟨0, 0, decide (bytesVal bs - owed = 0)⟩)] } := by
  have now : s.budgetAt k = ⟨owed, 0, false⟩ := by
    unfold State.budgetAt
    rw [budget]
    exact if_pos rfl
  have sent : (s.budgetAt k).send = ⟨0, owed, false⟩ := by rw [now]; rfl
  have set_ : s.setBudget k ⟨0, owed, false⟩ = { s with budgets := [(k, ⟨0, owed, false⟩)] } := by
    unfold State.setBudget
    rw [budget]
    simp [Table.set]
  have kept : ((v.storeSegs (.charge k) [(Place.here pa pk, 8)] (valBytes 8 (bytesVal bs - owed))).forget (.charge k)).budgets =
      [(k, ⟨0, owed, false⟩)] := by
    have read := State.accessed_reach { s with budgets := [(k, ⟨0, owed, false⟩)] } (engineWho (k / 2 ^ 64) 0 9 0 0 (.charge k)) accAtomic
      [(k % 2 ^ 64 + 8, 8)]
    rw [reached] at read
    replace read : ({ s with budgets := [(k, ⟨0, owed, false⟩)] } : State).Accessed v := read
    rw [(State.accessed_forget _ _).budgets, (State.accessed_storeSegs _ _ _ _).budgets, read.budgets]
  rw [State.chargeOne]
  dsimp only
  rw [sent, set_, clear, if_neg Bool.false_ne_true, State.subtract_local some_ reached bytes, Got.atomic, settled, if_neg Bool.false_ne_true]
  dsimp only
  rw [State.setBudget, kept, Table.set, if_pos rfl]

/-! ### A pass -/

section
variable {s : State} {wg : Nat} {o : Workgroup} {rcb : W64} {n : Nat} (alone : s.wgs = [(wg, o)]) (here : o.phase = .resident)
  (one : (s.launchAt o.launch).rcbs = [rcb]) (budget : s.budgets = [(budgetKey (s.launchAt o.launch).asid rcb, ⟨n, 0, false⟩)])
  (some_ : 250 ≤ o.spent + o.nwarps * (s.tick - o.since))
include alone here one budget some_

/-- Before the charges of a pass, the residency of the only workgroup is counted against the only word. -/
theorem State.counted_single : (s.countAll s.wgs).pruneBudgets = { s with
    wgs := [(wg, { o with spent := (o.spent + o.nwarps * (s.tick - o.since)) % 250, since := s.tick })],
    budgets := [(budgetKey (s.launchAt o.launch).asid rcb, ⟨n + (o.spent + o.nwarps * (s.tick - o.since)) / 250, 0, false⟩)] } := by
  have clock : o.clock s.tick = { o with spent := o.spent + o.nwarps * (s.tick - o.since), since := s.tick } := by
    rw [Workgroup.clock, if_pos (.inl here)]
  have words : (s.launchAt o.launch).budgets = [budgetKey (s.launchAt o.launch).asid rcb] := by
    rw [Launch.budgets, one]
    rfl
  have whole : n + (o.spent + o.nwarps * (s.tick - o.since)) / 250 ≠ 0 := by omega
  generalize budgetKey (s.launchAt o.launch).asid rcb = k at budget words
  have groups (y : Workgroup) : s.setWg wg y = { s with wgs := [(wg, y)] } := by
    rw [State.setWg, alone, Table.set, if_pos rfl]
  have owes (ws : Table Workgroup) (units : Nat) : ({ s with wgs := ws } : State).oweAll (s.launchAt o.launch) units =
      { s with wgs := ws, budgets := [(k, ⟨n + units, 0, false⟩)] } := by
    have now : ({ s with wgs := ws } : State).budgetAt k = ⟨n, 0, false⟩ := by
      unfold State.budgetAt
      rw [budget]
      exact if_pos rfl
    rw [State.oweAll, words, List.foldl_cons, List.foldl_nil, now, State.setBudget, budget, Table.set, if_pos rfl]
  rw [alone, State.countAll, State.countAll]
  rw [clock]
  dsimp only
  rw [groups, owes, State.pruneBudgets]
  simp only [List.filter_cons, List.filter_nil, whole, ne_eq, not_false_eq_true, decide_true, Bool.true_or, if_true]

/-- A pass charges the only word what the only workgroup has been resident for, and pre-empts the workgroup where nothing of it is left. -/
theorem State.exec_budgetChargePass {v : State} {pa pk : Nat} {bs : List Byte}
    (clear : s.faults.any (fun x => x.2.waiters.contains (.charge (budgetKey (s.launchAt o.launch).asid rcb))) = false) {a : State}
    (counted : a = { s with
      wgs := [(wg, { o with spent := (o.spent + o.nwarps * (s.tick - o.since)) % 250, since := s.tick })],
      budgets := [(budgetKey (s.launchAt o.launch).asid rcb, ⟨0, n + (o.spent + o.nwarps * (s.tick - o.since)) / 250, false⟩)] })
    (settled : a.unperformedBy (.charge (budgetKey (s.launchAt o.launch).asid rcb)) = false)
    (reached : a.reach (engineWho (s.launchAt o.launch).asid 0 9 0 0 (.charge (budgetKey (s.launchAt o.launch).asid rcb))) accAtomic
      [(rcb.toNat + 8, 8)] = .ok v [(Place.here pa pk, 8)])
    (bytes : v.segBytes (.charge (budgetKey (s.launchAt o.launch).asid rcb)) 0 [(Place.here pa pk, 8)] = some bs) :
    let w := bytesVal bs - (n + (o.spent + o.nwarps * (s.tick - o.since)) / 250)
    let k := budgetKey (s.launchAt o.launch).asid rcb
    let x := (v.storeSegs (.charge k) [(Place.here pa pk, 8)] (valBytes 8 w)).forget (.charge k)
    ∃ u, exec .budgetChargePass s = .next u ∧ u.budgets = [(k, ⟨0, 0, decide (w = 0)⟩)] ∧
      (u.wgAt wg).preempt = (o.preempt || decide (w = 0)) ∧ u = { x with wgs := u.wgs, budgets := u.budgets } := by
  intro w k x
  have pre := State.counted_single alone here one budget some_
  have asid : k / 2 ^ 64 = (s.launchAt o.launch).asid := by
    have := rcb.isLt
    show (2 ^ 64 * (s.launchAt o.launch).asid + rcb.toNat) / 2 ^ 64 = _
    omega
  have va : k % 2 ^ 64 = rcb.toNat := by
    have := rcb.isLt
    show (2 ^ 64 * (s.launchAt o.launch).asid + rcb.toNat) % 2 ^ 64 = _
    omega
  have words : (s.launchAt o.launch).budgets = [k] := by
    rw [Launch.budgets, one]
    rfl
  have whole : n + (o.spent + o.nwarps * (s.tick - o.since)) / 250 ≠ 0 := by omega
  have runs : exec .budgetChargePass s = .next
      ((((s.countAll s.wgs).pruneBudgets).budgets.map (·.1)).foldl State.chargeOne (s.countAll s.wgs).pruneBudgets).exhaust := rfl
  rw [pre] at runs
  change a.unperformedBy (.charge k) = false at settled
  change v.segBytes (.charge k) 0 _ = _ at bytes
  change a.reach (engineWho _ 0 9 0 0 (.charge k)) _ _ = _ at reached
  change s.faults.any (fun x => x.2.waiters.contains (.charge k)) = false at clear
  rw [← asid, ← va] at reached
  have read : a.Accessed v := by
    have e := a.accessed_reach (engineWho (k / 2 ^ 64) 0 9 0 0 (.charge k)) accAtomic [(k % 2 ^ 64 + 8, 8)]
    rwa [reached] at e
  have stored : a.Accessed x := (read.trans (State.accessed_storeSegs _ _ _ _)).trans (State.accessed_forget _ _)
  have charged := State.chargeOne_local (s := { s with
    wgs := [(wg, { o with spent := (o.spent + o.nwarps * (s.tick - o.since)) % 250, since := s.tick })],
    budgets := [(k, ⟨n + (o.spent + o.nwarps * (s.tick - o.since)) / 250, 0, false⟩)] }) rfl whole clear (counted ▸ settled) (counted ▸ reached) bytes
  replace runs := runs.trans (congrArg (fun y : State => Host.Outcome.next y.exhaust) charged)
  have wgs : x.wgs = [(wg, { o with spent := (o.spent + o.nwarps * (s.tick - o.since)) % 250, since := s.tick })] := by
    rw [stored.wgs, counted]
  have launches : x.launches = s.launches := by
    rw [stored.launches, counted]
  change exec .budgetChargePass s = .next ({ x with budgets := [(k, ⟨0, 0, decide (w = 0)⟩)] } : State).exhaust at runs
  generalize x = y at wgs launches runs
  have out : ({ y with budgets := [(k, ⟨0, 0, decide (w = 0)⟩)] } : State).coreTimeOut
      (({ y with budgets := [(k, ⟨0, 0, decide (w = 0)⟩)] } : State).launchAt o.launch) = decide (w = 0) := by
    have same : ({ y with budgets := [(k, ⟨0, 0, decide (w = 0)⟩)] } : State).launchAt o.launch = s.launchAt o.launch :=
      congrArg (fun t => Table.get Launch.blank t o.launch) launches
    rw [State.coreTimeOut, same, words]
    simp [State.budgetAt, Table.get]
  generalize hz : ({ y with budgets := [(k, ⟨0, 0, decide (w = 0)⟩)] } : State) = z at out runs
  have table : z.exhaust.wgs =
      [(wg, { o with spent := (o.spent + o.nwarps * (s.tick - o.since)) % 250, since := s.tick, preempt := o.preempt || decide (w = 0) })] := by
    have same : z.wgs = y.wgs := by rw [← hz]
    rw [State.exhaust]
    dsimp only
    rw [same, wgs, List.map_singleton]
    dsimp only
    rw [out, here]
    cases decide (w = 0) <;> simp
  refine ⟨_, runs, ?_, ?_, ?_⟩
  · rw [← hz]; rfl
  · unfold State.wgAt
    rw [table, Table.get, if_pos rfl]
  · rw [← hz]; rfl

end

end Sys2Proof.Machine
end

section
/-! The life of a launch (R122, R123, R220, R223 to R225, R227, R230). -/
namespace Sys2Proof.Machine

/-! ### Acceptance -/

section
variable {s t : State} {id : Nat} {l1 : Launch} (submitted : (s.launchAt id).phase = .submitted)
  (going : (s.launchAt id).code = 0 ∧ s.launchParked id = false) (read : (s.readLaunch id (s.launchAt id)).atomic s (.launch id) = .ok t (.ok l1))
include submitted going read

theorem State.launchAccept_plain (plain : l1.prologue = 0) : ∃ u, exec (.launchAccept id) s = .next u ∧
    u.launchAt id = { l1 with phase := .accepted, order := t.nextId, worldPhase := (t.worldAt l1.asid l1.world).requested,
                              code := (if l1.ends.contains l1.domain then 7 else l1.code), ends := [] } ∧
    (∀ k, k ≠ id → u.launchAt k = t.launchAt k) ∧
    u.ctxAt (s.launchAt id).asid = { t.ctxAt (s.launchAt id).asid with
      state := if (t.ctxAt (s.launchAt id).asid).state = .defined then .running else (t.ctxAt (s.launchAt id).asid).state } ∧
    u = { t with launches := u.launches, ctxs := u.ctxs, nextId := t.nextId + 1 } := by
  have runs := State.exec_launchAccept submitted going read
  rw [if_pos plain] at runs
  refine ⟨_, runs, ?_, fun k hk => (State.launchAt_entering _ _ _ _ _).trans (if_neg hk), State.ctxAt_entering _ _ _ _, rfl⟩
  rw [State.launchAt_entering, if_pos rfl, Launch.lateEnd_eq]
  rfl

theorem State.launchAccept_prologue (starts : l1.prologue ≠ 0) : ∃ u, exec (.launchAccept id) s = .next u ∧
    (u.launchAt id).phase = .prologue ∧ (u.launchAt id).order = t.nextId ∧
    (u.launchAt id).worldPhase = (t.worldAt l1.asid l1.world).requested ∧ (u.launchAt id).ppc = 0 ∧ (u.launchAt id).ppreds = [] ∧
    (∀ i, Table.get 0#64 (u.launchAt id).pregs i = if i = 0 then l1.param 11 else if i = 1 then l1.record else 0) ∧
    (∀ k, k ≠ id → u.launchAt k = t.launchAt k) ∧ u.mem = t.mem := by
  have runs := State.exec_launchAccept submitted going read
  rw [if_neg starts] at runs
  have own := State.launchAt_entering t (s.launchAt id).asid id { l1.lateEnd.entered t with
    phase := .prologue, pregs := Table.putAll 0#64 [] 0 [l1.param 11, l1.record], ppreds := [], pframe := Framing.blank, pcover := none, ppc := 0 } id
  rw [if_pos rfl] at own
  refine ⟨_, runs, ?_, ?_, ?_, ?_, ?_, fun i => ?_, fun k hk => (State.launchAt_entering _ _ _ _ _).trans (if_neg hk), rfl⟩ <;> rw [own]
  · rfl
  · rw [Launch.lateEnd_eq]; rfl
  · exact get_prologueRegs _ _ i

end

/-! ### Prologues -/

/-- A run that starts from a prologue. -/
theorem State.acceptRun_prologue (v : State) (id : Nat) (l1 : Launch) (again repeats : Bool) :
    let u := ((v.forget (.launch id)).setLaunch id { l1 with repeats := again, ppc := 0, pframe := Framing.blank, pcover := none }).acceptRun id repeats
    (u.launchAt id).phase = .accepted ∧ (u.launchAt id).repeats = again ∧ (u.launchAt id).params = l1.params ∧
    (repeats = false → (u.launchAt id).order = l1.order ∧ (u.launchAt id).worldPhase = l1.worldPhase) ∧
    (repeats = true → (u.launchAt id).order = v.nextId ∧ (u.launchAt id).worldPhase = (v.worldAt l1.asid l1.world).requested) := by
  intro u
  cases repeats with
  | false =>
    have own : u.launchAt id = { l1 with repeats := again, ppc := 0, pframe := Framing.blank, pcover := none, phase := .accepted } := by
      show State.launchAt (State.acceptRun _ _ _) _ = _
      rw [State.acceptRun_first, State.launchAt_setLaunch_same]
    rw [own]
    exact ⟨rfl, rfl, rfl, fun _ => ⟨rfl, rfl⟩, fun h => (by cases h)⟩
  | true =>
    have own : u.launchAt id = { ({ l1 with repeats := again, ppc := 0, pframe := Framing.blank, pcover := none } : Launch).entered
        (v.forget (.launch id)) with phase := .accepted } := by
      show State.launchAt (State.acceptRun _ _ _) _ = _
      rw [State.acceptRun, if_pos rfl, State.enterPhase_launch]
      dsimp only
      rw [State.launchAt_setLaunch_same, State.launchAt_setLaunch_same]
    rw [own]
    exact ⟨rfl, rfl, rfl, fun h => (by cases h), fun _ => ⟨rfl, rfl⟩⟩

/-! ### The clauses together -/

/-- A workgroup that has a core becomes resident there with its warps. -/
theorem State.workgroupResident_seats {s : State} {wg core : Nat} {r : State} (looked : s.lookBudgets (s.launchAt (s.wgAt wg).launch) = r)
    (pending : (r.wgAt wg).phase = .pending) (own : (r.wgAt wg).parcel = none) (free : (r.wgAt wg).routine = none)
    (single : (r.launchAt (r.wgAt wg).launch).cohort = false) (plain : (r.launchAt (r.wgAt wg).launch).param 12 = 0)
    (first : r.earlierPending (r.wgAt wg) = false) (settled : r.unperformedBy (r.wgAt wg).waiter = false)
    (admitted : r.admitted (r.wgAt wg) = true) (placed : r.coreFor (r.wgAt wg) = some core)
    (slots : (r.warpSlots core).length + (r.wgAt wg).nwarps ≤ 64)
    (lines : r.cacheUse core + (r.wgAt wg).nwarps * (r.launchAt (r.wgAt wg).launch).alloc ≤ 8192)
    (old : ∀ x ∈ r.wgs, ∀ k ∈ x.2.warps, k < r.nextId) :
    let h := r.wgAt wg
    ∃ u, exec (.workgroupResident wg) s = .next u ∧ (u.wgAt wg).phase = .resident ∧ (u.wgAt wg).core = core ∧
      (u.wgAt wg).warps = List.range' r.nextId h.nwarps ∧ (u.wgAt wg).image = r.freeImage h.asid ∧
      (∀ i < h.nwarps, let w := u.warpAt (r.nextId + i)
        w.wg = wg ∧ w.index = i ∧ w.live = BitVec.allOnes 32 ∧ w.sregs = h.init ∧ w.handler = false ∧
        w.units = [(0, { IUnit.blank with lanes := BitVec.allOnes 32, pc := (r.launchAt h.launch).entry })]) ∧
      (∀ k, k ≠ wg → u.wgAt k = r.wgAt k) ∧ u.mem = r.mem := by
  intro h
  have seat := State.seat_grid free plain admitted placed slots lines old
  have runs := State.exec_workgroupResident looked pending own single first settled seat
  have rest := State.withWarps_rest r wg core slots
  have warps := fun i hi => State.warpAt_withWarps r wg core slots (i := i) hi
  have entry : r.entryOf (r.seated wg core) = (r.launchAt h.launch).entry := by
    have parcel : (r.seated wg core).parcel = none := own
    rw [State.entryOf, parcel]
    rfl
  rw [entry] at warps
  generalize hw : r.withWarps wg core = v at rest warps runs
  generalize hu : (((v.setWg wg (r.seated wg core)).seatTurns (r.seated wg core).warps).forget (r.wgAt wg).waiter) = u at runs
  have group (k : Nat) : u.wgAt k = if k = wg then r.seated wg core else r.wgAt k := by
    have e := State.wgAt_setWg v wg k (r.seated wg core)
    rw [rest] at e
    rw [← hu, rest]
    exact e
  have warp (k : Nat) : u.warpAt k = v.warpAt k := by rw [← hu]; rfl
  refine ⟨u, runs, ?_, ?_, ?_, ?_, fun i hi => ?_, fun k hk => (group k).trans (if_neg hk), by rw [← hu, rest]; rfl⟩
  · rw [group, if_pos rfl]; rfl
  · rw [group, if_pos rfl]; rfl
  · rw [group, if_pos rfl]; rfl
  · rw [group, if_pos rfl]; rfl
  · obtain ⟨slot, e⟩ := warps i hi
    rw [warp, e]
    exact ⟨rfl, rfl, rfl, rfl, rfl, rfl⟩

/-- An end that waits for stores of the launch's units goes no further. -/
theorem State.launchEnd_waits {s : State} {id : Nat} (storing : (s.launchAt id).phase = .storing) (free : s.launchParked id = false)
    (out : s.launchOut id = true) : exec (.launchEnd id) s = .next s.settleNets := by
  have runs : exec (.launchEnd id) s = execLaunchEnd id s := rfl
  have still : s.endLaunch id 2 = s := by rw [State.endLaunch, out, Bool.or_true, if_pos rfl]
  rw [runs, execLaunchEnd]
  simp [storing, free, still]

/-- Settles O43: each event of a launch's life by what it does to the launch, its workgroups and their words, from acceptance to the arrival. -/
theorem launchLifecycle : Obligations.LaunchLifecycle := by
  intro s t id wg l1 code l g idle cramped
  refine ⟨fun submitted going read plain _ => State.launchAccept_plain submitted going read plain,
    fun submitted going read starts => State.launchAccept_prologue submitted going read starts,
    fun submitted going read => State.launchAccept_refused submitted going read,
    fun v p bs running going room reached bytes => ?_, fun c b w fresh free word low good => ?_, fun w fresh free => ⟨fun word => ?_, fun good => ⟨fun word => ?_, fun word => ?_⟩⟩,
    fun accepted going grid fits => ?_, fun accepted going grid cohort many => ?_, ?_, fun here ended stored => State.workgroupDone_ends here ended stored,
    fun going running quiet => ⟨fun again => State.launchEnd_repeats going running quiet again, fun v x once grid settled stores performed arrives => ?_⟩,
    fun storing free out => State.launchEnd_waits storing free out, ?_, fun k units v h d pa bs some_ reached bytes => State.subtract_remote some_ reached bytes⟩
  case refine_1 =>
    have runs := State.exec_prologueRun running going room reached bytes
    refine ⟨fun again word => ?_, fun word => ?_, fun x word => ?_, fun x word => ?_⟩ <;> rw [word] at runs
    · exact ⟨_, runs, State.acceptRun_prologue v id l1 again l.repeats⟩
    · exact ⟨_, runs, State.launchAt_setLaunch_same _ _ _⟩
    · exact runs
    · exact runs
  case refine_2 =>
    obtain rfl := Option.some.inj word
    exact State.proWord_psetp s id fresh free low good
  case refine_3 =>
    obtain rfl := Option.some.inj word
    exact State.proWord_pcancel s id fresh free
  case refine_4 =>
    obtain rfl := Option.some.inj word
    exact State.proWord_prepeat s id fresh free good
  case refine_5 =>
    obtain rfl := Option.some.inj word
    exact State.proWord_exit s id fresh free good
  case refine_6 =>
    have runs := State.exec_runStart accepted going grid
    have fitting : (l.cohort && s.cohortOver l (l.gridGroups id)) = false := by
      cases cohort : l.cohort with
      | false => rfl
      | true => exact fits cohort
    rw [if_neg (by rw [fitting]; exact Bool.false_ne_true)] at runs
    obtain ⟨launch, groups, olds, rest⟩ := State.startRun_grid s id
    refine ⟨_, runs, launch, fun i hi => ?_, olds, rest⟩
    rw [groups i hi]
    exact ⟨rfl, rfl, rfl, rfl, rfl, rfl, rfl, rfl, rfl⟩
  case refine_7 =>
    have runs := State.exec_runStart accepted going grid
    have over_ : (l.cohort && s.cohortOver l (l.gridGroups id)) = true := by
      rw [cohort]
      exact many
    rwa [if_pos over_] at runs
  case refine_8 =>
    intro r h m core pending own free _ single plain first settled admitted placed slots lines old
    exact State.workgroupResident_seats rfl pending own free single plain first settled admitted placed slots lines old
  case refine_9 =>
    exact State.launchEnd_ends going running quiet once grid settled rfl rfl stores performed arrives
  case refine_10 =>
    intro o m t0 key who rcb v n p bs pa pk alone here one budget clear some_ a settled reached local_ bytes
    subst local_
    exact State.exec_budgetChargePass alone here one budget some_ clear rfl settled reached bytes

end Sys2Proof.Machine
end

section
/-! A workgroup that leaves its core stops issue at instruction boundaries (R123, R313, R314). -/
namespace Sys2Proof

/-- A change that keeps keys, and some part of the values, keeps that part of every entry. -/
theorem Table.get_map_part {α β : Type} (d : α) (t : Table α) (h : Nat × α → Nat × α) (p : α → β) (keys : ∀ x, (h x).1 = x.1)
    (part : ∀ x, p (h x).2 = p x.2) (n : Nat) : p (Table.get d (t.map h) n) = p (Table.get d t n) := by
  induction t with
  | nil => rfl
  | cons x t ih =>
    obtain ⟨k, v⟩ := x
    rw [List.map_cons, Table.get, Table.get, keys]
    split_ifs
    · exact part (k, v)
    · exact ih

end Sys2Proof

namespace Sys2Proof.Machine

/-! ### Units at instruction boundaries -/

theorem IUnit.stopped_twice (u : IUnit) : u.stopped.stopped = u.stopped := by
  unfold IUnit.stopped
  by_cases issued : u.issued.isSome
  · rw [if_pos issued, if_pos issued]
  · have still : ¬u.rewound.issued.isSome = true := issued
    rw [if_neg issued, if_neg still]
    rfl

/-- A warp whose units stand at instruction boundaries. -/
def Warp.stopped (w : Warp) : Warp := { w with units := w.units.map (fun x => (x.1, x.2.stopped)) }

theorem Warp.stopped_twice (w : Warp) : w.stopped.stopped = w.stopped := by
  simp only [Warp.stopped, List.map_map, Function.comp_def, IUnit.stopped_twice]

theorem Warp.find_stopped {w : Warp} {n : Nat} {x : IUnit} (h : Table.find w.units n = some x) : Table.find w.stopped.units n =
    some (if x.issued.isSome then x else { x with pc := x.origin, frame := Framing.blank }) :=
  (Table.find_map IUnit.stopped w.units n).trans (congrArg (Option.map IUnit.stopped) h)

/-- The warps of a list stop. -/
def State.stopWarps (s : State) (ks : List Nat) : State := ks.foldl (fun s k => s.setWarp k (s.warpAt k).stopped) s

theorem State.stopWarps_rest (s : State) (ks : List Nat) : s.stopWarps ks = { s with warps := (s.stopWarps ks).warps } := by
  induction ks generalizing s with
  | nil => rfl
  | cons k ks ih => exact ih (s.setWarp k (s.warpAt k).stopped)

theorem State.warpAt_stopWarps (s : State) (ks : List Nat) (k : Nat) :
    (s.stopWarps ks).warpAt k = if k ∈ ks then (s.warpAt k).stopped else s.warpAt k := by
  induction ks generalizing s with
  | nil => rfl
  | cons j ks ih =>
    have first : (s.setWarp j (s.warpAt j).stopped).warpAt k = if k = j then (s.warpAt j).stopped else s.warpAt k := Table.get_set _ _ _ _ _
    refine (ih (s.setWarp j (s.warpAt j).stopped)).trans ?_
    rw [first]
    by_cases here : k = j
    · subst here
      simp [Warp.stopped_twice]
    · simp [here]

/-! ### WORKGROUP_LEAVE -/

/-- Issue of a workgroup has stopped from s to u. -/
structure State.Stops (s u : State) (wg : Nat) : Prop where
  phase  : (u.wgAt wg).phase = .leaving
  others : ∀ k, k ∉ (s.wgAt wg).warps → u.warpAt k = s.warpAt k
  warps  : ∀ k ∈ (s.wgAt wg).warps, u.warpAt k = (s.warpAt k).stopped
  rest   : u = { s with wgs := u.wgs, warps := u.warps }

theorem State.stops_stopIssue (s : State) (wg : Nat) : s.Stops (s.stopIssue wg) wg := by
  have rest := State.stopWarps_rest (s.setWg wg { s.wgAt wg with phase := .leaving }) (s.wgAt wg).warps
  have warps := State.warpAt_stopWarps (s.setWg wg { s.wgAt wg with phase := .leaving }) (s.wgAt wg).warps
  have own := (State.wgAt_setWg s wg wg { s.wgAt wg with phase := .leaving }).trans (if_pos rfl)
  have stop : s.stopIssue wg = (s.setWg wg { s.wgAt wg with phase := .leaving }).stopWarps (s.wgAt wg).warps := rfl
  rw [stop]
  generalize (s.setWg wg { s.wgAt wg with phase := .leaving }).stopWarps (s.wgAt wg).warps = u at rest warps
  refine ⟨?_, fun k hk => (warps k).trans (if_neg hk), fun k hk => (warps k).trans (if_pos hk), ?_⟩
  · have e : u.wgAt wg = (s.setWg wg { s.wgAt wg with phase := .leaving }).wgAt wg := by rw [rest]; rfl
    rw [e, own]
  · rw [rest]; rfl

theorem State.wgAt_stopIssue (s : State) (wg k : Nat) : (s.stopIssue wg).wgAt k = if k = wg then { s.wgAt wg with phase := .leaving } else s.wgAt k := by
  have rest := State.stopWarps_rest (s.setWg wg { s.wgAt wg with phase := .leaving }) (s.wgAt wg).warps
  have set_ := State.wgAt_setWg s wg k { s.wgAt wg with phase := .leaving }
  have stop : s.stopIssue wg = (s.setWg wg { s.wgAt wg with phase := .leaving }).stopWarps (s.wgAt wg).warps := rfl
  rw [stop, rest]
  exact set_

/-- Asking a workgroup to leave changes no warp of any. -/
theorem State.warps_askLeave (s : State) (p : Nat → Workgroup → Bool) (k : Nat) : ((s.askLeave p).wgAt k).warps = (s.wgAt k).warps := by
  refine Table.get_map_part Workgroup.blank s.wgs _ Workgroup.warps (fun x => ?_) (fun x => ?_) k <;> dsimp only <;> split_ifs <;> rfl

theorem State.stops_askLeave (s : State) (p : Nat → Workgroup → Bool) (wg : Nat) : s.Stops ((s.askLeave p).stopIssue wg) wg := by
  obtain ⟨phase, others, warps, rest⟩ := State.stops_stopIssue (s.askLeave p) wg
  rw [State.warps_askLeave] at others warps
  exact ⟨phase, others, warps, rest⟩

section
variable {s u : State} {wg : Nat}

/-- A stop in the form of the statement. -/
theorem State.Stops.clauses (h : s.Stops u wg) : (u.wgAt wg).phase = .leaving ∧ (∀ k, k ∉ (s.wgAt wg).warps → u.warpAt k = s.warpAt k) ∧
    (∀ k ∈ (s.wgAt wg).warps, u.warpAt k = { s.warpAt k with units := (u.warpAt k).units } ∧
      ∀ n x, Table.find (s.warpAt k).units n = some x → Table.find (u.warpAt k).units n =
        some (if x.issued.isSome then x else { x with pc := x.origin, frame := Framing.blank })) ∧
    u = { s with wgs := u.wgs, warps := u.warps } := by
  refine ⟨h.phase, h.others, fun k hk => ?_, h.rest⟩
  rw [h.warps k hk]
  exact ⟨rfl, fun n x found => Warp.find_stopped found⟩

/-- WORKGROUP_LEAVE by its cases. -/
theorem exec_workgroupLeave (s : State) (wg : Nat) : exec (.workgroupLeave wg) s =
    if (s.wgAt wg).phase ≠ .resident ∨ (s.wgAt wg).warps.any (fun k => decide ((s.warpAt k).live ≠ 0)) = false ∨ s.midGroup (s.wgAt wg) = true then .next s
    else if (s.wgAt wg).preempt then .next (s.stopIssue wg)
    else if s.outranked (s.wgAt wg) then .next ((s.askLeave (fun k _ => decide (k = wg))).stopIssue wg)
    else .next s := by
  have ended : (s.wgAt wg).warps.all (fun k => decide ((s.warpAt k).live = 0)) = !(s.wgAt wg).warps.any (fun k => decide ((s.warpAt k).live ≠ 0)) := by
    simp [List.not_any_eq_all_not]
  have runs : exec (.workgroupLeave wg) s = execWorkgroupLeave wg s := rfl
  rw [runs, execWorkgroupLeave]
  simp only [ended, Bool.not_eq_true']

end

end Sys2Proof.Machine
end

section
/-! The group image is written, and the workgroup switched out (R305, R314). -/
namespace Sys2Proof.Machine

theorem State.accessed_putAt (s : State) (who : Who) (base : Nat) (rs : List (Nat × List Byte)) : s.Accessed (s.putAt who base rs).state := by
  induction rs generalizing s with
  | nil => exact .refl s
  | cons r rs ih =>
    obtain ⟨o, bs⟩ := r
    exact Got.state_bind (s.accessed_putBytes who (base + o) bs) (fun s1 _ h => h.trans (ih s1))

/-- What agents have asked for goes unused. -/
theorem State.foldl_dropAsked (s : State) {α : Type} (f : α → Waiter) (xs : List α) :
    xs.foldl (fun s x => s.dropAsked (f x)) s = { s with pending := (xs.foldl (fun s x => s.dropAsked (f x)) s).pending } := by
  induction xs generalizing s with
  | nil => rfl
  | cons x xs ih => exact ih (s.dropAsked (f x))

/-- A workgroup as it is switched out, with what it holds of its core. -/
def State.leftOut (s : State) (wg : Nat) : Workgroup :=
  let g := s.wgAt wg
  let c := s.coreAt g.core
  { g.clock s.tick with
    phase := .switchedOut, preempt := false, streams := c.streams.filter (fun x => decide (x.2.wg = wg) && decide (x.2.state ≠ .free)),
    rays := (c.raysOf wg).map (·.2), queues := c.queues.filter (fun q => q.wg = wg) }

/-- A core without a workgroup's streams, rays and sample queues. -/
def Core.without (c : Core) (wg : Nat) : Core :=
  { c with streams := c.streams.map (fun x => if x.2.wg = wg then (x.1, x.2.freed) else x), rays := c.rays.filter (fun x => x.2.wg ≠ wg),
           queues := c.queues.filter (fun q => q.wg ≠ wg) }

theorem State.foldl_dropAsked_twice (s : State) {α β : Type} (f : α → Waiter) (g : β → Waiter) (xs : List α) (ys : List β) :
    ys.foldl (fun s y => s.dropAsked (g y)) (xs.foldl (fun s x => s.dropAsked (f x)) s) =
      { s with pending := (ys.foldl (fun s y => s.dropAsked (g y)) (xs.foldl (fun s x => s.dropAsked (f x)) s)).pending } := by
  have first := s.foldl_dropAsked f xs
  have second := (xs.foldl (fun s x => s.dropAsked (f x)) s).foldl_dropAsked g ys
  generalize xs.foldl (fun s x => s.dropAsked (f x)) s = t at first second
  generalize ys.foldl (fun s y => s.dropAsked (g y)) t = u at second ⊢
  calc u = { t with pending := u.pending } := second
    _ = { s with pending := u.pending } := by rw [first]

theorem State.unload_eq (s : State) (wg : Nat) : s.unload wg =
    { (s.setCoreAt (s.wgAt wg).core ((s.coreAt (s.wgAt wg).core).without wg)).setWg wg (s.leftOut wg) with pending := (s.unload wg).pending } := by
  have dropped := State.foldl_dropAsked_twice ((s.setCoreAt (s.wgAt wg).core ((s.coreAt (s.wgAt wg).core).without wg)).setWg wg (s.leftOut wg))
    (fun k : Nat => .ray (s.wgAt wg).core k) (fun n : Nat => .stream (s.wgAt wg).core n) (((s.coreAt (s.wgAt wg).core).raysOf wg).map (fun x => x.1))
    ((s.leftOut wg).streams.map (fun x => x.1))
  exact dropped

theorem State.mem_unload (s : State) (wg : Nat) : (s.unload wg).mem = s.mem := by rw [State.unload_eq]; rfl

theorem State.warps_unload (s : State) (wg : Nat) : (s.unload wg).warps = s.warps := by rw [State.unload_eq]; rfl

theorem State.wgAt_unload (s : State) (wg k : Nat) : (s.unload wg).wgAt k = if k = wg then s.leftOut wg else s.wgAt k := by
  rw [State.unload_eq]
  exact State.wgAt_setWg _ wg k (s.leftOut wg)

theorem State.coreAt_unload (s : State) (wg : Nat) :
    (s.unload wg).coreAt (s.wgAt wg).core = (s.coreAt (s.wgAt wg).core).without wg := by
  rw [State.unload_eq]
  exact (State.coreAt_setCoreAt s _ _ _).trans (if_pos rfl)

/-- A workgroup's image, in its slot of the pool of t, is up to date. -/
def State.imageWritten (s t : State) (wg : Nat) : State :=
  { t.setWg wg { t.wgAt wg with due := false } with freeCount := s.freeCount + 0x200000 }

theorem State.wgAt_imageWritten {s t : State} (h : s.Accessed t) (wg k : Nat) :
    (s.imageWritten t wg).wgAt k = if k = wg then { s.wgAt wg with due := false } else s.wgAt k := by
  have same : ∀ k, t.wgAt k = s.wgAt k := fun k => congrArg (fun ws => Table.get Workgroup.blank ws k) h.wgs
  rw [← same wg, ← same k]
  exact State.wgAt_setWg t wg k _

theorem State.imageWritten_rest {s t : State} (h : s.Accessed t) (wg : Nat) : (s.imageWritten t wg).warps = s.warps ∧
    (s.imageWritten t wg).tick = s.tick ∧ (s.imageWritten t wg).cores = s.cores ∧ (s.imageWritten t wg).ctxs = s.ctxs := by
  rw [State.imageWritten, h]
  exact ⟨rfl, rfl, rfl, rfl⟩

/-- A drained workgroup whose image can be written is switched out. -/
theorem State.exec_saveComplete {s t : State} {wg i : Nat} (leaves : (s.wgAt wg).phase = .leaving) (drained : s.drained wg = true)
    (slot : (s.wgAt wg).image = some i) (runs : (s.ctxAt (s.wgAt wg).asid).state ≠ .frozen) (put : s.Accessed t)
    (written : s.putAt (s.poolWho (s.wgAt wg)) (s.slotBase (s.wgAt wg) i) (s.imageRuns wg) = .ok t ()) :
    exec (.saveComplete wg) s = .next ((s.imageWritten t wg).unload wg) := by
  obtain ⟨-, -, -, ctxs⟩ := State.imageWritten_rest put wg
  have own := (State.wgAt_imageWritten put wg wg).trans (if_pos rfl)
  have image : s.writeImage wg = s.imageWritten t wg := by
    rw [State.writeImage]
    dsimp only
    rw [slot]
    dsimp only
    rw [written]
    rfl
  generalize s.imageWritten t wg = v at image ctxs own ⊢
  have still : (v.wgAt wg).phase = .leaving := by rw [own]; exact leaves
  have warm : ¬((v.wgAt wg).phase = .leaving ∧ (v.ctxAt (s.wgAt wg).asid).state = .frozen) := by
    rw [State.ctxAt, ctxs]
    exact fun both => runs both.2
  have goes : ¬((s.wgAt wg).phase ≠ .leaving ∨ s.drained wg = false) := by
    rw [leaves, drained]
    simp
  have steps : exec (.saveComplete wg) s = execSaveComplete wg s := rfl
  rw [steps, execSaveComplete]
  dsimp only
  rw [if_neg goes, image, if_neg warm, if_pos still]

theorem State.exec_saveComplete_of_not {s : State} {wg : Nat} (h : (s.wgAt wg).phase ≠ .leaving ∨ s.drained wg = false) :
    exec (.saveComplete wg) s = .next s := if_pos h

theorem State.save_switchesOut {s t : State} {wg i : Nat} (leaves : (s.wgAt wg).phase = .leaving) (drained : s.drained wg = true)
    (slot : (s.wgAt wg).image = some i) (runs : (s.ctxAt (s.wgAt wg).asid).state ≠ .frozen)
    (written : s.putAt (s.poolWho (s.wgAt wg)) (s.slotBase (s.wgAt wg) i) (s.imageRuns wg) = .ok t ()) :
    let g := s.wgAt wg
    ∃ u, exec (.saveComplete wg) s = .next u ∧ u.mem = t.mem ∧
      u.wgAt wg = { g with phase := .switchedOut, preempt := false, due := false, since := s.tick,
                           spent := g.spent + g.nwarps * (s.tick - g.since),
                           streams := (s.coreAt g.core).streams.filter (fun x => decide (x.2.wg = wg) && decide (x.2.state ≠ .free)),
                           rays := ((s.coreAt g.core).rays.filter (fun x => x.2.wg = wg)).map (·.2),
                           queues := (s.coreAt g.core).queues.filter (fun q => q.wg = wg) } ∧
      (u.coreAt g.core).rays = (s.coreAt g.core).rays.filter (fun x => x.2.wg ≠ wg) ∧
      (∀ k, k ≠ wg → u.wgAt k = s.wgAt k) ∧ (∀ k ∈ g.warps, (u.warpAt k).vregs = (s.warpAt k).vregs) := by
  intro g
  have put := s.accessed_putAt (s.poolWho g) (s.slotBase g i) (s.imageRuns wg)
  rw [written] at put
  replace put : s.Accessed t := put
  have steps := State.exec_saveComplete leaves drained slot runs put written
  obtain ⟨warps, tick, cores, -⟩ := State.imageWritten_rest put wg
  have wgs := State.wgAt_imageWritten put wg
  have mem : (s.imageWritten t wg).mem = t.mem := rfl
  generalize s.imageWritten t wg = v at steps warps tick cores wgs mem
  have own : v.wgAt wg = { g with due := false } := (wgs wg).trans (if_pos rfl)
  have there : ∀ c, v.coreAt c = s.coreAt c := fun c => congrArg (fun cs => Table.get Core.blank cs c) cores
  have home : (v.wgAt wg).core = g.core := by rw [own]
  have left := (v.wgAt_unload wg wg).trans (if_pos rfl)
  have core := v.coreAt_unload wg
  refine ⟨_, steps, (v.mem_unload wg).trans mem, ?_, ?_, fun k other => ?_, fun k _ => ?_⟩
  · have still : (v.wgAt wg).phase = .resident ∨ (v.wgAt wg).phase = .leaving := .inr (by rw [own]; exact leaves)
    rw [left, State.leftOut]
    rw [Workgroup.clock, if_pos still, own, there, tick]
    rfl
  · rw [home, there] at core
    rw [core]
    rfl
  · rw [State.wgAt_unload, if_neg other, wgs, if_neg other]
  · rw [State.warpAt, State.warps_unload, warps]
    rfl

end Sys2Proof.Machine
end

section
/-! A workgroup comes back on a core that has room (R304, R315). -/
namespace Sys2Proof.Machine

/-! ### WORKGROUP_RESUME -/

theorem State.accessed_touchAt (s : State) (who : Who) (base : Nat) (rs : List (Nat × Nat)) : s.Accessed (s.touchAt who base rs).state := by
  induction rs generalizing s with
  | nil => exact .refl s
  | cons r rs ih =>
    obtain ⟨o, n⟩ := r
    exact Got.state_bind (s.accessed_reach who accRead [(base + o, n)]) (fun s1 _ h => h.trans (ih s1))

theorem State.accessed_imageReads (s : State) (wg : Nat) : s.Accessed (s.imageReads wg).state := by
  rw [State.imageReads]
  split
  · exact .refl s
  · exact s.accessed_touchAt _ _ _

/-- New residency slots change nothing else of a warp. -/
theorem Table.get_reslot (t : Table Warp) (ks ns : List Nat) (k : Nat) :
    Table.get Warp.blank (reslot t ks ns) k = { Table.get Warp.blank t k with slot := (Table.get Warp.blank (reslot t ks ns) k).slot } := by
  induction ks generalizing t ns with
  | nil => cases ns <;> rfl
  | cons j ks ih =>
    cases ns with
    | nil => rfl
    | cons n ns =>
      rw [reslot, ih, Table.get_set]
      by_cases here : k = j
      · rw [if_pos here, here]
      · rw [if_neg here]

/-- The WAITs of units that wait at none. -/
theorem State.evaluateAll_of_none {s : State} {us : List (Nat × Nat)}
    (h : ∀ x ∈ us, ∀ r, (Table.get IUnit.blank (s.warpAt x.1).units x.2).park ≠ .wait r) : s.evaluateAll us = s := by
  induction us with
  | nil => rfl
  | cons x us ih =>
    obtain ⟨w, k⟩ := x
    have unmoved := State.reevaluate_of_ne (s := { s with cur := w, unit := k }) (h (w, k) List.mem_cons_self)
    have idle : s.asUnit w k State.reevaluate = s := by rw [State.asUnit, unmoved]
    rw [State.evaluateAll_cons, idle]
    exact ih (fun x hx => h x (List.mem_cons_of_mem _ hx))

/-- A workgroup with its image read, on a core: its streams, rays and sample queues there, its warps in new slots. -/
def State.seatedBack (s : State) (wg core : Nat) : State :=
  let g := s.wgAt wg
  let c := s.coreAt core
  { (s.setCoreAt core { c with streams := seatStreams c.streams g.streams, rays := seatRays c.rays g.rays, queues := c.queues ++ g.queues }).setWg wg
      { g with phase := .resident, core := core, since := s.tick, slot := (freeNumbers 32 1 (s.wgSlots core)).headD 0, streams := [], rays := [],
               queues := [] } with
    warps := reslot s.warps g.warps (freeNumbers 64 g.nwarps (s.warpSlots core)) }

theorem State.wgAt_seatedBack (s : State) (wg core : Nat) : (s.seatedBack wg core).wgAt wg =
    { s.wgAt wg with phase := .resident, core := core, since := s.tick, slot := (freeNumbers 32 1 (s.wgSlots core)).headD 0, streams := [], rays := [],
                     queues := [] } :=
  (Table.get_set _ _ _ _ _).trans (if_pos rfl)

theorem State.warpAt_seatedBack (s : State) (wg core k : Nat) : (s.seatedBack wg core).warpAt k =
    { s.warpAt k with slot := ((s.seatedBack wg core).warpAt k).slot } :=
  Table.get_reslot s.warps _ _ k

/-- A workgroup that resumes on the core it left has its image read and its WAITs evaluated. -/
theorem State.reload_of_home {s t : State} {wg core : Nat} (home : (s.wgAt wg).core = core) (read : s.imageReads wg = .ok t ()) :
    s.reload wg core = ((t.seatedBack wg core).seatTurns (t.wgAt wg).warps).evaluateAll ((t.seatedBack wg core).unitsOf (t.wgAt wg).warps) := by
  rw [State.reload]
  dsimp only
  rw [if_pos home, Got.bind, read]
  rfl

/-- Where none of its units waits at a WAIT, it comes back as it was. -/
theorem State.reload_eq {s t : State} {wg core : Nat} (home : (s.wgAt wg).core = core) (read : s.imageReads wg = .ok t ())
    (calm : ∀ k ∈ (s.wgAt wg).warps, ∀ x ∈ (s.warpAt k).units, ∀ y, x.2.park ≠ .wait y) :
    s.reload wg core = (t.seatedBack wg core).seatTurns (s.wgAt wg).warps := by
  have image := s.accessed_imageReads wg
  rw [read] at image
  replace image : s.Accessed t := image
  have same : t.wgAt wg = s.wgAt wg := congrArg (fun ws => Table.get Workgroup.blank ws wg) image.wgs
  rw [State.reload_of_home home read, same]
  refine State.evaluateAll_of_none (fun x hx r => ?_)
  obtain ⟨w, k⟩ := x
  have mine : w ∈ (s.wgAt wg).warps := List.contains_iff_mem.mp (List.mem_filter.mp hx).2
  have units : (((t.seatedBack wg core).seatTurns (s.wgAt wg).warps).warpAt w).units = (s.warpAt w).units := by
    refine (congrArg Warp.units (t.warpAt_seatedBack wg core w)).trans ?_
    rw [State.warpAt, image.warps]
    rfl
  rw [units]
  rcases Table.get_eq_default_or_mem IUnit.blank (s.warpAt w).units k with blank | listed
  · rw [blank]
    exact fun e => by cases e
  · exact calm w mine _ listed r

section
variable {s t : State} {wg core : Nat}

/-- What a workgroup that resumed on the core it left has kept. -/
theorem State.kept_reload (home : (s.wgAt wg).core = core) (read : s.imageReads wg = .ok t ())
    (calm : ∀ k ∈ (s.wgAt wg).warps, ∀ x ∈ (s.warpAt k).units, ∀ y, x.2.park ≠ .wait y) :
    ((s.reload wg core).wgAt wg).phase = .resident ∧ ((s.reload wg core).wgAt wg).core = core ∧
      ((s.reload wg core).wgAt wg).spad = (s.wgAt wg).spad ∧
      ∀ k, ((s.reload wg core).warpAt k).vregs = (s.warpAt k).vregs ∧ ((s.reload wg core).warpAt k).sregs = (s.warpAt k).sregs ∧
        ((s.reload wg core).warpAt k).live = (s.warpAt k).live := by
  have image := s.accessed_imageReads wg
  rw [read] at image
  replace image : s.Accessed t := image
  have same : t.wgAt wg = s.wgAt wg := congrArg (fun ws => Table.get Workgroup.blank ws wg) image.wgs
  have before : ∀ k, t.warpAt k = s.warpAt k := fun k => congrArg (fun ws => Table.get Warp.blank ws k) image.warps
  have group : (s.reload wg core).wgAt wg = (t.seatedBack wg core).wgAt wg := by rw [State.reload_eq home read calm]; rfl
  have warp : ∀ k, (s.reload wg core).warpAt k = (t.seatedBack wg core).warpAt k := fun k => by rw [State.reload_eq home read calm]; rfl
  refine ⟨?_, ?_, ?_, fun k => ?_⟩
  · rw [group, State.wgAt_seatedBack]
  · rw [group, State.wgAt_seatedBack]
  · rw [group, State.wgAt_seatedBack, same]
  · rw [warp, State.warpAt_seatedBack, before]
    exact ⟨rfl, rfl, rfl⟩

end

/-- A workgroup by itself resumes on the first core of its die that takes it back, if there is one. -/
theorem State.reloadAll_one {s : State} {wg : Nat} (may : s.mayResume (s.wgAt wg) = true) :
    (s.reloadAll [wg]).getD s = ((s.resumeCore (s.wgAt wg)).map (s.reload wg)).getD s := by
  cases found : s.resumeCore (s.wgAt wg) with
  | none => simp only [State.reloadAll, found]; rfl
  | some c => simp only [State.reloadAll, found, may]; split_ifs <;> rfl

section
variable {s r : State} {wg : Nat}

/-- WORKGROUP_RESUME, with r the state in which the core-time words have been read. -/
theorem exec_workgroupResume_of_not (look : s.lookBudgets (s.launchAt (s.wgAt wg).launch) = r) (h : r.mayResume (r.wgAt wg) = false) :
    exec (.workgroupResume wg) s = .next r := by
  have steps : exec (.workgroupResume wg) s = execWorkgroupResume wg s := rfl
  rw [steps, execWorkgroupResume, look]
  simp only [h]
  rfl

theorem exec_workgroupResume (look : s.lookBudgets (s.launchAt (s.wgAt wg).launch) = r) (may : r.mayResume (r.wgAt wg) = true)
    (alone : (r.launchAt (r.wgAt wg).launch).cohort = false) :
    exec (.workgroupResume wg) s = .next (((r.resumeCore (r.wgAt wg)).map (r.reload wg)).getD r) := by
  have steps : exec (.workgroupResume wg) s = execWorkgroupResume wg s := rfl
  rw [steps, execWorkgroupResume, look, ← State.reloadAll_one may]
  simp only [may, alone]
  rfl

/-- The core on which a workgroup resumes is of its own die, and has room. -/
theorem State.of_resumeCore {g : Workgroup} {c : Nat} (h : s.resumeCore g = some c) :
    c / 48 = s.homeDie g ∧ s.roomOn c (s.launchAt g.launch) = true := by
  obtain ⟨i, -, place⟩ := List.mem_map.mp (List.mem_of_find?_eq_some h)
  have takes : s.takesBack g c = true := List.find?_some h
  simp only [State.takesBack, Bool.and_eq_true] at takes
  exact ⟨by omega, takes.1.1⟩

end

end Sys2Proof.Machine

namespace Sys2Proof
open Machine

/-- Settles O54, from the rules of leaving, of the image and of resuming: a stop changes the units of the workgroup's warps alone, the writing
of the image is accesses and nothing else, and a workgroup that comes back has new slots only. -/
theorem preemptionAndResumption : Obligations.PreemptionAndResumption := by
  unfold Obligations.PreemptionAndResumption
  intro s t wg core g live stops
  have goes : g.phase = .resident → live = true → s.midGroup g = false → ¬(g.phase ≠ .resident ∨ live = false ∨ s.midGroup g = true) := by
    intro resident alive whole
    simp [resident, alive, whole]
  refine ⟨fun resident alive whole chosen => ?_, fun resident alive whole unchosen outranked _ => ?_, fun _ _ unchosen first => ?_,
    fun stays => ?_, fun leaves drained i slot runs written => State.save_switchesOut leaves drained slot runs written,
    State.exec_saveComplete_of_not, ⟨fun may alone none_ => ?_, fun may alone found home read calm => ?_, exec_workgroupResume_of_not rfl⟩,
    fun c => State.of_resumeCore⟩
  · refine ⟨s.stopIssue wg, ?_, (s.stops_stopIssue wg).clauses, (s.wgAt_stopIssue wg wg).trans (if_pos rfl),
      fun k other => (s.wgAt_stopIssue wg k).trans (if_neg other)⟩
    rw [exec_workgroupLeave, if_neg (goes resident alive whole), if_pos chosen]
  · refine ⟨_, ?_, (s.stops_askLeave (fun k _ => decide (k = wg)) wg).clauses⟩
    rw [exec_workgroupLeave, if_neg (goes resident alive whole), if_neg (ne_true_of_eq_false unchosen), if_pos outranked]
  · rw [exec_workgroupLeave, if_neg (ne_true_of_eq_false unchosen), if_neg (ne_true_of_eq_false first), ite_self]
  · exact (exec_workgroupLeave s wg).trans (if_pos stays)
  · rw [exec_workgroupResume rfl may alone, none_]
    rfl
  · obtain ⟨phase, there, spad, warps⟩ := State.kept_reload home read calm
    refine ⟨_, ?_, phase, there, spad, fun k _ => warps k⟩
    rw [exec_workgroupResume rfl may alone, found]
    rfl

end Sys2Proof
end
